-- ==== Sys2Proof/Word.lean ====
section
/-!
DEFINITION. Words, and the operand types of the commands: the names and numbers by which a command picks a
core, a cluster, a port and the like.
-/
namespace Sys2Proof

/-- A 64-bit register word. -/
abbrev Word := BitVec 64

/-- A byte. -/
abbrev Byte := BitVec 8

/-- A core, numbered 32 × die + physical core. -/
abbrev CoreId := Fin 64

/-- A cluster, 0 to 15 module-wide. -/
abbrev ClusterId := Fin 16

/-- A job context. -/
abbrev CtxId := Fin 8

/-- A ripener, RIP0 to RIP7. -/
abbrev RipId := Fin 8

/-- A fabric port. -/
abbrev PortId := Fin 16

/-- A stacked-memory device, HS0 to HS7. -/
abbrev StackId := Fin 8

/-- A clock region: 0 to 15 the clusters, 16 to 18 the hub regions. -/
abbrev RegionId := Fin 19

/-- A mailbox. -/
abbrev MboxId := Fin 64

/-- A flow of the link engine. -/
abbrev FlowId := Fin 16384

/-- One of the two arrays of a core. -/
inductive Side | a | b
  deriving DecidableEq, Repr

/-- A direction of the hoop. -/
inductive Dir | cw | ccw
  deriving DecidableEq, Repr

/-- The two instruction streams of a core. -/
inductive StreamSel | fwd | bwd
  deriving DecidableEq, Repr

/-- The other stream. -/
def StreamSel.other : StreamSel → StreamSel
  | .fwd => .bwd
  | .bwd => .fwd

/-- The engine number of an array. -/
def Side.engine : Side → Nat
  | .a => 1
  | .b => 2

/-- The other array. -/
def Side.other : Side → Side
  | .a => .b
  | .b => .a

/-- The place of a row in a stack. -/
structure RowLoc where
  pch : Nat
  bank : Nat
  row : Nat
  deriving DecidableEq, Repr

/-- What an error code finds in a word. -/
inductive Ecc | clean | corrected | uncorrectable
  deriving DecidableEq, Repr

end Sys2Proof
end

