-- ==== Sys2Proof/Syntax.lean ====
section
/-!
DEFINITION. The commands of the module: one constructor for each row of the table of commands, and the two structures that
some of them carry.
-/
namespace Sys2Proof

/-- A frame (the table of the frame header) with its payload; `rsv` is what bits [8:0] hold, `tail` what trailer bits [47:32] hold
(R194: both are zero in a valid frame). -/
structure Frame where
  pmask : Nat := 0
  dst : Nat
  src : Nat
  flow : Nat
  seq : Nat
  vc : Nat
  esc : Bool := false
  kind : Nat
  last : Bool
  plen : Nat
  fidx : Nat
  msg : Nat
  ttl : Nat
  rsv : Nat := 0
  tail : Nat := 0
  data : List Byte
  deriving DecidableEq, Repr

/-- A refresh of a stack, and the temperature in °C that the stack then reports (assumption log 99). -/
structure StackRefresh where
  stack : StackId
  temp : Nat
  deriving DecidableEq, Repr

/-- What the partner says in the identity exchange, and the credit units of its eight classes. -/
structure Peer where
  id : Nat
  endpoint : Bool
  gen : Nat
  port : Nat
  credits : List Nat
  deriving DecidableEq, Repr

/-- The commands of the block. Those of a core, a cluster, a ripener, a port or a flow name it; physical outcomes (errors,
measurements, what a partner sends) are operands. -/
inductive Instr where
  /-- INSTRUCTION_DECODE (R312). -/
  | instructionDecode (c : CoreId)
  /-- SEGMENT_FETCH (R71). -/
  | segmentFetch (c : CoreId) (x : StreamSel)
  /-- NOP (R55). -/
  | nop (c : CoreId)
  /-- GATE_ARRIVE (R62). -/
  | gateArrive (c : CoreId)
  /-- GATE_STREAM (R63). -/
  | gateStream (c : CoreId)
  /-- GATE_ARRAY (R37). -/
  | gateArray (c : CoreId)
  /-- GATE_BARRIER (R65). -/
  | gateBarrier (c : CoreId)
  /-- GATE_TIME (R189). -/
  | gateTime (c : CoreId)
  /-- GATE_CONDITION_MET (R60). -/
  | gateConditionMet (c : CoreId)
  /-- LOOP (R67). -/
  | loop (c : CoreId)
  /-- LEND (R67). -/
  | lend (c : CoreId)
  /-- LBREAK (R68). -/
  | lbreak (c : CoreId)
  /-- BANK (R70). -/
  | bank (c : CoreId)
  /-- MARK (R78). -/
  | mark (c : CoreId)
  /-- HALT_INSTRUCTION (R79). -/
  | haltInstruction (c : CoreId)
  /-- BLOCK_PICK (R76). -/
  | blockPick (c : CoreId)
  /-- CNT (R56). -/
  | cnt (c : CoreId)
  /-- PRESS (R42). -/
  | press (c : CoreId) (x : Side)
  /-- MUL (R37). -/
  | mul (c : CoreId) (x : Side)
  /-- MULX (R45). -/
  | mulx (c : CoreId) (x : Side)
  /-- ARRAY_OP_COMPLETE (R37). -/
  | arrayOpComplete (c : CoreId) (x : Side)
  /-- DRAIN (R38). -/
  | drain (c : CoreId) (x : Side)
  /-- SKIPDW (R49). -/
  | skipdw (c : CoreId) (x : Side)
  /-- VADD (R105). -/
  | vadd (c : CoreId)
  /-- VSUB (R105). -/
  | vsub (c : CoreId)
  /-- VMUL (R105). -/
  | vmul (c : CoreId)
  /-- VFMA (R105). -/
  | vfma (c : CoreId)
  /-- VMAX (R105). -/
  | vmax (c : CoreId)
  /-- VMIN (R105). -/
  | vmin (c : CoreId)
  /-- VEXP2 (R105). -/
  | vexp2 (c : CoreId)
  /-- VLOG2 (R105). -/
  | vlog2 (c : CoreId)
  /-- VRCP (R105). -/
  | vrcp (c : CoreId)
  /-- VRSQ (R105). -/
  | vrsq (c : CoreId)
  /-- VSEL (R105). -/
  | vsel (c : CoreId)
  /-- VCVT (R307). -/
  | vcvt (c : CoreId)
  /-- VREDS (R106). -/
  | vreds (c : CoreId)
  /-- VREDM (R106). -/
  | vredm (c : CoreId)
  /-- VLD (R83). -/
  | vld (c : CoreId)
  /-- VST (R83). -/
  | vst (c : CoreId)
  /-- VECTOR_RESULT_LAND (R82). -/
  | vectorResultLand (c : CoreId)
  /-- MV (R52). -/
  | mv (c : CoreId)
  /-- MVACC (R52). -/
  | mvacc (c : CoreId)
  /-- LADLE_EMIT (R53). -/
  | ladleEmit (c : CoreId)
  /-- INJECT (R21). -/
  | inject (c : CoreId)
  /-- RECV (R16). -/
  | recv (c : CoreId)
  /-- PASS (R22). -/
  | pass (c : CoreId)
  /-- RETIRE (R32). -/
  | retire (c : CoreId)
  /-- TURN (R32). -/
  | turn (c : CoreId)
  /-- TILE_ARRIVE (R21): `flips` are the tag bits that the crossing turns over, `ce` the words corrected, `ue` the 64-bit payload words with an uncorrectable error. -/
  | tileArrive (c : CoreId) (d : Dir) (flips ce : Nat) (ue : List Nat)
  /-- TILE_BUFFER_ADMIT (R22). -/
  | tileBufferAdmit (c : CoreId) (d : Dir)
  /-- SYNC_BAR (R65). -/
  | syncBar (c : CoreId)
  /-- BARRIER_COMPLETE (R65): `id` is the barrier. -/
  | barrierComplete (c : CoreId) (id : Fin 16)
  /-- SYNC_FLAG (R66). -/
  | syncFlag (c : CoreId)
  /-- RIND (R286). -/
  | rind (c : CoreId)
  /-- ARM (R176). -/
  | arm (c : CoreId)
  /-- WAITST (R177). -/
  | waitst (c : CoreId)
  /-- ROWSTAT (R125). -/
  | rowstat (c : CoreId)
  /-- ROWAPPLY (R125). -/
  | rowapply (c : CoreId)
  /-- ROWGRAD (R125). -/
  | rowgrad (c : CoreId)
  /-- ORTHO (R130). -/
  | ortho (c : CoreId)
  /-- HARP_COMMAND_BEGIN (R124). -/
  | harpCommandBegin (k : ClusterId)
  /-- HARP_COMMAND_COMPLETE (R124). -/
  | harpCommandComplete (k : ClusterId)
  /-- STREAM_ENTRY_BEGIN (R178): `x` is the stream. -/
  | streamEntryBegin (k : ClusterId) (x : Fin 64)
  /-- STREAM_ENTRY_COMPLETE (R179): `x` is the stream. -/
  | streamEntryComplete (k : ClusterId) (x : Fin 64)
  /-- HUB_ATOMIC (R159). -/
  | hubAtomic
  /-- DEADLOCK_SCAN (R185). -/
  | deadlockScan (k : ClusterId)
  /-- PACE_BOUNDARY (R188). -/
  | paceBoundary (c : CtxId)
  /-- UPD (R141). -/
  | upd (n : RipId) (c : CtxId)
  /-- RIP_GRANULE_UPDATE (R143). -/
  | ripGranuleUpdate (n : RipId)
  /-- UPD_COMPLETE (R144). -/
  | updComplete (n : RipId) (c : CtxId)
  /-- PASS_END (R137). -/
  | passEnd (n : RipId) (c : CtxId)
  /-- UPDATE_NOP (R135). -/
  | updateNop (n : RipId) (c : CtxId)
  /-- GRANULE_MOVE (R149): `g` is the granule number. -/
  | granuleMove (g : Nat)
  /-- LAST_USE_STAMP_ADVANCE (R153). -/
  | lastUseStampAdvance
  /-- BWR_TOKEN_TICK (R157). -/
  | bwrTokenTick
  /-- REGULATOR_GRANT (R157): `p` is the partition. -/
  | regulatorGrant (c : CtxId) (p : Fin 16)
  /-- STACKED_MEMORY_ACCESS (R161): `a` is a tier-space address, `l` the row that holds it, `e` what the code finds, `miss` a miss of the translation cache. -/
  | stackedMemoryAccess (n : StackId) (a : Nat) (l : RowLoc) (e : Ecc) (miss : Bool)
  /-- SRAM_ACCESS (R304): `a` is a tier-space address, `e` what the code finds. -/
  | sramAccess (a : Nat) (e : Ecc)
  /-- CELLAR_ACCESS (R166): `a` is a tier-space address, `ue` an uncorrectable error. -/
  | cellarAccess (a : Nat) (ue : Bool)
  /-- HBM_REFRESH (R162): `temp` is the temperature in °C that the stack reports. -/
  | hbmRefresh (n : StackRefresh)
  /-- PATROL_SCRUB_READ (R162): as a stacked-memory access; `last` ends the pass. -/
  | patrolScrubRead (n : StackId) (a : Nat) (l : RowLoc) (e : Ecc) (last : Bool)
  /-- GRANULE_RETIRE (R164): `g` is the granule number. -/
  | granuleRetire (g : Nat)
  /-- CAVE_PAGE_WRITE (R167). -/
  | cavePageWrite
  /-- CAVE_PAGE_READ (R169): `page` is a logical page, `retries` the read retries, `ue` an uncorrectable error. -/
  | cavePageRead (page retries : Nat) (ue : Bool)
  /-- CAVE_READ_SCRUB (R169): `b` is the block. -/
  | caveReadScrub (b : Nat)
  /-- CAVE_STATIC_LEVEL (R168). -/
  | caveStaticLevel
  /-- CAVE_BLOCK_FAIL (R170): `b` is the block. -/
  | caveBlockFail (b : Nat)
  /-- PORT_TRAINING_COMPLETE (R191): `good` are the lanes that train, `q` what the partner says. -/
  | portTrainingComplete (p : PortId) (good : BitVec 5) (q : Peer)
  /-- LANE_FAIL (R193): `l` is the lane. -/
  | laneFail (p : PortId) (l : Fin 5)
  /-- PORT_RETRAIN (R208): `good` are the lanes that train, `q` what the partner says. -/
  | portRetrain (p : PortId) (good : BitVec 5) (q : Peer)
  /-- FRAME_RECEIVE (R198): the frame as it comes, its trailer, and the words that the code corrected and could not correct. -/
  | frameReceive (p : PortId) (f : Frame) (lseq : BitVec 16) (crc : BitVec 32) (ce ue : Nat)
  /-- FRAME_SEND (R197). -/
  | frameSend (p : PortId)
  /-- LINK_ACK (R195): `lseq` as received. -/
  | linkAck (p : PortId) (lseq : BitVec 16)
  /-- LINK_NAK (R195): `lseq` as received. -/
  | linkNak (p : PortId) (lseq : BitVec 16)
  /-- ACK_SEND (R195). -/
  | ackSend (p : PortId)
  /-- REPLAY_TIMEOUT (R195). -/
  | replayTimeout (p : PortId)
  /-- LCREDIT (R196): `cls` is the class, `units` the credit given back. -/
  | lcredit (p : PortId) (cls : Fin 8) (units : Nat)
  /-- CREDIT_FRAME_SEND (R206). -/
  | creditFrameSend (f : FlowId)
  /-- LINK_DOWN (R208). -/
  | linkDown (p : PortId)
  /-- ROUND_BEGIN (R215). -/
  | roundBegin (f : FlowId)
  /-- CHUNK_CONTRIBUTE (R216). -/
  | chunkContribute (f : FlowId)
  /-- CHUNK_COMPLETE (R218). -/
  | chunkComplete (f : FlowId)
  /-- ROUND_COMPLETE (R224). -/
  | roundComplete (f : FlowId)
  /-- PLANNING_POINT (R237). -/
  | planningPoint
  /-- SEGMENT_HOLD_RELEASE (R239). -/
  | segmentHoldRelease (c : CtxId)
  /-- STEP_CHANGE (R229). -/
  | stepChange
  /-- DROOP_STRETCH (R230): `r` is the region. -/
  | droopStretch (r : RegionId)
  /-- REF_LOSS (R232). -/
  | refLoss
  /-- PLL_UNLOCK (R233): `r` is the region. -/
  | pllUnlock (r : RegionId)
  /-- PLL_RELOCK (R233): `r` is the region. -/
  | pllRelock (r : RegionId)
  /-- PLL_RELOCK_TIMEOUT (R233): `r` is the region. -/
  | pllRelockTimeout (r : RegionId)
  /-- METER_INTERVAL (R234): the energy of the 12 rails and of the 16 cluster regions in µJ, and the highest ratio of a core voltage to its nominal, in 2 ^ -16. -/
  | meterInterval (rails regs : List Nat) (v : Nat)
  /-- WEAR_LEDGER_SAVE (R244). -/
  | wearLedgerSave
  /-- OVERBURST_CHECK (R240): `mw` is the input power in mW. -/
  | overburstCheck (mw : Nat)
  /-- CURRENT_LIMIT (R241). -/
  | currentLimit
  /-- THERMAL_SAMPLE (R242): `temps` are the 19 sensors, in 0.25 °C. -/
  | thermalSample (temps : List Nat)
  /-- THERMTRIP (R243): `r` is the region, `t` its temperature in 0.25 °C. -/
  | thermtrip (r : RegionId) (t : Nat)
  /-- MAILBOX_SUBMIT (R250): the function `fn` writes the doorbell word `w`. -/
  | mailboxSubmit (m : MboxId) (fn : Fin 2) (w : BitVec 32)
  /-- GET_INFO (R252). -/
  | getInfo (m : MboxId)
  /-- GET_FEATURES (R95). -/
  | getFeatures (m : MboxId)
  /-- CONTEXT_CREATE (R256): `hint` is where the firmware places what it allocates. -/
  | contextCreate (m : MboxId) (hint : Option Nat)
  /-- CONTEXT_DESTROY (R258). -/
  | contextDestroy (m : MboxId)
  /-- HALT (R261). -/
  | halt (m : MboxId)
  /-- SET_BUDGET (R235). -/
  | setBudget (m : MboxId)
  /-- GET_LEDGER (R234). -/
  | getLedger (m : MboxId)
  /-- ROUTE_SET (R264). -/
  | routeSet (m : MboxId)
  /-- PATCH_INSTALL (R266). -/
  | patchInstall (m : MboxId)
  /-- RESET (R295). -/
  | reset (m : MboxId)
  /-- FUSE_READ (R268). -/
  | fuseRead (m : MboxId)
  /-- FUSE_PROGRAM (R268). -/
  | fuseProgram (m : MboxId)
  /-- PROGRAM_LOAD (R93): `hints` are where the firmware places what it allocates. -/
  | programLoad (m : MboxId) (hints : List Nat)
  /-- STREAM_APPEND (R259): `hint` is where the firmware places what it allocates. -/
  | streamAppend (m : MboxId) (hint : Option Nat)
  /-- RUN (R260). -/
  | run (m : MboxId)
  /-- PICK_MODE (R77). -/
  | pickMode (m : MboxId)
  /-- SNAPSHOT_SHIP (R262). -/
  | snapshotShip (m : MboxId)
  /-- SNAPSHOT_SHIPMENT (R211): `hint` is where the firmware places what it allocates. -/
  | snapshotShipment (c : CtxId) (hint : Option Nat)
  /-- CHECKPOINT (R263). -/
  | checkpoint (m : MboxId)
  /-- CHECKPOINT_WRITE (R263): `hint` is where the firmware places what it allocates. -/
  | checkpointWrite (c : CtxId) (hint : Option Nat)
  /-- RIND_ARM (R286). -/
  | rindArm (m : MboxId)
  /-- FLOW_OPEN (R202): `hint` is where the firmware places what it allocates. -/
  | flowOpen (m : MboxId) (hint : Option Nat)
  /-- FLOW_CLOSE (R210). -/
  | flowClose (m : MboxId)
  /-- CAVE_READ (R265). -/
  | caveRead (m : MboxId)
  /-- CAVE_WRITE (R265). -/
  | caveWrite (m : MboxId)
  /-- CAVE_ERASE (R265). -/
  | caveErase (m : MboxId)
  /-- SESSION_OPEN (R273). -/
  | sessionOpen (m : MboxId)
  /-- ATTEST (R272). -/
  | attest (m : MboxId)
  /-- DEBUG_UNLOCK (R278). -/
  | debugUnlock (m : MboxId)
  /-- GET_VERSION (R270): `bus` is the SMBus transport, else DOE. -/
  | getVersion (bus : Bool)
  /-- GET_CAPABILITIES (R270). -/
  | getCapabilities (bus : Bool)
  /-- NEGOTIATE_ALGORITHMS (R270): `ok` says that a common set exists. -/
  | negotiateAlgorithms (bus ok : Bool)
  /-- GET_DIGESTS (R270). -/
  | getDigests (bus : Bool)
  /-- GET_CERTIFICATE (R270): slot, offset and length. -/
  | getCertificate (bus : Bool) (slot off len : Nat)
  /-- CHALLENGE (R270): `transcript` is what the signature covers. -/
  | challenge (bus : Bool) (slot : Nat) (transcript : List Byte)
  /-- GET_MEASUREMENTS (R272): `index` is the measurement, 0xFF all, `transcript` what the signature covers. -/
  | getMeasurements (bus : Bool) (index : Nat) (transcript : List Byte)
  /-- KEY_EXCHANGE (R271): `want` is the session id, `ems` the export master secret. -/
  | keyExchange (bus mutAuth : Bool) (want : Nat) (ems : List Byte)
  /-- FINISH (R270): `id` is the session, `verified` that the proofs verify, `root` the digest of the root key. -/
  | finish (bus : Bool) (id : Nat) (verified : Bool) (root : List Byte)
  /-- HEARTBEAT (R270). -/
  | heartbeat (bus : Bool) (id : Nat)
  /-- KEY_UPDATE (R270). -/
  | keyUpdate (bus : Bool) (id : Nat)
  /-- END_SESSION (R270). -/
  | endSession (bus : Bool) (id : Nat)
  /-- SESSION_HEARTBEAT_TIMEOUT (R270): `id` is the session. -/
  | sessionHeartbeatTimeout (id : Nat)
  /-- BAR2_ACCESS (R248): a write of the bytes `w`, or a read of `n`. -/
  | bar2Access (fn : Fin 2) (o : Nat) (w : Option (List Byte)) (n : Nat)
  /-- REGISTER_WRITE (R8): `size` bytes of `v` at the BAR0 offset `a`. -/
  | registerWrite (fn : Fin 2) (a size : Nat) (v : Word)
  /-- REGISTER_READ_CLEAR (R8): a read of `size` bytes at the BAR0 offset `a`. -/
  | registerReadClear (a size : Nat)
  /-- COUNTER_SAT_CLEAR (R289): `a` is the BAR0 offset. -/
  | counterSatClear (a : Nat)
  /-- HOOP_JOIN_WRITE (R27). -/
  | hoopJoinWrite (on : Bool)
  /-- IN_SERVICE_WRITE (R31). -/
  | inServiceWrite (c : CoreId) (on : Bool)
  /-- DEBUG_DATA_WRITE (R72). -/
  | debugDataWrite (c : CoreId) (v : Word)
  /-- RANGE_ENTRY_WRITE (R116): word 0 or 1 of an entry, or the word at the pointer. -/
  | rangeEntryWrite (c : CoreId) (t : Option (Fin 512 × Bool)) (v : Word)
  /-- HARP_SIDE_WRITE (R132). -/
  | harpSideWrite (k : ClusterId) (v : Word)
  /-- STREAM_LIST_WRITE (R187). -/
  | streamListWrite (k : ClusterId) (v : Word)
  /-- BWR_CFG_WRITE (R158): `p` is the partition. -/
  | bwrCfgWrite (c : CtxId) (p : Fin 16) (v : Word)
  /-- CREDIT_SPLIT_WRITE (R212): `hi` is the second word. -/
  | creditSplitWrite (p : PortId) (hi : Bool) (v : Word)
  /-- RETRAIN (R208). -/
  | retrain (p : PortId)
  /-- NRG_MODEL_WRITE (R245). -/
  | nrgModelWrite (v : Word)
  /-- STEP_CAP_WRITE (R245). -/
  | stepCapWrite (v : Word)
  /-- MSIX_UNMASK (R249). -/
  | msixUnmask (fn : Fin 2) (v : Fin 2048)
  /-- EVENT_TAIL_WRITE (R280): `l` is the log, `t` the new tail. -/
  | eventTailWrite (l : Fin 10) (t : BitVec 8)
  /-- CONTEXT_FAULT_HALT (R281). -/
  | contextFaultHalt (c : CtxId)
  /-- RIND_TRIG (R287). -/
  | rindTrig (v : Word)
  /-- TRIG_IN (R287). -/
  | trigIn
  /-- RIND_CAPTURE (R288): `r` is the region. -/
  | rindCapture (r : Fin 19)
  /-- RIND_WAVE_COMPLETE (R287). -/
  | rindWaveComplete
  /-- POWER_UP_SEQUENCE (R290): `raised` says that PWR_EN has just been raised. -/
  | powerUpSequence (raised : Bool)
  /-- BOOT_COMPLETE (R292): `mref` says that MREF is good, `slot` what SLOT_ID reads. -/
  | bootComplete (mref : Bool) (slot : Fin 64)
  /-- SELF_TEST_COMPLETE (R293): the cores whose arrays or SRAM fail, the failure that ends the start-up (0 none), and the two die crossings. -/
  | selfTestComplete (badA badB badSram : List CoreId) (fault : Nat) (x0 x1 : Bool)
  /-- START_UP_READY (R191). -/
  | startUpReady
  /-- PERST_DEASSERT (R291): the widths and the rate to which the link trains. -/
  | perstDeassert (width0 width1 speed : Nat)
  /-- PERST_ASSERT (R295). -/
  | perstAssert
  /-- PWR_EN_DEASSERT (R296). -/
  | pwrEnDeassert
  /-- LOSS_OF_INPUT (R297). -/
  | lossOfInput
  /-- INPUT_RESTORE (R297). -/
  | inputRestore
  /-- INPUT_REMOVE (R298). -/
  | inputRemove
  /-- CURRENT_LIMIT_RELEASE (R241). -/
  | currentLimitRelease
  /-- RAILS_LEAVE_REGULATION (R297): `flushed` says that the journal flush completed. -/
  | railsLeaveRegulation (flushed : Bool)
  /-- RESIZABLE_BAR_WRITE (R248): `n` is the size code. -/
  | resizableBarWrite (n : Nat)
  /-- PORT_ENABLE_WRITE (R212): `on` is the new ENABLE. -/
  | portEnableWrite (p : PortId) (on : Bool)
  /-- PORT_TABLE_WRITE (R294): the bytes `d` at `a` of the EEPROM. -/
  | portTableWrite (a : Nat) (d : List Byte)
  deriving DecidableEq, Repr

end Sys2Proof
end

