-- ==== Sys2Proof/Machine/Bits.lean ====
section
/-!
DEFINITION. Bit fields and check codes: fields of words, CRC-16 of tile tags (R18), CRC-32 of images, and SHA-256,
HMAC and HKDF of the keyed checks (*Identity, Attestation and Command Authentication*; FIPS 180-4, RFC 2104 and
RFC 5869 are named there and taken from outside the manual, assumption log 9).
-/
namespace Sys2Proof.Machine

/-- Bits `[hi:lo]` of a number. -/
def bits (v hi lo : Nat) : Nat := v / 2 ^ lo % 2 ^ (hi + 1 - lo)

/-- Bit `n` of a number. -/
def bit (v n : Nat) : Bool := v / 2 ^ n % 2 == 1

/-- 1 or 0. -/
def b2n (b : Bool) : Nat := if b then 1 else 0

/-- A word from fields `(value, lowest bit)`. -/
def word (fs : List (Nat × Nat)) : BitVec 64 :=
  BitVec.ofNat 64 (fs.foldl (fun a p => a + p.1 * 2 ^ p.2) 0)

/-- Bits `[hi:lo]` of a register word. -/
def wbits (w : BitVec 64) (hi lo : Nat) : Nat := bits w.toNat hi lo

/-- A register word with bits `[hi:lo]` replaced. -/
def wput (w : BitVec 64) (hi lo v : Nat) : BitVec 64 :=
  BitVec.ofNat 64 (w.toNat - bits w.toNat hi lo * 2 ^ lo + v % 2 ^ (hi + 1 - lo) * 2 ^ lo)

/-- Increment a saturating field of `w` bits. -/
def satInc (w v : Nat) : Nat := if v + 1 < 2 ^ w then v + 1 else 2 ^ w - 1

/-! ### CRCs -/

/-- One bit of CRC-16, polynomial 0x1021, most significant bit first. -/
def crc16Bits : Nat → Nat → Nat
  | 0, c => c
  | n + 1, c => crc16Bits n (if c ≥ 0x8000 then (c * 2 % 0x10000) ^^^ 0x1021 else c * 2)

/-- CRC-16 of R18: initial value 0xFFFF, no reflection, no final exclusive-or. -/
def crc16 (bs : List Byte) : Nat :=
  bs.foldl (fun c b => crc16Bits 8 (c ^^^ (b.toNat * 256))) 0xFFFF

/-- One bit of the reflected CRC-32 with polynomial 0x04C11DB7. -/
def crc32Bits : Nat → Nat → Nat
  | 0, c => c
  | n + 1, c => crc32Bits n (if c % 2 = 1 then (c / 2) ^^^ 0xEDB88320 else c / 2)

/-- CRC-32 of IEEE 802.3. -/
def crc32 (bs : List Byte) : Nat :=
  (bs.foldl (fun c b => crc32Bits 8 (c ^^^ b.toNat)) 0xFFFFFFFF) ^^^ 0xFFFFFFFF

/-! ### SHA-256

Its constants are what FIPS 180-4 derives them from: the first 32 bits of the fractional parts of square roots (the hash before
the first block) and of cube roots (one for each round) of the first primes. -/

abbrev W32 := BitVec 32

/-- The greatest `r + x` with `x < 2 ^ b` whose `k`-th power does not exceed `v`, one bit of `x` at a time. -/
def rootFrom (k v : Nat) : Nat → Nat → Nat
  | 0, r => r
  | b + 1, r => rootFrom k v b (if (r + 2 ^ b) ^ k ≤ v then r + 2 ^ b else r)

/-- The first 32 bits of the fractional part of the `k`-th root of a prime below 2 ^ 9. -/
def fracRoot (k p : Nat) : W32 := BitVec.ofNat 32 (rootFrom k (p * 2 ^ (32 * k)) 37 0)

/-- The first `n` primes (those below 312, which are 64). -/
def firstPrimes (n : Nat) : List Nat :=
  ((List.range 312).filter fun p => decide (2 ≤ p) && (List.range p).all fun d => decide (d < 2) || p % d != 0).take n

/-- The round constants. -/
def shaKeys : List W32 := (firstPrimes 64).map (fracRoot 3)

/-- Exclusive-or of three rotations to the right. -/
def rot3 (x : W32) (i j k : Nat) : W32 := x.rotateRight i ^^^ x.rotateRight j ^^^ x.rotateRight k

/-- The bits of `y` where `x` is 1, those of `z` elsewhere. -/
def choose32 (x y z : W32) : W32 := z ^^^ (x &&& (y ^^^ z))

/-- The bits that two of three words have. -/
def majority32 (x y z : W32) : W32 := (x &&& y) ||| (z &&& (x ||| y))

/-- One round on the eight working words, with the sum of its key and message word. -/
def shaRound (v : List W32) (kw : W32) : List W32 :=
  match v with
  | [a, b, c, d, e, f, g, h] =>
    let t := h + rot3 e 6 11 25 + choose32 e f g + kw
    [t + rot3 a 2 13 22 + majority32 a b c, a, b, c, d + t, e, f, g]
  | _ => v

/-- The rounds of one block: `q` is the window of the next sixteen message words, of which the first is used and replaced at
the end by the word sixteen further on. -/
def shaRounds (q v : List W32) : List W32 → List W32
  | [] => v
  | k :: ks =>
    let x := q.getD 1 0
    let y := q.getD 14 0
    let w := q.headD 0
    let far := w + q.getD 9 0 + (x.rotateRight 7 ^^^ x.rotateRight 18 ^^^ x.ushiftRight 3) +
      (y.rotateRight 17 ^^^ y.rotateRight 19 ^^^ y.ushiftRight 10)
    shaRounds (q.tail ++ [far]) (shaRound v (k + w)) ks

/-- A big-endian number. -/
def beNat (bs : List Byte) : Nat := bs.foldl (fun n b => 256 * n + b.toNat) 0

/-- The big-endian bytes of a number. -/
def beBytes : Nat → Nat → List Byte
  | 0, _ => []
  | n + 1, v => beBytes n (v / 256) ++ [BitVec.ofNat 8 v]

/-- The hash after `n` more blocks of 64 bytes. -/
def shaBlocks : Nat → List W32 → List Byte → List W32
  | 0, h, _ => h
  | n + 1, h, m =>
    let q := (List.range 16).map fun i => BitVec.ofNat 32 (beNat ((m.drop (4 * i)).take 4))
    shaBlocks n (List.zipWith (· + ·) h (shaRounds q h shaKeys)) (m.drop 64)

/-- SHA-256 of a byte string: padded by a one, zeros to a whole block, and its length in bits. -/
def sha256 (m : List Byte) : List Byte :=
  let padded := m ++ 0x80 :: (List.replicate ((119 - m.length % 64) % 64) 0 ++ beBytes 8 (8 * m.length))
  ((shaBlocks (padded.length / 64) ((firstPrimes 8).map (fracRoot 2)) padded).map fun w => beBytes 4 w.toNat).flatten

/-- HMAC-SHA-256. -/
def hmac (key m : List Byte) : List Byte :=
  let k := if key.length > 64 then sha256 key else key
  let k := k ++ List.replicate (64 - k.length) 0
  sha256 (k.map (· ^^^ 0x5C) ++ sha256 (k.map (· ^^^ 0x36) ++ m))

/-- HKDF-Expand with one block of output. -/
def hkdfExpand (prk info : List Byte) (n : Nat) : List Byte := (hmac prk (info ++ [1])).take n

/-- The bytes of a character string. -/
def asciiBytes (s : String) : List Byte := s.toList.map fun c => BitVec.ofNat 8 c.toNat

end Sys2Proof.Machine
end

