-- ==== Sys2Proof/Config.lean ====
section
/-!
DEFINITION. What the manual leaves to the part or to a cryptographic standard, as opaque constants: nothing can evaluate
them, and a statement holds for every value of them.
-/
namespace Sys2Proof

/-- A drawn nonce word: the number of the draw and the word (R277). -/
opaque Config.nonce : Nat → Nat → BitVec 64

/-- SHA-256 of the mask ROM (measurement index 1). -/
opaque Config.romDigest : BitVec 256

/-- The certificate chain of slot 0, for the digest of the running patch bundle. -/
opaque Config.chain : BitVec 256 → List (BitVec 8)

/-- The Alias key's ECDSA P-256 signature (r then s) of a SHA-256 digest, under the digest of the running patch bundle. -/
opaque Config.aliasSign : BitVec 256 → BitVec 256 → BitVec 512

/-- Whether an ECDSA P-256 signature by the Drenas patch key verifies, for a SHA-256 digest. -/
opaque Config.patchVerify : BitVec 256 → BitVec 512 → Bool

/-- Whether a signature by the Drenas debug key verifies. -/
opaque Config.debugVerify : BitVec 256 → BitVec 512 → Bool

/-- Whether a signature verifies under a public key (x then y, big-endian). -/
opaque Config.keyVerify : BitVec 512 → BitVec 256 → BitVec 512 → Bool

/-- CODE of the record that posts the outcome of a standing SNAPSHOT_SHIP or CHECKPOINT, by status (R262, R263). -/
opaque Config.outcomeCode : Nat → BitVec 16

/-- DETAIL of that record. -/
opaque Config.outcomeDetail : Nat → BitVec 64

/-- The SPDM error code of a FINISH that does not verify. -/
opaque Config.finishError : Nat

/-- Which read of an unsynchronised 64-byte word of cluster memory, by the number of the read, returns the old value (R14). -/
opaque Config.clmOld : Nat → Bool

/-- Whether an access to cluster memory loses its MCLK to the harp or the stream engine, or the harp loses one to them, by the number
of the contest: the manual gives these requesters no order (R51, R83, *The harp*). -/
opaque Config.clmLost : Nat → Bool

/-- How far the local tick counter of a region is from the reference tick: the counters are not aligned. -/
opaque Config.tickSkew : Nat → BitVec 64

/-- What HIF_CFG.WIDTH0, four bits wide, holds for a width of 16. -/
opaque Config.width16 : BitVec 4

end Sys2Proof
end

