-- ==== Sys2Proof/Machine/Num.lean ====
section
/-!
DEFINITION. Number formats, exact arithmetic, rounding and conversion (*Number Formats, Rounding and Range*):
values are exact dyadic numbers with the IEEE specials beside them, and every rounding is one step from an exact
value to a grid.
-/
namespace Sys2Proof.Machine

/-- A value: NaN, an infinity, or `± m × 2 ^ e` (a zero keeps its sign). -/
inductive Val where
  | nan
  | inf (neg : Bool)
  | fin (neg : Bool) (m : Nat) (e : Int)
  deriving DecidableEq, Repr

/-- Position of the highest set bit; 0 for 0. -/
def log2 (n : Nat) : Nat := Nat.log2 n

/-- `2 ^ k` for a non-negative exponent, 1 otherwise. -/
def pow2 (k : Int) : Nat := 2 ^ k.toNat

/-- The signed integer `± m × 2 ^ (e + unit)`, exact when `e + unit` is not negative. -/
def scaledInt (neg : Bool) (m : Nat) (e : Int) (unit : Nat) : Int :=
  let a : Nat := m * pow2 (e + unit)
  if neg then -(a : Int) else a

/-- A finite value from a signed integer in units of `2 ^ e`; zero is positive. -/
def Val.ofInt (i : Int) (e : Int) : Val := .fin (decide (i < 0)) i.natAbs e

/-- Whether a value is a zero. -/
def Val.isZero : Val → Bool
  | .fin _ m _ => m == 0
  | _ => false

/-- The sign bit; false for NaN. -/
def Val.neg : Val → Bool
  | .nan => false
  | .inf n => n
  | .fin n _ _ => n

/-- Change of sign. -/
def Val.negate : Val → Val
  | .nan => .nan
  | .inf n => .inf (!n)
  | .fin n m e => .fin (!n) m e

/-- Multiplication by a power of two. -/
def Val.shift (v : Val) (k : Int) : Val :=
  match v with
  | .fin n m e => .fin n m (e + k)
  | w => w

/-- Exact product, with the specials of IEEE 754. -/
def Val.mul : Val → Val → Val
  | .nan, _ | _, .nan => .nan
  | .inf a, .inf b => .inf (a != b)
  | .inf a, .fin b m _ | .fin b m _, .inf a => if m = 0 then .nan else .inf (a != b)
  | .fin a m e, .fin b n f => .fin (a != b) (m * n) (e + f)

/-- Exact sum; an exact cancellation of unlike signs is +0 (round to nearest even). -/
def Val.add : Val → Val → Val
  | .nan, _ | _, .nan => .nan
  | .inf a, .inf b => if a = b then .inf a else .nan
  | .inf a, .fin _ _ _ | .fin _ _ _, .inf a => .inf a
  | .fin a m e, .fin b n f =>
    let g := min e f
    let x : Int := scaledInt a m (e - g) 0 + scaledInt b n (f - g) 0
    if x = 0 then .fin (a && b) 0 g else Val.ofInt x g

/-- Order of two values that are not NaN, −0 below +0: whether the first is at most the second. -/
def Val.le : Val → Val → Bool
  | .inf a, .inf b => a || !b
  | .inf a, _ => a
  | _, .inf b => !b
  | .fin a m e, .fin b n f =>
    let g := min e f
    let x : Int := scaledInt a m (e - g) 0
    let y : Int := scaledInt b n (f - g) 0
    if x = y then (a || !b) else decide (x < y)
  | _, _ => false

/-! ### Formats -/

/-- The layout of a floating-point format; `ieee` marks one whose top exponent holds infinities and NaNs. -/
structure FloatFmt where
  ebits : Nat
  mbits : Nat
  bias : Nat
  ieee : Bool
  nanCode : Nat
  maxM : Nat
  maxE : Int
  deriving DecidableEq, Repr

/-- IEEE binary32. -/
def fp32 : FloatFmt := ⟨8, 23, 127, true, 0x7FC00000, 2 ^ 24 - 1, 104⟩
/-- BF16. -/
def bf16 : FloatFmt := ⟨8, 7, 127, true, 0x7FC0, 2 ^ 8 - 1, 120⟩
/-- IEEE binary16. -/
def fp16 : FloatFmt := ⟨5, 10, 15, true, 0x7E00, 2 ^ 11 - 1, 5⟩
/-- OCP E4M3: no infinity, one NaN magnitude. -/
def e4m3 : FloatFmt := ⟨4, 3, 7, false, 0x7F, 14, 5⟩
/-- OCP E5M2. -/
def e5m2 : FloatFmt := ⟨5, 2, 15, true, 0x7E, 7, 13⟩
/-- IEEE binary64 (norm words, R225). -/
def fp64 : FloatFmt := ⟨11, 52, 1023, true, 0x7FF8000000000000, 2 ^ 53 - 1, 971⟩

/-- The nine formats of the table of format codes (R100). -/
inductive Fmt | fp32 | bf16 | fp16 | e4m3 | e5m2 | int8 | int16 | mxfp4 | mxint8
  deriving DecidableEq, Repr

/-- R100: the FMT codes. -/
def Fmt.ofCode : Nat → Option Fmt
  | 0 => some .fp32 | 1 => some .bf16 | 2 => some .fp16 | 3 => some .e4m3 | 4 => some .e5m2
  | 5 => some .int8 | 6 => some .int16 | 7 => some .mxfp4 | 8 => some .mxint8
  | _ => none

/-- The code of a format. -/
def Fmt.code : Fmt → Nat
  | .fp32 => 0 | .bf16 => 1 | .fp16 => 2 | .e4m3 => 3 | .e5m2 => 4 | .int8 => 5 | .int16 => 6 | .mxfp4 => 7 | .mxint8 => 8

/-- The payload bytes of a tile of 128 × 128 elements, scale bytes apart (R15). -/
def Fmt.payload : Fmt → Nat
  | .fp32 => 65536 | .bf16 | .fp16 | .int16 => 32768 | .mxfp4 => 8192 | _ => 16384

/-- The scale bytes of a tile. -/
def Fmt.scales : Fmt → Nat
  | .mxfp4 | .mxint8 => 512 | _ => 0

/-- R15: the length of a tile in flits of 512 bytes. -/
def Fmt.flits (f : Fmt) : Nat := (f.payload + f.scales) / 512

/-- Bytes of one row of 128 elements. -/
def Fmt.rowBytes (f : Fmt) : Nat := f.payload / 128

/-- The float layout of a format that has one. -/
def Fmt.float? : Fmt → Option FloatFmt
  | .fp32 => some Machine.fp32 | .bf16 => some Machine.bf16 | .fp16 => some Machine.fp16
  | .e4m3 => some Machine.e4m3 | .e5m2 => some Machine.e5m2 | _ => none

/-- Decode a floating-point code (R101). -/
def FloatFmt.decode (f : FloatFmt) (c : Nat) : Val :=
  let m := c % 2 ^ f.mbits
  let E := c / 2 ^ f.mbits % 2 ^ f.ebits
  let s := c / 2 ^ (f.mbits + f.ebits) % 2 == 1
  if f.ieee ∧ E = 2 ^ f.ebits - 1 then (if m = 0 then .inf s else .nan)
  else if ¬ f.ieee ∧ E = 2 ^ f.ebits - 1 ∧ m = 2 ^ f.mbits - 1 then .nan
  else if E = 0 then .fin s m (1 - (f.bias : Int) - f.mbits)
  else .fin s (2 ^ f.mbits + m) ((E : Int) - f.bias - f.mbits)

/-- The sign bit of a code in place. -/
def FloatFmt.signBit (f : FloatFmt) (neg : Bool) : Nat := if neg then 2 ^ (f.ebits + f.mbits) else 0

/-- The code of an infinity. -/
def FloatFmt.infCode (f : FloatFmt) (neg : Bool) : Nat := f.signBit neg + (2 ^ f.ebits - 1) * 2 ^ f.mbits

/-- The code of `± q × 2 ^ g` where that value lies on the format's grid and is not above its largest finite value. -/
def FloatFmt.encode (f : FloatFmt) (neg : Bool) (q : Nat) (g : Int) : Nat :=
  if q = 0 then f.signBit neg
  else
    let l := log2 q
    if l < f.mbits then f.signBit neg + q   -- only on the subnormal grid
    else
      let q' := q / 2 ^ (l - f.mbits)
      let g' := g + ((l - f.mbits : Nat) : Int)
      f.signBit neg + (g' + f.bias + f.mbits).toNat * 2 ^ f.mbits + (q' - 2 ^ f.mbits)

/-- The grid of a target: lowest and highest exponent of its spacing, and its precision in bits. -/
structure Grid where
  lo : Int
  hi : Int
  prec : Nat
  deriving DecidableEq, Repr

/-- The grid of a float format: subnormal spacing at the bottom, the top binade's spacing above (R109). -/
def FloatFmt.grid (f : FloatFmt) : Grid := ⟨1 - (f.bias : Int) - f.mbits, f.maxE, f.mbits + 1⟩

/-- The integers. -/
def intGrid : Grid := ⟨0, 0, 0⟩

/-- The exponent of the spacing of a grid at the magnitude `m × 2 ^ e`. -/
def Grid.at (g : Grid) (m : Nat) (e : Int) : Int :=
  max g.lo (min g.hi ((log2 m : Int) + e - (g.prec : Int) + 1))

/-- How a conversion rounds: to nearest even, or stochastically with the draw `u` (R112). -/
inductive Rnd where
  | rne
  | sr (u : Nat)
  deriving DecidableEq, Repr

/-- A rounded magnitude in units of `2 ^ g`, and whether it took a draw: a stochastic rounding of a value strictly between two
grid points (R112). -/
structure Rounded where
  q : Nat
  g : Int
  drew : Bool
  deriving DecidableEq, Repr

/-- R109 step 2 and R112: round `± m × 2 ^ e` once to the grid. -/
def roundMag (gr : Grid) (r : Rnd) (neg : Bool) (m : Nat) (e : Int) : Rounded :=
  let g := gr.at m e
  if g ≤ e then ⟨m * pow2 (e - g), g, false⟩
  else
    let d := pow2 (g - e)
    let lo := m / d
    let rem := m % d
    if rem = 0 then ⟨lo, g, false⟩
    else
      match r with
      | .rne => ⟨if 2 * rem > d ∨ (2 * rem = d ∧ lo % 2 = 1) then lo + 1 else lo, g, false⟩
      | .sr u =>
        if neg then ⟨if u < (d - rem) * 65536 / d then lo else lo + 1, g, true⟩
        else ⟨if u < rem * 65536 / d then lo + 1 else lo, g, true⟩

/-- Whether `q × 2 ^ g` exceeds `m × 2 ^ e`. -/
def magGt (q : Nat) (g : Int) (m : Nat) (e : Int) : Bool :=
  let b := min g e
  decide (m * pow2 (e - b) < q * pow2 (g - b))

/-- IEEE rounding of an exact value to a format: overflow gives infinity (R105, R108). -/
def FloatFmt.round (f : FloatFmt) : Val → Nat
  | .nan => f.nanCode
  | .inf n => f.infCode n
  | .fin n m e =>
    if m = 0 then f.signBit n
    else
      let r := roundMag f.grid .rne n m e
      if magGt r.q r.g f.maxM f.maxE then f.infCode n else f.encode n r.q r.g

/-! ### Functions of the vector unit (R105) -/

/-- Bits of the fixed point in which the irrational functions are evaluated before the one rounding. -/
def fixBits : Nat := 256

/-- `ln 2` in units of `2 ^ -fixBits`, truncated. -/
def ln2Fix : Nat := 0xB17217F7D1CF79ABC9E3B39803F2F6AF40F343267298B62D8A0D175B8BAAFA2B

/-- `Σ yⁿ / n!`, the terms from `n` on, in fixed point. -/
def expSeries : Nat → Nat → Nat → Nat → Nat
  | 0, _, _, acc => acc
  | fuel + 1, y, t, acc =>
    let n := 64 - fuel
    let t' := t * y / 2 ^ fixBits / n
    expSeries fuel y t' (acc + t')

/-- `2 ^ f` for a fraction `f` in units of `2 ^ -fixBits`, in the same units. -/
def exp2Fix (f : Nat) : Nat := expSeries 64 (f * ln2Fix / 2 ^ fixBits) (2 ^ fixBits) (2 ^ fixBits)

/-- `Σ z^(2n+1) / (2n+1)`, in fixed point. -/
def atanhSeries : Nat → Nat → Nat → Nat → Nat → Nat
  | 0, _, _, _, acc => acc
  | fuel + 1, z2, p, k, acc => atanhSeries fuel z2 (p * z2 / 2 ^ fixBits) (k + 2) (acc + p / k)

/-- `log2 t` of `t` in `[1, 2)`, `t` and the result in units of `2 ^ -fixBits`. -/
def log2Fix (t : Nat) : Nat :=
  let one := 2 ^ fixBits
  let z := (t - one) * one / (t + one)
  2 * atanhSeries 90 (z * z / one) z 1 0 * one / ln2Fix

/-- An irrational magnitude in units of `2 ^ -fixBits`, kept strictly between its neighbours by one sticky bit. -/
def sticky (n : Nat) : Nat := 2 * n + 1

/-- `2 ^ v`. -/
def Val.exp2 : Val → Val
  | .nan => .nan
  | .inf n => if n then .fin false 0 0 else .inf false
  | .fin n m e =>
    if m = 0 then .fin false 1 0
    else if (log2 m : Int) + e > 12 then (if n then .fin false 1 (-100000) else .fin false 1 100000)
    else
      -- the fixed-point image of |v|; bits below the fixed point only reach the sticky bit
      let a := if e + fixBits ≥ 0 then m * pow2 (e + fixBits) else m / pow2 (-(e + fixBits))
      let exact := decide (e ≥ 0 ∨ m % pow2 (-e) = 0)
      let i := a / 2 ^ fixBits
      let f := a % 2 ^ fixBits
      if exact then .fin false 1 (if n then -(i : Int) else i)
      else if n then .fin false (sticky (exp2Fix (2 ^ fixBits - 1 - f))) (-(i : Int) - 1 - fixBits - 1)
      else .fin false (sticky (exp2Fix f)) ((i : Int) - fixBits - 1)

/-- `log2 v`. -/
def Val.log2 : Val → Val
  | .nan => .nan
  | .inf n => if n then .nan else .inf false
  | .fin n m e =>
    if m = 0 then .inf true
    else if n then .nan
    else
      let l := Machine.log2 m
      let k : Int := (l : Int) + e
      if m = 2 ^ l then Val.ofInt k 0
      else
        let x : Int := k * 2 ^ fixBits + log2Fix (m * 2 ^ fixBits / 2 ^ l)
        -- doubled, plus a sticky half unit: never on a grid point or a tie
        Val.ofInt (2 * x + 1) (-(fixBits : Int) - 1)

/-- `1 / v`, the exact quotient truncated far below the grid with a sticky bit. -/
def Val.rcp : Val → Val
  | .nan => .nan
  | .inf n => .fin n 0 0
  | .fin n m e =>
    if m = 0 then .inf n
    else
      let k := Machine.log2 m + 200
      let q := 2 ^ k / m
      if q * m = 2 ^ k then .fin n q (-e - k) else .fin n (sticky q) (-e - k - 1)

/-- The quotient of two values, in the same way. -/
def Val.div (a b : Val) : Val :=
  match a, b with
  | .fin s m e, .fin t n f =>
    if n = 0 then (if m = 0 then .nan else .inf (s != t))
    else
      let k := Machine.log2 n + 200
      let q := m * 2 ^ k / n
      if q * n = m * 2 ^ k then .fin (s != t) q (e - f - k) else .fin (s != t) (sticky q) (e - f - k - 1)
  | .fin s _ _, .inf t => .fin (s != t) 0 0
  | .inf s, .fin t _ _ => .inf (s != t)
  | _, _ => .nan

/-- `√v`. -/
def Val.sqrt : Val → Val
  | .nan => .nan
  | .inf n => if n then .nan else .inf false
  | .fin n m e =>
    if m = 0 then .fin n 0 0
    else if n then .nan
    else
      let (m', e') := if e % 2 = 0 then (m, e) else (2 * m, e - 1)
      let x := m' * 2 ^ 400
      let q := Nat.sqrt x
      if q * q = x then .fin false q (e' / 2 - 200) else .fin false (sticky q) (e' / 2 - 201)

/-- `1 / √v`. -/
def Val.rsqrt : Val → Val
  | .nan => .nan
  | .inf n => if n then .nan else .fin false 0 0
  | .fin n m e =>
    if m = 0 then .inf n
    else if n then .nan
    else
      let (m', e') := if e % 2 = 0 then (m, e) else (2 * m, e - 1)
      let k := Machine.log2 m' + 400
      let x := 2 ^ (2 * k) / m'
      let q := Nat.sqrt x
      if q * q * m' = 2 ^ (2 * k) then .fin false q (-(e' / 2) - k)
      else .fin false (sticky q) (-(e' / 2) - k - 1)

/-- The larger of two values: NaN if either is, −0 below +0. -/
def Val.max (a b : Val) : Val :=
  if a = .nan ∨ b = .nan then .nan else if a.le b then b else a

/-- The smaller of two values. -/
def Val.min (a b : Val) : Val :=
  if a = .nan ∨ b = .nan then .nan else if a.le b then a else b

/-! ### Elements of narrow formats -/

/-- A two's-complement integer of `w` bits. -/
def sint (w : Nat) (c : Nat) : Int :=
  let c := c % 2 ^ w
  if c ≥ 2 ^ (w - 1) then (c : Int) - 2 ^ w else c

/-- The code of an integer in `w` bits. -/
def sintCode (w : Nat) (i : Int) : Nat := (i % (2 ^ w : Int)).toNat

/-- An MXFP4 element (E2M1): sign in bit 3, in half units. -/
def e2m1 (c : Nat) : Val :=
  let c := c % 16
  let h := match c % 8 with | 0 => 0 | 1 => 1 | 2 => 2 | 3 => 3 | 4 => 4 | 5 => 6 | 6 => 8 | _ => 12
  .fin (c ≥ 8) h (-1)

/-- The E2M1 magnitude code of a value of half units that lies on the grid. -/
def e2m1Code (h : Nat) : Nat :=
  if h ≤ 4 then h else if h ≤ 6 then 5 else if h ≤ 8 then 6 else 7

/-- An element code as an array operand: integers take their integer value (R102), MX elements come unscaled. -/
def Fmt.operand (f : Fmt) (c : Nat) : Val :=
  match f with
  | .int8 => Val.ofInt (sint 8 c) 0
  | .int16 => Val.ofInt (sint 16 c) 0
  | .mxfp4 => e2m1 c
  | .mxint8 => Val.ofInt (sint 8 c) (-6)
  | f => match f.float? with | some g => g.decode c | none => .nan

/-- An element code as VCVT decodes it: the most negative integer is NaN (R102, R307). -/
def Fmt.decode (f : Fmt) (c : Nat) : Val :=
  match f with
  | .int8 => if c % 256 = 0x80 then .nan else Val.ofInt (sint 8 c) 0
  | .int16 => if c % 65536 = 0x8000 then .nan else Val.ofInt (sint 16 c) 0
  | f => f.operand c

/-! ### Conversion (R109, R110) -/

/-- What converting one element gives: its code, what it is counted as, and whether it took a draw. -/
structure ConvOut where
  code : Nat
  sat : Bool := false
  flush : Bool := false
  nan : Bool := false
  inf : Bool := false
  drew : Bool := false
  deriving DecidableEq, Repr

/-- A float target. -/
def FloatFmt.convert (f : FloatFmt) (r : Rnd) (v : Val) : ConvOut :=
  match v with
  | .nan => { code := f.nanCode, nan := true }
  | .inf n =>
    { code := if f.ieee then f.infCode n else f.encode n f.maxM f.maxE, inf := true }
  | .fin n m e =>
    if m = 0 then { code := f.signBit n }
    else
      let x := roundMag f.grid r n m e
      if magGt x.q x.g f.maxM f.maxE then { code := f.encode n f.maxM f.maxE, sat := true, drew := x.drew }
      else { code := f.encode n x.q x.g, flush := x.q == 0, drew := x.drew }

/-- An integer target of `w` bits. -/
def intConvert (w : Nat) (r : Rnd) (v : Val) : ConvOut :=
  let big := 2 ^ (w - 1) - 1
  match v with
  | .nan => { code := 2 ^ (w - 1), nan := true }
  | .inf n => { code := sintCode w (if n then -(big : Int) else big), inf := true }
  | .fin n m e =>
    if m = 0 then { code := 0 }
    else
      let x := roundMag intGrid r n m e
      if x.q > big then { code := sintCode w (if n then -(big : Int) else big), sat := true, drew := x.drew }
      else { code := sintCode w (if n then -(x.q : Int) else x.q), flush := x.q == 0, drew := x.drew }

/-- One element to a format that is not microscaled; the value is already multiplied by the applied exponent. -/
def Fmt.convert (f : Fmt) (r : Rnd) (v : Val) : ConvOut :=
  match f with
  | .int8 => intConvert 8 r v
  | .int16 => intConvert 16 r v
  | f => match f.float? with | some g => g.convert r v | none => { code := 0 }

/-- R46: an element that carries OVR at conversion, counted as saturated. -/
def Fmt.ovrOut (f : Fmt) : ConvOut :=
  match f with
  | .int8 => { code := 0x80, sat := true }
  | .int16 => { code := 0x8000, sat := true }
  | f => match f.float? with | some g => { code := g.nanCode, sat := true } | none => { code := 0, sat := true }

/-- The elements of an MX conversion rounded at `2 ^ X` (R104 step 4). -/
def mxElement (fp4 : Bool) (r : Rnd) (X : Int) (v : Val) : ConvOut :=
  match v.shift (-X) with
  | .fin n m e =>
    if m = 0 then { code := if fp4 ∧ n then 8 else 0 }
    else if fp4 then
      -- E2M1: grid of half units below 2, units below 4, twos above
      let x := roundMag ⟨-1, 1, 2⟩ r n m e
      let h := x.q * pow2 (x.g + 1)
      if h > 12 then { code := (if n then 8 else 0) + 7, sat := true, drew := x.drew }
      else { code := (if n then 8 else 0) + e2m1Code h, flush := h == 0, drew := x.drew }
    else
      let x := roundMag ⟨-6, -6, 0⟩ r n m e
      if x.q > 127 then { code := sintCode 8 (if n then -127 else 127), sat := true, drew := x.drew }
      else { code := sintCode 8 (if n then -(x.q : Int) else x.q), flush := x.q == 0, drew := x.drew }
  | _ => { code := 0 }

/-- R104: the scale code and the elements of one block; `rs` gives each element its rounding. -/
def mxBlock (fp4 : Bool) (vs : List (Val × Rnd)) : Nat × List ConvOut :=
  let special := vs.any fun p => match p.1 with | .fin _ _ _ => false | _ => true
  if special then
    (0xFF, vs.map fun p => match p.1 with
      | .nan => { code := 0, nan := true } | .inf _ => { code := 0, inf := true } | _ => { code := 0 })
  else
    let top : Option Int := vs.foldl (fun t p => match p.1 with
      | .fin _ m e => if m = 0 then t else
          let l : Int := (log2 m : Int) + e
          some (match t with | none => l | some k => max k l)
      | _ => t) none
    let emax : Int := if fp4 then 2 else 0
    match top with
    | none => (0, vs.map fun p => mxElement fp4 p.2 (-127) p.1)
    | some l =>
      let X := max (-127) (min 127 (l - emax))
      ((X + 127).toNat, vs.map fun p => mxElement fp4 p.2 X p.1)

/-! ### Draws (R113) -/

/-- The 64-bit mixer. -/
def mix (z : BitVec 64) : BitVec 64 :=
  let z := (z ^^^ (z >>> 30)) * 0xBF58476D1CE4E5B9#64
  let z := (z ^^^ (z >>> 27)) * 0x94D049BB133111EB#64
  z ^^^ (z >>> 31)

/-- The draw of an element: 16 bits. -/
def draw (seed : BitVec 64) (tensor : Nat) (step : BitVec 64) (index : Nat) : Nat :=
  let a := mix (seed ^^^ 0x9E3779B97F4A7C15#64)
  let b := mix (a ^^^ step)
  let c := mix (b ^^^ (BitVec.ofNat 64 tensor <<< 40) ^^^ BitVec.ofNat 64 (index % 2 ^ 40))
  (c >>> 48).toNat

/-- One level of a pairwise tree: neighbours combined, an odd last element kept. -/
def pairUp {α : Type} (f : α → α → α) : List α → List α
  | a :: b :: r => f a b :: pairUp f r
  | l => l

/-- R106: the fixed pairwise tree, level by level. -/
def treeFold {α : Type} (f : α → α → α) : Nat → List α → List α
  | 0, l => l
  | n + 1, l => treeFold f n (pairUp f l)

end Sys2Proof.Machine
end

