-- ==== Sys2Proof/Machine/Registers.lean ====
section
/-!
DEFINITION. The register map of BAR0: every register the manual's register tables name, with its address, its
size, and each field's place, access code (R8) and reset value. A field whose table gives no number for its reset
(a dash, `fuse`, `pins`, `EEPROM`) has 0 here; what it reads as is a view computed from the rest of the state.
-/
namespace Sys2Proof.Machine

/-- The access codes of the manual's table of access codes (R8). -/
inductive Access | rw | ro | w1c | wo | rc
  deriving DecidableEq, Repr

/-- One field of a register: bits `[hi:lo]`, its access code and its reset value. -/
structure Field where
  hi : Nat
  lo : Nat
  acc : Access
  reset : Nat
  deriving DecidableEq, Repr

/-- One row of the register map: base address, `(count, stride)` of each index, size in bytes, fields. -/
structure RegRow where
  base : Nat
  dims : List (Nat × Nat)
  size : Nat
  fields : List Field
  deriving DecidableEq, Repr

/-- The registers by name; an index list beside a name selects the instance. -/
inductive RegName
  /-- HUB_ID. -/
  | hubId
  /-- HUB_STATE. -/
  | hubState
  /-- HUB_RESET. -/
  | hubReset
  /-- HUB_ALERT. -/
  | hubAlert
  /-- FEAT_CORES. -/
  | featCores
  /-- FEAT_HOOP. -/
  | featHoop
  /-- FEAT_ARRAY. -/
  | featArray
  /-- FEAT_SRAM. -/
  | featSram
  /-- FEAT_MEM. -/
  | featMem
  /-- FEAT_FORMATS. -/
  | featFormats
  /-- FEAT_LINK. -/
  | featLink
  /-- FEAT_GEN. -/
  | featGen
  /-- HUB_HOOP_CFG. -/
  | hubHoopCfg
  /-- HUB_ARCn. -/
  | hubArc
  /-- PACE_CFGc. -/
  | paceCfg
  /-- PACE_BOUNDc. -/
  | paceBound
  /-- PACE_MISSc. -/
  | paceMiss
  /-- PACE_LATEc. -/
  | paceLate
  /-- HIF_CFG. -/
  | hifCfg
  /-- HIF_WINf. -/
  | hifWin
  /-- HIF_ERR. -/
  | hifErr
  /-- MBX_OWNj. -/
  | mbxOwn
  /-- CTX_INBOXc. -/
  | ctxInbox
  /-- CLK_STATUS. -/
  | clkStatus
  /-- CLK_STEP. -/
  | clkStep
  /-- CLK_CNT_CHANGES. -/
  | clkCntChanges
  /-- CLK_REGIONr. -/
  | clkRegion
  /-- CLK_STRETCHr. -/
  | clkStretch
  /-- CLK_TICKr. -/
  | clkTick
  /-- NRG_CFG. -/
  | nrgCfg
  /-- NRG_MODEL. -/
  | nrgModel
  /-- NRG_STATUS. -/
  | nrgStatus
  /-- NRG_EMERG. -/
  | nrgEmerg
  /-- NRG_WEAR. -/
  | nrgWear
  /-- NRG_TRIPLOG. -/
  | nrgTriplog
  /-- NRG_IDLE. -/
  | nrgIdle
  /-- NRG_CNT_PLANS. -/
  | nrgCntPlans
  /-- NRG_CNT_HOLD. -/
  | nrgCntHold
  /-- NRG_CNT_OVERBURST. -/
  | nrgCntOverburst
  /-- NRG_CNT_EMERG. -/
  | nrgCntEmerg
  /-- NRG_RAILn. -/
  | nrgRail
  /-- NRG_CTXc. -/
  | nrgCtx
  /-- NRG_SHAREc. -/
  | nrgShare
  /-- SEC_STATUS. -/
  | secStatus
  /-- SEC_LAST. -/
  | secLast
  /-- SEC_BIND_ADDR. -/
  | secBindAddr
  /-- SEC_BIND_DATA. -/
  | secBindData
  /-- SEC_CNT_AUTHFAIL. -/
  | secCntAuthfail
  /-- SEC_CNT_REPLAY. -/
  | secCntReplay
  /-- SEC_CNT_EXHAUST. -/
  | secCntExhaust
  /-- SEC_DBG_NONCEi. -/
  | secDbgNonce
  /-- EVT_ADDR. -/
  | evtAddr
  /-- EVT_DATA. -/
  | evtData
  /-- EVT_PTRl. -/
  | evtPtr
  /-- CTX_STATUSc. -/
  | ctxStatus
  /-- CTX_FAULTc. -/
  | ctxFault
  /-- TAINT_FIRSTc. -/
  | taintFirst
  /-- TAINT_LASTc. -/
  | taintLast
  /-- TAINT_CNTc. -/
  | taintCnt
  /-- RIND_TRIG. -/
  | rindTrig
  /-- RIND_CFG. -/
  | rindCfg
  /-- RIND_STAT. -/
  | rindStat
  /-- RIND_ARMc. -/
  | rindArm
  /-- RIND_STEPc. -/
  | rindStep
  /-- LNK_CFG. -/
  | lnkCfg
  /-- LNK_STATUS. -/
  | lnkStatus
  /-- LNK_DROP. -/
  | lnkDrop
  /-- LNK_FLOW_ADDR. -/
  | lnkFlowAddr
  /-- LNK_FLOW_DATA. -/
  | lnkFlowData
  /-- LNK_FWD_ADDR. -/
  | lnkFwdAddr
  /-- LNK_FWD_DATA. -/
  | lnkFwdData
  /-- LNK_CNT_FWD. -/
  | lnkCntFwd
  /-- LNK_CNT_RXF. -/
  | lnkCntRxf
  /-- LNK_CNT_TXF. -/
  | lnkCntTxf
  /-- LNK_CNT_DROP. -/
  | lnkCntDrop
  /-- LNK_CNT_GAP. -/
  | lnkCntGap
  /-- LNK_PORT_CTRL. -/
  | lnkPortCtrl
  /-- LNK_PORT_CFG. -/
  | lnkPortCfg
  /-- LNK_PORT_STATUS. -/
  | lnkPortStatus
  /-- LNK_PORT_PEER. -/
  | lnkPortPeer
  /-- LNK_PORT_CRED0. -/
  | lnkPortCred0
  /-- LNK_PORT_CRED1. -/
  | lnkPortCred1
  /-- LNK_PORT_ARB. -/
  | lnkPortArb
  /-- LNK_PORT_CNT_TX. -/
  | lnkPortCntTx
  /-- LNK_PORT_CNT_RX. -/
  | lnkPortCntRx
  /-- LNK_PORT_CNT_REPLAY. -/
  | lnkPortCntReplay
  /-- LNK_PORT_CNT_CRC. -/
  | lnkPortCntCrc
  /-- LNK_PORT_CNT_FEC_CE. -/
  | lnkPortCntFecCe
  /-- LNK_PORT_CNT_FEC_UE. -/
  | lnkPortCntFecUe
  /-- LNK_PORT_CNT_CSTALL. -/
  | lnkPortCntCstall
  /-- LNK_PORT_CNT_RSTALL. -/
  | lnkPortCntRstall
  /-- LNK_PORT_CNT_RETRAIN. -/
  | lnkPortCntRetrain
  /-- RED_STATUS. -/
  | redStatus
  /-- RED_FLOW_ADDR. -/
  | redFlowAddr
  /-- RED_FLOW_DATA. -/
  | redFlowData
  /-- RED_CNT_ADDS. -/
  | redCntAdds
  /-- RED_CNT_SAT. -/
  | redCntSat
  /-- RED_CNT_POISON. -/
  | redCntPoison
  /-- RED_CNT_ROUNDS. -/
  | redCntRounds
  /-- RED_CNT_GAPPOISON. -/
  | redCntGappoison
  /-- RED_NORMn. -/
  | redNorm
  /-- RED_NSTEPn. -/
  | redNstep
  /-- MEM_FAULT. -/
  | memFault
  /-- MEM_FAULT_ADDR. -/
  | memFaultAddr
  /-- MEM_XLAT_ADDR. -/
  | memXlatAddr
  /-- MEM_XLAT_DATA. -/
  | memXlatData
  /-- MEM_CNT_TMISS. -/
  | memCntTmiss
  /-- MEM_CNT_DENIED. -/
  | memCntDenied
  /-- MEM_CNT_SRAM_CE. -/
  | memCntSramCe
  /-- MEM_CNT_SRAM_UE. -/
  | memCntSramUe
  /-- MEM_UCAPu. -/
  | memUcap
  /-- MEM_UFREEu. -/
  | memUfree
  /-- MEM_QUOTAc,k. -/
  | memQuota
  /-- MEM_USEc,u. -/
  | memUse
  /-- HBM_STATUS. -/
  | hbmStatus
  /-- HBM_SPARE. -/
  | hbmSpare
  /-- HBM_FAULT. -/
  | hbmFault
  /-- HBM_CNT_CE. -/
  | hbmCntCe
  /-- HBM_CNT_UE. -/
  | hbmCntUe
  /-- HBM_CNT_REMAP. -/
  | hbmCntRemap
  /-- HBM_CNT_RETIRED. -/
  | hbmCntRetired
  /-- HBM_CNT_SCRUB. -/
  | hbmCntScrub
  /-- MIG_CFG. -/
  | migCfg
  /-- MIG_STATUS. -/
  | migStatus
  /-- MIG_CNT_DOWN. -/
  | migCntDown
  /-- MIG_CNT_UP. -/
  | migCntUp
  /-- MIG_CNT_RETIRE. -/
  | migCntRetire
  /-- MIG_CNT_ZERO. -/
  | migCntZero
  /-- BWR_CFGc,p. -/
  | bwrCfg
  /-- BWR_LEVELc,p. -/
  | bwrLevel
  /-- BWR_WAITc,p. -/
  | bwrWait
  /-- CAVE_STATUS. -/
  | caveStatus
  /-- CAVE_CFG. -/
  | caveCfg
  /-- CAVE_WEAR. -/
  | caveWear
  /-- CAVE_BLOCKS. -/
  | caveBlocks
  /-- CAVE_CNT_SCRUB. -/
  | caveCntScrub
  /-- CAVE_CNT_UE. -/
  | caveCntUe
  /-- CAVE_CNT_RETRY. -/
  | caveCntRetry
  /-- CAVE_CNT_USERGB. -/
  | caveCntUsergb
  /-- CAVE_CNT_NANDGB. -/
  | caveCntNandgb
  /-- RIP_STATUS. -/
  | ripStatus
  /-- RIP_FAULT. -/
  | ripFault
  /-- RIP_CNT_PARAMS. -/
  | ripCntParams
  /-- RIP_CNT_WAITRED. -/
  | ripCntWaitred
  /-- RIP_CNT_SNAPWAIT. -/
  | ripCntSnapwait
  /-- RIP_CNT_REMOTE. -/
  | ripCntRemote
  /-- RIP_CNT_HOLD. -/
  | ripCntHold
  /-- RIP_CNT_SAT. -/
  | ripCntSat
  /-- RIP_CNT_FLUSH. -/
  | ripCntFlush
  /-- RIP_CNT_NAN. -/
  | ripCntNan
  /-- RIP_CTXc. -/
  | ripCtx
  /-- RIP_STEPc. -/
  | ripStep
  /-- RIP_PROGc. -/
  | ripProg
  /-- CORE_ID. -/
  | coreId
  /-- CORE_STATE. -/
  | coreState
  /-- CORE_CTRL. -/
  | coreCtrl
  /-- CORE_FAULT. -/
  | coreFault
  /-- HOOP_POS. -/
  | hoopPos
  /-- HOOP_STATUS. -/
  | hoopStatus
  /-- HOOP_CNT_IN. -/
  | hoopCntIn
  /-- HOOP_CNT_FWD. -/
  | hoopCntFwd
  /-- HOOP_CNT_RET. -/
  | hoopCntRet
  /-- HOOP_FWD_STALL. -/
  | hoopFwdStall
  /-- HOOP_ECC_CE. -/
  | hoopEccCe
  /-- HOOP_ECC_UE. -/
  | hoopEccUe
  /-- HOOP_FAULT. -/
  | hoopFault
  /-- HOOP_TAGCAPk. -/
  | hoopTagcap
  /-- ARR_STATUS. -/
  | arrStatus
  /-- ARR_FUSE. -/
  | arrFuse
  /-- ARR_FAULT. -/
  | arrFault
  /-- ARR_CNT_VEC. -/
  | arrCntVec
  /-- ARR_CNT_NULL. -/
  | arrCntNull
  /-- ARR_CNT_PRESS. -/
  | arrCntPress
  /-- ARR_DRY. -/
  | arrDry
  /-- ARR_DRAIN_FULL. -/
  | arrDrainFull
  /-- ARR_CNT_WINDOW. -/
  | arrCntWindow
  /-- LDL_STATUS. -/
  | ldlStatus
  /-- LDL_FAULT. -/
  | ldlFault
  /-- LDL_CNT_UNITS. -/
  | ldlCntUnits
  /-- LDL_CNT_SLOTS. -/
  | ldlCntSlots
  /-- LDL_CNT_WINDOW. -/
  | ldlCntWindow
  /-- SEQ_STATUS. -/
  | seqStatus
  /-- SEQ_CFG. -/
  | seqCfg
  /-- SEQ_SBC. -/
  | seqSbc
  /-- SEQ_PC. -/
  | seqPc
  /-- SEQ_BANK. -/
  | seqBank
  /-- SEQ_FAULT. -/
  | seqFault
  /-- SEQ_HAZARD. -/
  | seqHazard
  /-- SEQ_PLAN. -/
  | seqPlan
  /-- SEQ_STEP_F and SEQ_STEP_B. -/
  | seqStep
  /-- SEQ_QDEPTH. -/
  | seqQdepth
  /-- SEQ_DBG_ADDR. -/
  | seqDbgAddr
  /-- SEQ_DBG_DATA. -/
  | seqDbgData
  /-- SEQ_FRZn. -/
  | seqFrz
  /-- SEQ_ORGm. -/
  | seqOrg
  /-- SEQ_PICKS_F and SEQ_PICKS_B. -/
  | seqPicks
  /-- VEC_RNG_DEF. -/
  | vecRngDef
  /-- VEC_RNG_STATUS. -/
  | vecRngStatus
  /-- VEC_RNG_MISS. -/
  | vecRngMiss
  /-- VEC_RNG_STALE. -/
  | vecRngStale
  /-- VEC_CNT_SR. -/
  | vecCntSr
  /-- VEC_CNT_SAT. -/
  | vecCntSat
  /-- VEC_CNT_NAN. -/
  | vecCntNan
  /-- range entry word 0. -/
  | rngWord0
  /-- range entry word 1. -/
  | rngWord1
  /-- range entry words 2 to 10. -/
  | rngRec
  /-- STR_STATUS. -/
  | strStatus
  /-- STR_FAULT. -/
  | strFault
  /-- STR_LIST_ADDR. -/
  | strListAddr
  /-- STR_LIST_DATA. -/
  | strListData
  /-- STR_CNT_ENTRIES. -/
  | strCntEntries
  /-- STR_CNT_POISON. -/
  | strCntPoison
  /-- STR_CNT_SMALL. -/
  | strCntSmall
  /-- STR_CNT_SCANS. -/
  | strCntScans
  /-- STR_CTXk. -/
  | strCtx
  /-- STR_ARMk. -/
  | strArm
  /-- STR_WAITk. -/
  | strWait
  /-- HRP_STATUS. -/
  | hrpStatus
  /-- HRP_SIDE_ADDR. -/
  | hrpSideAddr
  /-- HRP_SIDE_DATA. -/
  | hrpSideData
  /-- HRP_CNT_OPS. -/
  | hrpCntOps
  /-- HRP_BUSY. -/
  | hrpBusy
  /-- HRP_WAIT. -/
  | hrpWait
  /-- HRP_CNT_ELEMS. -/
  | hrpCntElems
  /-- HRP_CNT_SAT. -/
  | hrpCntSat
  /-- HRP_CNT_FLUSH. -/
  | hrpCntFlush
  /-- HRP_CNT_NAN. -/
  | hrpCntNan
  /-- HRP_CNT_INF. -/
  | hrpCntInf
  /-- HRP_CNT_POISON. -/
  | hrpCntPoison
  /-- HRP_CNT_LIMIT. -/
  | hrpCntLimit
  /-- HRP_CNT_RANKDEF. -/
  | hrpCntRankdef
  deriving DecidableEq, Repr

/-- The fields of the HOOP counter layout (*Cores, Clusters and the Hoop*). -/
def counterFields : List Field := [⟨63, 63, .w1c, 0⟩, ⟨47, 0, .ro, 0⟩]

/-- The register tables of the manual. -/
def regRow : RegName → RegRow
  | .hubId => ⟨0x0, [], 8, [⟨63, 48, .ro, 7994⟩, ⟨47, 32, .ro, 20018⟩, ⟨31, 16, .ro, 0⟩, ⟨15, 8, .ro, 176⟩, ⟨7, 0, .ro, 2⟩]⟩
  | .hubState => ⟨0x8, [], 8, [⟨37, 32, .ro, 0⟩, ⟨17, 17, .ro, 0⟩, ⟨15, 8, .ro, 0⟩, ⟨2, 0, .ro, 1⟩]⟩
  | .hubReset => ⟨0x10, [], 8, [⟨47, 16, .ro, 0⟩, ⟨3, 0, .ro, 0⟩]⟩
  | .hubAlert => ⟨0x18, [], 8, [⟨39, 32, .rw, 255⟩, ⟨5, 5, .w1c, 0⟩, ⟨4, 4, .w1c, 0⟩, ⟨3, 3, .w1c, 0⟩, ⟨2, 2, .w1c, 0⟩, ⟨1, 1, .w1c, 0⟩, ⟨0, 0, .w1c, 0⟩]⟩
  | .featCores => ⟨0x100, [], 8, [⟨23, 16, .ro, 0⟩, ⟨15, 8, .ro, 0⟩, ⟨7, 0, .ro, 0⟩]⟩
  | .featHoop => ⟨0x108, [], 8, [⟨32, 32, .ro, 1⟩, ⟨31, 24, .ro, 0⟩, ⟨23, 16, .ro, 0⟩, ⟨15, 8, .ro, 0⟩]⟩
  | .featArray => ⟨0x110, [], 8, [⟨51, 44, .ro, 20⟩, ⟨43, 32, .ro, 2048⟩, ⟨31, 24, .ro, 64⟩, ⟨23, 16, .ro, 64⟩, ⟨15, 8, .ro, 128⟩, ⟨7, 0, .ro, 128⟩]⟩
  | .featSram => ⟨0x118, [], 8, [⟨47, 40, .ro, 4⟩, ⟨39, 24, .ro, 512⟩, ⟨23, 12, .ro, 128⟩, ⟨11, 0, .ro, 24⟩]⟩
  | .featMem => ⟨0x120, [], 8, [⟨63, 48, .ro, 0⟩, ⟨47, 32, .ro, 1024⟩, ⟨31, 16, .ro, 762⟩, ⟨15, 8, .ro, 8⟩]⟩
  | .featFormats => ⟨0x128, [], 8, [⟨31, 16, .ro, 0⟩, ⟨15, 0, .ro, 0⟩]⟩
  | .featLink => ⟨0x130, [], 8, [⟨44, 32, .ro, 4096⟩, ⟨31, 16, .ro, 0⟩, ⟨15, 0, .ro, 0⟩]⟩
  | .featGen => ⟨0x138, [], 8, [⟨63, 32, .ro, 131328⟩, ⟨23, 16, .ro, 0⟩, ⟨15, 8, .ro, 176⟩, ⟨7, 0, .ro, 2⟩]⟩
  | .hubHoopCfg => ⟨0x400, [], 4, [⟨2, 2, .w1c, 0⟩, ⟨1, 1, .ro, 0⟩, ⟨0, 0, .rw, 1⟩]⟩
  | .hubArc => ⟨0x410, [(8, 4)], 4, [⟨31, 31, .ro, 0⟩, ⟨30, 30, .ro, 0⟩, ⟨27, 19, .ro, 0⟩, ⟨18, 12, .ro, 0⟩, ⟨8, 4, .ro, 0⟩, ⟨3, 0, .ro, 0⟩]⟩
  | .paceCfg => ⟨0x600, [(8, 0x20)], 8, [⟨63, 63, .ro, 0⟩, ⟨62, 62, .rw, 0⟩, ⟨31, 0, .ro, 0⟩]⟩
  | .paceBound => ⟨0x608, [(8, 0x20)], 8, [⟨47, 0, .ro, 0⟩]⟩
  | .paceMiss => ⟨0x610, [(8, 0x20)], 8, counterFields⟩
  | .paceLate => ⟨0x618, [(8, 0x20)], 8, [⟨63, 63, .w1c, 0⟩, ⟨53, 48, .ro, 0⟩, ⟨47, 0, .ro, 0⟩]⟩
  | .hifCfg => ⟨0x800, [], 8, [⟨19, 16, .ro, 0⟩, ⟨15, 12, .ro, 0⟩, ⟨11, 8, .ro, 0⟩, ⟨7, 4, .ro, 0⟩, ⟨0, 0, .ro, 0⟩]⟩
  | .hifWin => ⟨0x808, [(2, 8)], 8, [⟨63, 36, .rw, 0⟩]⟩
  | .hifErr => ⟨0x818, [], 8, [⟨63, 32, .rc, 0⟩, ⟨31, 0, .rc, 0⟩]⟩
  | .mbxOwn => ⟨0x820, [(4, 8)], 8, [⟨63, 0, .ro, 0⟩]⟩
  | .ctxInbox => ⟨0x880, [(8, 8)], 8, [⟨63, 16, .ro, 0⟩]⟩
  | .clkStatus => ⟨0x1000, [], 8, [⟨15, 15, .w1c, 0⟩, ⟨14, 14, .ro, 0⟩, ⟨13, 13, .ro, 0⟩, ⟨12, 11, .ro, 0⟩, ⟨4, 0, .ro, 0⟩]⟩
  | .clkStep => ⟨0x1008, [], 8, [⟨20, 16, .ro, 0⟩, ⟨12, 8, .ro, 0⟩, ⟨4, 0, .rw, 0⟩]⟩
  | .clkCntChanges => ⟨0x1010, [], 8, counterFields⟩
  | .clkRegion => ⟨0x1100, [(19, 0x20)], 8, [⟨25, 16, .ro, 0⟩, ⟨10, 6, .ro, 0⟩, ⟨2, 2, .ro, 0⟩, ⟨1, 1, .w1c, 0⟩, ⟨0, 0, .ro, 0⟩]⟩
  | .clkStretch => ⟨0x1108, [(19, 0x20)], 8, counterFields⟩
  | .clkTick => ⟨0x1110, [(19, 0x20)], 8, [⟨63, 0, .ro, 0⟩]⟩
  | .nrgCfg => ⟨0x2000, [], 8, [⟨47, 36, .ro, 3600⟩, ⟨35, 24, .ro, 900⟩, ⟨23, 12, .ro, 3000⟩]⟩
  | .nrgModel => ⟨0x2008, [], 8, [⟨27, 16, .rw, 3600⟩, ⟨11, 0, .rw, 600⟩]⟩
  | .nrgStatus => ⟨0x2010, [], 8, [⟨33, 33, .w1c, 0⟩, ⟨32, 32, .ro, 0⟩, ⟨31, 0, .ro, 900000⟩]⟩
  | .nrgEmerg => ⟨0x2018, [], 8, [⟨63, 63, .w1c, 0⟩, ⟨62, 61, .ro, 0⟩, ⟨60, 56, .ro, 0⟩, ⟨55, 51, .ro, 0⟩, ⟨50, 46, .ro, 0⟩, ⟨45, 0, .ro, 0⟩]⟩
  | .nrgWear => ⟨0x2020, [], 8, [⟨63, 63, .ro, 0⟩, ⟨62, 48, .ro, 0⟩, ⟨31, 0, .ro, 0⟩]⟩
  | .nrgTriplog => ⟨0x2028, [], 8, [⟨63, 63, .w1c, 0⟩, ⟨62, 58, .ro, 0⟩, ⟨57, 48, .ro, 0⟩, ⟨47, 0, .ro, 0⟩]⟩
  | .nrgIdle => ⟨0x2030, [], 8, [⟨63, 0, .ro, 0⟩]⟩
  | .nrgCntPlans => ⟨0x2040, [], 8, counterFields⟩
  | .nrgCntHold => ⟨0x2048, [], 8, counterFields⟩
  | .nrgCntOverburst => ⟨0x2050, [], 8, counterFields⟩
  | .nrgCntEmerg => ⟨0x2058, [], 8, counterFields⟩
  | .nrgRail => ⟨0x2100, [(12, 8)], 8, [⟨63, 0, .ro, 0⟩]⟩
  | .nrgCtx => ⟨0x2200, [(8, 0x10)], 8, [⟨63, 0, .ro, 0⟩]⟩
  | .nrgShare => ⟨0x2208, [(8, 0x10)], 8, [⟨43, 32, .ro, 0⟩, ⟨31, 0, .ro, 0⟩]⟩
  | .secStatus => ⟨0x3000, [], 8, [⟨11, 9, .ro, 0⟩, ⟨8, 8, .ro, 0⟩, ⟨7, 7, .ro, 0⟩, ⟨6, 5, .ro, 0⟩, ⟨4, 4, .ro, 0⟩, ⟨3, 3, .ro, 0⟩, ⟨2, 2, .ro, 0⟩]⟩
  | .secLast => ⟨0x3010, [], 8, [⟨63, 63, .w1c, 0⟩, ⟨47, 32, .ro, 0⟩, ⟨31, 16, .ro, 0⟩, ⟨5, 0, .ro, 0⟩]⟩
  | .secBindAddr => ⟨0x3018, [], 8, [⟨16, 16, .ro, 0⟩, ⟨8, 8, .rw, 0⟩, ⟨5, 0, .rw, 0⟩]⟩
  | .secBindData => ⟨0x3020, [], 8, [⟨63, 0, .ro, 0⟩]⟩
  | .secCntAuthfail => ⟨0x3040, [], 8, counterFields⟩
  | .secCntReplay => ⟨0x3048, [], 8, counterFields⟩
  | .secCntExhaust => ⟨0x3050, [], 8, counterFields⟩
  | .secDbgNonce => ⟨0x3080, [(4, 8)], 8, [⟨63, 0, .ro, 0⟩]⟩
  | .evtAddr => ⟨0x4000, [], 8, [⟨15, 12, .rw, 0⟩, ⟨9, 2, .rw, 0⟩, ⟨1, 0, .rw, 0⟩]⟩
  | .evtData => ⟨0x4008, [], 8, [⟨63, 0, .ro, 0⟩]⟩
  | .evtPtr => ⟨0x4010, [(10, 8)], 8, [⟨63, 40, .ro, 0⟩, ⟨24, 24, .ro, 0⟩, ⟨23, 16, .ro, 0⟩, ⟨7, 0, .rw, 0⟩]⟩
  | .ctxStatus => ⟨0x4100, [(8, 0x20)], 8, [⟨3, 3, .ro, 0⟩, ⟨2, 2, .ro, 0⟩, ⟨1, 1, .ro, 0⟩, ⟨0, 0, .ro, 0⟩]⟩
  | .ctxFault => ⟨0x4108, [(8, 0x20)], 8, [⟨63, 48, .ro, 0⟩, ⟨47, 40, .ro, 0⟩, ⟨39, 32, .ro, 0⟩, ⟨31, 16, .ro, 0⟩]⟩
  | .taintFirst => ⟨0x4110, [(8, 0x20)], 8, [⟨63, 0, .ro, 0⟩]⟩
  | .taintLast => ⟨0x4118, [(8, 0x20)], 8, [⟨63, 0, .ro, 0⟩]⟩
  | .taintCnt => ⟨0x4200, [(8, 8)], 8, counterFields⟩
  | .rindTrig => ⟨0x4400, [], 8, [⟨0, 0, .wo, 0⟩]⟩
  | .rindCfg => ⟨0x4408, [], 8, [⟨31, 0, .rw, 100000⟩]⟩
  | .rindStat => ⟨0x4410, [], 8, [⟨63, 48, .ro, 0⟩, ⟨47, 45, .ro, 0⟩, ⟨44, 44, .ro, 0⟩, ⟨43, 43, .ro, 0⟩, ⟨42, 32, .ro, 0⟩, ⟨31, 16, .ro, 0⟩, ⟨15, 0, .ro, 0⟩]⟩
  | .rindArm => ⟨0x4420, [(8, 0x10)], 8, [⟨11, 11, .ro, 0⟩, ⟨10, 10, .ro, 0⟩, ⟨9, 8, .ro, 0⟩, ⟨7, 0, .ro, 0⟩]⟩
  | .rindStep => ⟨0x4428, [(8, 0x10)], 8, [⟨63, 0, .ro, 0⟩]⟩
  | .lnkCfg => ⟨0x200000, [], 8, [⟨21, 16, .rw, 48⟩, ⟨12, 12, .ro, 0⟩, ⟨11, 0, .ro, 4095⟩]⟩
  | .lnkStatus => ⟨0x200008, [], 8, [⟨46, 32, .ro, 0⟩, ⟨31, 16, .ro, 0⟩, ⟨15, 0, .ro, 0⟩]⟩
  | .lnkDrop => ⟨0x200010, [], 8, [⟨63, 52, .ro, 0⟩, ⟨51, 40, .ro, 0⟩, ⟨39, 26, .ro, 0⟩, ⟨25, 22, .ro, 0⟩, ⟨8, 8, .w1c, 0⟩, ⟨2, 0, .ro, 0⟩]⟩
  | .lnkFlowAddr => ⟨0x200018, [], 8, [⟨18, 16, .rw, 0⟩, ⟨13, 0, .rw, 0⟩]⟩
  | .lnkFlowData => ⟨0x200020, [], 8, [⟨63, 0, .ro, 0⟩]⟩
  | .lnkFwdAddr => ⟨0x200028, [], 8, [⟨11, 0, .rw, 0⟩]⟩
  | .lnkFwdData => ⟨0x200030, [], 8, [⟨31, 0, .ro, 0⟩]⟩
  | .lnkCntFwd => ⟨0x200040, [], 8, counterFields⟩
  | .lnkCntRxf => ⟨0x200048, [], 8, counterFields⟩
  | .lnkCntTxf => ⟨0x200050, [], 8, counterFields⟩
  | .lnkCntDrop => ⟨0x200058, [], 8, counterFields⟩
  | .lnkCntGap => ⟨0x200060, [], 8, counterFields⟩
  | .lnkPortCtrl => ⟨0x201000, [(16, 0x100)], 8, [⟨5, 5, .rw, 0⟩, ⟨4, 4, .w1c, 0⟩, ⟨3, 3, .rw, 1⟩, ⟨2, 2, .wo, 0⟩, ⟨0, 0, .rw, 1⟩]⟩
  | .lnkPortCfg => ⟨0x201008, [(16, 0x100)], 8, [⟨7, 7, .ro, 0⟩, ⟨5, 4, .ro, 0⟩]⟩
  | .lnkPortStatus => ⟨0x201010, [(16, 0x100)], 8, [⟨36, 32, .ro, 0⟩, ⟨27, 24, .ro, 0⟩, ⟨23, 20, .ro, 0⟩, ⟨17, 17, .ro, 0⟩, ⟨16, 16, .ro, 0⟩, ⟨2, 0, .ro, 0⟩]⟩
  | .lnkPortPeer => ⟨0x201018, [(16, 0x100)], 8, [⟨63, 63, .ro, 0⟩, ⟨62, 62, .ro, 0⟩, ⟨55, 48, .ro, 0⟩, ⟨47, 44, .ro, 0⟩, ⟨11, 0, .ro, 0⟩]⟩
  | .lnkPortCred0 => ⟨0x201020, [(16, 0x100)], 8, [⟨63, 48, .rw, 512⟩, ⟨47, 32, .rw, 3072⟩, ⟨31, 16, .rw, 4096⟩, ⟨15, 0, .rw, 3072⟩]⟩
  | .lnkPortCred1 => ⟨0x201028, [(16, 0x100)], 8, [⟨63, 48, .rw, 256⟩, ⟨47, 32, .rw, 256⟩, ⟨31, 16, .rw, 256⟩, ⟨15, 0, .rw, 256⟩]⟩
  | .lnkPortArb => ⟨0x201030, [(16, 0x100)], 8, [⟨11, 8, .rw, 1⟩, ⟨7, 4, .rw, 4⟩, ⟨3, 0, .rw, 4⟩]⟩
  | .lnkPortCntTx => ⟨0x201040, [(16, 0x100)], 8, counterFields⟩
  | .lnkPortCntRx => ⟨0x201048, [(16, 0x100)], 8, counterFields⟩
  | .lnkPortCntReplay => ⟨0x201050, [(16, 0x100)], 8, counterFields⟩
  | .lnkPortCntCrc => ⟨0x201058, [(16, 0x100)], 8, counterFields⟩
  | .lnkPortCntFecCe => ⟨0x201060, [(16, 0x100)], 8, counterFields⟩
  | .lnkPortCntFecUe => ⟨0x201068, [(16, 0x100)], 8, counterFields⟩
  | .lnkPortCntCstall => ⟨0x201070, [(16, 0x100)], 8, counterFields⟩
  | .lnkPortCntRstall => ⟨0x201078, [(16, 0x100)], 8, counterFields⟩
  | .lnkPortCntRetrain => ⟨0x201080, [(16, 0x100)], 8, counterFields⟩
  | .redStatus => ⟨0x240000, [], 8, [⟨46, 32, .ro, 0⟩, ⟨7, 0, .ro, 0⟩]⟩
  | .redFlowAddr => ⟨0x240010, [], 8, [⟨18, 16, .rw, 0⟩, ⟨13, 0, .rw, 0⟩]⟩
  | .redFlowData => ⟨0x240018, [], 8, [⟨63, 0, .ro, 0⟩]⟩
  | .redCntAdds => ⟨0x240040, [], 8, counterFields⟩
  | .redCntSat => ⟨0x240048, [], 8, counterFields⟩
  | .redCntPoison => ⟨0x240050, [], 8, counterFields⟩
  | .redCntRounds => ⟨0x240058, [], 8, counterFields⟩
  | .redCntGappoison => ⟨0x240060, [], 8, counterFields⟩
  | .redNorm => ⟨0x241000, [(64, 0x10)], 8, [⟨63, 0, .ro, 0⟩]⟩
  | .redNstep => ⟨0x241008, [(64, 0x10)], 8, [⟨63, 63, .ro, 0⟩, ⟨62, 0, .ro, 0⟩]⟩
  | .memFault => ⟨0x400000, [], 8, [⟨63, 48, .ro, 0⟩, ⟨39, 36, .ro, 0⟩, ⟨35, 33, .ro, 0⟩, ⟨21, 16, .ro, 0⟩, ⟨8, 8, .w1c, 0⟩, ⟨3, 0, .ro, 0⟩]⟩
  | .memFaultAddr => ⟨0x400008, [], 8, [⟨63, 0, .ro, 0⟩]⟩
  | .memXlatAddr => ⟨0x400010, [], 8, [⟨63, 16, .rw, 0⟩]⟩
  | .memXlatData => ⟨0x400018, [], 8, [⟨63, 61, .ro, 0⟩, ⟨60, 58, .ro, 0⟩, ⟨57, 54, .ro, 0⟩, ⟨53, 52, .ro, 0⟩, ⟨51, 51, .ro, 0⟩, ⟨50, 50, .ro, 0⟩, ⟨49, 47, .ro, 0⟩, ⟨46, 46, .ro, 0⟩, ⟨35, 32, .ro, 0⟩, ⟨31, 0, .ro, 0⟩]⟩
  | .memCntTmiss => ⟨0x400040, [], 8, counterFields⟩
  | .memCntDenied => ⟨0x400048, [], 8, counterFields⟩
  | .memCntSramCe => ⟨0x400050, [], 8, counterFields⟩
  | .memCntSramUe => ⟨0x400058, [], 8, counterFields⟩
  | .memUcap => ⟨0x400100, [(11, 0x10)], 8, [⟨63, 32, .ro, 0⟩, ⟨31, 0, .ro, 0⟩]⟩
  | .memUfree => ⟨0x400108, [(11, 0x10)], 8, [⟨31, 0, .ro, 0⟩]⟩
  | .memQuota => ⟨0x400200, [(8, 0x40), (4, 8)], 8, [⟨31, 0, .ro, 0⟩]⟩
  | .memUse => ⟨0x400400, [(8, 0x80), (11, 8)], 8, [⟨63, 32, .ro, 0⟩, ⟨31, 0, .ro, 0⟩]⟩
  | .hbmStatus => ⟨0x410000, [(8, 0x1000)], 8, [⟨11, 4, .ro, 0⟩, ⟨3, 3, .ro, 0⟩, ⟨2, 2, .ro, 0⟩, ⟨1, 1, .ro, 0⟩, ⟨0, 0, .ro, 0⟩]⟩
  | .hbmSpare => ⟨0x410008, [(8, 0x1000)], 8, [⟨63, 32, .ro, 15606⟩, ⟨19, 0, .ro, 524288⟩]⟩
  | .hbmFault => ⟨0x410010, [(8, 0x1000)], 8, [⟨63, 63, .w1c, 0⟩, ⟨62, 61, .ro, 0⟩, ⟨60, 60, .ro, 0⟩, ⟨59, 54, .ro, 0⟩, ⟨53, 48, .ro, 0⟩, ⟨47, 30, .ro, 0⟩]⟩
  | .hbmCntCe => ⟨0x410040, [(8, 0x1000)], 8, counterFields⟩
  | .hbmCntUe => ⟨0x410048, [(8, 0x1000)], 8, counterFields⟩
  | .hbmCntRemap => ⟨0x410050, [(8, 0x1000)], 8, counterFields⟩
  | .hbmCntRetired => ⟨0x410058, [(8, 0x1000)], 8, counterFields⟩
  | .hbmCntScrub => ⟨0x410060, [(8, 0x1000)], 8, counterFields⟩
  | .migCfg => ⟨0x420000, [], 8, [⟨4, 4, .rw, 1⟩, ⟨3, 0, .rw, 2⟩]⟩
  | .migStatus => ⟨0x420008, [], 8, [⟨20, 16, .ro, 0⟩, ⟨15, 0, .ro, 0⟩]⟩
  | .migCntDown => ⟨0x420040, [], 8, counterFields⟩
  | .migCntUp => ⟨0x420048, [], 8, counterFields⟩
  | .migCntRetire => ⟨0x420050, [], 8, counterFields⟩
  | .migCntZero => ⟨0x420058, [], 8, counterFields⟩
  | .bwrCfg => ⟨0x430000, [(8, 0x100), (16, 0x10)], 8, [⟨63, 63, .rw, 1⟩, ⟨55, 32, .rw, 4096⟩, ⟨15, 0, .rw, 0⟩]⟩
  | .bwrLevel => ⟨0x430008, [(8, 0x100), (16, 0x10)], 8, [⟨29, 0, .ro, 0⟩]⟩
  | .bwrWait => ⟨0x431000, [(8, 0x80), (16, 8)], 8, counterFields⟩
  | .caveStatus => ⟨0x440000, [], 8, [⟨7, 6, .ro, 0⟩, ⟨5, 5, .ro, 0⟩, ⟨4, 4, .ro, 0⟩, ⟨3, 3, .ro, 0⟩]⟩
  | .caveCfg => ⟨0x440008, [], 8, [⟨31, 16, .rw, 50000⟩, ⟨15, 0, .rw, 256⟩]⟩
  | .caveWear => ⟨0x440010, [], 8, [⟨63, 48, .ro, 0⟩, ⟨47, 32, .ro, 0⟩, ⟨31, 16, .ro, 3000⟩, ⟨7, 0, .ro, 0⟩]⟩
  | .caveBlocks => ⟨0x440018, [], 8, [⟨59, 40, .ro, 0⟩, ⟨39, 20, .ro, 0⟩, ⟨19, 0, .ro, 0⟩]⟩
  | .caveCntScrub => ⟨0x440040, [], 8, counterFields⟩
  | .caveCntUe => ⟨0x440048, [], 8, counterFields⟩
  | .caveCntRetry => ⟨0x440050, [], 8, counterFields⟩
  | .caveCntUsergb => ⟨0x440058, [], 8, counterFields⟩
  | .caveCntNandgb => ⟨0x440060, [], 8, counterFields⟩
  | .ripStatus => ⟨0x580000, [(8, 0x10000)], 8, [⟨7, 5, .ro, 0⟩, ⟨4, 4, .ro, 0⟩]⟩
  | .ripFault => ⟨0x580008, [(8, 0x10000)], 8, [⟨63, 48, .ro, 0⟩, ⟨47, 16, .ro, 0⟩, ⟨15, 13, .ro, 0⟩, ⟨8, 8, .w1c, 0⟩, ⟨1, 0, .ro, 0⟩]⟩
  | .ripCntParams => ⟨0x580040, [(8, 0x10000)], 8, counterFields⟩
  | .ripCntWaitred => ⟨0x580048, [(8, 0x10000)], 8, counterFields⟩
  | .ripCntSnapwait => ⟨0x580050, [(8, 0x10000)], 8, counterFields⟩
  | .ripCntRemote => ⟨0x580058, [(8, 0x10000)], 8, counterFields⟩
  | .ripCntHold => ⟨0x580060, [(8, 0x10000)], 8, counterFields⟩
  | .ripCntSat => ⟨0x580068, [(8, 0x10000)], 8, counterFields⟩
  | .ripCntFlush => ⟨0x580070, [(8, 0x10000)], 8, counterFields⟩
  | .ripCntNan => ⟨0x580078, [(8, 0x10000)], 8, counterFields⟩
  | .ripCtx => ⟨0x580100, [(8, 0x10000), (8, 0x20)], 8, [⟨63, 32, .ro, 0⟩, ⟨18, 16, .ro, 0⟩, ⟨11, 0, .ro, 0⟩]⟩
  | .ripStep => ⟨0x580108, [(8, 0x10000), (8, 0x20)], 8, [⟨63, 0, .ro, 0⟩]⟩
  | .ripProg => ⟨0x580110, [(8, 0x10000), (8, 0x20)], 8, [⟨31, 0, .ro, 0⟩]⟩
  | .coreId => ⟨0x1000000, [(2, 0x800000), (32, 0x20000)], 8, [⟨23, 23, .ro, 0⟩, ⟨22, 20, .ro, 0⟩, ⟨19, 14, .ro, 0⟩, ⟨13, 10, .ro, 0⟩, ⟨5, 5, .ro, 0⟩, ⟨4, 0, .ro, 0⟩]⟩
  | .coreState => ⟨0x1000008, [(2, 0x800000), (32, 0x20000)], 8, [⟨4, 4, .w1c, 0⟩, ⟨3, 0, .ro, 0⟩]⟩
  | .coreCtrl => ⟨0x1000010, [(2, 0x800000), (32, 0x20000)], 8, [⟨0, 0, .rw, 0⟩]⟩
  | .coreFault => ⟨0x1000018, [(2, 0x800000), (32, 0x20000)], 8, [⟨63, 48, .ro, 0⟩, ⟨47, 0, .ro, 0⟩]⟩
  | .hoopPos => ⟨0x1000800, [(2, 0x800000), (32, 0x20000)], 8, [⟨31, 24, .ro, 0⟩, ⟨23, 16, .ro, 255⟩, ⟨9, 9, .ro, 0⟩, ⟨8, 8, .ro, 0⟩, ⟨0, 0, .ro, 0⟩]⟩
  | .hoopStatus => ⟨0x1000808, [(2, 0x800000), (32, 0x20000)], 8, [⟨40, 32, .ro, 0⟩, ⟨24, 16, .ro, 0⟩, ⟨9, 5, .ro, 0⟩, ⟨4, 0, .ro, 0⟩]⟩
  | .hoopCntIn => ⟨0x1000810, [(2, 0x800000), (32, 0x20000)], 8, counterFields⟩
  | .hoopCntFwd => ⟨0x1000818, [(2, 0x800000), (32, 0x20000)], 8, counterFields⟩
  | .hoopCntRet => ⟨0x1000820, [(2, 0x800000), (32, 0x20000)], 8, counterFields⟩
  | .hoopFwdStall => ⟨0x1000828, [(2, 0x800000), (32, 0x20000)], 8, counterFields⟩
  | .hoopEccCe => ⟨0x1000830, [(2, 0x800000), (32, 0x20000)], 8, counterFields⟩
  | .hoopEccUe => ⟨0x1000838, [(2, 0x800000), (32, 0x20000)], 8, counterFields⟩
  | .hoopFault => ⟨0x1000840, [(2, 0x800000), (32, 0x20000)], 8, [⟨8, 8, .w1c, 0⟩, ⟨3, 3, .ro, 0⟩, ⟨1, 0, .ro, 0⟩]⟩
  | .hoopTagcap => ⟨0x1000848, [(2, 0x800000), (32, 0x20000), (4, 8)], 8, [⟨63, 0, .ro, 0⟩]⟩
  | .arrStatus => ⟨0x1001000, [(2, 0x800000), (32, 0x20000), (2, 0x400)], 8, [⟨47, 40, .ro, 0⟩, ⟨39, 32, .ro, 0⟩, ⟨31, 31, .ro, 0⟩, ⟨30, 30, .ro, 0⟩, ⟨29, 29, .ro, 0⟩, ⟨28, 28, .ro, 0⟩, ⟨22, 16, .ro, 0⟩, ⟨6, 0, .ro, 0⟩]⟩
  | .arrFuse => ⟨0x1001008, [(2, 0x800000), (32, 0x20000), (2, 0x400)], 8, [⟨32, 32, .ro, 0⟩, ⟨31, 24, .ro, 0⟩, ⟨23, 16, .ro, 0⟩, ⟨15, 8, .ro, 0⟩, ⟨7, 0, .ro, 0⟩]⟩
  | .arrFault => ⟨0x1001010, [(2, 0x800000), (32, 0x20000), (2, 0x400)], 8, [⟨27, 17, .ro, 0⟩, ⟨16, 9, .ro, 0⟩, ⟨8, 8, .w1c, 0⟩, ⟨3, 0, .ro, 0⟩]⟩
  | .arrCntVec => ⟨0x1001040, [(2, 0x800000), (32, 0x20000), (2, 0x400)], 8, counterFields⟩
  | .arrCntNull => ⟨0x1001048, [(2, 0x800000), (32, 0x20000), (2, 0x400)], 8, counterFields⟩
  | .arrCntPress => ⟨0x1001050, [(2, 0x800000), (32, 0x20000), (2, 0x400)], 8, counterFields⟩
  | .arrDry => ⟨0x1001058, [(2, 0x800000), (32, 0x20000), (2, 0x400)], 8, counterFields⟩
  | .arrDrainFull => ⟨0x1001060, [(2, 0x800000), (32, 0x20000), (2, 0x400)], 8, counterFields⟩
  | .arrCntWindow => ⟨0x1001068, [(2, 0x800000), (32, 0x20000), (2, 0x400)], 8, counterFields⟩
  | .ldlStatus => ⟨0x1001800, [(2, 0x800000), (32, 0x20000)], 8, [⟨37, 17, .ro, 0⟩, ⟨16, 16, .ro, 0⟩, ⟨4, 4, .ro, 0⟩, ⟨2, 0, .ro, 0⟩]⟩
  | .ldlFault => ⟨0x1001808, [(2, 0x800000), (32, 0x20000)], 8, [⟨8, 8, .w1c, 0⟩, ⟨1, 0, .ro, 0⟩]⟩
  | .ldlCntUnits => ⟨0x1001840, [(2, 0x800000), (32, 0x20000)], 8, counterFields⟩
  | .ldlCntSlots => ⟨0x1001848, [(2, 0x800000), (32, 0x20000)], 8, counterFields⟩
  | .ldlCntWindow => ⟨0x1001850, [(2, 0x800000), (32, 0x20000)], 8, counterFields⟩
  | .seqStatus => ⟨0x1002000, [(2, 0x800000), (32, 0x20000)], 8, [⟨31, 28, .ro, 0⟩, ⟨27, 24, .ro, 0⟩, ⟨23, 20, .ro, 15⟩, ⟨19, 19, .ro, 0⟩, ⟨18, 18, .ro, 0⟩, ⟨17, 17, .ro, 0⟩, ⟨16, 16, .ro, 0⟩]⟩
  | .seqCfg => ⟨0x1002008, [(2, 0x800000), (32, 0x20000)], 8, [⟨31, 16, .ro, 32⟩, ⟨4, 4, .ro, 0⟩, ⟨3, 3, .ro, 0⟩, ⟨2, 2, .ro, 0⟩, ⟨1, 1, .ro, 0⟩]⟩
  | .seqSbc => ⟨0x1002010, [(2, 0x800000), (32, 0x20000)], 8, [⟨47, 0, .ro, 0⟩]⟩
  | .seqPc => ⟨0x1002018, [(2, 0x800000), (32, 0x20000)], 8, [⟨44, 44, .ro, 0⟩, ⟨43, 32, .ro, 0⟩, ⟨12, 12, .ro, 0⟩, ⟨11, 0, .ro, 0⟩]⟩
  | .seqBank => ⟨0x1002020, [(2, 0x800000), (32, 0x20000)], 8, [⟨31, 16, .ro, 0⟩, ⟨8, 8, .w1c, 0⟩, ⟨7, 6, .ro, 0⟩, ⟨5, 4, .ro, 0⟩, ⟨3, 2, .ro, 0⟩, ⟨1, 0, .ro, 0⟩]⟩
  | .seqFault => ⟨0x1002028, [(2, 0x800000), (32, 0x20000)], 8, [⟨63, 56, .ro, 0⟩, ⟨55, 52, .ro, 0⟩, ⟨47, 36, .ro, 0⟩, ⟨35, 35, .ro, 0⟩, ⟨34, 34, .ro, 0⟩, ⟨15, 8, .ro, 0⟩, ⟨7, 7, .w1c, 0⟩, ⟨3, 0, .ro, 0⟩]⟩
  | .seqHazard => ⟨0x1002030, [(2, 0x800000), (32, 0x20000)], 8, [⟨49, 46, .ro, 0⟩, ⟨45, 42, .ro, 0⟩, ⟨41, 40, .ro, 0⟩, ⟨39, 39, .ro, 0⟩, ⟨38, 26, .ro, 0⟩, ⟨25, 10, .ro, 0⟩, ⟨9, 9, .w1c, 0⟩]⟩
  | .seqPlan => ⟨0x1002038, [(2, 0x800000), (32, 0x20000)], 8, [⟨41, 32, .ro, 0⟩, ⟨14, 0, .ro, 0⟩]⟩
  | .seqStep => ⟨0x1002040, [(2, 0x800000), (32, 0x20000), (2, 8)], 8, [⟨63, 0, .ro, 0⟩]⟩
  | .seqQdepth => ⟨0x1002050, [(2, 0x800000), (32, 0x20000)], 8, [⟨62, 58, .ro, 0⟩, ⟨57, 52, .ro, 0⟩, ⟨51, 46, .ro, 0⟩, ⟨45, 37, .ro, 0⟩, ⟨36, 29, .ro, 0⟩, ⟨28, 22, .ro, 0⟩, ⟨21, 14, .ro, 0⟩, ⟨13, 7, .ro, 0⟩, ⟨6, 0, .ro, 0⟩]⟩
  | .seqDbgAddr => ⟨0x1002060, [(2, 0x800000), (32, 0x20000)], 8, [⟨15, 15, .w1c, 0⟩, ⟨13, 13, .rw, 0⟩, ⟨12, 12, .rw, 0⟩, ⟨11, 0, .rw, 0⟩]⟩
  | .seqDbgData => ⟨0x1002068, [(2, 0x800000), (32, 0x20000)], 8, [⟨63, 0, .wo, 0⟩]⟩
  | .seqFrz => ⟨0x1002080, [(2, 0x800000), (32, 0x20000), (11, 8)], 8, counterFields⟩
  | .seqOrg => ⟨0x1002100, [(2, 0x800000), (32, 0x20000), (5, 8)], 8, counterFields⟩
  | .seqPicks => ⟨0x1002140, [(2, 0x800000), (32, 0x20000), (2, 8)], 8, counterFields⟩
  | .vecRngDef => ⟨0x1003000, [(2, 0x800000), (32, 0x20000)], 8, [⟨8, 8, .rw, 1⟩, ⟨7, 4, .rw, 15⟩, ⟨3, 0, .rw, 2⟩]⟩
  | .vecRngStatus => ⟨0x1003008, [(2, 0x800000), (32, 0x20000)], 8, [⟨32, 32, .w1c, 0⟩, ⟨25, 16, .ro, 0⟩]⟩
  | .vecRngMiss => ⟨0x1003040, [(2, 0x800000), (32, 0x20000)], 8, counterFields⟩
  | .vecRngStale => ⟨0x1003048, [(2, 0x800000), (32, 0x20000)], 8, counterFields⟩
  | .vecCntSr => ⟨0x1003050, [(2, 0x800000), (32, 0x20000)], 8, counterFields⟩
  | .vecCntSat => ⟨0x1003058, [(2, 0x800000), (32, 0x20000)], 8, counterFields⟩
  | .vecCntNan => ⟨0x1003060, [(2, 0x800000), (32, 0x20000)], 8, counterFields⟩
  | .rngWord0 => ⟨0x1010000, [(2, 0x800000), (32, 0x20000), (512, 128)], 8, [⟨63, 63, .ro, 0⟩, ⟨62, 62, .rw, 0⟩, ⟨61, 61, .ro, 0⟩, ⟨60, 60, .ro, 0⟩, ⟨59, 56, .rw, 0⟩, ⟨55, 52, .rw, 0⟩, ⟨51, 48, .ro, 0⟩, ⟨47, 33, .ro, 0⟩]⟩
  | .rngWord1 => ⟨0x1010008, [(2, 0x800000), (32, 0x20000), (512, 128)], 8, [⟨63, 56, .rw, 0⟩, ⟨55, 48, .ro, 0⟩, ⟨47, 0, .ro, 0⟩]⟩
  | .rngRec => ⟨0x1010010, [(2, 0x800000), (32, 0x20000), (512, 128), (9, 8)], 8, [⟨63, 0, .ro, 0⟩]⟩
  | .strStatus => ⟨0x3000000, [(16, 0x10000)], 8, [⟨44, 36, .ro, 0⟩, ⟨35, 27, .ro, 0⟩, ⟨26, 18, .ro, 0⟩, ⟨17, 9, .ro, 0⟩, ⟨8, 0, .ro, 0⟩]⟩
  | .strFault => ⟨0x3000008, [(16, 0x10000)], 8, [⟨63, 48, .ro, 0⟩, ⟨47, 42, .ro, 0⟩, ⟨41, 26, .ro, 0⟩, ⟨8, 8, .w1c, 0⟩, ⟨3, 0, .ro, 0⟩]⟩
  | .strListAddr => ⟨0x3000010, [(16, 0x10000)], 8, [⟨20, 20, .w1c, 0⟩, ⟨19, 18, .rw, 0⟩, ⟨15, 0, .rw, 0⟩]⟩
  | .strListData => ⟨0x3000018, [(16, 0x10000)], 8, [⟨63, 0, .rw, 0⟩]⟩
  | .strCntEntries => ⟨0x3000040, [(16, 0x10000)], 8, counterFields⟩
  | .strCntPoison => ⟨0x3000048, [(16, 0x10000)], 8, counterFields⟩
  | .strCntSmall => ⟨0x3000050, [(16, 0x10000)], 8, counterFields⟩
  | .strCntScans => ⟨0x3000058, [(16, 0x10000)], 8, counterFields⟩
  | .strCtx => ⟨0x3000400, [(16, 0x10000), (64, 0x20)], 8, [⟨63, 48, .ro, 0⟩, ⟨47, 32, .ro, 0⟩, ⟨31, 22, .ro, 0⟩, ⟨21, 18, .ro, 0⟩, ⟨3, 3, .ro, 0⟩, ⟨2, 0, .ro, 0⟩]⟩
  | .strArm => ⟨0x3000408, [(16, 0x10000), (64, 0x20)], 8, [⟨58, 58, .ro, 0⟩, ⟨57, 52, .ro, 0⟩, ⟨51, 36, .ro, 0⟩, ⟨26, 26, .ro, 0⟩, ⟨25, 10, .ro, 0⟩, ⟨9, 0, .ro, 0⟩]⟩
  | .strWait => ⟨0x3000410, [(16, 0x10000), (64, 0x20)], 8, [⟨63, 63, .ro, 0⟩, ⟨62, 62, .ro, 0⟩, ⟨61, 60, .ro, 0⟩, ⟨59, 54, .ro, 0⟩, ⟨53, 46, .ro, 0⟩, ⟨45, 30, .ro, 0⟩, ⟨29, 16, .ro, 0⟩]⟩
  | .hrpStatus => ⟨0x3004000, [(16, 0x10000)], 8, [⟨33, 28, .ro, 0⟩, ⟨27, 22, .ro, 0⟩, ⟨21, 16, .ro, 0⟩, ⟨15, 10, .ro, 0⟩, ⟨9, 9, .ro, 0⟩, ⟨8, 7, .ro, 0⟩, ⟨6, 4, .ro, 0⟩, ⟨3, 2, .ro, 0⟩]⟩
  | .hrpSideAddr => ⟨0x3004010, [(16, 0x10000)], 8, [⟨20, 20, .w1c, 0⟩, ⟨19, 18, .rw, 0⟩, ⟨16, 0, .rw, 0⟩]⟩
  | .hrpSideData => ⟨0x3004018, [(16, 0x10000)], 8, [⟨63, 0, .rw, 0⟩]⟩
  | .hrpCntOps => ⟨0x3004040, [(16, 0x10000)], 8, counterFields⟩
  | .hrpBusy => ⟨0x3004048, [(16, 0x10000)], 8, counterFields⟩
  | .hrpWait => ⟨0x3004050, [(16, 0x10000)], 8, counterFields⟩
  | .hrpCntElems => ⟨0x3004058, [(16, 0x10000)], 8, counterFields⟩
  | .hrpCntSat => ⟨0x3004060, [(16, 0x10000)], 8, counterFields⟩
  | .hrpCntFlush => ⟨0x3004068, [(16, 0x10000)], 8, counterFields⟩
  | .hrpCntNan => ⟨0x3004070, [(16, 0x10000)], 8, counterFields⟩
  | .hrpCntInf => ⟨0x3004078, [(16, 0x10000)], 8, counterFields⟩
  | .hrpCntPoison => ⟨0x3004080, [(16, 0x10000)], 8, counterFields⟩
  | .hrpCntLimit => ⟨0x3004088, [(16, 0x10000)], 8, counterFields⟩
  | .hrpCntRankdef => ⟨0x3004090, [(16, 0x10000)], 8, counterFields⟩

/-- Register names, part 0. -/
def regNames0 : List RegName :=
  [.hubId, .hubState, .hubReset, .hubAlert, .featCores, .featHoop, .featArray, .featSram, .featMem, .featFormats, .featLink, .featGen, .hubHoopCfg, .hubArc, .paceCfg, .paceBound, .paceMiss, .paceLate, .hifCfg, .hifWin, .hifErr, .mbxOwn, .ctxInbox, .clkStatus]

/-- Register names, part 1. -/
def regNames1 : List RegName :=
  [.clkStep, .clkCntChanges, .clkRegion, .clkStretch, .clkTick, .nrgCfg, .nrgModel, .nrgStatus, .nrgEmerg, .nrgWear, .nrgTriplog, .nrgIdle, .nrgCntPlans, .nrgCntHold, .nrgCntOverburst, .nrgCntEmerg, .nrgRail, .nrgCtx, .nrgShare, .secStatus, .secLast, .secBindAddr, .secBindData, .secCntAuthfail]

/-- Register names, part 2. -/
def regNames2 : List RegName :=
  [.secCntReplay, .secCntExhaust, .secDbgNonce, .evtAddr, .evtData, .evtPtr, .ctxStatus, .ctxFault, .taintFirst, .taintLast, .taintCnt, .rindTrig, .rindCfg, .rindStat, .rindArm, .rindStep, .lnkCfg, .lnkStatus, .lnkDrop, .lnkFlowAddr, .lnkFlowData, .lnkFwdAddr, .lnkFwdData, .lnkCntFwd]

/-- Register names, part 3. -/
def regNames3 : List RegName :=
  [.lnkCntRxf, .lnkCntTxf, .lnkCntDrop, .lnkCntGap, .lnkPortCtrl, .lnkPortCfg, .lnkPortStatus, .lnkPortPeer, .lnkPortCred0, .lnkPortCred1, .lnkPortArb, .lnkPortCntTx, .lnkPortCntRx, .lnkPortCntReplay, .lnkPortCntCrc, .lnkPortCntFecCe, .lnkPortCntFecUe, .lnkPortCntCstall, .lnkPortCntRstall, .lnkPortCntRetrain, .redStatus, .redFlowAddr, .redFlowData, .redCntAdds]

/-- Register names, part 4. -/
def regNames4 : List RegName :=
  [.redCntSat, .redCntPoison, .redCntRounds, .redCntGappoison, .redNorm, .redNstep, .memFault, .memFaultAddr, .memXlatAddr, .memXlatData, .memCntTmiss, .memCntDenied, .memCntSramCe, .memCntSramUe, .memUcap, .memUfree, .memQuota, .memUse, .hbmStatus, .hbmSpare, .hbmFault, .hbmCntCe, .hbmCntUe, .hbmCntRemap]

/-- Register names, part 5. -/
def regNames5 : List RegName :=
  [.hbmCntRetired, .hbmCntScrub, .migCfg, .migStatus, .migCntDown, .migCntUp, .migCntRetire, .migCntZero, .bwrCfg, .bwrLevel, .bwrWait, .caveStatus, .caveCfg, .caveWear, .caveBlocks, .caveCntScrub, .caveCntUe, .caveCntRetry, .caveCntUsergb, .caveCntNandgb, .ripStatus, .ripFault, .ripCntParams, .ripCntWaitred]

/-- Register names, part 6. -/
def regNames6 : List RegName :=
  [.ripCntSnapwait, .ripCntRemote, .ripCntHold, .ripCntSat, .ripCntFlush, .ripCntNan, .ripCtx, .ripStep, .ripProg, .coreId, .coreState, .coreCtrl, .coreFault, .hoopPos, .hoopStatus, .hoopCntIn, .hoopCntFwd, .hoopCntRet, .hoopFwdStall, .hoopEccCe, .hoopEccUe, .hoopFault, .hoopTagcap, .arrStatus]

/-- Register names, part 7. -/
def regNames7 : List RegName :=
  [.arrFuse, .arrFault, .arrCntVec, .arrCntNull, .arrCntPress, .arrDry, .arrDrainFull, .arrCntWindow, .ldlStatus, .ldlFault, .ldlCntUnits, .ldlCntSlots, .ldlCntWindow, .seqStatus, .seqCfg, .seqSbc, .seqPc, .seqBank, .seqFault, .seqHazard, .seqPlan, .seqStep, .seqQdepth, .seqDbgAddr]

/-- Register names, part 8. -/
def regNames8 : List RegName :=
  [.seqDbgData, .seqFrz, .seqOrg, .seqPicks, .vecRngDef, .vecRngStatus, .vecRngMiss, .vecRngStale, .vecCntSr, .vecCntSat, .vecCntNan, .rngWord0, .rngWord1, .rngRec, .strStatus, .strFault, .strListAddr, .strListData, .strCntEntries, .strCntPoison, .strCntSmall, .strCntScans, .strCtx, .strArm]

/-- Register names, part 9. -/
def regNames9 : List RegName :=
  [.strWait, .hrpStatus, .hrpSideAddr, .hrpSideData, .hrpCntOps, .hrpBusy, .hrpWait, .hrpCntElems, .hrpCntSat, .hrpCntFlush, .hrpCntNan, .hrpCntInf, .hrpCntPoison, .hrpCntLimit, .hrpCntRankdef]

/-- Every register name, in the order of the register map. -/
def regNames : List RegName :=
  regNames0 ++ regNames1 ++ regNames2 ++ regNames3 ++ regNames4 ++ regNames5 ++ regNames6 ++ regNames7 ++ regNames8 ++ regNames9

/-- Mask of bits `[hi:lo]` of a 64-bit word. -/
def bitMask (hi lo : Nat) : BitVec 64 := BitVec.ofNat 64 ((2 ^ (hi + 1 - lo) - 1) * 2 ^ lo)

/-- Bits of a register whose access code satisfies `p`. -/
def accMask (p : Access → Bool) (fs : List Field) : BitVec 64 :=
  fs.foldl (fun m f => if p f.acc then m ||| bitMask f.hi f.lo else m) 0

/-- The reset value the manual's table gives. -/
def regReset (n : RegName) : BitVec 64 :=
  (regRow n).fields.foldl (fun m f => m ||| BitVec.ofNat 64 (f.reset * 2 ^ f.lo)) 0

/-- The index offsets of an instance added to a base. -/
def regOffset : List (Nat × Nat) → List Nat → Nat
  | (_, st) :: ds, i :: is => st * i + regOffset ds is
  | _, _ => 0

/-- The BAR0 address of a register instance. -/
def regAddr (n : RegName) (idx : List Nat) : Nat := (regRow n).base + regOffset (regRow n).dims idx

/-- The indices that an offset from the base selects, if it is the offset of an instance exactly. -/
def regIndex : List (Nat × Nat) → Nat → Option (List Nat)
  | [], 0 => some []
  | [], _ => none
  | (n, st) :: ds, off =>
    let i := off / st
    if ds.isEmpty then (if off % st = 0 ∧ i < n then some [i] else none)
    else if i < n then (regIndex ds (off % st)).map (i :: ·) else none

/-- The register instance at a BAR0 address, found in the register map. -/
def regAt (a : Nat) : Option (RegName × List Nat) :=
  regNames.findSome? fun n =>
    if (regRow n).base ≤ a then (regIndex (regRow n).dims (a - (regRow n).base)).map (n, ·) else none

end Sys2Proof.Machine
end

