-- ==== Sys2Proof/Machine/Store.lean ====
section
/-!
DEFINITION. The two stores of the model, both plain lists: `AMap`, a finite map with a default for what it does not
list, and `Mem`, bytes at addresses in one canonical form (addresses strictly rising, no entry equal to what an
unlisted address reads as).
-/
namespace Sys2Proof.Machine

/-- A finite map as a list of key and value pairs; the first pair of a key counts. -/
abbrev AMap (κ α : Type) := List (κ × α)

/-- The value of a key, if the map lists it. -/
def AMap.find? {κ α : Type} [DecidableEq κ] : AMap κ α → κ → Option α
  | [], _ => none
  | (k', v) :: r, k => if k' = k then some v else AMap.find? r k

/-- The value of a key, or the default. -/
def AMap.get {κ α : Type} [DecidableEq κ] (m : AMap κ α) (d : α) (k : κ) : α := (AMap.find? m k).getD d

/-- Give a key a value, in place. -/
def AMap.set {κ α : Type} [DecidableEq κ] : AMap κ α → κ → α → AMap κ α
  | [], k, v => [(k, v)]
  | (k', v') :: r, k, v => if k' = k then (k, v) :: r else (k', v') :: AMap.set r k v

/-- Remove every pair of a key. -/
def AMap.erase {κ α : Type} [DecidableEq κ] (m : AMap κ α) (k : κ) : AMap κ α := m.filter fun p => decide (p.1 ≠ k)

theorem AMap.find?_set_self {κ α : Type} [DecidableEq κ] (m : AMap κ α) (k : κ) (v : α) :
    AMap.find? (AMap.set m k v) k = some v := by
  induction m with
  | nil => simp [AMap.set, AMap.find?]
  | cons p r ih =>
    obtain ⟨k', v'⟩ := p
    by_cases h : k' = k <;> simp [AMap.set, AMap.find?, h, ih]

theorem AMap.find?_set_ne {κ α : Type} [DecidableEq κ] (m : AMap κ α) {k j : κ} (v : α) (h : j ≠ k) :
    AMap.find? (AMap.set m k v) j = AMap.find? m j := by
  induction m with
  | nil => simp [AMap.set, AMap.find?, Ne.symm h]
  | cons p r ih =>
    obtain ⟨k', v'⟩ := p
    by_cases hk : k' = k
    · subst hk; simp [AMap.set, AMap.find?, Ne.symm h]
    · by_cases hj : k' = j
      · subst hj; simp [AMap.set, AMap.find?, hk]
      · simp [AMap.set, AMap.find?, hk, hj, ih]

@[simp] theorem AMap.get_set_self {κ α : Type} [DecidableEq κ] (m : AMap κ α) (d : α) (k : κ) (v : α) :
    AMap.get (AMap.set m k v) d k = v := by
  simp [AMap.get, AMap.find?_set_self]

theorem AMap.get_set_ne {κ α : Type} [DecidableEq κ] (m : AMap κ α) (d : α) {k j : κ} (v : α) (h : j ≠ k) :
    AMap.get (AMap.set m k v) d j = AMap.get m d j := by
  simp [AMap.get, AMap.find?_set_ne m v h]

/-! ### Bytes at addresses -/

/-- Bytes at addresses (`Host.Cell`), sorted by address. -/
abbrev Mem := List Host.Cell

/-- What an address that the memory does not list reads as (assumption log 6). -/
def Mem.blank : Byte := 0

/-- Read one byte. -/
def Mem.read : Mem → Nat → Byte
  | [], _ => Mem.blank
  | (b, v) :: r, a => if b = a then v else Mem.read r a

/-- Write one byte, keeping the canonical form. -/
def Mem.write : Mem → Nat → Byte → Mem
  | [], a, v => if v = Mem.blank then [] else [(a, v)]
  | (b, w) :: r, a, v =>
    if b = a then (if v = Mem.blank then r else (a, v) :: r)
    else if a < b then (if v = Mem.blank then (b, w) :: r else (a, v) :: (b, w) :: r)
    else (b, w) :: Mem.write r a v

/-- Every address of the memory is above the bound, they rise strictly, and no entry is blank. -/
def Mem.wfFrom : Option Nat → Mem → Bool
  | _, [] => true
  | lo, (a, v) :: r =>
    (match lo with | none => true | some b => decide (b < a)) && decide (v ≠ Mem.blank) && Mem.wfFrom (some a) r

/-- The canonical form. -/
def Mem.wf (m : Mem) : Bool := Mem.wfFrom none m

/-- Read `n` consecutive bytes. -/
def Mem.readN (m : Mem) (a : Nat) : Nat → List Byte
  | 0 => []
  | n + 1 => Mem.read m a :: Mem.readN m (a + 1) n

/-- Write consecutive bytes. -/
def Mem.writeN : Mem → Nat → List Byte → Mem
  | m, _, [] => m
  | m, a, b :: bs => Mem.writeN (Mem.write m a b) (a + 1) bs

/-- A little-endian number from bytes. -/
def leNat : List Byte → Nat
  | [] => 0
  | b :: bs => b.toNat + 256 * leNat bs

/-- The `n` low bytes of a number, little-endian. -/
def leBytes : Nat → Nat → List Byte
  | 0, _ => []
  | n + 1, v => BitVec.ofNat 8 v :: leBytes n (v / 256)

/-- Read `n` bytes as a little-endian number. -/
def Mem.readLE (m : Mem) (a n : Nat) : Nat := leNat (Mem.readN m a n)

/-- Write a number as `n` little-endian bytes. -/
def Mem.writeLE (m : Mem) (a n v : Nat) : Mem := Mem.writeN m a (leBytes n v)

/-- Remove every listed byte of `[a, a + n)`, so that each reads blank. -/
def Mem.clearRange (m : Mem) (a n : Nat) : Mem := m.filter fun p => decide (p.1 < a ∨ a + n ≤ p.1)

/-- The listed bytes of `[a, a + n)`, by offset from `a`. -/
def Mem.slice (m : Mem) (a n : Nat) : Mem :=
  (m.filter fun p => decide (a ≤ p.1 ∧ p.1 < a + n)).map fun p => (p.1 - a, p.2)

/-- Write a list of cells, offset by `a`. -/
def Mem.writeCells (m : Mem) (a : Nat) : Mem → Mem
  | [] => m
  | (o, v) :: r => Mem.writeCells (Mem.write m (a + o) v) a r

/-- Copy `n` bytes from one memory to another (or to a place in the same one), whatever they hold. -/
def Mem.copyInto (dst src : Mem) (d a n : Nat) : Mem := Mem.writeCells (Mem.clearRange dst d n) d (Mem.slice src a n)

/-! ### Sorted sets of numbers (poisoned sectors) -/

/-- Insert into a strictly rising list. -/
def insertNat : List Nat → Nat → List Nat
  | [], a => [a]
  | b :: r, a => if a = b then b :: r else if a < b then a :: b :: r else b :: insertNat r a

/-- Remove a number. -/
def removeNat (l : List Nat) (a : Nat) : List Nat := l.filter fun b => decide (b ≠ a)

/-- Remove every number of `[a, b)`. -/
def removeNats (l : List Nat) (a b : Nat) : List Nat := l.filter fun x => decide (x < a ∨ b ≤ x)

end Sys2Proof.Machine
end

