-- ==== Sys2Proof/Machine/State.lean ====
section
/-!
DEFINITION. The state of the module as plain data: everything the manual gives it, unit by unit, and the queue of the
commands that wait. Volatile state is in `Dev`; what survives a module reset (R295) is in `Nv`, the memory and the
host's side.
-/
namespace Sys2Proof.Machine

/-! ### Resolved operands of a core's commands -/

/-- A resolved memory descriptor (KIND 1): the space, the address of vector 0, the stride and the ladle anchor. -/
structure MemRef where
  clm : Bool
  base : Nat
  stride : Nat
  anchor : Int := 0
  deriving DecidableEq, Repr

/-- A resolved tag descriptor (KIND 2). -/
structure TagRef where
  tensor : Nat
  row : Nat
  col : Nat
  fmt : Nat
  pchk : Bool
  deriving DecidableEq, Repr

/-- A resolved key descriptor (KIND 3): element index of lane 0 of vector 0, and the step between vectors. -/
structure KeyRef where
  tensor : Nat
  base : Nat
  stride : Nat
  deriving DecidableEq, Repr

/-- A resolved row descriptor (KIND 4). -/
structure RowRef where
  base : Nat
  estride : Nat
  len : Nat
  fmt : Fmt
  rows : Nat
  stat : Nat
  qpos : Nat
  qq : Nat
  causal : Bool
  eps : Nat
  oscale : Int
  deriving DecidableEq, Repr

/-- Source of an array operation or of an INJECT: a memory descriptor, or index 0xFF (tile buffer, injection port). -/
inductive Src where
  | special
  | mem (m : MemRef)
  deriving DecidableEq, Repr

/-- The modes of MULX. -/
inductive MulMode | start | add | addEmit
  deriving DecidableEq, Repr

/-- Destination of a DRAIN. -/
inductive DrainDst where
  | mem (m : MemRef)
  | vreg (first : Nat)
  deriving DecidableEq, Repr

/-- Lane views of the vector unit (TYPE). -/
inductive Lanes | fp32 | bf16 | fp16 | int32
  deriving DecidableEq, Repr

/-- The lane-wise and tree operations of the vector unit. -/
inductive VOp | add | sub | mul | fma | max | min | exp2 | log2 | rcp | rsq | sel | reds | redm
  deriving DecidableEq, Repr

/-- A ladle operation, resolved. -/
structure LdlCmd where
  acc : Bool
  w : MemRef
  rows : Nat
  chunks : Nat
  x : Nat
  vd : Nat
  rate : Nat
  emit : Bool
  lfmt : Nat
  deriving DecidableEq, Repr

/-- A harp command as the sequencer hands it over (R123). -/
structure HarpCmd where
  op : Nat
  mode : Nat
  d1 : RowRef
  d2 : Option RowRef
  r : Nat
  key : Option KeyRef
  flag : Nat
  deriving DecidableEq, Repr

/-- An INJECT or TURN, resolved. -/
structure InjCmd where
  turn : Bool
  src : Src
  tag : TagRef
  hops : Nat
  dir : Dir
  frozen : Bool
  par : Bool
  scaleExp : Nat
  deriving DecidableEq, Repr

/-- A decoded boundary, marker or engine command with its operands resolved at decode (R56). -/
inductive Cmd where
  | nop | loop | lend | bank
  | gateArrive (dir : Dir) (turn early : Bool) (tag : TagRef)
  | gateStream (stream tgt : Nat)
  | gateArray (side : Side) (level : Bool) (val : Nat)
  | gateBarrier (flag : Bool) (id tgt : Nat)
  | gateTime
  | mark | halt
  | press (src : Src) (t : Bool) (fmt : Fmt) (frozen : Bool)
  | mul (src : Src) (n : Nat) (fmt : Fmt) (cols : Bool) (anchor : Int)
  | mulx (src : Src) (n : Nat) (fmt : Fmt) (cols : Bool) (anchor : Int) (wbase : Nat) (mode : MulMode)
  | drain (dst : DrainDst) (n : Nat) (ofmt : Fmt) (oscale : Int) (sr : Bool) (key : KeyRef)
  | skipdw (on : Bool)
  | vec (op : VOp) (vd va vb vc : Nat) (ty : Lanes)
  | vcvt (vd va : Nat) (fmt : Fmt) (back : Bool) (sr : Bool) (oscale : Int) (key : KeyRef)
  | vld (v : Nat) (m : MemRef)
  | vst (v : Nat) (m : MemRef)
  | ladle (l : LdlCmd)
  | inject (i : InjCmd)
  | recv (dir : Dir) (turn : Bool) (dest : Nat) (m : Option MemRef)
  | pass (dir : Dir) (n : Nat)
  | retire (dir : Dir) (tensor : Nat)
  | arm (stream entry n : Nat)
  | waitst (stream on tgt : Nat)
  | harp (h : HarpCmd)
  | bar (id : Nat) (arc : Bool)
  | flag (f : Nat)
  | rind
  deriving DecidableEq, Repr

/-- A deposited command: its start beat, its stream and that stream's step count, and the instruction behind it. -/
structure QEntry where
  cmd : Cmd
  start : Nat
  stream : StreamSel
  step : BitVec 64
  opcode : Nat
  engine : Nat
  pc : Nat
  bank : Nat
  deriving DecidableEq, Repr

/-! ### The hoop -/

/-- A tile tag (the table of the tile tag layout). -/
structure Tag where
  tensor : Nat
  row : Nat
  col : Nat
  fmt : Nat
  parity : Bool
  frozen : Bool
  poison : Bool
  scaleExp : Nat
  hops : Nat
  check : Nat
  rsv : Nat := 0
  deriving DecidableEq, Repr

/-- A tile: tag, payload with scale bytes, and the poisoned 32-byte sectors of the payload. -/
structure Tile where
  tag : Tag
  data : List Byte
  bad : List Nat
  deriving DecidableEq, Repr

/-- A tile in a tile buffer: when its first flit came, how many array consumers it waits for, and the beat that frees it. -/
structure TBuf where
  uid : Nat
  tile : Tile
  since : Nat
  named : Bool
  users : Nat
  freeAt : Nat
  deriving DecidableEq, Repr

/-- A tile between positions: the position it reaches next, its direction, whether it waits in the elastic buffer, and whether a
RETIRE has named the turning set that it belongs to (R32). -/
structure Air where
  pos : Nat
  dir : Dir
  tile : Tile
  ctx : Nat
  origin : Nat
  readyAt : Nat
  stalled : Bool
  retire : Bool := false
  deriving DecidableEq, Repr

/-- The hoop interface of one core. -/
structure HoopS where
  cw : List TBuf := []
  ccw : List TBuf := []
  turnCw : List TBuf := []
  turnCcw : List TBuf := []
  passCw : Nat := 0
  passCcw : Nat := 0
  busyCw : Nat := 0
  busyCcw : Nat := 0
  heldCw : Nat := 0
  heldCcw : Nat := 0
  uid : Nat := 0
  deriving DecidableEq, Repr

/-! ### Arrays and ladle -/

/-- One element of an exact or FP32 sum with its marks: the exact sum in units of `2 ^ -160`, the FP32 code, NAN, PINF,
NINF (R107), OVR and dropped blocks (R46). -/
structure Lane where
  sum : Int := 0
  fp : Nat := 0
  nan : Bool := false
  pinf : Bool := false
  ninf : Bool := false
  ovr : Bool := false
  dropped : Bool := false
  deriving DecidableEq, Repr

/-- A whey entry that is not free (R305). -/
structure Whey where
  fp : Bool
  terms : Nat
  lanes : List Lane
  poison : Bool
  deriving DecidableEq, Repr

/-- A vector that its whey entry refuses (R45, R47): the fault that it raises there, the entry, and the step. -/
structure WheyBad where
  code : Nat
  cause : Nat
  entry : Nat
  step : BitVec 64
  deriving DecidableEq, Repr

/-- What the row feeders of a moving vector wait for: the first row whose element it holds, its word of local SRAM (none: a flit
of a tile), and the period from which it is there, once that is known. -/
structure Feed where
  row : Nat
  word : Option Nat
  data : Option Nat
  deriving DecidableEq, Repr

/-- A vector that an array has injected: its operation, the period of its injection, what its feeders wait for, and, less the row
skew, the periods in which its elements enter the array: from each row of a list on (`enter`), for the rows below `upto`. The
press lane keeps it out before `lane`. Then the period in which it is at the drains once that is known, the fill latency and the
interval of its pair, the presses before it, and whether it leaves for the drains or ends in the whey. -/
structure OutVec where
  op : Nat
  since : Nat
  feeds : List Feed
  enter : List (Nat × Nat) := []
  upto : Nat := 0
  lane : Nat := 0
  ready : Option Nat
  lat : Nat
  gap : Nat
  gen : Nat
  out : Bool
  fp : Bool
  lanes : List Lane
  null : Bool
  poison : Bool
  bad : Option WheyBad
  deriving DecidableEq, Repr

/-- The stationary block most recently pressed. -/
structure Stat where
  fmt : Fmt
  rows : List (List Byte)
  t : Bool
  frozen : Bool
  poison : Bool
  deriving DecidableEq, Repr

/-- A tile handed over to an array by RECV, with the beat of the RECV. -/
structure Handed where
  uid : Nat
  dir : Dir
  turn : Bool
  tile : Tile
  since : Nat
  beat : Nat
  deriving DecidableEq, Repr

/-- The MUL or MULX whose vectors the injector injects: the next vector, and whether it runs as a null operation (R49). -/
structure ArrJob where
  entry : QEntry
  opnum : Nat
  next : Nat
  null : Bool
  deriving DecidableEq, Repr

/-- The PRESS that is shifting, with its source in local SRAM. -/
structure PressJob where
  entry : QEntry
  mem : Option MemRef
  deriving DecidableEq, Repr

/-- The DRAIN in progress: what it converts to, the applied correction and whether its key has found a range entry, and the place
of its next vector. -/
structure DrainJob where
  entry : QEntry
  dst : DrainDst
  n : Nat
  fmt : Fmt
  oscale : Int
  sr : Bool
  key : KeyRef
  cor : Int
  hit : Bool
  next : Nat
  deriving DecidableEq, Repr

/-- A MUL or MULX that has started, and whether its last vector has been injected. -/
structure OpRec where
  num : Nat
  ended : Bool
  deriving DecidableEq, Repr

/-- One array: the stationary block, the presses so far, the skip state, the beat of the last press, the beat from which the
injector is free and whether its last command was a press, the beat from which the drain unit is free, the operation numbers
issued and completed, the tiles handed over, the commands in progress, the vectors in flight and in the drains, and the whey. -/
structure ArrayS where
  stat : Option Stat := none
  gen : Nat := 0
  skip : Bool := false
  pressStart : Nat := 0
  injEnd : Nat := 0
  injIsPress : Bool := false
  drainEnd : Nat := 0
  used : Bool := false
  issued : Nat := 0
  done : Nat := 0
  handed : List Handed := []
  press : Option PressJob := none
  job : Option ArrJob := none
  drain : Option DrainJob := none
  outs : List OutVec := []
  whey : AMap Nat Whey := []
  ops : List OpRec := []
  deriving DecidableEq, Repr

/-- A ladle operation that has been issued and still owns MCLKs: its first beat (R53), the weight units of an MX format whose
scale unit has not been read, with the elements of `x` that they meet, and the term count that it leaves. -/
structure LdlJob where
  entry : QEntry
  cmd : LdlCmd
  first : Nat
  held : List (Nat × List Byte × List Nat) := []
  terms : Nat
  deriving DecidableEq, Repr

/-- The ladle: its accumulator, its operations in the order of their issue, and the register writes to come. -/
structure LdlS where
  lanes : List Lane := []
  terms : Nat := 0
  poison : Bool := false
  jobs : List LdlJob := []
  emits : List (Nat × Nat × BitVec 4096 × Bool) := []
  deriving DecidableEq, Repr

/-! ### Vector unit -/

/-- A write that lands on a later beat: a vector register, or bytes of memory. -/
inductive Pend where
  | reg (due start v : Nat) (val : BitVec 4096) (poison : Bool)
  | mem (due start addr : Nat) (data : List Byte) (poison clm : Bool)
  deriving DecidableEq, Repr

/-- One entry of the range store, with its open record (R114 to R117). -/
structure RngEntry where
  managed : Bool := false
  owner : StreamSel := .fwd
  hist : Bool := false
  window : Nat := 0
  headroom : Nat := 0
  fmt : Nat := 0
  tag : Nat := 0
  cur : Int := 0
  prev : Int := 0
  stamp : Nat := 0
  amax : List Nat := []
  cstep : BitVec 64 := 0
  elems : Nat := 0
  sat : Nat := 0
  flush : Nat := 0
  nan : Nat := 0
  inf : Nat := 0
  camax : Nat := 0
  cdrop : Nat := 0
  oElems : Nat := 0
  oSat : Nat := 0
  oFlush : Nat := 0
  oNan : Nat := 0
  oInf : Nat := 0
  oAmax : Nat := 0
  deriving DecidableEq, Repr

/-- An access of checked issue mode (R82): a write of a register or a 2 KiB line with its start and write beat, or a
read with its window. -/
structure HazAcc where
  write : Bool
  line : Bool
  index : Nat
  first : Nat
  last : Nat
  engine : Nat
  deriving DecidableEq, Repr

/-- The vector unit and the writes under way. -/
structure VecS where
  regs : AMap Nat (BitVec 4096) := []
  poisoned : List Nat := []
  pend : List Pend := []
  rng : AMap Nat RngEntry := []
  hazards : List HazAcc := []
  consumed : List (BitVec 64) := []
  deriving DecidableEq, Repr

/-! ### Sequencer -/

/-- CORE_STATE.STATE. -/
inductive CoreSt | fusedOff | outOfService | idle | loaded | running | frozen | faulted | halted
  deriving DecidableEq, Repr

/-- The states of an instruction bank or half. -/
inductive BankSt | free | loading | ready | active
  deriving DecidableEq, Repr

/-- An instruction bank or half with its descriptor table. -/
structure Bank where
  st : BankSt := .free
  code : AMap Nat (BitVec 64) := []
  desc : AMap Nat (BitVec 128) := []
  deriving DecidableEq, Repr

/-- A segment of a program queue. -/
structure Seg where
  addr : Nat
  segId : Nat
  first : Nat
  ninstr : Nat
  ndesc : Nat
  bank : Nat
  last : Bool
  deriving DecidableEq, Repr

/-- A level of a loop stack: the live counter, the first instruction of the body, and an LBREAK taken (R67, R68). -/
structure LoopL where
  count : Nat
  top : Nat
  brk : Bool
  deriving DecidableEq, Repr

/-- The state of one instruction stream. -/
structure Strm where
  q : AMap Nat (BitVec 32) := []
  loops : List LoopL := []
  step : BitVec 64 := 0
  pc : Nat := 0
  bank : Nat := 0
  bankWait : Option Nat := none
  initFill : Bool := false
  segs : List Seg := []
  nextSeg : Nat := 0
  cycle : Option Nat := none
  waitBank : Bool := false
  atGate : Bool := false
  deriving DecidableEq, Repr

/-- Why a core is frozen: the freeze cause of R61 and the engine queue whose head waits (none: fetch or pick). -/
structure Frz where
  cause : Nat
  engine : Option Nat
  origin : Option Nat := none
  deriving DecidableEq, Repr

/-- The sequencer. -/
structure SeqS where
  two : Bool := false
  pick : Bool := false
  pickMode : Bool := false
  pickLead : Nat := 32
  checked : Bool := false
  hazHalt : Bool := false
  fwd : Strm := {}
  bwd : Strm := {}
  cur : StreamSel := .fwd
  banks : AMap Nat Bank := []
  plan : List Nat := []
  ptr : Nat := 0
  left : Nat := 0
  blk : Nat := 64
  queues : AMap Nat (List QEntry) := []
  lastStart : AMap Nat Nat := []
  decStop : Bool := false
  decFetch : Bool := false
  decQueue : Bool := false
  pickAt : Nat := 0
  decoded : Bool := false
  frz : Option Frz := none
  frzCause : Nat := 15
  phase : Nat := 0
  received : Nat := 0
  consumed : Nat := 0
  streams : Nat := 0
  harpBytes : Nat := 0
  clmBytes : Nat := 0
  sramBytes : Nat := 0
  deriving DecidableEq, Repr

/-- The memory words that a started fixed-latency command reads or writes (R51, R83): row `n` of `rows` on beat `start + n`,
`size` bytes from `base + stride n` of local SRAM or cluster memory; a ladle operation (`rate` not 0) owns `rate` of every four
MCLKs of all banks over `rows` beats. -/
structure SramUse where
  engine : Nat
  start : Nat
  rows : Nat
  base : Nat
  stride : Nat
  size : Nat
  clm : Bool
  rate : Nat
  deriving DecidableEq, Repr

/-- SRAM arbitration of a core: what its started commands use, the periods still to be lost, the MCLK (by its second beat) whose
lost MCLKs have been charged, with their count, the beat whose access to cluster memory has lost an MCLK to the harp or the stream
engine, and the beat whose access has been granted. -/
structure SramS where
  uses : List SramUse := []
  lost : Nat := 0
  beat : Nat := 0
  count : Nat := 0
  clmBeat : Option Nat := none
  clmGot : Option Nat := none
  deriving DecidableEq, Repr

/-- One compute core. -/
structure Core where
  st : CoreSt := .idle
  ctx : Nat := 0
  slot : Option Nat := none
  sbc : Nat := 0
  seqr : SeqS := {}
  arrA : ArrayS := {}
  arrB : ArrayS := {}
  vec : VecS := {}
  ldl : LdlS := {}
  sram : SramS := {}
  hoop : HoopS := {}
  bars : AMap Nat Nat := []
  flagPosts : List (Nat × Nat) := []
  bistA : Bool := false
  bistB : Bool := false
  deriving DecidableEq, Repr

/-! ### Cluster: stream engine and harp -/

/-- The states of a stream. -/
inductive StreamSt | idle | armed | running | draining | done | faulted
  deriving DecidableEq, Repr

/-- An entry that its stream has begun: its number in the stream's order and whether it has completed. -/
structure Begun where
  entry : Nat
  seq : Nat
  complete : Bool
  deriving DecidableEq, Repr

/-- One stream context. -/
structure StreamS where
  ctx : Nat := 0
  st : StreamSt := .idle
  next : Nat := 0
  left : Nat := 0
  firstOfArm : Bool := false
  armedAt : Nat := 0
  doneCnt : Nat := 0
  begun : List Begun := []
  seq : Nat := 0
  pend : Option (Nat × Nat) := none
  armWait : Option (Nat × Nat) := none
  takenWait : Option (Nat × Nat) := none
  met : Bool := false
  deriving DecidableEq, Repr

/-- A whole run in an injection port: its bytes, poisoned sectors, and the granule parity that GPAR records (R184). -/
structure PortRun where
  data : List Byte
  bad : List Nat
  gpar : Option Bool
  deriving DecidableEq, Repr

/-- A run that waits for its bytes or for room in an injection port: its stream, entry and run number, its bytes, and GPAR. -/
structure PortWait where
  stream : Nat
  seq : Nat
  run : Nat
  addr : Nat
  len : Nat
  gpar : Bool
  deriving DecidableEq, Repr

/-- A harp command handed over by a core. -/
structure HarpQ where
  port : Nat
  core : Nat
  start : Nat
  ready : Option Nat
  step : BitVec 64
  cmd : HarpCmd
  deriving DecidableEq, Repr

/-- A harp row record. -/
structure HarpRec where
  max : Nat := 0
  sum : Nat := 0
  mean : Nat := 0
  m2 : Nat := 0
  dot : Nat := 0
  dot2 : Nat := 0
  count : Nat := 0
  poison : Bool := false
  deriving DecidableEq, Repr

/-- One cluster: the flags, the descriptor store with its poisoned sectors (R182), the streams with the period in which an entry has
begun last and the highest stream that has begun one in it (R181), the injection ports, and the harp. -/
structure Cluster where
  flags : AMap Nat Nat := []
  store : AMap Nat (BitVec 256) := []
  storeBad : List Nat := []
  streams : AMap Nat StreamS := []
  began : Option (Nat × Nat) := none
  ports : AMap Nat (List PortRun) := []
  portWait : AMap Nat (List PortWait) := []
  harpQ : List HarpQ := []
  harpCur : Option (HarpQ × Nat) := none
  records : AMap Nat HarpRec := []
  deriving DecidableEq, Repr

/-- A 64-byte word of cluster memory that a core has written (R14): the writer, the number and MCLK of its write, and the
bytes before and after. -/
structure ClmWord where
  writer : Nat
  seq : Nat
  mclk : Nat
  old : List Byte
  new : List Byte
  deriving DecidableEq, Repr

/-- Visibility of cluster memory (R14): words written by cores, the number of the last write, by reader and writer the last
write that synchronisation has made visible, by cluster and flag what its posts carry, and how many reads have drawn an
open value (the model's own counter, `Config.clmOld`); by cluster the MCLK and the banks that its cores have been granted in it,
and how many contests with the harp or the stream engine have been drawn (the model's own counter, `Config.clmLost`). -/
structure ClmS where
  words : AMap Nat ClmWord := []
  seq : Nat := 0
  seen : AMap (Nat × Nat) Nat := []
  flags : AMap (Nat × Nat) (AMap Nat Nat) := []
  draws : Nat := 0
  port : AMap Nat (Nat × List Nat) := []
  lots : Nat := 0
  deriving DecidableEq, Repr
/-! ### Contexts, logs and waves -/

/-- Where a raise comes from: source kind and index (the event record), the context, the step and the detail. -/
structure Origin where
  kind : Nat
  index : Nat
  ctx : Option Nat
  step : BitVec 64 := 0
  detail : BitVec 64 := 0
  deriving DecidableEq, Repr

/-- An event log: records by slot, pointers, the fill, the record number and the lost count (R280). -/
structure Log where
  recs : AMap Nat (BitVec 256) := []
  head : Nat := 0
  tail : Nat := 0
  used : Nat := 0
  num : Nat := 0
  lost : Nat := 0
  deriving DecidableEq, Repr

/-- A rind arming (R286); a step match fires once. -/
structure Arming where
  src : Nat
  cls : Nat
  step : BitVec 64
  once : Bool
  fired : Bool := false
  deriving DecidableEq, Repr

/-- What started a rind wave: its source number, and the context of an arming. -/
structure WaveSrc where
  src : Nat
  ctx : Option Nat
  deriving DecidableEq, Repr

/-- A captured area: header, tick, SBC, step and the words (R285). -/
structure Capture where
  hdr : BitVec 64 := 0
  tick : BitVec 64 := 0
  sbc : Nat := 0
  step : BitVec 64 := 0
  words : List (BitVec 64) := []
  deriving DecidableEq, Repr

/-- The rind unit: the wave in progress, the regions that still have to capture, the pending trigger, the areas. -/
structure Rind where
  wave : Nat := 0
  lastSrc : Nat := 0
  cur : Option WaveSrc := none
  todo : List Nat := []
  cut : Bool := false
  pending : Option WaveSrc := none
  missing : Nat := 0
  merged : Nat := 0
  locked : Nat := 0
  startTick : Nat := 0
  started : Bool := false
  trigOut : Nat := 0
  areas : AMap Nat Capture := []
  deriving DecidableEq, Repr
/-! ### Tier space: granules, regulators, stacks, cave -/

/-- Who waits for a memory request or a cave page: an entry of a stream, a ripener, a flow, a mailbox command, the
checkpoint of a context. -/
inductive Waiter where
  | stream (cluster stream seq : Nat)
  | ripener (n c : Nat)
  | flow (f n : Nat)
  | mailbox (m : Nat)
  | checkpoint (c : Nat)
  | firmware
  deriving DecidableEq, Repr

/-- A granule descriptor (*Granules and translation*): owner (none: the firmware), home unit and partition, the unit in
which it resides, RETIRING, pin, accesses below home, last-use stamp, cellar errors (R166), and whether it is a
reduction slab (R160). Units are numbered as in the table of accounting units. -/
structure Gran where
  owner : Option Nat
  home : Nat
  part : Nat
  at_ : Nat
  retiring : Bool := false
  pin : Bool := false
  hits : Nat := 0
  stamp : Nat := 0
  errs : Nat := 0
  slab : Bool := false
  parity : Bool := false
  deriving DecidableEq, Repr

/-- What a request does once it proceeds: it moves bytes of a LOAD or STORE run, brings entries of a LISTLD into the descriptor
store of a cluster, brings bytes of an NHOOP run to its port, or gives only its tokens, its unit moving the bytes. -/
inductive RegAct where
  | pass
  | copy (src dst n cluster : Nat)
  | desc (cluster slot src n : Nat)
  | port (cluster stream seq run : Nat)
  | put (addr : Nat) (data : List Byte) (bad : List Nat) (parity : Option Bool)
  deriving DecidableEq, Repr

/-- A request that waits at a regulator (R157). -/
structure RegReq where
  ctx : Nat
  part : Nat
  sectors : Nat
  who : Waiter
  act : RegAct
  deriving DecidableEq, Repr

/-- What a stack knows of a row: the code words with corrected errors in this patrol pass, and the failure count (R163). -/
structure RowSt where
  words : List Nat := []
  fails : Nat := 0
  deriving DecidableEq, Repr

/-- The memory system: granules, the stamp's present value, frames lost for good, requests at the regulators with the BWR_CFG values
in force (R158), queued promotions and retirements, rows, and the granules that each stack has retired (R165). -/
structure MemS where
  grans : AMap Nat Gran := []
  now : Nat := 0
  lost : AMap Nat Nat := []
  regQ : List RegReq := []
  bwr : AMap (Nat × Nat) (BitVec 64) := []
  moves : List Nat := []
  retire : List Nat := []
  rows : AMap (Nat × RowLoc) RowSt := []
  retired : AMap Nat Nat := []
  deriving DecidableEq, Repr

/-- A flash block: erase count, reads since its last erase, pages programmed since then, and the bad-block mark. -/
structure CaveBlk where
  pe : Nat := 0
  reads : Nat := 0
  next : Nat := 0
  bad : Bool := false
  deriving DecidableEq, Repr

/-- A cave write that waits to be programmed: part of one 16 KiB page, and the parity that its granule then takes (R143). -/
structure CaveW where
  addr : Nat
  data : List Byte
  bad : List Nat
  who : Waiter
  parity : Option Bool := none
  deriving DecidableEq, Repr

/-- What waits for the cave, in the order of arrival (R167, R181): a page to be programmed, or a stream's run that reads behind one. -/
inductive CaveReq where
  | page (w : CaveW)
  | run (who : Waiter) (act : RegAct)
  deriving DecidableEq, Repr

/-- The flash and its map (in flash, so it outlives resets): logical page to block, and the block being filled. -/
structure Flash where
  map : AMap Nat Nat := []
  blocks : AMap Nat CaveBlk := []
  fill : Option Nat := none
  userBytes : Nat := 0
  nandBytes : Nat := 0
  deriving DecidableEq, Repr

/-- An atomic of a stream entry on its way to the hub cache: its stream entry, context, target, record, AOP and ATYPE. -/
structure AtomicReq where
  cluster : Nat
  stream : Nat
  seq : Nat
  target : Nat
  rcd : Nat
  aop : Nat
  atype : Nat
  deriving DecidableEq, Repr

/-- What waits for the hub cache, in the order of arrival (R159, R181): an atomic, or a run of a stream behind one. -/
inductive HubReq where
  | atomic (a : AtomicReq)
  | run (who : Waiter) (act : RegAct)
  deriving DecidableEq, Repr
/-! ### Fabric: frames, ports, flows, reduction -/

/-- What a port has put on the wire: a frame with its trailer, or a link word. -/
inductive Wire where
  | frame (f : Frame) (lseq crc : Nat)
  | ack (lseq : Nat)
  | nak (lseq : Nat)
  | lcredit (cls units : Nat)
  deriving DecidableEq, Repr

/-- A frame that waits to leave: its output port, the input port and class it holds there (none: originated here), the
class it leaves in, the stream entry that sent it, and the context of its flow. -/
structure TxWait where
  out : Nat
  inp : Option (Nat × Nat)
  cls : Nat
  frame : Frame
  who : Option Waiter
  ctx : Option Nat := none
  deriving DecidableEq, Repr

/-- A frame in the replay buffer: its LSEQ, the context of its flow where it was originated here, and how often in a row it has been
resent. -/
structure Sent where
  lseq : Nat
  frame : Frame
  ctx : Option Nat := none
  tries : Nat := 0
  deriving DecidableEq, Repr

/-- LNK_PORT_STATUS.STATE. -/
inductive PortSt | disabled | training | up | retraining | down
  deriving DecidableEq, Repr

/-- One fabric port: its state, the good lanes and the lanes in use, the frames sent and not acknowledged, the sequence
numbers of the link layer, the partner's credit, and the arbiter. `fresh` marks a retrain of the host (R208). -/
structure PortS where
  st : PortSt := .disabled
  cause : Nat := 0
  lanes : List Nat := []
  good : List Nat := [0, 1, 2, 3, 4]
  fresh : Bool := true
  peer : Option Peer := none

  replay : List Sent := []
  lseq : Nat := 0
  expect : Nat := 0
  discarding : Bool := false
  unacked : Nat := 0
  replayTo : Option Nat := none
  limitTicks : List Nat := []
  credits : List Nat := []
  vc : Nat := 0
  deficit : List Nat := [0, 0, 0]
  lastIn : AMap Nat Nat := []
  split : BitVec 64 × BitVec 64 := (0, 0)
  wire : List Wire := []
  deriving DecidableEq, Repr

/-- Flow context STATE. -/
inductive FlowSt | closed | opened | closing | faulted
  deriving DecidableEq, Repr

/-- A frame of a flow whose landing write has not been performed: where it holds its credit, and whether its write has
been issued (R204). -/
structure Landing where
  num : Nat
  inp : Option (Nat × Nat)
  frame : Frame
  issued : Bool := false
  deriving DecidableEq, Repr

/-- The reduction record, with the member table read at FLOW_OPEN, the tier-space address of the slab and RECCRC. -/
structure RedRec where
  coll : Nat
  tree : Bool
  int16 : Bool
  fp32 : Bool
  g : Nat
  rank : Nat
  members : Nat
  tensor : Nat
  normId : Nat
  ibase : Nat
  slots : Nat
  count : Nat
  headroom : Nat
  decay : Nat
  haltPoison : Bool
  x0 : Nat
  src : Nat
  res : Nat
  scale : Nat
  start : Nat
  step0 : Nat
  root : Nat
  ids : List Nat
  parents : List Nat
  slab : Nat
  crc : Nat
  deriving DecidableEq, Repr

/-- A chunk in its slab slot: contributions, poisoned elements, lowest poisoning rank. -/
structure SlabS where
  contrib : Nat := 0
  pcount : Nat := 0
  prank : Nat := 0xFFFF
  own : Bool := false
  deriving DecidableEq, Repr

/-- A neighbour of a reduction flow: send and receive sequence, the message being received with the chunk or piece that it carries, and,
for COLL 2 and 3, what was sent, released and may still be sent; poison codes that stand for lost frames of the message, and the
messages of chunks, by kind and chunk, that have been taken in the round in progress and the next one (R222). -/
structure Nbr where
  txSeq : Nat := 0
  rxSeq : Nat := 0
  kind : Nat := 1
  msg : Nat := 0
  chunk : Nat := 0
  fidx : Nat := 0
  data : List Byte := []
  bad : List Nat := []
  sent : Nat := 0
  credit : Nat := 0
  got : Nat := 0
  told : Nat := 0
  gap : Nat := 0
  took : List (Nat × Nat) := []
  deriving DecidableEq, Repr

/-- The run state of a reduction flow: rounds completed, the round in progress, chunks of it contributed and completed,
slabs, agreed amax by scale entry, the exact norm, neighbours, counts of the round and of the last completed one, messages that
wait for a neighbour's credit (COLL 2 and 3), and whether the source of the next contribution is being read (R215). -/
structure RedS where
  cfg : RedRec
  rounds : Nat := 0
  running : Bool := false
  next : Nat := 0
  done : List Nat := []
  slabs : AMap Nat SlabS := []
  amax : AMap Nat Nat := []
  nbrs : AMap Nat Nbr := []
  sat : Nat := 0
  nan : Nat := 0
  inf : Nat := 0
  pcount : Nat := 0
  prank : Nat := 0xFFFF
  lastSat : Nat := 0
  lastNan : Nat := 0
  lastInf : Nat := 0
  lastPcount : Nat := 0
  lastPfirst : Nat := 0xFFF
  lastStep : BitVec 64 := 0
  out : List (Nat × Nat × List Byte × List Nat) := []
  asked : Bool := false
  deriving DecidableEq, Repr

/-- One flow context. -/
structure Flow where
  st : FlowSt := .closed
  kind : Nat := 0
  ctx : Nat := 0
  fw : Bool := false
  vc : Nat := 0
  rel : Bool := false
  peer : Nat := 0
  pflow : Nat := 0
  seq : Nat := 0
  msg : Nat := 0
  fidx : Nat := 0
  msgs : Nat := 0
  credit : Nat := 0
  released : Nat := 0
  base : Nat := 0
  slotSize : Nat := 0
  slots : Nat := 0
  relword : Nat := 0
  gaps : Nat := 0
  stale : Nat := 0
  told : Nat := 0
  landings : List Landing := []
  landed : Nat := 0
  red : Option RedS := none
  deriving DecidableEq, Repr

/-- A run of a SEND entry that has not begun to send: its flow, its bytes' address, length, and its stream entry. -/
structure SendRun where
  flow : Nat
  addr : Nat
  len : Nat
  who : Waiter
  deriving DecidableEq, Repr

/-- The link engine and the reduction unit: forwarding table, ports, flows, frames that wait to leave, accepted frames that wait behind a
landing of their class on their input port (R204), runs that wait for credit, and the norm accumulators by word and step (the sum in units of `2 ^ -288`, and whether it is poisoned). -/
structure LinkS where
  fwd : AMap Nat (BitVec 32) := []
  ports : AMap Nat PortS := []
  flows : AMap Nat Flow := []
  tx : List TxWait := []
  held : List (Nat × Frame) := []
  sends : List SendRun := []
  norms : AMap (Nat × BitVec 64) (Int × Bool) := []
  deriving DecidableEq, Repr
/-! ### Ripeners -/

/-- The run state of an update stream; HALTED is the halt of its context (R146). -/
inductive RipSt | loaded | running | waiting | faulted | stopped
  deriving DecidableEq, Repr

/-- The constants of a begun group, FP32 codes, its rule and record fields, and whether its norm word was NaN or
infinite (R141, R142). -/
structure GroupC where
  rule : Nat
  g : Nat
  b1 : Nat
  k1 : Nat
  b2 : Nat
  k2 : Nat
  a : Nat
  c2 : Nat
  d : Nat
  l : Nat
  eps : Nat
  hold : Bool
  wsr : Bool
  wfmt : Nat
  wscale : Int
  bad : Bool
  deriving DecidableEq, Repr

/-- The fields of an UPD record. -/
structure Upd where
  post : Bool
  waitFlow : Bool
  group : Nat
  count : Nat
  master : Nat
  avg : Nat
  wcopy : Nat
  gsrc : Nat
  gspan : Nat
  gsrcn : Nat
  gform : Nat
  flow : Nat
  tensor : Nat
  ibase : Nat
  deriving DecidableEq, Repr

/-- The update stream of one context in one ripener: the section's place and header, the next command, the UPD that has started as
its record was checked then (R134), what of it has been done, the pass step S, the groups begun in the pass, the granules counted as
remote for the command, and whether the record or the granule that is due has been asked for at the regulators (R157). -/
structure RipS where
  base : Nat
  ncmd : Nat
  ngroup : Nat
  ncurve : Nat
  groupOff : Nat
  curveOff : Nat
  cmdOff : Nat
  cycle : Nat
  st : RipSt := .loaded
  cmd : Nat := 0
  started : Option Upd := none
  done : Nat := 0
  step : BitVec 64 := 0
  begun : AMap Nat GroupC := []
  remote : List Nat := []
  raised : Bool := false
  asked : Bool := false
  deriving DecidableEq, Repr
/-! ### Clocks and the energy ledger -/

/-- A segment in progress in the planner's view: its context and SEG_ID, its energy record (BEATS, ENERGY_MJ, PEAK_W) or
none (R238), and its remaining beats. -/
structure SegRun where
  ctx : Nat
  segId : Nat
  tag : Option (Nat × Nat × Nat)
  left : Nat
  deriving DecidableEq, Repr

/-- Clocks, planner and meters: the step of a change under way, the segments in progress, the held segments (context,
SEG_ID, and whether the hold is over), the reservoirs in µJ, whether ENERGY_EXHAUST stands, the rails in µJ, the
contexts' and the idle energy in nJ, the wear in ps and the last saved second, the electrical emergency (its step and
the tick of the release) and the thermal step, the sensor samples of the millisecond, the ticks of lost locks, the
periods of the last stretches, the fraction of a tick, and the tick at which the PLLs first locked. -/
structure ClkS where
  target : Option Nat := none
  segs : List SegRun := []
  held : List (Nat × Nat × Bool) := []
  level : Int := 900000000
  spent : Bool := false
  shares : AMap Nat Int := []
  rails : AMap Nat Nat := []
  ctxE : AMap Nat Nat := []
  idleE : Nat := 0
  wear : Nat := 0
  elec : Option (Nat × Option Nat) := none
  thermal : Option Nat := none
  cool : Nat := 0
  sample : Nat := 0
  hot : Bool := false
  unlocks : AMap Nat Nat := []
  stretchAt : AMap Nat Nat := []
  frac : Nat := 0
  lockAt : Option Nat := none
  deriving DecidableEq, Repr

/-! ### Mailboxes and sessions -/

/-- A command that its mailbox has accepted and not answered: the function that wrote it, its SEQ, the tick of
acceptance, OPCODE, payload and COUNTER, the response key of a critical command (R275), and how far it has got. -/
structure Accepted where
  fn : Nat
  seq : Nat
  tick : Nat
  op : Nat
  payload : List Byte
  counter : Nat
  key : Option (List Byte)
  begun : Bool := false
  deriving DecidableEq, Repr

/-- A mailbox: the two halves as bytes, OWN, the last accepted SEQ, its context, the command in progress, and the
binding (session, EPOCH, last accepted counter, and whether COUNTER_EXHAUSTED was raised in this EPOCH). -/
structure Mbox where
  cells : Mem := []
  own : Bool := false
  lastSeq : Nat := 0
  owner : Option Nat := none
  cmd : Option Accepted := none
  session : Option Nat := none
  epoch : Nat := 0
  lastCtr : Nat := 0
  spent : Bool := false
  deriving DecidableEq, Repr

/-- An SPDM session: its id, transport, export master secret and last bind number; `up` from FINISH on. -/
structure Sess where
  id : Nat
  bus : Bool
  ems : List Byte
  bindNo : Nat := 0
  up : Bool := false
  deriving DecidableEq, Repr

/-- What the SPDM responder has answered. -/
inductive SpdmRsp where
  | version
  | capabilities
  | algorithms
  | digests (chain : List Byte)
  | certificate (chain : List Byte)
  | challenge (sig : List Byte)
  | measurements (blocks : List (Nat × List Byte)) (sig : List Byte)
  | keyExchange (session : Nat) (mutAuth : Bool)
  | finish (session : Nat)
  | heartbeat (session : Nat)
  | keyUpdate (session : Nat)
  | endSession (session : Nat)
  | error (code : Nat)
  deriving DecidableEq, Repr

/-- The SPDM responder: how far each transport's connection has got (1 version, 2 capabilities, 3 algorithms), the
sessions, the ids that have been used since reset, and the answers in order. -/
structure SpdmS where
  doe : Nat := 0
  smbus : Nat := 0
  sessions : List Sess := []
  used : List Nat := []
  out : List (Bool × SpdmRsp) := []
  deriving DecidableEq, Repr

/-! ### Snapshots and checkpoints -/

/-- A SNAPSHOT_SHIP request: its fields, the step due next, the mailbox that waits for a single one, and the shipment under
way: the staging address, the flow, the bytes sent, the manifest. -/
structure Snap where
  src : Nat
  len : Nat
  peer : Nat
  pflow : Nat
  every : Nat
  next : Nat
  mbox : Option Nat
  stage : Option Nat := none
  flow : Nat := 0
  sent : Nat := 0
  manifest : List Byte := []
  deriving DecidableEq, Repr

/-- A CHECKPOINT request: its fields, the step due next, whether DEST_B is next, the waiting mailbox, and the writing under
way: the staging address, the destination and the phase (1 zero header, 2 data, 3 header). -/
structure Chk where
  destA : Nat
  destB : Nat
  every : Nat
  next : Nat
  useB : Bool := false
  extents : List (Nat × Nat)
  mbox : Option Nat
  stage : Option Nat := none
  dest : Nat := 0
  phase : Nat := 0
  deriving DecidableEq, Repr

/-! ### Supply and pins -/

/-- The supply and the pins: the rails with the ticks since PWR_GOOD (up to 100 ms), the inputs (both blade pairs in range), PWR_EN
with the ticks for which it has been low (up to 100 ms), PERST# (asserted), what the host's side gives the PCI Express links (their
widths and rate) and whether they have trained, the thermal-trip latch, the tick at which an orderly stop began, a loss of input under
way, what begins the next start, how the last stop left the cave (CAVE_STATUS.SHUTDOWN), and the number of nonces drawn. -/
structure PowerS where
  rails : Bool := true
  good : Nat := 0
  input : Bool := true
  pwrEn : Bool := true
  low : Nat := 0
  perst : Bool := true
  hostLink : Nat × Nat × Nat := (0, 0, 0)
  trained : Bool := false
  trip : Bool := false
  stopAt : Option Nat := none
  lost : Bool := false
  cause : Nat := 0
  shutdown : Nat := 0
  draws : Nat := 0
  deriving DecidableEq, Repr
/-- One job context: its arc, its attributes from CONTEXT_CREATE, its program (`loaded`) and its run state: `running` from
the first RUN after a load, `halted` while it is HALTED. -/
structure Ctx where
  valid : Bool := false
  first : Nat := 0
  count : Nat := 0
  rindProg : Bool := false
  checked : Bool := false
  hazHalt : Bool := false
  seed : BitVec 64 := 0
  period : Nat := 0
  hostOk : Bool := false
  hostFn : Nat := 0
  hostBase : Nat := 0
  hostLen : Nat := 0
  prog : Nat := 0
  paceAt : Nat := 0
  inbox : Nat := 0
  inboxLen : Nat := 0
  volBase : Nat := 0
  volLen : Nat := 0
  energy : AMap Nat (Nat × Nat × Nat) := []
  image : List Byte := []
  progGrans : List (Nat × Nat) := []
  secs : List Nat := []
  regions : List Nat := []
  ps : List Nat := []
  snap : Option Snap := none
  chk : Option Chk := none
  loaded : Bool := false
  running : Bool := false
  slots : List Nat := []
  halted : Bool := false
  folded : Bool := false
  faults : List (Nat × Nat × Nat) := []
  faulted : Bool := false
  evhalt : Bool := false
  fault : Option (Nat × Nat × Nat) := none
  more : Nat := 0
  tainted : Bool := false
  taintFirst : BitVec 64 := 0
  taintLast : BitVec 64 := 0
  arming : Option Arming := none
  deriving DecidableEq, Repr
/-- The volatile state of the module. `fuseDigest` and `patchDigest` are measurement indices 3 and 2, taken at start-up. -/
structure Dev where
  period : Nat := 0
  tick : Nat := 0
  cores : AMap Nat Core := []
  clusters : AMap Nat Cluster := []
  clm : ClmS := {}
  air : List Air := []
  regs : AMap (RegName × List Nat) (BitVec 64) := []
  ctxs : AMap Nat Ctx := []
  logs : AMap Nat Log := []
  rind : Rind := {}
  memS : MemS := {}
  caveQ : List CaveReq := []
  link : LinkS := {}
  hubQ : List HubReq := []
  rips : AMap (Nat × Nat) RipS := []
  ripTurn : AMap Nat Nat := []
  clk : ClkS := {}
  mbox : AMap Nat Mbox := []
  spdm : SpdmS := {}
  fuseDigest : List Byte := []
  patchDigest : List Byte := []
  deriving DecidableEq, Repr

/-- What survives a module reset (R295): fuses, the repair fuses that ARR_FUSE shows (array `2 c + x`), the patch area of the
boot flash, the FRU EEPROM, the saved wear ledger (ps), NRG_TRIPLOG with the tick of the trip in the log area (R243; no register shows it), the flash of the cave with its map, and the supply. -/
structure Nv where
  fuses : AMap Nat (BitVec 64) := []
  arrFuses : AMap Nat (BitVec 32) := []
  patch : List Byte := []
  eeprom : Mem := []
  wear : Nat := 0
  tripLog : BitVec 64 := 0
  tripTick : Nat := 0
  flash : Flash := {}
  power : PowerS := {}
  deriving DecidableEq, Repr

/-- The host's side: the memory behind each function, and the MSI-X table: whether MSI-X is enabled, the unmasked vectors,
the pending bits, the messages sent, and the data that the host's last read returned; a vector of function 1 is numbered 2048 higher. -/
structure HostSide where
  mem : Mem := []
  msixOn : Bool := true
  unmasked : List Nat := []
  pending : List Nat := []
  sent : List Nat := []
  reply : List Byte := []
  deriving DecidableEq, Repr

/-- The module and the queue of the commands that wait, first in, first out. -/
structure State where
  pending : List Instr := []
  dev : Dev := {}
  mem : Mem := []
  bad : List Nat := []
  nv : Nv := {}
  host : HostSide := {}
  deriving DecidableEq, Repr

/-- Why a step stops with a fault. No command of this hardware does: an address that does not exist, a wrong command and a
unit that fails all lead to the events that the manual names, which are next states. -/
inductive Fault
  deriving DecidableEq, Repr

/-- Why a command is refused. -/
inductive Refusal where
  /-- The command has no meaning in this model; raised by the arms of `exec` that name their mnemonic. Safe: nothing is
  said of such a command. -/
  | notModelled (mnemonic : String)
  deriving DecidableEq, Repr

/-- The fuses of an N2L-64A as it ships: every core enabled, subsystem 1, a cave of 16 TB, stepping B0 (assumption log 2). -/
def resetFuses : AMap Nat (BitVec 64) := [(0, 0xFFFFFFFFFFFFFFFF), (1, 0xB000100001)]

/-- The module right after power-up: the rails are up, PERST# is asserted, the hub is at BOOT, every register holds its
reset value, no byte of memory is listed, and no command waits. -/
def State.reset : State := { nv := { fuses := resetFuses } }

end Sys2Proof.Machine
end

