-- ==== Sys2Proof/Machine/Flags.lean ====
section
/-!
DEFINITION. Registers, counters, events: the stored words of the register map, the HOOP counter layout (R289), the
event logs (R280), the effects of a code (R281 to R284), the MSI-X vectors (R249) and the triggers of a rind wave
(R286, R287).
-/
namespace Sys2Proof.Machine

/-! ### Access to the parts of the state -/

/-- A core. -/
def State.core (s : State) (c : Nat) : Core := AMap.get s.dev.cores {} c
/-- Replace a core. -/
def State.setCore (s : State) (c : Nat) (k : Core) : State := { s with dev := { s.dev with cores := AMap.set s.dev.cores c k } }
/-- Change a core. -/
def State.modCore (s : State) (c : Nat) (f : Core → Core) : State := s.setCore c (f (s.core c))
/-- A cluster. -/
def State.cluster (s : State) (k : Nat) : Cluster := AMap.get s.dev.clusters {} k
/-- Replace a cluster. -/
def State.setCluster (s : State) (k : Nat) (x : Cluster) : State :=
  { s with dev := { s.dev with clusters := AMap.set s.dev.clusters k x } }
/-- Change a cluster. -/
def State.modCluster (s : State) (k : Nat) (f : Cluster → Cluster) : State := s.setCluster k (f (s.cluster k))
/-- A context. -/
def State.ctx (s : State) (c : Nat) : Ctx := AMap.get s.dev.ctxs {} c
/-- Replace a context. -/
def State.setCtx (s : State) (c : Nat) (x : Ctx) : State := { s with dev := { s.dev with ctxs := AMap.set s.dev.ctxs c x } }
/-- Change a context. -/
def State.modCtx (s : State) (c : Nat) (f : Ctx → Ctx) : State := s.setCtx c (f (s.ctx c))
/-- An event log. -/
def State.log (s : State) (l : Nat) : Log := AMap.get s.dev.logs {} l
/-- Replace a log. -/
def State.setLog (s : State) (l : Nat) (x : Log) : State := { s with dev := { s.dev with logs := AMap.set s.dev.logs l x } }

/-- The cluster of a core. -/
def clusterOf (c : Nat) : Nat := c / 4

/-- The tier-space address of a local-SRAM address of a core. -/
def localAddr (c a : Nat) : Nat := 0x02000000 * c + a

/-- The tier-space address of a cluster-memory address. -/
def clusterAddr (k a : Nat) : Nat := 0x100000000 + 0x08000000 * k + a

/-- The register indices of a core. -/
def coreIdx (c : Nat) : List Nat := [c / 32, c % 32]

/-- The register indices of an array of a core. -/
def sideIdx (c : Nat) (x : Side) : List Nat := [c / 32, c % 32, match x with | .a => 0 | .b => 1]

/-! ### Stored register words -/

/-- The stored word of a register instance; the reset value of the register map where nothing has been stored. -/
def State.reg (s : State) (n : RegName) (i : List Nat) : BitVec 64 :=
  (AMap.find? s.dev.regs (n, i)).getD (regReset n)

/-- Store a register word. -/
def State.setReg (s : State) (n : RegName) (i : List Nat) (v : BitVec 64) : State :=
  { s with dev := { s.dev with regs := AMap.set s.dev.regs (n, i) v } }

/-- A field of a stored register word. -/
def State.field (s : State) (n : RegName) (i : List Nat) (hi lo : Nat) : Nat := wbits (s.reg n i) hi lo

/-- Store one field of a register word. -/
def State.setField (s : State) (n : RegName) (i : List Nat) (hi lo v : Nat) : State :=
  s.setReg n i (wput (s.reg n i) hi lo v)

/-- A fault register with a VALID bit: while VALID is 1 a later fault does not overwrite it. -/
def State.recordFault (s : State) (n : RegName) (i : List Nat) (valid : Nat) (w : BitVec 64) : State :=
  if wbits (s.reg n i) valid valid = 1 then s else s.setReg n i (wput w valid valid 1)

/-! ### Vectors (R249) -/

/-- Raise an MSI-X vector: a message when MSI-X is on and the vector unmasked, a pending bit when it is masked. -/
def HostSide.raise (h : HostSide) (v : Nat) : HostSide :=
  if h.msixOn then
    (if v ∈ h.unmasked then { h with sent := h.sent ++ [v] } else { h with pending := insertNat h.pending v })
  else h

/-- Raise a vector. -/
def State.vector (s : State) (v : Nat) : State := { s with host := s.host.raise v }

/-! ### The tick (R233) -/

/-- CLK_TICK18, which records quote: ticks since the PLLs first locked. -/
def State.hubTick (s : State) : Nat := match s.dev.clk.lockAt with | some t => s.dev.tick - t | none => 0

/-! ### Rind triggers (R286, R287) -/

/-- The regions that a wave captures: 0 to 18. -/
def rindRegions : List Nat := List.range 19

/-- Start a wave: the next 16-bit number, and every region still to capture. -/
def Rind.start (r : Rind) (w : WaveSrc) (tick : Nat) : Rind :=
  { r with wave := (r.wave + 1) % 65536, lastSrc := w.src, cur := some w, todo := rindRegions, cut := false, missing := 0,
           startTick := tick, started := true, trigOut := 10 }

/-- R287: a trigger starts a wave, becomes the pending one, or is merged into it. -/
def Rind.trigger (r : Rind) (w : WaveSrc) (tick : Nat) : Rind :=
  match r.cur with
  | none => r.start w tick
  | some _ =>
    match r.pending with
    | none => { r with pending := some w }
    | some _ => { r with merged := satInc 16 r.merged }

/-- A trigger by a context's arming; with ONCE it is disarmed after the wave that it starts, and triggers nothing more till
then (R286). -/
def State.armTrigger (s : State) (c : Nat) (a : Arming) : State :=
  let s := s.modCtx c fun x => { x with arming := some { a with fired := true } }
  { s with dev := { s.dev with rind := s.dev.rind.trigger ⟨a.src, some c⟩ s.dev.tick } }

/-- A trigger that no arming makes. -/
def State.trigger (s : State) (w : WaveSrc) : State :=
  { s with dev := { s.dev with rind := s.dev.rind.trigger w s.dev.tick } }

/-- The triggers of source 2: a record of code group `g` written to log `l`. -/
def State.classTriggers (s : State) (l g : Nat) : List Nat → State
  | [] => s
  | c :: cs =>
    let s := match (s.ctx c).arming with
      | some a => if a.src = 2 ∧ a.cls = g ∧ (l = c ∨ l = 8) ∧ ¬ (a.once ∧ a.fired) then s.armTrigger c a else s
      | none => s
    State.classTriggers s l g cs

/-! ### Events (R280 to R284) -/

/-- The log of a code: security for 0x06xx, else the log of the source's context, else the module log. -/
def logOf (code : Nat) (o : Origin) : Nat :=
  if code / 256 = 6 then 9 else match o.ctx with | some c => c | none => 8

/-! ### What answers (R290, R291) -/

/-- With the rails off nothing happens in the module (R290). -/
def State.powered (s : State) (f : State → State) : State := if s.nv.power.rails then f s else s

/-- Whether the host reaches the module: the rails are up, PERST# is deasserted, and the PCI Express link has trained (R291). -/
def State.linked (s : State) : Bool := s.nv.power.rails && !s.nv.power.perst && s.nv.power.trained

/-- What the host does over PCI Express reaches the module once its link has trained. -/
def State.hosted (s : State) (f : State → State) : State := if s.linked then f s else s

/-- SRCI: the core, cluster, ripener, stack or port; 0 for the sources that have no such index. -/
def Origin.srci (o : Origin) : Nat := if o.kind ∈ [0, 1, 2, 3, 5, 7] then o.index % 256 else 0

/-- The 32-byte event record. -/
def eventRecord (code : Nat) (o : Origin) (tick num : Nat) : BitVec 256 :=
  BitVec.ofNat 256 (o.step.toNat * 2 ^ 192 + tick % 2 ^ 48 * 2 ^ 144 + o.detail.toNat * 2 ^ 80
    + num % 2 ^ 32 * 2 ^ 48 + o.kind % 256 * 2 ^ 40 + o.srci * 2 ^ 32
    + (match o.ctx with | some c => 2 ^ 31 + c % 8 * 2 ^ 28 | none => 0) + code % 65536)

/-- Write a record, or count it as lost when the log is full. -/
def Log.write (g : Log) (r : BitVec 256) : Log :=
  if g.used < 256 then
    { g with recs := AMap.set g.recs g.head r, head := (g.head + 1) % 256, used := g.used + 1, num := (g.num + 1) % 2 ^ 32 }
  else { g with lost := satInc 24 g.lost }

/-- The codes whose effect is FAULT (R281), with ADDR_RANGE and QUOTA_DENIED by source (R283): a core, a stream entry
and a ripener command. -/
def isFault (code : Nat) (o : Origin) : Bool :=
  code ∈ [0x0101, 0x0102, 0x0105, 0x0106, 0x0107, 0x0109, 0x010A, 0x010B, 0x010C, 0x0203] ||
  (code = 0x0104 && (o.kind = 0 || o.kind = 1 || o.kind = 3)) || (code = 0x0306 && o.kind = 1)

/-- Write the record of a code, raise its vector and its HUB_ALERT bit, and start the waves armed for its class. -/
def State.record (s : State) (code : Nat) (o : Origin) : State :=
  let l := logOf code o
  let g := s.log l
  let wrote := decide (g.used < 256)
  let s := s.setLog l (g.write (eventRecord code o s.hubTick g.num))
  if wrote then
    let s := s.vector (if l = 8 then 72 else if l = 9 then 73 else 64 + l)
    let s := if l = 8 then s.setField .hubAlert [] 2 2 1 else if l = 9 then s.setField .hubAlert [] 3 3 1 else s
    s.classTriggers l (code / 256) (List.range 8)
  else s

/-! ### Counters (R289) -/

/-- The stored word of a counter after an increment: it saturates at all-ones of 48 bits. -/
def ctrAdd (w : BitVec 64) (k : Nat) : BitVec 64 :=
  let v := wbits w 47 0 + k
  if v < 2 ^ 48 - 1 then wput w 47 0 v else word [(2 ^ 48 - 1, 0), (1, 63)]

/-- Add to a counter of the HOOP layout; reaching all-ones sets SAT and raises COUNTER_SAT once, with the counter's
BAR0 address in DETAIL. -/
def State.bump (s : State) (n : RegName) (i : List Nat) (k : Nat) (ctx : Option Nat) (kind index : Nat) : State :=
  if k = 0 then s
  else
    let w := s.reg n i
    let w' := ctrAdd w k
    let s := s.setReg n i w'
    if wbits w 63 63 = 0 ∧ wbits w' 63 63 = 1 then
      s.record 0x0801 { kind := kind, index := index, ctx := ctx, detail := BitVec.ofNat 64 (regAddr n i) }
    else s

/-! ### Raising a code (R281 to R284) -/

/-- R284: a raise of POISON_CONSUMED or REDUCE_POISON taints the step of the record. -/
def State.taint (s : State) (c : Nat) (step : BitVec 64) : State :=
  (s.modCtx c fun x =>
    { x with tainted := true, taintFirst := if x.tainted then x.taintFirst else step, taintLast := step }).bump
      .taintCnt [c] 1 (some c) 10 0

/-- Raise a code: its record, its taint, and for a FAULT code the halt that `CONTEXT_FAULT_HALT` carries out (R281). -/
def State.raise (s : State) (code : Nat) (o : Origin) : State :=
  let s := s.record code o
  match o.ctx with
  | none => s
  | some c =>
    let s := if code = 0x0304 ∨ code = 0x0403 then s.taint c o.step else s
    if isFault code o then s.modCtx c fun x => { x with faults := x.faults ++ [(code, o.kind, o.srci)] } else s

/-- The context of a core that belongs to one: an assigned core's. -/
def Core.owner (k : Core) : Option Nat := if k.slot.isSome then some k.ctx else none

/-- Add to a counter of a core. -/
def State.bumpCore (s : State) (n : RegName) (i : List Nat) (k c : Nat) : State :=
  s.bump n i k (s.core c).owner 0 c

/-- Add to a counter of an array. -/
def State.bumpSide (s : State) (n : RegName) (c : Nat) (x : Side) (k : Nat) : State := s.bumpCore n (sideIdx c x) k c

/-- The context that a cluster belongs to. -/
def State.clusterCtx (s : State) (k : Nat) : Option Nat :=
  (List.range 8).find? fun c =>
    let x := s.ctx c
    x.valid && decide (x.first ≤ k ∧ k < x.first + x.count)

/-- A fault of a core on its present beat (R281): CORE_FAULT holds the code and the beat, a running or frozen core enters FAULTED,
and the event is raised. -/
def State.coreFault (s : State) (c code : Nat) (step : BitVec 64) : State :=
  let k := s.core c
  let s := s.setReg .coreFault (coreIdx c) (word [(code, 48), (k.sbc % 2 ^ 48, 0)])
  let s := s.modCore c fun k =>
    match k.st with
    | .running | .frozen => { k with st := .faulted, seqr := { k.seqr with frz := none, decStop := true } }
    | _ => k
  s.raise code { kind := 0, index := c, ctx := k.owner, step := step, detail := BitVec.ofNat 64 (k.sbc % 2 ^ 48) }

/-- The SEQ_FAULT word of an instruction. -/
def seqFaultWord (e : QEntry) (cause lateBy : Nat) : BitVec 64 :=
  word [(e.opcode, 56), (e.engine, 52), (e.pc, 36), (e.bank, 35), (if e.stream = .bwd then 1 else 0, 34), (lateBy, 8), (cause, 0)]

/-- A fault of the sequencer at an instruction: SEQ_FAULT, then the fault of the core. -/
def State.seqFault (s : State) (c : Nat) (e : QEntry) (code cause lateBy : Nat) : State :=
  (s.recordFault .seqFault (coreIdx c) 7 (seqFaultWord e cause lateBy)).coreFault c code e.step

/-- Halt a context by an event (R282): its cores stop as at the HALT command and EVHALT is set. -/
def Core.halt (k : Core) : Core :=
  match k.st with
  | .running | .frozen => { k with st := .halted }
  | _ => k

end Sys2Proof.Machine
end

