-- ==== Sys2Proof/Machine/Operands.lean ====
section
/-!
DEFINITION. Instruction words and descriptors (*Core Sequencer and Instruction Set*, Encodings): the fields of an
instruction, the descriptor kinds, and the resolution of every operand form at decode with the checks of R21, R29, R35,
R48, R57, R68, R83, R100, R123, R175, R306 and the encodings table.
-/
namespace Sys2Proof.Machine

/-- What a refused instruction raises: the code and SEQ_FAULT.CAUSE. -/
abbrev Refuse := Nat × Nat

/-- ILLEGAL_OP with a cause. -/
def illegal (cause : Nat) : Refuse := (0x0105, cause)

/-- ADDR_RANGE at decode. -/
def addrRange : Refuse := (0x0104, 3)

/-- Fail unless a check holds. -/
def need (p : Bool) (r : Refuse) : Except Refuse Unit := if p then .ok () else .error r

/-- Fields of an instruction word. -/
def opcodeOf (w : Nat) : Nat := bits w 63 56
def engineOf (w : Nat) : Nat := bits w 55 52
def offsetOf (w : Nat) : Nat := bits w 51 36

/-- The opcode table: the engine numbers an opcode may be issued to, none for an opcode it does not list (R54). -/
def enginesOf (op : Nat) : List Nat :=
  if op ≤ 0x05 ∨ (0x08 ≤ op ∧ op ≤ 0x0C) ∨ op = 0x0F then [0]
  else if 0x10 ≤ op ∧ op ≤ 0x14 then [1, 2]
  else if 0x20 ≤ op ∧ op ≤ 0x2F then [3]
  else if op = 0x40 ∨ op = 0x41 then [4]
  else if 0x50 ≤ op ∧ op ≤ 0x54 then [5]
  else if op = 0x60 ∨ op = 0x61 then [6]
  else if 0x70 ≤ op ∧ op ≤ 0x73 then [7]
  else if op = 0x80 ∨ op = 0x81 then [8]
  else if op = 0x90 ∨ op = 0x91 then [9]
  else []

/-- The operand bits marked RSV, as `(hi, lo)` pairs (tables of operands). -/
def reservedOf (w : Nat) : List (Nat × Nat) :=
  match opcodeOf w with
  | 0x00 | 0x05 | 0x09 | 0x0C | 0x0F | 0x91 => [(35, 0)]
  | 0x01 => [(24, 0)]
  | 0x02 => [(8, 0)]
  | 0x03 => [(20, 0)]
  | 0x04 => [(7, 0)]
  | 0x08 => if bit w 35 then [(34, 17)] else []
  | 0x0A => [(28, 0)]
  | 0x0B => [(23, 0)]
  | 0x10 => [(21, 0)]
  | 0x13 => if bit w 35 then [(34, 33), (1, 0)] else [(1, 0)]
  | 0x14 => [(34, 0)]
  | 0x2B => [(3, 0)]
  | 0x2E | 0x2F => [(10, 0)]
  | 0x50 | 0x54 => [(3, 0)]
  | 0x51 => [(23, 0)]
  | 0x52 => [(26, 0)]
  | 0x53 => [(10, 0)]
  | 0x61 => [(2, 0)]
  | 0x70 | 0x71 | 0x72 | 0x73 => [(2, 0)]
  | 0x80 => [(30, 0)]
  | 0x81 => [(29, 0)]
  | op => if 0x20 ≤ op ∧ op ≤ 0x2D then [(9, 0)] else []

/-- R54, second check: every RSV operand bit is 0. -/
def reservedClear (w : Nat) : Bool := (reservedOf w).all fun p => bits w p.1 p.2 == 0

/-- R55: the decode-time instructions. -/
def isDecodeTime (w : Nat) : Bool := opcodeOf w = 0x0A || opcodeOf w = 0x90 || (opcodeOf w = 0 && offsetOf w = 0)

/-- What the operand checks read beside the word: the stream's Q registers and descriptor table, the layout, and what
the loaded context gives. -/
structure DecEnv where
  q : Nat → Nat
  desc : Nat → BitVec 128
  two : Bool
  folded : Bool
  paced : Bool
  streams : Nat
  harpBytes : Nat

/-- A descriptor of the wanted KIND: index 0xFF names no entry, and in the two-stream layout indices run to 126 (R57). -/
def DecEnv.descOf (v : DecEnv) (i kind : Nat) : Except Refuse Nat := do
  let d := (v.desc i).toNat
  need (decide (i < 255) && (!v.two || decide (i ≤ 126)) && bits d 127 124 == kind) (illegal 3)
  return d

/-- The size limit of a space: 24 MiB of local SRAM, 128 MiB of cluster memory. -/
def spaceLimit (clm : Bool) : Nat := if clm then 0x08000000 else 0x01800000

/-- R57: a memory descriptor. `n` vectors of `size` bytes are touched, the first being vector `first`; `size = none`
leaves the extent to R313. -/
def DecEnv.memRef (v : DecEnv) (i first n : Nat) (size : Option Nat) (clmOk : Bool) : Except Refuse MemRef := do
  let d ← v.descOf i 1
  let clm := bit d 123
  let base := bits d 122 96
  let stride := bits d 95 76
  let addr := base + v.q (bits d 75 71) * 2 ^ bits d 70 66
  need (clmOk || !clm) (illegal 3)
  need (base % 64 == 0 && stride % 64 == 0 && addr % 64 == 0) (illegal 3)
  match size with
  | none => pure ()
  | some z => need (decide (addr + stride * (first + n - 1) + z ≤ spaceLimit clm)) addrRange
  return ⟨clm, addr, stride, sint 8 (bits d 65 58)⟩

/-- A tag descriptor with its Q offsets (R57, R100). -/
def DecEnv.tagRef (v : DecEnv) (i : Nat) : Except Refuse TagRef := do
  let d ← v.descOf i 2
  need (decide (bits d 59 56 ≤ 8)) (illegal 3)
  return ⟨bits d 123 100, (bits d 99 80 + v.q (bits d 54 50)) % 2 ^ 20, (bits d 79 60 + v.q (bits d 49 45)) % 2 ^ 20,
    bits d 59 56, bit d 55⟩

/-- A key descriptor with its Q offset. -/
def DecEnv.keyRef (v : DecEnv) (i : Nat) : Except Refuse KeyRef := do
  let d ← v.descOf i 3
  return ⟨bits d 123 100, (bits d 99 60 + v.q (bits d 35 31) * bits d 30 0) % 2 ^ 40, bits d 59 36⟩

/-- A format code (R100). -/
def fmtRef (c : Nat) : Except Refuse Fmt :=
  match Fmt.ofCode c with | some f => .ok f | none => .error (illegal 3)

/-- Bytes of one vector of an array operand or a converted vector of 128 elements; an MX vector carries its scale bytes
behind its elements, and an MXFP4 operand vector has 256 elements (assumption log 20). -/
def Fmt.vecBytes : Fmt → Nat
  | .mxfp4 => 136
  | .mxint8 => 132
  | f => f.rowBytes

/-- Bytes that one converted vector of 128 elements takes (R307 packing). -/
def Fmt.outBytes : Fmt → Nat
  | .mxfp4 => 68
  | .mxint8 => 132
  | f => f.rowBytes

/-- A row descriptor (KIND 4) with its Q registers: its KIND, a format code (R100), and BASE a multiple of 64. -/
def DecEnv.rowRef (v : DecEnv) (i : Nat) : Except Refuse RowRef := do
  let d ← v.descOf i 4
  let f ← fmtRef (bits d 56 53)
  need (bits d 123 97 % 64 == 0) (illegal 3)
  return { base := bits d 123 97, estride := 64 * bits d 96 81, len := bits d 80 57 + 1, fmt := f, rows := bits d 52 46 + 1,
           stat := bits d 45 29 + v.q (bits d 28 24), qpos := v.q (bits d 23 19) % 2 ^ 24, qq := v.q (bits d 18 14) % 2 ^ 24,
           causal := bit d 13, eps := bits d 12 8, oscale := sint 8 (bits d 7 0) }

/-- The bytes of one element of a row. -/
def RowRef.size (r : RowRef) : Nat := r.fmt.rowBytes / 128

/-- The bytes that one element of all rows of the block takes. -/
def RowRef.span (r : RowRef) : Nat := (r.rows * r.fmt.rowBytes + 127) / 128

/-- Whether `n` pieces of `z` bytes, `estride` apart from BASE, lie within cluster memory. -/
def RowRef.within (r : RowRef) (n z : Nat) : Bool := decide (r.base + r.estride * (n - 1) + z ≤ 0x08000000)

/-- What R123 asks of a descriptor beside its KIND and its extent: the rows of an element fit in ESTRIDE, FMT is one of the
five float formats, and with CAUSAL set the positions stay within 2 ^ 24. -/
def RowRef.sound (r : RowRef) : Bool :=
  decide (r.span ≤ r.estride) && r.fmt.float?.isSome &&
    (!r.causal || (decide (r.qpos + r.len ≤ 2 ^ 24) && decide (r.qq + r.rows ≤ 2 ^ 24)))

/-- The extents in cluster memory of a harp command: `(n, z)` pieces at DESC and at DESC2 (table of harp operations, R130). -/
def harpExtents (op mode r : Nat) (d1 : RowRef) (d2 : Option RowRef) : Bool :=
  (if op = 3 then d1.within r (4 * d1.len)
   else if op = 0 ∧ (mode = 4 ∨ mode = 5) then d1.within 7 512
   else if (op = 0 ∧ mode = 0) ∨ (op = 2 ∧ mode = 7) then true
   else d1.within d1.len d1.span) &&
    (match d2 with
     | none => true
     | some d => if op = 0 then d.within 1 512 else d.within d.len d.span)

/-- R123 and R130: a harp command resolved at decode, in the order of R57 and R123: every KIND, the MODE that says what is
used, the extents, the records, then the other conditions. -/
def DecEnv.harp (v : DecEnv) (w : Nat) : Except Refuse HarpCmd := do
  let op := opcodeOf w - 0x70
  let mode := bits w 5 3
  let ki := bits w 13 6
  let d1 ← v.rowRef (bits w 35 28)
  let key ← if ki = 255 then pure none else (v.keyRef ki).map some
  let d2 ← if op = 3 ∨ bits w 21 14 = 255 then pure none else (v.rowRef (bits w 21 14)).map some
  need (decide (mode ≤ match op with | 0 => 5 | 1 => 3 | 2 => 7 | _ => 0)) (illegal 3)
  let needs2 := (op = 0 && mode = 2) || op = 1 || (op = 2 && mode < 7)
  need (!needs2 || d2.isSome) (illegal 3)
  let r := if op = 3 then bits w 21 14 + 1 else 0
  let d2 := if needs2 then d2 else none
  need (harpExtents op mode r d1 d2) addrRange
  need (op == 3 || decide ((d1.stat + d1.rows) * 32 ≤ v.harpBytes)) addrRange
  need (d1.sound && (match d2 with | some d => d.sound && d.len == d1.len && d.rows == d1.rows | none => true)) (illegal 3)
  need (!(op = 0 && (mode = 4 || mode = 5)) || (d1.len == 7 && d1.fmt == .fp32)) (illegal 3)
  need (op != 3 || (d1.fmt == .fp32 && decide (d1.len ≤ 65536) && decide (4 * d1.len ≤ d1.estride))) (illegal 3)
  need (!(op = 1 || (op = 2 && 4 ≤ mode && mode ≤ 6)) || key.isSome) (illegal 3)
  return ⟨op, mode, d1, d2, r, key, bits w 27 22⟩

/-- The operation of a vector opcode. -/
def vopOf : Nat → Option VOp
  | 0x20 => some .add | 0x21 => some .sub | 0x22 => some .mul | 0x23 => some .fma | 0x24 => some .max | 0x25 => some .min
  | 0x26 => some .exp2 | 0x27 => some .log2 | 0x28 => some .rcp | 0x29 => some .rsq | 0x2A => some .sel
  | 0x2C => some .reds | 0x2D => some .redm
  | _ => none

/-- TYPE codes. -/
def lanesOf : Nat → Lanes
  | 0 => .fp32 | 1 => .bf16 | 2 => .fp16 | _ => .int32

/-- R83: the operations that accept INT32 lanes. -/
def VOp.intOk : VOp → Bool
  | .add | .sub | .mul | .max | .min | .sel => true
  | _ => false

/-- A direction bit. -/
def dirOf (b : Bool) : Dir := if b then .ccw else .cw

/-- An array bit. -/
def sideOf (b : Bool) : Side := if b then .b else .a

/-- Ladle weight units and scale units of an operation (*The ladle*). -/
def ladleUnits (rows chunks lfmt : Nat) : Nat :=
  let u := rows / 16 * chunks
  u + (if lfmt = 0 then (u + 15) / 16 else if lfmt = 1 then (u + 31) / 32 else 0)

/-- The source operand of PRESS, MUL and MULX: index 0xFF is the tile buffer. -/
def DecEnv.arraySrc (v : DecEnv) (i n : Nat) (f : Fmt) : Except Refuse Src :=
  if i = 255 then .ok .special else (v.memRef i 0 n (some f.vecBytes) false).map .mem

/-- Resolve a boundary, a timed marker or an engine command, with the checks of its operation in the order its rules
state them; decode-time instructions and the loop and bank checks are the sequencer's. -/
def DecEnv.resolve (v : DecEnv) (w : Nat) : Except Refuse Cmd :=
  match opcodeOf w with
  | 0x00 => .ok .nop
  | 0x01 => do
    let t ← v.tagRef (bits w 32 25)
    return .gateArrive (dirOf (bit w 35)) (bit w 34) (bit w 33) t
  | 0x02 => .ok (.gateStream (bits w 35 30) ((bits w 24 9 + v.q (bits w 29 25)) % 65536))
  | 0x03 => .ok (.gateArray (sideOf (bit w 35)) (bit w 34) (bits w 33 26 + v.q (bits w 25 21)))
  | 0x04 => do
    need (bit w 35 || decide (bits w 34 29 < 16)) (illegal 3)
    return .gateBarrier (bit w 35) (bits w 34 29) ((bits w 23 8 + v.q (bits w 28 24)) % 65536)
  | 0x05 => do need v.paced (illegal 9); return .gateTime
  | 0x08 => .ok .loop
  | 0x09 => .ok .lend
  | 0x0B => .ok .bank
  | 0x0C => .ok .mark
  | 0x0F => .ok .halt
  | 0x10 => do
    let f ← fmtRef (bits w 26 23)
    let s ← v.arraySrc (bits w 35 28) 128 f
    return .press s (bit w 27) f (bit w 22)
  | 0x11 => do
    let f ← fmtRef (bits w 16 13)
    let n := bits w 27 17 + 1
    need (bits w 11 5 == 0) (illegal 3)
    need (bits w 35 28 != 255 || n % (if f = .mxfp4 then 256 else 128) == 0) (illegal 3)
    let s ← v.arraySrc (bits w 35 28) n f
    return .mul s n f (bit w 12) (sint 8 (v.q (bits w 4 0)))
  | 0x12 => do
    let f ← fmtRef (bits w 16 13)
    let n := bits w 27 17 + 1
    let m ← match bits w 6 5 with
      | 0 => pure MulMode.start | 1 => pure MulMode.add | 2 => pure MulMode.addEmit | _ => .error (illegal 3)
    need (bits w 35 28 != 255 || n % (if f = .mxfp4 then 256 else 128) == 0) (illegal 3)
    need (decide (v.q (bits w 11 7) + n ≤ 2048)) (illegal 3)
    let s ← v.arraySrc (bits w 35 28) n f
    return .mulx s n f (bit w 12) (sint 8 (v.q (bits w 4 0))) (v.q (bits w 11 7)) m
  | 0x13 => do
    let n := bits w 26 21 + 1
    need (decide (bits w 11 10 < 2)) (illegal 3)
    let f ← if bit w 35 then pure Fmt.fp32 else fmtRef (bits w 20 17)
    need (!bit w 35 || decide (bits w 32 27 + n ≤ 64)) (illegal 3)
    -- every KIND before the extent (R57)
    let k ← v.keyRef (bits w 9 2)
    let dst ← if bit w 35 then pure (DrainDst.vreg (bits w 32 27))
      else (v.memRef (bits w 34 27) 0 n (some f.outBytes) true).map DrainDst.mem
    return .drain dst n f (sint 8 (v.q (bits w 16 12))) (bits w 11 10 == 1) k
  | 0x14 => .ok (.skipdw (bit w 35))
  | 0x2B => do
    let f ← fmtRef (bits w 23 20)
    need (decide (bits w 18 17 < 2)) (illegal 3)
    let k ← v.keyRef (bits w 11 4)
    return .vcvt (bits w 35 30) (bits w 29 24) f (bit w 19) (bits w 18 17 == 1) (sint 8 (v.q (bits w 16 12))) k
  | 0x2E => do
    let m ← v.memRef (bits w 29 22) (bits w 21 11) 1 (some 512) true
    return .vld (bits w 35 30) { m with base := m.base + m.stride * bits w 21 11 }
  | 0x2F => do
    let m ← v.memRef (bits w 29 22) (bits w 21 11) 1 (some 512) true
    return .vst (bits w 35 30) { m with base := m.base + m.stride * bits w 21 11 }
  | 0x40 | 0x41 => do
    let rows := 16 * (bits w 27 25 + 1)
    let chunks := bits w 24 18 + 1
    let m ← v.memRef (bits w 35 28) 0 1 (some (2048 * ladleUnits rows chunks (bits w 2 0))) false
    return .ladle { acc := opcodeOf w = 0x41, w := m, rows := rows, chunks := chunks, x := bits w 17 12, vd := bits w 11 6,
                    rate := bits w 5 4 + 1, emit := bit w 3, lfmt := bits w 2 0 }
  | 0x50 | 0x54 => do
    let turn := opcodeOf w = 0x54
    need (turn || (decide (bits w 19 12 ≠ 0) && decide (bits w 19 12 ≠ 255))) (illegal 3)
    need (!(v.folded && bit w 11)) (illegal 3)
    let t ← v.tagRef (bits w 27 20)
    let f ← fmtRef t.fmt
    let s ← if bits w 35 28 = 255 then pure Src.special
      else (v.memRef (bits w 35 28) 0 1 (some (f.payload + f.scales)) false).map Src.mem
    return .inject { turn := turn, src := s, tag := t, hops := if turn then 255 else bits w 19 12, dir := dirOf (bit w 11),
                     frozen := bit w 10, par := bit w 9, scaleExp := v.q (bits w 8 4) % 256 }
  | 0x51 => do
    let m ← if bits w 33 32 = 3 then (v.memRef (bits w 31 24) 0 1 none false).map some else pure none
    return .recv (dirOf (bit w 35)) (bit w 34) (bits w 33 32) m
  | 0x52 => do need (bits w 34 27 != 0) (illegal 3); return .pass (dirOf (bit w 35)) (bits w 34 27)
  | 0x53 => .ok (.retire (dirOf (bit w 35)) (bits w 34 11))
  | 0x60 => do
    let e := bits w 29 14 + v.q (bits w 13 9)
    need (decide (bits w 35 30 < v.streams) && decide (e + bits w 8 0 ≤ 65535)) (illegal 3)
    return .arm (bits w 35 30) e (bits w 8 0 + 1)
  | 0x61 => do
    need (decide (bits w 35 30 < v.streams) && decide (bits w 29 24 < v.streams)) (illegal 3)
    return .waitst (bits w 35 30) (bits w 29 24) ((bits w 23 8 + v.q (bits w 7 3)) % 65536)
  | 0x70 | 0x71 | 0x72 | 0x73 => (v.harp w).map .harp
  | 0x80 => .ok (.bar (bits w 35 32) (bit w 31))
  | 0x81 => .ok (.flag (bits w 35 30))
  | 0x91 => .ok .rind
  | op =>
    match vopOf op with
    | some o => do
      need (o.intOk || bits w 11 10 != 3) (illegal 3)
      return .vec o (bits w 35 30) (bits w 29 24) (bits w 23 18) (bits w 17 12) (lanesOf (bits w 11 10))
    | none => .error (illegal 0)

end Sys2Proof.Machine
end

