-- ==== Sys2Proof/Machine/Ops.lean ====
section
/-!
DEFINITION. The shared operations: reading and writing tier space with its poison marks, tiles and their tags, the
sources of an event, halting, and the start of the command at the head of an engine's queue.
-/
namespace Sys2Proof.Machine

/-- A region's clock is stopped (R233): 0 to 15 the clusters, 16 to 18 the hub. -/
def State.regionStopped (s : State) (r : Nat) : Bool := s.field .clkRegion [r] 2 2 == 1

/-- A cluster's region that has not relocked within 1 ms: it stays stopped until the module is reset (R233). -/
def State.regionDead (s : State) (r : Nat) : Bool := s.regionStopped r && (AMap.find? s.dev.clk.unlocks r).isNone

/-- What a unit of region `r` does on a command happens only while the region's clock runs (R233). -/
def State.clockedBy (s : State) (r : Nat) (f : State → State) : State := if s.regionStopped r then s else f s

/-! ### Tier space -/

/-- Read bytes of tier space. -/
def State.bytes (s : State) (a n : Nat) : List Byte := Mem.readN s.mem a n

/-- The poisoned 32-byte sectors that `[a, a + n)` touches, as sector numbers of tier space. -/
def State.badIn (s : State) (a n : Nat) : List Nat := s.bad.filter fun x => decide (a / 32 ≤ x ∧ x * 32 < a + n)

/-- Mark or clear the sectors of a written range: a poisoned write marks every sector it touches; a clean one clears
those it writes whole (R182, R183). -/
def markSectors (bad : List Nat) (a n : Nat) (poison : Bool) : List Nat :=
  if n = 0 then bad
  else if poison then
    (List.range ((a + n - 1) / 32 - a / 32 + 1)).foldl (fun l i => insertNat l (a / 32 + i)) bad
  else removeNats bad ((a + 31) / 32) ((a + n) / 32)

/-- Write bytes of tier space. -/
def State.put (s : State) (a : Nat) (d : List Byte) (poison : Bool) : State :=
  { s with mem := Mem.writeN s.mem a d, bad := markSectors s.bad a d.length poison }

/-- Write bytes, then mark the sectors of the data that are poisoned (`bad` counts sectors from the first byte). -/
def State.putWith (s : State) (a : Nat) (d : List Byte) (bad : List Nat) : State :=
  let s := s.put a d false
  { s with bad := bad.foldl (fun l i => insertNat l (a / 32 + i)) s.bad }

/-- The tier-space address of a resolved memory descriptor's vector `n`, for core `c`. -/
def MemRef.addr (m : MemRef) (c n : Nat) : Nat :=
  if m.clm then clusterAddr (clusterOf c) (m.base + m.stride * n) else localAddr c (m.base + m.stride * n)

/-! ### Tile tags (R17, R18) -/

/-- The tag as a 256-bit number; its reserved bits 71 and 239 to 88 are kept in `rsv`, lowest first. -/
def Tag.word (t : Tag) : Nat :=
  t.tensor % 2 ^ 24 + t.row % 2 ^ 20 * 2 ^ 24 + t.col % 2 ^ 20 * 2 ^ 44 + t.fmt % 16 * 2 ^ 64
    + (b2n t.parity) * 2 ^ 68 + (b2n t.frozen) * 2 ^ 69 + (b2n t.poison) * 2 ^ 70 + t.rsv % 2 * 2 ^ 71
    + t.scaleExp % 256 * 2 ^ 72 + t.hops % 256 * 2 ^ 80 + t.rsv / 2 % 2 ^ 152 * 2 ^ 88 + t.check % 65536 * 2 ^ 240

/-- R18: the CRC-16 of tag bytes 0 to 29, with HOPS and POISON as zero. -/
def Tag.crc (t : Tag) : Nat := crc16 (leBytes 30 ({ t with hops := 0, poison := false, check := 0 } : Tag).word)

/-- The tag with its CHECK. -/
def Tag.seal (t : Tag) : Tag := { t with check := t.crc }

/-- HOOP_TAGCAP0 to 3: the tag's four words, where HOOP_FAULT records one. -/
def State.captureTag (s : State) (c : Nat) (t : Tag) : Nat → State
  | 0 => s
  | n + 1 =>
    State.captureTag (s.setReg .hoopTagcap (coreIdx c ++ [n]) (BitVec.ofNat 64 (t.word / 2 ^ (64 * n)))) c t n

/-- Record a tag fault: HOOP_FAULT and the captured tag, kept while VALID is 1. -/
def State.hoopFault (s : State) (c cause : Nat) (d : Dir) (t : Tag) : State :=
  if s.field .hoopFault (coreIdx c) 8 8 = 1 then s
  else (s.setReg .hoopFault (coreIdx c) (word [(1, 8), (match d with | .cw => 0 | .ccw => 1, 3), (cause, 0)])).captureTag c t 4

/-! ### Streams of a core -/

/-- A stream of the sequencer. -/
def SeqS.strm (q : SeqS) : StreamSel → Strm
  | .fwd => q.fwd
  | .bwd => q.bwd

/-- Replace a stream. -/
def SeqS.setStrm (q : SeqS) (x : StreamSel) (t : Strm) : SeqS :=
  match x with
  | .fwd => { q with fwd := t }
  | .bwd => { q with bwd := t }

/-- A Q register; Q0 reads zero (R56). -/
def Strm.qreg (t : Strm) (n : Nat) : Nat := if n = 0 then 0 else (AMap.get t.q 0 n).toNat

/-- Write a Q register; a write of Q0 changes nothing (R56). -/
def Strm.setQ (t : Strm) (n v : Nat) : Strm := if n = 0 then t else { t with q := AMap.set t.q n (BitVec.ofNat 32 v) }

/-- The key of a bank or half: bank number, and the half that a stream uses in the two-stream layout. -/
def bankKey (two : Bool) (x : StreamSel) (bank : Nat) : Nat := 2 * bank + (if two && x == .bwd then 1 else 0)

/-- A bank or half. -/
def SeqS.bankOf (q : SeqS) (x : StreamSel) (bank : Nat) : Bank := AMap.get q.banks {} (bankKey q.two x bank)

/-- Replace a bank or half. -/
def SeqS.setBank (q : SeqS) (x : StreamSel) (bank : Nat) (b : Bank) : SeqS :=
  { q with banks := AMap.set q.banks (bankKey q.two x bank) b }

/-- The queue of an engine. -/
def SeqS.queue (q : SeqS) (e : Nat) : List QEntry := AMap.get q.queues [] e

/-- Replace the queue of an engine. -/
def SeqS.setQueue (q : SeqS) (e : Nat) (l : List QEntry) : SeqS := { q with queues := AMap.set q.queues e l }

/-- Change the sequencer of a core. -/
def Core.modSeq (k : Core) (f : SeqS → SeqS) : Core := { k with seqr := f k.seqr }

/-- An array of a core. -/
def Core.arr (k : Core) : Side → ArrayS
  | .a => k.arrA
  | .b => k.arrB

/-- Replace an array. -/
def Core.setArr (k : Core) (x : Side) (r : ArrayS) : Core :=
  match x with
  | .a => { k with arrA := r }
  | .b => { k with arrB := r }

/-- Beats counted modulo 2 ^ 48 (R59). -/
def beatMod : Nat := 2 ^ 48

/-- `(x − y) mod 2 ^ 48`. -/
def beatSub (x y : Nat) : Nat := (x + beatMod - y % beatMod) % beatMod

/-- Whether beat `x` has been reached at beat `now`. -/
def beatReached (now x : Nat) : Bool := decide (beatSub now x < 2 ^ 47)

/-- Whether a core runs or is frozen. -/
def Core.live (k : Core) : Bool := k.st == .running || k.st == .frozen

/-! ### Cluster memory between the cores of a cluster (R14) -/

/-- Change what is kept of visibility. -/
def State.modClm (s : State) (f : ClmS → ClmS) : State := { s with dev := { s.dev with clm := f s.dev.clm } }

/-- The 64-byte words that `[a, a + n)` touches. -/
def words64 (a n : Nat) : List Nat :=
  if n = 0 then [] else (List.range ((a + n - 1) / 64 - a / 64 + 1)).map (a / 64 + ·)

/-- Whether a higher core has written a word in the present MCLK, which is two ACLK periods, counted from the first (R14; which
periods pair up is a DESIGN CHOICE, assumption log 108). -/
def State.clmLoses (s : State) (c w : Nat) : Bool :=
  match AMap.find? s.dev.clm.words w with
  | some m => decide (c < m.writer ∧ m.mclk = s.dev.period / 2)
  | none => false

/-- Core `c` writes the part of its data that lies in one word; the word's old and new bytes are noted. -/
def State.clmPut (s : State) (c a : Nat) (d : List Byte) (p : Bool) (w : Nat) : State :=
  let lo := max a (64 * w)
  let old := s.bytes (64 * w) 64
  let t := s.put lo ((d.drop (lo - a)).take (min (a + d.length) (64 * w + 64) - lo)) p
  t.modClm fun m => { m with seq := m.seq + 1, words := AMap.set m.words w ⟨c, m.seq + 1, s.dev.period / 2, old, t.bytes (64 * w) 64⟩ }

/-- Core `c` writes cluster memory, word by word; of two writes of a word in one MCLK the higher core's stands.
Where a higher core's shorter write comes second, the lower core's other bytes of the word stay (DESIGN CHOICE, assumption log
108). -/
def State.clmStore (s : State) (c a : Nat) (d : List Byte) (p : Bool) : State :=
  (words64 a d.length).foldl (fun s w => if s.clmLoses c w then s else s.clmPut c a d p w) s

/-- The last write of core `j` that is visible to core `r`. -/
def ClmS.visible (m : ClmS) (r j : Nat) : Nat := if r = j then m.seq else AMap.get m.seen 0 (r, j)

/-- Whether a read of a word by core `c` may return its old or its new value: another core wrote it last, and the two have not
synchronised since. -/
def State.clmOpen (s : State) (c w : Nat) : Bool :=
  match AMap.find? s.dev.clm.words w with
  | some m => decide (s.dev.clm.visible c m.writer < m.seq) && m.new == s.bytes (64 * w) 64
  | none => false

/-- The bytes of words as core `c` reads them, the reads of open words numbered from `n`; with the number of the next. -/
def State.clmWords (s : State) (c : Nat) : List Nat → Nat → List Byte × Nat
  | [], n => ([], n)
  | w :: ws, n =>
    match s.clmOpen c w, AMap.find? s.dev.clm.words w with
    | true, some m =>
      let r := State.clmWords s c ws (n + 1)
      ((if Config.clmOld n then m.old else m.new) ++ r.1, r.2)
    | _, _ =>
      let r := State.clmWords s c ws n
      (s.bytes (64 * w) 64 ++ r.1, r.2)

/-- Core `c` reads bytes of tier space. -/
def State.coreRead (s : State) (c a n : Nat) : State × List Byte :=
  if (words64 a n).any (s.clmOpen c) then
    let r := s.clmWords c (words64 a n) s.dev.clm.draws
    (s.modClm fun m => { m with draws := r.2 }, (r.1.drop (a % 64)).take n)
  else (s, s.bytes a n)

/-- Bytes that another writer than a core (stream engine, harp, flow, host) has written are what every core reads from now on. -/
def State.clmOver (s : State) (a n : Nat) : State :=
  let ws := words64 a n
  s.modClm fun m => { m with words := m.words.filter fun p => decide (p.1 ∉ ws) }

/-- Write bytes of tier space as a unit other than a core does. -/
def State.putShared (s : State) (a : Nat) (d : List Byte) (poison : Bool) : State := (s.put a d poison).clmOver a d.length

/-- The same with poisoned sectors of the data marked. -/
def State.putWithShared (s : State) (a : Nat) (d : List Byte) (bad : List Nat) : State := (s.putWith a d bad).clmOver a d.length

/-- The cores that have written noted words. -/
def ClmS.writers (m : ClmS) : List Nat := (m.words.map fun p => p.2.writer).foldl insertNat []

/-- Drop the words whose last write every other core of the cluster with a slot sees, once the MCLK of the write is over. -/
def State.clmPrune (s : State) : State :=
  s.modClm fun m =>
    { m with words := m.words.filter fun p =>
        p.2.mclk == s.dev.period / 2 || (List.range 4).any fun i =>
          let r := 4 * clusterOf p.2.writer + i
          (s.core r).slot.isSome && decide (m.visible r p.2.writer < p.2.seq) }

/-- A core learns of writes: by writer, the last write that is visible to it now. -/
def ClmS.learn (m : ClmS) (r : Nat) (l : AMap Nat Nat) : ClmS :=
  { m with seen := l.foldl (fun t p => AMap.set t (r, p.1) (max p.2 (AMap.get t 0 (r, p.1)))) m.seen }

/-- What a core passes on when it synchronises. -/
def ClmS.clock (m : ClmS) (c : Nat) : AMap Nat Nat := m.writers.map fun j => (j, m.visible c j)

/-- Cores that have synchronised with each other see each other's writes, and those that each has seen (SYNC.BAR). -/
def State.clmMeet (s : State) (ps : List Nat) : State :=
  (s.modClm fun m => ps.foldl (fun m' r => ps.foldl (fun m' q => m'.learn r (m.clock q)) m') m).clmPrune

/-- A post of a flag carries what its core sees (SYNC.FLAG). -/
def State.clmPost (s : State) (c f : Nat) : State :=
  s.modClm fun m =>
    let key := (clusterOf c, f)
    { m with flags := AMap.set m.flags key ((m.clock c).foldl (fun t p => AMap.set t p.1 (max p.2 (AMap.get t 0 p.1)))
        (AMap.get m.flags [] key)) }

/-- A core whose gate on a flag opens sees what the flag's posts carry. -/
def State.clmFlag (s : State) (c f : Nat) : State :=
  (s.modClm fun m => m.learn c (AMap.get m.flags [] (clusterOf c, f))).clmPrune

/-- Every write in a cluster is visible from now on: a program is loaded, or the context is gone. -/
def State.clmForget (s : State) (k : Nat) : State :=
  s.modClm fun m =>
    { m with words := m.words.filter fun p => clusterOf p.2.writer != k, flags := m.flags.filter fun p => p.1.1 != k }

/-! ### Pending writes (R82) -/

/-- The beat on which a pending write lands. -/
def Pend.due : Pend → Nat
  | .reg d _ _ _ _ => d
  | .mem d _ _ _ _ _ => d

/-- Perform a pending write of a core. -/
def State.landOne (s : State) (c : Nat) : Pend → State
  | .reg _ _ v x p => s.modCore c fun k =>
      { k with vec := { k.vec with regs := AMap.set k.vec.regs v x,
                                   poisoned := if p then insertNat k.vec.poisoned v else removeNat k.vec.poisoned v } }
  | .mem _ _ a d p clm => if clm then s.clmStore c a d p else s.put a d p

/-- Perform pending writes in order. -/
def State.landAll (s : State) (c : Nat) : List Pend → State
  | [] => s
  | p :: ps => State.landAll (s.landOne c p) c ps

/-- The pending writes of a core that are due on its beat. -/
def Core.duePend (k : Core) : List Pend := k.vec.pend.filter fun p => beatReached k.sbc p.due

/-- Write the ladle results that are due on a core's beat (*The ladle*). -/
def State.landEmits (s : State) (c : Nat) : State :=
  s.modCore c fun k =>
    let due := k.ldl.emits.filter fun p => beatReached k.sbc p.1
    { k with
      ldl := { k.ldl with emits := k.ldl.emits.filter fun p => !beatReached k.sbc p.1 }
      vec := due.foldl (fun v p =>
        { v with regs := AMap.set v.regs p.2.1 p.2.2.1,
                 poisoned := if p.2.2.2 then insertNat v.poisoned p.2.1 else removeNat v.poisoned p.2.1 }) k.vec }

/-- Land what is due: a read on the beat on which a write lands sees the written value (R82). -/
def State.landDue (s : State) (c : Nat) : State :=
  let k := s.core c
  ((s.modCore c fun k => { k with vec := { k.vec with pend := k.vec.pend.filter fun p => !beatReached k.sbc p.due } }).landAll
    c k.duePend).landEmits c

/-! ### Starting the command at the head of a queue -/

/-- The head of an engine's queue, if it starts on the core's present beat and the core runs. -/
def State.ready (s : State) (c eng : Nat) : Option QEntry :=
  let k := s.core c
  match k.st, k.seqr.queue eng with
  | .running, e :: _ => if e.start = k.sbc then some e else none
  | _, _ => none

/-- Remove the head of an engine's queue. -/
def State.popHead (s : State) (c eng : Nat) : State :=
  s.modCore c fun k => k.modSeq fun q => q.setQueue eng (q.queue eng).tail

/-- Freeze a core under a cause, its waiting command left at the head of its queue (R60). -/
def State.freeze (s : State) (c cause eng : Nat) : State :=
  s.modCore c fun k => { k with st := .frozen, seqr := { k.seqr with frz := some ⟨cause, some eng, none⟩ } }

/-- Resume a frozen core. -/
def State.thaw (s : State) (c : Nat) : State :=
  s.modCore c fun k =>
    match k.st with
    | .frozen => { k with st := .running, seqr := { k.seqr with frz := none } }
    | _ => k

/-! ### Halting -/

/-- The cores that hold a slot of a context. -/
def State.slotCores (s : State) (c : Nat) : List Nat := (s.ctx c).slots

/-- Halt the cores of a list (R79); a core in FAULTED stays there (R281). -/
def State.haltCores (s : State) : List Nat → State
  | [] => s
  | k :: ks => State.haltCores (s.modCore k Core.halt) ks

/-- Halt a context as the HALT command does: its cores stop, and its ripener streams and streams with it (R79, R146,
R186). -/
def State.haltCtx (s : State) (c : Nat) : State :=
  (s.haltCores (s.slotCores c)).modCtx c fun x => { x with halted := true }

/-- An event halt (R282). -/
def State.eventHalt (s : State) (c : Nat) : State := (s.haltCtx c).modCtx c fun x => { x with evhalt := true }

end Sys2Proof.Machine
end

