-- ==== Sys2Proof/Machine/Convert.lean ====
section
/-!
DEFINITION. Conversions in a core: the range entry that a key names, its claim and its correction (R114), the applied
exponent and rounding (R109, R112), the counts of the open record (R117, R302), and the closing of a step (R115).
-/
namespace Sys2Proof.Machine

/-- The top exponents of the managed formats, by FMT code. -/
def topExponent (fmt : Nat) : Int :=
  match fmt with | 3 => 8 | 4 => 15 | 5 => 6 | 6 => 14 | _ => 15

/-- The targets whose conversions claim an entry (R114). -/
def Fmt.claims : Fmt → Bool
  | .e4m3 | .e5m2 | .int8 | .int16 | .fp16 => true
  | _ => false

/-- R114: the correction that a matching entry gives for step `st`, and whether it is a stale use. -/
def RngEntry.correction (e : RngEntry) (st : Nat) : Int × Bool :=
  if e.managed then
    let d := beatSub st e.stamp
    if d = 0 then (e.cur, false)
    else if d = beatMod - 1 then (e.prev, false)
    else if d < 2 ^ 47 then (e.cur, false)
    else (e.prev, true)
  else (0, false)

/-- R114: the entry of a key: whether it is found, or claimed by a conversion that may claim; and its correction. -/
def State.rangeLookup (s : State) (c : Nat) (x : StreamSel) (step : BitVec 64) (tensor : Nat) (target : Option Fmt) :
    State × Bool × Int :=
  let i := tensor % 512
  let tag := tensor / 512 % 2 ^ 15
  match AMap.find? (s.core c).vec.rng i with
  | none =>
    match target with
    | some f =>
      if f.claims then
        let e : RngEntry := { managed := s.field .vecRngDef (coreIdx c) 8 8 == 1, owner := x, fmt := f.code, tag := tag,
                              window := s.field .vecRngDef (coreIdx c) 7 4, headroom := s.field .vecRngDef (coreIdx c) 3 0,
                              stamp := step.toNat % beatMod }
        (s.modCore c fun k => { k with vec := { k.vec with rng := AMap.set k.vec.rng i e } }, true, 0)
      else (s, false, 0)
    | none => (s, false, 0)
  | some e =>
    if e.tag = tag then
      let (cor, stale) := e.correction (step.toNat % beatMod)
      ((if stale then s.bumpCore .vecRngStale (coreIdx c) 1 c else s), true, cor)
    else (s.bumpCore .vecRngMiss (coreIdx c) 1 c, false, 0)

/-- R302: the amax byte of one presented value times `2 ^ oscale`; 0 for zero, NaN and infinity. -/
def amaxByte (v : Val) (oscale : Int) : Nat :=
  match v with
  | .fin _ m e => if m = 0 then 0 else (max 1 (min 254 ((log2 m : Int) + e + oscale + 127))).toNat
  | _ => 0

/-- The counts of a conversion's elements. -/
structure Counts where
  elems : Nat := 0
  sat : Nat := 0
  flush : Nat := 0
  nan : Nat := 0
  inf : Nat := 0
  drew : Nat := 0
  amax : Nat := 0
  deriving DecidableEq, Repr

/-- Add one element. -/
def Counts.add (k : Counts) (o : ConvOut) (am : Nat) : Counts :=
  { elems := k.elems + 1, sat := k.sat + b2n o.sat, flush := k.flush + b2n o.flush, nan := k.nan + b2n o.nan,
    inf := k.inf + b2n o.inf, drew := k.drew + b2n o.drew, amax := max k.amax am }

/-- Saturating addition at 48 bits. -/
def add48 (a b : Nat) : Nat := min (2 ^ 48 - 1) (a + b)

/-- R117: count a conversion in an entry's open record: all of it to the entry's FMT, only NAN and INF to another. -/
def RngEntry.count (e : RngEntry) (toFmt : Bool) (k : Counts) : RngEntry :=
  if toFmt then
    { e with oElems := add48 e.oElems k.elems, oSat := add48 e.oSat k.sat, oFlush := add48 e.oFlush k.flush,
             oNan := add48 e.oNan k.nan, oInf := add48 e.oInf k.inf, oAmax := max e.oAmax k.amax }
  else { e with oNan := add48 e.oNan k.nan, oInf := add48 e.oInf k.inf }

/-- The first count of the open record that has come to all-ones, by its word in the range record. -/
def RngEntry.full (e : RngEntry) : Option Nat :=
  ([e.oElems, e.oSat, e.oFlush, e.oNan, e.oInf].findIdx? (· == 2 ^ 48 - 1)).map (· + 3)

/-- Count a conversion at the entry its key names, and in the core's counters. -/
def State.countConv (s : State) (c tensor : Nat) (hit : Bool) (target : Option Fmt) (k : Counts) : State :=
  let s := match hit with
    | true =>
      match AMap.find? (s.core c).vec.rng (tensor % 512) with
      | some e =>
        let e' := e.count (match target with | some f => decide (f.code = e.fmt) | none => false) k
        let s := s.modCore c fun q => { q with vec := { q.vec with rng := AMap.set q.vec.rng (tensor % 512) e' } }
        match e.full, e'.full with
        | none, some w =>
          s.record 0x0801 { kind := 0, index := c, ctx := (s.core c).owner,
                            detail := BitVec.ofNat 64 (regAddr .rngRec (coreIdx c ++ [tensor % 512, w])) }
        | _, _ => s
      | none => s
    | false => s
  ((s.bumpCore .vecCntSr (coreIdx c) k.drew c).bumpCore .vecCntSat (coreIdx c) k.sat c).bumpCore
    .vecCntNan (coreIdx c) k.nan c

/-- Bytes of an element code. -/
def Fmt.codeBytes (f : Fmt) (c : Nat) : List Byte := leBytes (f.rowBytes / 128) c

/-- Pack nibbles: element 2k in the low half of byte k (R103). -/
def packNibbles : List Nat → List Byte
  | a :: b :: r => BitVec.ofNat 8 (a % 16 + b % 16 * 16) :: packNibbles r
  | [a] => [BitVec.ofNat 8 (a % 16)]
  | [] => []

/-- A presented value with its marks: the value, OVR, and a dropped block (R46). -/
structure Presented where
  v : Val
  ovr : Bool := false
  dropped : Bool := false
  deriving DecidableEq, Repr

/-- R46 at conversion: an element with OVR counts as saturated, one that a dropped block touched as flushed, and neither in any other
count (R117); with both it counts as saturated (assumption log 115). -/
def Presented.fix (p : Presented) (o : ConvOut) : ConvOut :=
  if p.ovr then { o with sat := true, flush := false, nan := false, inf := false }
  else if p.dropped then { o with sat := false, flush := true, nan := false, inf := false }
  else o

/-- Convert the lanes of one vector (R104, R109, R110, R112): its bytes, and its counts. -/
def convertVec (f : Fmt) (e oscale : Int) (rnd : Nat → Rnd) (ps : List Presented) : List Byte × Counts :=
  let ips := ps.zipIdx
  match f with
  | .mxfp4 | .mxint8 =>
    let fp4 := f == .mxfp4
    let blocks := (List.range ((ps.length + 31) / 32)).map fun b => (ips.drop (32 * b)).take 32
    let outs := blocks.map fun bl =>
      mxBlock fp4 (bl.map fun p => ((if p.1.ovr then Val.nan else p.1.v.shift e), rnd p.2))
    let os := ((outs.map (·.2)).flatten.zip ps).map fun p => p.2.fix p.1
    let codes := os.map (·.code)
    let bytes := if fp4 then packNibbles codes else codes.map (BitVec.ofNat 8)
    (bytes ++ outs.map fun o => BitVec.ofNat 8 o.1,
      (os.zip ps).foldl (fun k p => k.add p.1 (if p.2.ovr then 0 else amaxByte p.2.v oscale)) {})
  | f =>
    let os := ips.map fun p => p.1.fix (if p.1.ovr then f.ovrOut else f.convert (rnd p.2) (p.1.v.shift e))
    ((os.map fun o => f.codeBytes o.code).flatten,
      (os.zip ps).foldl (fun k p => k.add p.1 (if p.2.ovr then 0 else amaxByte p.2.v oscale)) {})

/-- The rounding of lane `l` of vector `n` of a conversion whose key is `key` (R112, R113). -/
def keyRnd (seed step : BitVec 64) (key : KeyRef) (sr : Bool) (n l : Nat) : Rnd :=
  if sr || bit key.tensor 23 then .sr (draw seed key.tensor step ((key.base + n * key.stride + l) % 2 ^ 40)) else .rne

/-- A register from its bytes. -/
def regOfBytes (bs : List Byte) : BitVec 4096 := BitVec.ofNat 4096 (leNat bs)

/-- The bytes of a register. -/
def bytesOfReg (r : BitVec 4096) : List Byte := leBytes 512 r.toNat

/-! ### Closing a step (R115) -/

/-- The largest nonzero byte of a window, unbiased; `none` without one. -/
def windowMax (h : List Nat) (w : Nat) : Option Int :=
  match (h.take w).foldl max 0 with
  | 0 => none
  | m => some ((m : Int) - 127)

/-- R115: close the step that a MARK ends; `n` is the stream's step count after the mark. -/
def RngEntry.close (e : RngEntry) (n : BitVec 64) : RngEntry :=
  let clear (e : RngEntry) : RngEntry :=
    { e with oElems := 0, oSat := 0, oFlush := 0, oNan := 0, oInf := 0, oAmax := 0 }
  let e := if e.oElems > 0 then
      let h := (e.oAmax :: e.amax).take 16
      let q := min 4 ((4096 * e.oSat + e.oElems - 1) / e.oElems)
      let new : Int := match windowMax h (e.window + 1) with
        | none => e.cur
        | some a => max (-128) (min 127 (topExponent e.fmt - a - e.headroom - q))
      { e with elems := e.oElems, sat := e.oSat, flush := e.oFlush, nan := e.oNan, inf := e.oInf, camax := e.oAmax,
               cdrop := q, cstep := n - 1, amax := h, hist := true, prev := e.cur, cur := new }
    else { e with prev := e.cur }
  clear { e with stamp := n.toNat % beatMod }

/-- Close every entry of the core that a stream owns. -/
def VecS.closeStep (v : VecS) (x : StreamSel) (n : BitVec 64) : VecS :=
  { v with rng := v.rng.map fun p => if p.2.owner = x then (p.1, p.2.close n) else p }

/-! ### Poison (R183) -/

/-- The first consumption of poison by a core in a step raises POISON_CONSUMED once, whichever of its streams runs the step. -/
def State.consumePoison (s : State) (c : Nat) (e : QEntry) : State :=
  let k := s.core c
  if e.step ∈ k.vec.consumed then s
  else
    (s.modCore c fun k => { k with vec := { k.vec with consumed := e.step :: k.vec.consumed } }).raise 0x0304
      { kind := 0, index := c, ctx := k.owner, step := e.step, detail := BitVec.ofNat 64 k.sbc }

/-- Consume poison where a source is marked. -/
def State.consumeIf (s : State) (p : Bool) (c : Nat) (e : QEntry) : State := if p then s.consumePoison c e else s

end Sys2Proof.Machine
end

