-- ==== Sys2Proof/Machine/Hazards.lean ====
section
/-!
DEFINITION. Checked issue mode (R82): the vector-register and local-SRAM accesses of an engine command, and the hazards
between them; and SRAM arbitration (R51, R83): the banks and the cluster-memory port that the fixed-latency commands of a core
use in each MCLK, two beats, and the MCLKs that the core loses.
-/
namespace Sys2Proof.Machine

/-- The 2 KiB lines that `[a, a + n)` touches. -/
def linesOf (a n : Nat) : List Nat :=
  if n = 0 then [] else (List.range ((a + n - 1) / 2048 - a / 2048 + 1)).map (a / 2048 + ·)

/-- Reads of the lines that rows 0 to `n - 1` of a local memory descriptor touch, row `i` on the start beat plus `i`: each line from
the first row that touches it to the last (R82). -/
def rowReads (e : QEntry) (m : MemRef) (n size : Nat) : List HazAcc :=
  if m.clm then []
  else
    let rows := (List.range n).map fun i => (i, linesOf (m.base + m.stride * i) size)
    (rows.map (·.2)).flatten.foldl insertNat [] |>.map fun l =>
      let on := (rows.filter fun r => r.2.contains l).map (·.1)
      ⟨false, true, l, (e.start + on.headD 0) % beatMod, (e.start + on.getLastD 0) % beatMod, e.engine⟩

/-- The lines that `n` vectors of a local memory descriptor touch, each once. -/
def MemRef.lines (m : MemRef) (n size : Nat) : List Nat :=
  if m.clm then []
  else ((List.range n).map fun i => linesOf (m.base + m.stride * i) size).flatten.foldl insertNat []

/-- A read of a register over a window of beats. -/
def regRead (e : QEntry) (v : Nat) : HazAcc := ⟨false, false, v, e.start, e.start, e.engine⟩

/-- A write of a register. -/
def regWrite (e : QEntry) (v lat : Nat) : HazAcc := ⟨true, false, v, e.start, (e.start + lat) % beatMod, e.engine⟩

/-- Reads of lines from the start beat to `lat` beats later. -/
def lineReads (e : QEntry) (ls : List Nat) (lat : Nat) : List HazAcc :=
  ls.map fun l => ⟨false, true, l, e.start, (e.start + lat) % beatMod, e.engine⟩

/-- Writes of lines. -/
def lineWrites (e : QEntry) (ls : List Nat) (lat : Nat) : List HazAcc :=
  ls.map fun l => ⟨true, true, l, e.start, (e.start + lat) % beatMod, e.engine⟩

/-- Latencies of the vector operations (table of vector operations). -/
def VOp.latency : VOp → Nat
  | .add | .sub | .mul | .max | .min | .sel => 4
  | .fma => 6
  | .exp2 | .log2 | .rcp | .rsq => 12
  | .reds => 10
  | .redm => 8

/-- The source registers of a vector operation. -/
def VOp.sources (o : VOp) (va vb vc : Nat) : List Nat :=
  match o with
  | .add | .sub | .mul | .max | .min => [va, vb]
  | .fma | .sel => [va, vb, vc]
  | .exp2 | .log2 | .rcp | .rsq | .reds | .redm => [va]

/-- Latency of a load or store. -/
def MemRef.loadLatency (m : MemRef) : Nat := if m.clm then 24 else 8
def MemRef.storeLatency (m : MemRef) : Nat := if m.clm then 24 else 4

/-- Whether beat `x` is at or after beat `y`. -/
def beatGe (x y : Nat) : Bool := beatReached x y

/-- Beats of a ladle operation: each owned MCLK reads two units (*The ladle*). -/
def LdlCmd.units (l : LdlCmd) : Nat := ladleUnits l.rows l.chunks l.lfmt
def LdlCmd.beats (l : LdlCmd) : Nat := 8 * ((l.units + 2 * l.rate - 1) / (2 * l.rate))

/-- The first beat on which an operation of the ladle owns no MCLK any more. -/
def LdlJob.ends (j : LdlJob) : Nat := (j.first + j.cmd.beats) % beatMod

/-- The beat on which a ladle operation begins: its start beat, or the first MCLK after the previous operation's last (R53). -/
def LdlS.begins (q : LdlS) (e : QEntry) : Nat :=
  match q.jobs.getLast? with
  | some j => if beatGe e.start j.ends then e.start else j.ends
  | none => e.start

/-- The beat, from an operation's first on, on which it reads its unit `p`: two units in each MCLK that it owns, the first RATE of
every four (assumption log 35). -/
def LdlCmd.unitBeat (l : LdlCmd) (p : Nat) : Nat := 2 * (4 * (p / 2 / l.rate) + p / 2 % l.rate)

/-- Weight units behind which a scale unit stands. -/
def ladleGroup (lfmt : Nat) : Nat := if lfmt = 0 then 16 else 32

/-- Elements of one chunk. -/
def LdlCmd.depth (l : LdlCmd) : Nat := if l.lfmt = 0 then 256 else 128

/-- The weight unit that unit `p` is, or none: a scale unit of an MX format, which stands behind every full group of weight units,
and behind the last. -/
def LdlCmd.weightUnit (l : LdlCmd) (p : Nat) : Option Nat :=
  if l.lfmt ≤ 1 then
    let g := ladleGroup l.lfmt
    if p % (g + 1) = g ∨ p + 1 = l.units then none else some (p / (g + 1) * g + p % (g + 1))
  else some p

/-- The x registers of a ladle operation: 512 packed elements each. -/
def LdlCmd.xRegs (l : LdlCmd) : Nat := (l.chunks * l.depth + 511) / 512

/-- The x register, from the first on, that holds the elements of a weight unit's chunk. -/
def LdlCmd.xReg (l : LdlCmd) (u : Nat) : Nat := l.depth * (u % l.chunks) / 512

/-- The reads of x registers: each from the first unit that meets it to the last. -/
def LdlCmd.xReads (l : LdlCmd) (e : QEntry) : List HazAcc :=
  (List.range l.xRegs).map fun i =>
    let on := (List.range l.units).filter fun p => (l.weightUnit p).any fun u => l.xReg u == i
    ⟨false, false, l.x + i, (e.start + l.unitBeat (on.headD 0)) % beatMod, (e.start + l.unitBeat (on.getLastD 0)) % beatMod, e.engine⟩

/-- The tile buffer of a direction. -/
def HoopS.buf (h : HoopS) : Dir → List TBuf
  | .cw => h.cw
  | .ccw => h.ccw

/-- Replace the tile buffer of a direction. -/
def HoopS.setBuf (h : HoopS) (d : Dir) (l : List TBuf) : HoopS :=
  match d with
  | .cw => { h with cw := l }
  | .ccw => { h with ccw := l }

/-- The copies of turning tiles of a direction. -/
def HoopS.turnBuf (h : HoopS) : Dir → List TBuf
  | .cw => h.turnCw
  | .ccw => h.turnCcw

/-- Replace them. -/
def HoopS.setTurnBuf (h : HoopS) (d : Dir) (l : List TBuf) : HoopS :=
  match d with
  | .cw => { h with turnCw := l }
  | .ccw => { h with turnCcw := l }

/-- The oldest tile of a direction that no RECV has named: non-turning, or a copy of a turning tile. -/
def HoopS.awaited (h : HoopS) (d : Dir) (turn : Bool) : Option TBuf :=
  (if turn then h.turnBuf d else h.buf d).find? fun b => !b.named

/-- The length of a tile in flits. -/
def Tile.flits (t : Tile) : Nat := match Fmt.ofCode t.tag.fmt with | some f => f.flits | none => 0

/-- Whether a buffered tile is complete in a period (R15). -/
def TBuf.complete (b : TBuf) (period : Nat) : Bool := decide (b.since + b.tile.flits ≤ period)

/-- Name a tile: its consumers, and the beat on which its space is freed when nothing waits for it. -/
def nameTile (l : List TBuf) (uid users beat : Nat) : List TBuf :=
  l.map fun b => if b.uid = uid then { b with named := true, users := users, freeAt := beat } else b

/-- Name a tile of a direction, or a copy of a turning tile, on the present beat of a core. -/
def Core.nameTile (k : Core) (d : Dir) (turn : Bool) (uid users : Nat) : Core :=
  let h := k.hoop
  { k with hoop := if turn then h.setTurnBuf d (Machine.nameTile (h.turnBuf d) uid users k.sbc)
                   else h.setBuf d (Machine.nameTile (h.buf d) uid users k.sbc) }

/-- Drop the tiles whose consumers have all taken their last flit. -/
def HoopS.purge (h : HoopS) (sbc : Nat) : HoopS :=
  let keep (t : TBuf) : Bool := !(t.named && t.users == 0 && beatReached sbc t.freeAt)
  { h with cw := h.cw.filter keep, ccw := h.ccw.filter keep, turnCw := h.turnCw.filter keep, turnCcw := h.turnCcw.filter keep }

/-- The side of an array engine. -/
def sideOfEngine (n : Nat) : Side := if n = 2 then .b else .a

/-- The vectors of a DRAIN that it writes: not the null ones, and of a frozen tensor none (R49, R111). -/
def Core.drained (k : Core) (e : QEntry) (n : Nat) (key : KeyRef) : List Nat :=
  if bit key.tensor 22 then []
  else
    let os := ((k.arr (sideOfEngine e.engine)).outs.filter (·.out)).take n
    (List.range n).filter fun i => match os[i]? with | some o => !o.null | none => true

/-- The bytes that a tile of a format takes. -/
def tileBytes (fmt : Nat) : Nat := match Fmt.ofCode fmt with | some f => f.payload + f.scales | none => 0

/-- The accesses of a command with a fixed schedule, `k` being its core when it starts; a ladle operation reads from the beat
that R53 gives it. -/
def Core.accesses (k : Core) (e : QEntry) : List HazAcc :=
  match e.cmd with
  | .press (.mem m) _ f _ => rowReads e m 128 f.vecBytes
  | .mul (.mem m) n f _ _ => lineReads e (m.lines n f.vecBytes) ((n - 1) * (if f.payload = 32768 then 4 else 1))
  | .mulx (.mem m) n f _ _ _ _ => lineReads e (m.lines n f.vecBytes) ((n - 1) * (if f.payload = 32768 then 4 else 1))
  | .drain (.vreg v) n _ _ _ key => (k.drained e n key).map fun i => regWrite e (v + i) i
  | .drain (.mem m) n f _ _ key =>
    ((k.drained e n key).map fun i => lineWrites e (MemRef.lines { m with base := m.base + m.stride * i } 1 f.outBytes) i).flatten
  | .vec op vd va vb vc _ => (op.sources va vb vc).map (regRead e) ++ [regWrite e vd op.latency]
  | .vcvt vd va _ _ _ _ _ => [regRead e va, regWrite e vd 6]
  | .vld v m => lineReads e (m.lines 1 512) 0 ++ [regWrite e v m.loadLatency]
  | .vst v m => regRead e v :: lineWrites e (m.lines 1 512) m.storeLatency
  | .ladle l =>
    let e := { e with start := k.ldl.begins e }
    (List.range l.units).map (fun p =>
        let b := (e.start + l.unitBeat p) % beatMod
        ⟨false, true, l.w.base / 2048 + p, b, b, e.engine⟩) ++ l.xReads e ++
      (if l.emit then [regWrite e l.vd (l.beats + 15)] else [])
  | .inject i => match i.src with | .mem m => lineReads e (m.lines 1 (tileBytes i.tag.fmt)) 0 | .special => []
  | .recv d t 3 (some m) =>
    match (k.hoop.awaited d t) with | some b => lineWrites e (m.lines 1 b.tile.data.length) 0 | none => []
  | _ => []

/-- The hazards between an earlier-issued access and a later one of the same register or line. -/
def hazardKinds (old new : HazAcc) : List Nat :=
  if old.line ≠ new.line ∨ old.index ≠ new.index then []
  else
    match old.write, new.write with
    | true, true => if beatGe old.last new.last then [2] else []
    | true, false => if beatGe new.last old.first ∧ ¬ beatGe new.first old.last then [0] else []
    | false, true =>
      (if beatGe old.last new.first ∧ ¬ beatGe old.first new.last then [0] else []) ++
        (if ¬ beatGe new.last old.last then [1] else [])
    | false, false => []

/-- Report one hazard: SEQ_HAZARD, the event, and the halt under HAZ_HALT. -/
def State.reportHazard (s : State) (c : Nat) (e : QEntry) (old new : HazAcc) (kind : Nat) : State :=
  let k := s.core c
  let w := word [(old.engine, 46), (new.engine, 42), (kind, 40), (b2n new.line, 39), (new.index, 26), (new.first % 65536, 10)]
  let s := (s.recordFault .seqHazard (coreIdx c) 9 w).raise 0x0108
    { kind := 0, index := c, ctx := k.owner, step := e.step, detail := BitVec.ofNat 64 k.sbc }
  if k.seqr.hazHalt then (match k.owner with | some x => s.eventHalt x | none => s) else s

/-- Report a list of hazards. -/
def State.reportHazards (s : State) (c : Nat) (e : QEntry) : List (HazAcc × HazAcc × Nat) → State
  | [] => s
  | (o, n, k) :: hs => State.reportHazards (s.reportHazard c e o n k) c e hs

/-! ### SRAM arbitration (R51, R83) -/

/-- What a fixed-latency command uses, `k` being its core when it starts. A DRAIN writes its real vectors only. -/
def Core.sramUse (k : Core) (e : QEntry) : List SramUse :=
  match e.cmd with
  | .press (.mem m) _ f _ => [⟨e.engine, e.start, 128, m.base, m.stride, f.vecBytes, m.clm, 0⟩]
  | .drain (.mem m) n f _ _ key =>
    (k.drained e n key).map fun i => ⟨e.engine, (e.start + i) % beatMod, 1, m.base + m.stride * i, 0, f.outBytes, m.clm, 0⟩
  | .vld _ m => [⟨e.engine, e.start, 1, m.base, 0, 512, m.clm, 0⟩]
  | .vst _ m => [⟨e.engine, (e.start + m.storeLatency) % beatMod, 1, m.base, 0, 512, m.clm, 0⟩]
  | .ladle l => [⟨e.engine, k.ldl.begins e, l.beats, l.w.base, 0, 0, false, l.rate⟩]
  | _ => []

/-- The 64-byte words that a command other than a ladle operation uses on a beat, with the beat. -/
def SramUse.onBeat (u : SramUse) (b : Nat) : List (Nat × Nat) :=
  let i := beatSub b u.start
  let a := u.base + u.stride * i
  if i < u.rows ∧ 0 < u.size then (List.range ((a + u.size - 1) / 64 - a / 64 + 1)).map fun j => (b, a / 64 + j) else []

/-- The words that a command uses in MCLK `m`, beats `2m` and `2m + 1`; a ladle operation in an MCLK that it owns uses every
bank once. -/
def SramUse.inMclk (u : SramUse) (m : Nat) : List (Nat × Nat) :=
  if u.rate = 0 then u.onBeat (2 * m) ++ u.onBeat (2 * m + 1)
  else
    let j := (m + beatMod / 2 - u.start / 2) % (beatMod / 2)
    if j < u.rows / 2 ∧ j % 4 < u.rate then
      (List.range 64).map fun i => (2 * m, u.base / 64 + 64 * (u.rate * (j / 4) + j % 4) + i)
    else []

/-- Whether two words lie in one bank of local SRAM. -/
def sameBank (a b : Nat) : Bool := a % 64 == b % 64

/-- The MCLKs that a core loses in MCLK `m`: a bank serves one word in each, and its port to cluster memory eight. -/
def mclkLost (us : List SramUse) (m : Nat) : Nat :=
  let here (p : SramUse → Bool) : List Nat := (((us.filter p).map fun u => u.inMclk m).flatten).map (·.2)
  let rows := here fun u => !u.clm && u.rate == 0
  let ladles := (us.filter fun u => u.rate != 0 && !(u.inMclk m).isEmpty).length
  let busiest := rows.foldl (fun n a => max n (rows.countP (sameBank a))) 0
  max (busiest + ladles - 1) (((here (·.clm)).length + 7) / 8 - 1)

/-- Charge a core with the MCLKs lost in the MCLK that its present beat ends. -/
def State.sramCharge (s : State) (c : Nat) : State :=
  let k := s.core c
  let n := if k.live ∧ k.sbc % 2 = 1 then mclkLost k.sram.uses (k.sbc / 2) else 0
  let old := if k.sram.beat = k.sbc then k.sram.count else 0
  if n ≤ old then s
  else s.modCore c fun k => { k with sram := { k.sram with lost := k.sram.lost + 2 * (n - old), beat := k.sbc, count := n } }

/-- The banks of local SRAM that fixed-latency accesses of a core take in the MCLK of its present beat, after it has lost `n` MCLKs
there: those that more than `n` accesses want, all of them in an MCLK that the ladle owns (R51). -/
def Core.banksTaken (k : Core) (n : Nat) : List Nat :=
  let bs := ((k.sram.uses.filter fun u => !u.clm).map fun u => (u.inMclk (k.sbc / 2)).map fun a => a.2 % 64).flatten
  bs.filter fun b => decide (n < bs.count b)

/-- The MCLKs that a core has lost by now in the MCLK of its present beat, as far as they have been charged. -/
def Core.mclksLost (k : Core) : Nat :=
  (if k.sram.beat = k.sbc then k.sram.count else 0) - (k.sram.lost + 1) / 2

/-- Checked issue mode holds the SBC on 7 of 10 periods. -/
def SeqS.checkHold (q : SeqS) : Bool := q.checked && decide (3 ≤ q.phase)

/-- The words of cluster memory that a running core accesses on its present beat. -/
def Core.clmWords (k : Core) : List Nat :=
  if k.st = .running ∧ ¬ k.seqr.checkHold then (((k.sram.uses.filter (·.clm)).map fun u => u.onBeat k.sbc).flatten).map (·.2) else []

/-- Whether the stream engine or the harp of a cluster is at work, so that they may contend for its memory. -/
def Cluster.contends (q : Cluster) : Bool := q.harpCur.isSome || q.streams.any fun p => !p.2.begun.isEmpty

/-- A core's accesses to cluster memory on its present beat (R83): it loses every MCLK in which a bank has been granted to a core
before it, and, the manual giving no order, one more when the harp or the stream engine takes it. -/
def State.clmPort (s : State) (c : Nat) : State :=
  let k := s.core c
  let ws := k.clmWords
  if ws = [] ∨ k.sram.clmGot = some k.sbc then s
  else
    let cl := clusterOf c
    let now := s.dev.period / 2
    let taken := match AMap.find? s.dev.clm.port cl with | some (m, l) => if m = now then l else [] | none => []
    let lose (r : SramS) : SramS := { r with lost := r.lost + 2 }
    if ws.any fun w => taken.contains (w % 256) then s.modCore c fun k => { k with sram := lose k.sram }
    else if (s.cluster cl).contends ∧ k.sram.clmBeat ≠ some k.sbc ∧ Config.clmLost s.dev.clm.lots then
      (s.modCore c fun k => { k with sram := { lose k.sram with clmBeat := some k.sbc } }).modClm fun m => { m with lots := m.lots + 1 }
    else
      (s.modCore c fun k => { k with sram := { k.sram with clmGot := some k.sbc } }).modClm fun m =>
        { m with port := AMap.set m.port cl (now, taken ++ ws.map (· % 256)), lots := m.lots + b2n (s.cluster cl).contends }

/-- Forget the uses that are over on a beat. -/
def SramS.purge (r : SramS) (sbc : Nat) : SramS :=
  match r.uses with
  | [] => r
  | us => { r with uses := us.filter fun u => beatGe ((u.start + u.rows + 1) % beatMod) sbc }

/-- The first word that the later of two commands uses in a bank that the other uses in the same MCLK, with its beat. -/
def SramUse.meets (o n : SramUse) : Option (Nat × Nat) :=
  if o.clm ∨ n.clm then none
  else (List.range (n.rows / 2 + 2)).findSome? fun i =>
    let m := (n.start / 2 + i) % (beatMod / 2)
    let os := o.inMclk m
    (n.inMclk m).find? fun a => os.any fun b => sameBank a.2 b.2

/-- The first word that a command uses in a bank that it already uses in the same MCLK. -/
def SramUse.selfMeets (n : SramUse) : Option (Nat × Nat) :=
  if n.clm ∨ n.rate ≠ 0 then none
  else (List.range (n.rows / 2 + 2)).findSome? fun i =>
    let ns := n.inMclk ((n.start / 2 + i) % (beatMod / 2))
    (ns.zipIdx.find? fun a => (ns.take a.2).any fun b => sameBank a.1.2 b.2).map (·.1)

/-- The bank conflicts of a command with those before it, and with itself: hazards of kind 3, one for each pair. -/
def bankHazards (olds : List SramUse) (n : SramUse) : List (HazAcc × HazAcc × Nat) :=
  let acc (u : SramUse) (a : Nat × Nat) : HazAcc := ⟨false, true, a.2 / 32, a.1, a.1, u.engine⟩
  (olds.filterMap fun o => (o.meets n).map fun a => (acc o a, acc n a, 3)) ++
    (match n.selfMeets with | some a => [(acc n a, acc n a, 3)] | none => [])

/-- Note what a command uses; in checked issue mode, compare its accesses with the records, record them, and report the
hazards. -/
def State.hazards (s : State) (c : Nat) (e : QEntry) : State :=
  let k := s.core c
  let use := k.sramUse e
  let s := s.modCore c fun k => { k with sram := { k.sram with uses := k.sram.uses ++ use } }
  if k.seqr.checked then
    let acc := k.accesses e
    let olds := k.vec.hazards.filter fun h => beatGe h.last k.sbc
    let found := (acc.map fun n => (olds.map fun o => (hazardKinds o n).map fun q => (o, n, q)).flatten).flatten
    let banks := (use.map (bankHazards k.sram.uses)).flatten
    (s.modCore c fun k => { k with vec := { k.vec with hazards := olds ++ acc } }).reportHazards c e (found ++ banks)
  else s

end Sys2Proof.Machine
end

