-- ==== Sys2Proof/Machine/Drains.lean ====
section
/-!
DEFINITION. The bottom edge of an array: the vectors in flight and in the drains (R37 to R40), the drain unit, which reads one
vector on each beat of a DRAIN (R38, R49, R111, R306), and the start of an engine command after what its beat lands (R82).
-/
namespace Sys2Proof.Machine

/-- The unit in which exact sums are kept: `2 ^ -160`, below every step of every pair and anchor. -/
def sumUnit : Nat := 160

/-- R107: the presented value of a sum at conversion. -/
def Lane.present (fp : Bool) (l : Lane) : Presented :=
  { v := if fp then fp32.decode l.fp
         else if l.nan ∨ (l.pinf ∧ l.ninf) then .nan
         else if l.pinf then .inf false
         else if l.ninf then .inf true
         else Val.ofInt l.sum (-(sumUnit : Int))
    ovr := l.ovr, dropped := l.dropped }

/-- Change an array of a core. -/
def State.modArr (s : State) (c : Nat) (x : Side) (f : ArrayS → ArrayS) : State :=
  s.modCore c fun k => k.setArr x (f (k.arr x))

/-- How many vectors at the front of a list have come through the array by a period, `k` of them in the drains already: a drain
holds 64 entries, and a vector that finds it full holds back those behind it. A vector that only updates its whey entry does so one
beat before it would reach the drains (R37, R38). -/
def arrivedFrom (period : Nat) : Nat → List OutVec → Nat
  | _, [] => 0
  | k, o :: os =>
    if (match o.ready with | some p => decide (p ≤ period + b2n (!o.out)) | none => false) && (!o.out || decide (k < 64)) then
      arrivedFrom period (k + b2n o.out) os + 1
    else 0

/-- The vectors of an array that have come through it. -/
def ArrayS.arrived (r : ArrayS) (period : Nat) : Nat := arrivedFrom period 0 r.outs

/-- The drain level: complete output vectors in the drains, 0 to 64. -/
def ArrayS.level (r : ArrayS) (period : Nat) : Nat := ((r.outs.take (r.arrived period)).filter (·.out)).length

/-- A list without its first output vector. -/
def popOut : List OutVec → List OutVec
  | [] => []
  | o :: os => if o.out then os else o :: popOut os

/-- A DRAIN after its next vector. -/
def DrainJob.after (j : DrainJob) : Option DrainJob := if j.next + 1 < j.n then some { j with next := j.next + 1 } else none

/-- The format whose range entry a DRAIN names: none for a vector register. -/
def DrainJob.target (j : DrainJob) : Option Fmt := match j.dst with | .vreg _ => none | .mem _ => some j.fmt

/-- The drain unit takes vector `o`, the place `next` of its DRAIN: a null vector is counted and written nowhere, a real vector
of a frozen tensor stops the DRAIN (R111), any other is converted and written on this beat. -/
def State.drainOne (s : State) (c : Nat) (x : Side) (j : DrainJob) (o : OutVec) : State :=
  let taken (r : ArrayS) : ArrayS := { r with outs := popOut r.outs, drain := j.after }
  if o.null then (s.modArr c x taken).bumpSide .arrCntNull c x 1
  else if bit j.key.tensor 22 then (s.modArr c x fun r => { r with drain := none }).coreFault c 0x010B j.entry.step
  else
    let due := (s.core c).sbc
    let (bytes, cnt) := convertVec j.fmt (j.oscale + j.cor) j.oscale
      (keyRnd (s.ctx (s.core c).ctx).seed j.entry.step j.key j.sr j.next) (o.lanes.map (·.present o.fp))
    let p : Pend := match j.dst with
      | .vreg v => .reg due j.entry.start (v + j.next) (regOfBytes bytes) o.poison
      | .mem m => .mem due j.entry.start (m.addr c j.next) bytes o.poison m.clm
    let s := (s.modArr c x taken).modCore c fun k => { k with vec := { k.vec with pend := k.vec.pend ++ [p] } }
    s.countConv c j.key.tensor j.hit j.target cnt

/-- What the drain unit of an array does on the present beat of a running core. -/
def State.drainStep (s : State) (c : Nat) (x : Side) : State :=
  match ((s.core c).arr x).drain, ((s.core c).arr x).outs.find? (·.out) with
  | some j, some o =>
    if (s.core c).st = .running ∧ (j.entry.start + j.next) % beatMod = (s.core c).sbc then s.drainOne c x j o else s
  | _, _ => s

/-- A RECV with DEST 3 on its beat: it waits for the whole tile (R16), checks the extent, and writes the tile (R313). -/
def State.recvMem (s : State) (c : Nat) (e : QEntry) (d : Dir) (turn : Bool) (m : MemRef) : State :=
  match (s.core c).hoop.awaited d turn with
  | none => s.freeze c 2 5
  | some b =>
    if ¬ b.complete s.dev.period then s.freeze c 2 5
    else if m.base + b.tile.data.length > spaceLimit false then (s.popHead c 5).seqFault c e 0x0104 3 0
    else
      (((s.hazards c e).popHead c 5).putWith (m.addr c 0) b.tile.data b.tile.bad).modCore c fun k =>
        let k := k.nameTile d turn b.uid 0
        { k with hoop := k.hoop.purge k.sbc }

/-- The RECV to local SRAM that starts on the present beat of a core writes before anything on that beat reads (R82). -/
def State.recvStep (s : State) (c : Nat) : State :=
  match s.ready c 5 with
  | some e => match e.cmd with | .recv d t 3 (some m) => s.recvMem c e d t m | _ => s
  | none => s

/-- Bring a core to where a command that starts on the present beat reads: the drain units have written their vectors, a RECV its
tile, and what is due has landed (R82). -/
def State.land (s : State) (c : Nat) : State := (((s.drainStep c .a).drainStep c .b).recvStep c).landDue c

/-- Start the command at the head of an engine's queue on its beat, if `p` accepts it, after the beat's writes; not if they fault or
freeze the core, or were the command's own. -/
def State.startWith (s : State) (c eng : Nat) (p : Cmd → Bool) (f : State → QEntry → State) : State :=
  match s.ready c eng with
  | none => s
  | some e =>
    if p e.cmd then (if (s.land c).ready c eng = some e then f (s.land c) e else s.land c) else s

end Sys2Proof.Machine
end

