-- ==== Sys2Proof/Machine/Arrays.lean ====
section
/-!
DEFINITION. Arrays A and B (*Arrays and the Ladle*): PRESS, MUL, MULX, DRAIN and SKIPDW, the exact and FP32 sums of
their columns, the accumulation store, and the completion of operations.
-/
namespace Sys2Proof.Machine

/-! ### Operand vectors -/

/-- The element codes of a vector's bytes. -/
def Fmt.codes (f : Fmt) (bs : List Byte) : List Nat :=
  match f with
  | .mxfp4 => (bs.map fun b => [b.toNat % 16, b.toNat / 16]).flatten
  | .bf16 | .fp16 | .int16 => codes16 bs
  | .fp32 => []
  | _ => bs.map (·.toNat)
where
  codes16 : List Byte → List Nat
    | a :: b :: r => (a.toNat + 256 * b.toNat) :: codes16 r
    | _ => []

/-- Whether a format is microscaled. -/
def Fmt.mx : Fmt → Bool
  | .mxfp4 | .mxint8 => true
  | _ => false

/-- The K depth of a pass. -/
def Fmt.depth : Fmt → Nat
  | .mxfp4 => 256
  | _ => 128

/-- An operand vector: its elements, and the scale codes of its blocks for the MX formats. -/
structure OpVec where
  vals : List Val
  scales : List Nat
  deriving DecidableEq, Repr

/-- Decode an operand vector of `depth` elements laid out as elements followed by scale bytes. -/
def Fmt.opVec (f : Fmt) (bs : List Byte) : OpVec :=
  let nb := f.depth * f.rowBytes / 128
  { vals := (f.codes (bs.take nb)).map f.operand, scales := if f.mx then (bs.drop nb).map (·.toNat) else [] }

/-- Row `r` of a tile's payload: its element bytes and, for MX, its four scale bytes. -/
def tileRow (f : Fmt) (d : List Byte) (r : Nat) : List Byte × List Byte :=
  ((d.drop (r * f.rowBytes)).take f.rowBytes, if f.mx then (d.drop (f.payload + 4 * r)).take 4 else [])

/-- Row `r` of one tile, or for MXFP4 of two consecutive tiles, as an operand vector's bytes. -/
def tilesRow (f : Fmt) (ts : List (List Byte)) (r : Nat) : List Byte :=
  (ts.map fun d => (tileRow f d r).1).flatten ++ (ts.map fun d => (tileRow f d r).2).flatten

/-- Column `j` of rows of element values. -/
def columnOf (rows : List (List Val)) (j : Nat) : List Val := rows.map fun r => r.getD j (.fin false 0 0)

/-- The first `n` columns of rows of element values, in one pass; a row that ends early goes on with zeros. -/
def columnsOf (n : Nat) (rows : List (List Val)) : List (List Val) :=
  rows.foldr (fun r cs => List.zipWith List.cons (r ++ List.replicate (n - r.length) (.fin false 0 0)) cs) (List.replicate n [])

/-- The 128 stationary vectors: the rows of the pressed block with T = 1, its columns with T = 0; zeros before the first
press (R44), whose MX blocks count as of scale code 127 (assumption log 96). -/
def statCols (st : Option Stat) (depth : Nat) : List OpVec :=
  match st with
  | none => List.replicate 128 { vals := List.replicate depth (.fin false 0 0), scales := List.replicate 8 127 }
  | some s =>
    let rows := s.rows.map s.fmt.opVec
    if s.t then (List.range 128).map fun j => rows.getD j (s.fmt.opVec [])
    else (columnsOf 128 (rows.map (·.vals))).map fun c => { vals := c, scales := [] }

/-! ### Sums (R45 to R47, R107) -/

/-- Add one exact product, its marks as R107 sets them. -/
def Lane.addProduct (l : Lane) (p : Val) : Lane :=
  match p with
  | .nan => { l with nan := true }
  | .inf n => if n then { l with ninf := true } else { l with pinf := true }
  | .fin n m e => { l with sum := l.sum + scaledInt n m e sumUnit }

/-- The exact sum of an element over one pass. -/
def dotExact (ms ss : List Val) : Lane := (ms.zip ss).foldl (fun l p => l.addProduct (p.1.mul p.2)) {}

/-- R46: the block sums of an MX pass, each placed by its exponent in the window of the anchor; how many blocks lay
outside the window is returned with the sum. -/
def dotBlocks (anchor : Int) : List Val → List Val → List Nat → List Nat → Lane → Nat → Lane × Nat
  | ms, ss, sm :: sms, sc :: scs, l, w =>
    let rest := dotBlocks anchor (ms.drop 32) (ss.drop 32) sms scs
    if sm = 255 ∨ sc = 255 then rest { l with nan := true } w
    else
      let e : Int := (sm : Int) - 127 + ((sc : Int) - 127)
      if e - anchor < -16 then rest { l with dropped := true } (w + 1)
      else if e - anchor > 22 then rest { l with ovr := true } (w + 1)
      else
        rest ((((ms.take 32).zip (ss.take 32)).map fun p => (p.1.mul p.2).shift e).foldl (fun l p => l.addProduct p) l) w
  | _, _, _, _, l, w => (l, w)

/-- R47: the FP32 sum of a column in logical row order, each exact product added with one rounding. -/
def dotFp32 (ms ss : List Val) : Lane :=
  { fp := (ms.zip ss).foldl (fun a p => fp32.round ((fp32.decode a).add (p.1.mul p.2))) 0 }

/-- Whether a format accumulates in FP32. -/
def Fmt.fpKind : Fmt → Bool
  | .bf16 | .fp16 => true
  | _ => false

/-- One output vector: 128 lanes, and the blocks outside the window. -/
def outLanes (f : Fmt) (anchor : Int) (st : Option Stat) (v : OpVec) : List Lane × Nat :=
  let cols := statCols st f.depth
  if f.fpKind then (cols.map fun c => dotFp32 v.vals c.vals, 0)
  else if f.mx then
    let rs := cols.map fun c => dotBlocks anchor v.vals c.vals v.scales c.scales {} 0
    (rs.map (·.1), (rs.map (·.2)).foldl (· + ·) 0)
  else (cols.map fun c => dotExact v.vals c.vals, 0)

/-- Union of marks and exact addition of two sums; FP32 addition for FP32 entries. -/
def Lane.plus (fp : Bool) (a b : Lane) : Lane :=
  { sum := a.sum + b.sum, fp := if fp then fp32.round ((fp32.decode a.fp).add (fp32.decode b.fp)) else 0,
    nan := a.nan || b.nan, pinf := a.pinf || b.pinf, ninf := a.ninf || b.ninf, ovr := a.ovr || b.ovr,
    dropped := a.dropped || b.dropped }

/-! ### Faults, formats and overlap -/

/-- Whether the array's injector is still at its previous command on the present beat. -/
def ArrayS.injBusy (r : ArrayS) (sbc : Nat) : Bool := r.used && !beatReached sbc r.injEnd

/-- The value of a step function at row `f`: that of the last step at or above it. -/
def stepAt (l : List (Nat × Nat)) (f : Nat) : Nat := l.foldl (fun v p => if p.1 ≤ f then p.2 else v) 0

/-- The period, less the row skew, in which a vector's element of row `r` enters the array: after its injection and the press
lane, after its data and that of the rows above, and an interval after the vector before it (`prev`) (R39). -/
def OutVec.enterAt (o : OutVec) (prev : List (Nat × Nat)) (r : Nat) : Nat :=
  (o.feeds.filter fun g => decide (g.row ≤ r)).foldl (fun v g => max v (g.data.getD 0 - g.row))
    (max (max o.since o.lane) (stepAt prev r + o.gap))

/-- The rows whose time is known go on down to the first whose data is not there, or to where the vector before it is known. -/
def OutVec.stamp (o : OutVec) (prev : List (Nat × Nat)) (upto : Nat) : OutVec :=
  let lim := o.feeds.foldl (fun n g => if g.data.isNone then min n g.row else n) upto
  if lim ≤ o.upto then o
  else
    let rows := ((o.feeds.map (·.row) ++ prev.map (·.1)).filter fun r => decide (o.upto < r ∧ r < lim)).foldl insertNat [o.upto]
    { o with enter := o.enter ++ rows.map fun r => (r, o.enterAt prev r), upto := lim }

/-- Note the periods at which the elements of injected vectors enter the array, and those at which whole vectors are at the drains,
in order. `low` is the presses before the first vector that still has cells in front of its end mark: a later press but one has not
gone down the lane, and the vectors that meet it wait for it (R44). -/
def stampOuts (period : Nat) (low : Option Nat) : Nat → List (Nat × Nat) → Nat → List OutVec → List OutVec
  | _, _, _, [] => []
  | rdy, prev, upto, o :: os =>
    let o := if low.any fun g => decide (g + 2 ≤ o.gen) then { o with lane := period + 3 } else o.stamp prev upto
    let o := if o.upto = 128 ∧ o.ready.isNone then { o with ready := some (max (stepAt o.enter 127 + o.lat) (rdy + 1)) } else o
    o :: stampOuts period low (o.ready.getD rdy) o.enter o.upto os

/-- The vectors that have ended in the whey by a period leave the list, one that the whey refuses when its fault is raised. -/
def ArrayS.settle (r : ArrayS) (period : Nat) : ArrayS :=
  let n := r.arrived period
  { r with outs := (r.outs.take n).filter (fun o => o.out || o.bad.isSome) ++ r.outs.drop n }

/-- How many vectors have their element of row `f` in its feeder in a period, `acc` beats of earlier vectors standing between the
first cell and the drains: it is due there, and has not entered the array for want of data, behind such a one, or because a full
drain leaves no room in the cells (R39, assumption log 31). -/
def feederFrom (period f : Nat) : Nat → List OutVec → Nat
  | _, [] => 0
  | acc, o :: os =>
    if f < o.upto ∧ stepAt o.enter f + f + 1 ≤ period ∧ acc < o.lat then feederFrom period f (acc + o.gap) os
    else ((o :: os).filter fun o => decide (o.since + f ≤ period)).length

/-- Entries in the feeder of row `f`. -/
def ArrayS.feeder (r : ArrayS) (period f : Nat) : Nat := feederFrom period f 0 (r.outs.drop (r.arrived period))

/-- R39: some feeder holds 64 entries. It is looked for only where 64 vectors wait for data, or for room in the cells. -/
def ArrayS.feedFull (r : ArrayS) (period : Nat) : Bool :=
  let os := r.outs.drop (r.arrived period)
  let late := (os.filter fun o => o.upto ≠ 128 || stepAt o.enter 127 ≠ o.since).length
  decide (63 ≤ late + ((os.map (·.gap)).sum - 260)) && (List.range 128).any fun f => decide (64 ≤ r.feeder period f)

/-- The presses before the first of the vectors in flight that has not left the cells: `acc` beats of earlier vectors stand behind
them, where the pipeline holds L_A - 256 (R44). -/
def cellsFrom (period : Nat) : Nat → List OutVec → Option Nat
  | _, [] => none
  | acc, o :: os =>
    if (match o.ready with | some p => decide (p + 256 ≤ period + o.lat ∧ acc + 256 < o.lat) | none => false) then
      cellsFrom period (acc + o.gap) os
    else some o.gen

/-- The same of an array. -/
def ArrayS.inCells (r : ArrayS) (period : Nat) : Option Nat := cellsFrom period 0 (r.outs.drop (r.arrived period))

/-- Whether a row's turn has come in a period, two periods ago, and its data was not there (R39). -/
def dryFrom (period : Nat) : List (Nat × Nat) → Nat → List OutVec → Bool
  | _, _, [] => false
  | prev, upto, o :: os =>
    (o.feeds.any fun g =>
      (match g.data with | some d => decide (period ≤ d + 1) | none => true) &&
        decide (g.row < upto ∧ max (max o.since o.lane) (stepAt prev g.row + o.gap) + g.row + 2 ≤ period)) ||
      dryFrom period o.enter o.upto os

/-- The operand pair that a format names (R34); none for FP32. -/
def Fmt.pair : Fmt → Nat
  | .fp32 => 0
  | .e4m3 | .e5m2 => 3
  | f => f.code

/-- Whether a tile's FMT belongs to the named pair. -/
def Fmt.pairOk (f : Fmt) (code : Nat) : Bool :=
  match Fmt.ofCode code with | some g => f.pair ≠ 0 && g.pair == f.pair | none => false

/-- Vector interval in beats. -/
def Fmt.interval : Fmt → Nat
  | .int16 | .bf16 | .fp16 => 4
  | _ => 1

/-- Fill latency L_A. -/
def Fmt.fill : Fmt → Nat
  | .int16 | .bf16 | .fp16 => 264
  | _ => 260

/-- Whether a press is shifting. -/
def ArrayS.pressing (r : ArrayS) (sbc : Nat) : Bool := r.injIsPress && r.injBusy sbc

/-- R37, R42, R43: the refusal of a PRESS that comes too early. -/
def ArrayS.pressEarly (r : ArrayS) (sbc : Nat) : Option Nat :=
  if r.injBusy sbc then some (if r.injIsPress then 2 else 0) else none

/-- Drop one consumer of a handed tile, which takes its last flit on a beat; the space is free when all have (R120). -/
def freeTile (l : List TBuf) (uid beat : Nat) : List TBuf :=
  l.map fun t =>
    if t.uid = uid then { t with users := t.users - 1, freeAt := if beatReached beat t.freeAt then beat else t.freeAt } else t

/-- The consumption of handed tiles by an array, the last flit on a beat. -/
def Core.consume (k : Core) (hs : List Handed) (beat : Nat) : Core :=
  hs.foldl (fun k h =>
    let g := k.hoop
    { k with hoop := if h.turn then g.setTurnBuf h.dir (freeTile (g.turnBuf h.dir) h.uid beat)
                     else g.setBuf h.dir (freeTile (g.buf h.dir) h.uid beat) }) k

/-- Whether a tile is complete in a period (R15). -/
def Handed.complete (h : Handed) (period : Nat) : Bool :=
  match Fmt.ofCode h.tile.tag.fmt with
  | some f => decide (h.since + f.flits ≤ period)
  | none => true

/-! ### PRESS (R42 to R44) -/

/-- Tiles that a press or 128 moving vectors take: two for MXFP4. -/
def Fmt.tiles : Fmt → Nat
  | .mxfp4 => 2
  | _ => 1

/-- A press that starts: the block most recently pressed is the new one from here on (assumption log 97), the generation
toggles, and the injector is busy for 130 beats. -/
def ArrayS.pressed (r : ArrayS) (st : Stat) (job : PressJob) (sbc : Nat) : ArrayS :=
  { r with stat := some st, gen := r.gen + 1, pressStart := sbc, injEnd := (sbc + 130) % beatMod, injIsPress := true, used := true,
           press := some job }

/-- Whether tiles at the front of those handed over serve an injector that needs them on the present beat (R34 to R36). -/
inductive TileNeed | ok | absent | format | late
  deriving DecidableEq, Repr

/-- R34 to R36: `n` tiles of the pair of `f`, each handed over by a RECV of an earlier beat, and complete where `whole`. -/
def ArrayS.tileNeed (r : ArrayS) (n : Nat) (f : Fmt) (whole : Bool) (sbc period : Nat) : TileNeed :=
  let hs := r.handed.take n
  if hs.length < n ∨ hs.any (·.beat == sbc) then .absent
  else if hs.any fun h => !f.pairOk h.tile.tag.fmt then .format
  else if whole ∧ hs.any fun h => !h.complete period then .late
  else .ok

/-- Whether a handed tile carries poison. -/
def Handed.poison (h : Handed) : Bool := h.tile.tag.poison || !h.tile.bad.isEmpty

/-- The format by which tiles are decoded: their own (R34). -/
def tilesFmt (f : Fmt) (hs : List Handed) : Fmt := match hs with | h :: _ => (Fmt.ofCode h.tile.tag.fmt).getD f | [] => f

/-- A row of the pressed block that comes from local SRAM. -/
def Stat.addRow (st : Stat) (row : List Byte) (poison : Bool) : Stat :=
  { st with rows := st.rows ++ [row], poison := st.poison || poison }

/-- One beat of a press: from local SRAM a row comes in on each of the first 128; after the 130th the press is complete. -/
def State.pressBeat (s : State) (c : Nat) (x : Side) : State :=
  let k := s.core c
  let r := k.arr x
  match r.press, r.stat with
  | some j, some st =>
    let n := beatSub k.sbc r.pressStart
    match j.mem with
    | some m =>
      if n < 128 then
        let a := m.addr c n
        let p := !(s.badIn a st.fmt.vecBytes).isEmpty
        (s.modArr c x fun r => { r with stat := some (st.addRow (s.bytes a st.fmt.vecBytes) p) }).consumeIf p c j.entry
      else if n = 129 then (s.modArr c x fun r => { r with press := none }).bumpSide .arrCntPress c x 1
      else s
    | none => if n = 129 then (s.modArr c x fun r => { r with press := none }).bumpSide .arrCntPress c x 1 else s
  | _, _ => s

/-! ### MUL and MULX -/

/-- What the injection of vectors reads of its command. -/
structure MulArgs where
  src : Src
  n : Nat
  fmt : Fmt
  cols : Bool
  anchor : Int
  whey : Option (Nat × MulMode)
  deriving DecidableEq, Repr

/-- The arguments of a MUL or MULX. -/
def Cmd.mulArgs : Cmd → Option MulArgs
  | .mul src n f cols a => some ⟨src, n, f, cols, a, none⟩
  | .mulx src n f cols a w m => some ⟨src, n, f, cols, a, some (w, m)⟩
  | _ => none

/-- R49: whether an array's operations run as null operations. -/
def Core.nullOps (k : Core) (x : Side) : Bool :=
  (k.arr x).skip && (match (k.arr x.other).stat with | some st => st.frozen | none => false)

/-- The combination of an output vector with its whey entry: the entry after it, and the lanes that leave for the drains. -/
inductive WheyOut where
  | ok (entry : Option Whey) (emit : Option (List Lane × Bool × Bool))
  | format
  | limit
  deriving DecidableEq, Repr

/-- R45, R47, R305: one vector into one whey entry. An entry of the other kind that would also pass the term limit reports the kind: R45
and R47 give no order (DESIGN CHOICE, assumption log 116). -/
def wheyCombine (w : Option Whey) (mode : MulMode) (fp : Bool) (depth : Nat) (lanes : List Lane) (poison : Bool) : WheyOut :=
  let fresh : Whey := ⟨fp, depth, lanes, poison⟩
  match mode, w with
  | .start, _ => .ok (some fresh) none
  | .add, none => .ok (some fresh) none
  | .addEmit, none => .ok none (some (lanes, fp, poison))
  | m, some w =>
    if w.fp ≠ fp then .format
    else if w.terms + depth > 2 ^ 20 then .limit
    else
      let z : Whey := ⟨fp, w.terms + depth, (w.lanes.zip lanes).map fun p => p.1.plus fp p.2, w.poison || poison⟩
      if m = .addEmit then .ok none (some (z.lanes, fp, z.poison)) else .ok (some z) none

/-- What becomes of a vector at the bottom edge: its whey entry after it, whether it leaves for the drains, what it is there, and
the fault that its whey entry raises. -/
structure VecEnd where
  entry : Option Whey
  out : Bool
  fp : Bool
  lanes : List Lane
  null : Bool
  poison : Bool
  bad : Option WheyBad
  deriving DecidableEq, Repr

/-- A real vector `i` of an operation and its whey entry (R45, R47, R305); without one it leaves for the drains. -/
def MulArgs.vecEnd (a : MulArgs) (w : Option Whey) (i : Nat) (lanes : List Lane) (poison : Bool) (step : BitVec 64) : VecEnd :=
  match a.whey with
  | none => ⟨w, true, a.fmt.fpKind, lanes, false, poison, none⟩
  | some (wb, mode) =>
    match wheyCombine w mode a.fmt.fpKind a.fmt.depth lanes poison with
    | .ok entry (some (ls, fp, p)) => ⟨entry, true, fp, ls, false, p, none⟩
    | .ok entry none => ⟨entry, false, a.fmt.fpKind, [], false, poison, none⟩
    | .format => ⟨w, false, a.fmt.fpKind, [], false, poison, some ⟨0x0109, 5, 0, step⟩⟩
    | .limit => ⟨w, false, a.fmt.fpKind, [], false, poison, some ⟨0x010C, 4, wb + i, step⟩⟩

/-- A null vector: it leaves as a real one would, its whey entry unchanged but for the one that ADD_EMIT frees (R49). -/
def MulArgs.nullEnd (a : MulArgs) (w : Option Whey) : VecEnd :=
  match a.whey with
  | none => ⟨w, true, a.fmt.fpKind, [], true, false, none⟩
  | some (_, .addEmit) => ⟨none, true, a.fmt.fpKind, [], true, false, none⟩
  | some _ => ⟨w, false, a.fmt.fpKind, [], true, false, none⟩

/-- A moving vector: the format that decodes it, its elements, what its feeders wait for, and whether a source is poisoned. -/
structure Moving where
  fmt : Fmt
  vec : OpVec
  feeds : List Feed
  poison : Bool
  deriving DecidableEq, Repr

/-- The moving vector `r` of one tile, or of two consecutive MXFP4 tiles: a row, whose data is there once the flit that holds its
elements has come (R36, assumption log 98), or a column. -/
def tileVector (g : Fmt) (cols : Bool) (hs : List Handed) (r : Nat) : Moving :=
  let ds := hs.map fun h => h.tile.data
  let v : OpVec :=
    if cols then { vals := columnOf ((List.range 128).map fun i => (g.opVec (tilesRow g ds i)).vals) r, scales := [] }
    else g.opVec (tilesRow g ds r)
  ⟨g, v, hs.zipIdx.map fun h => ⟨64 * h.2, none, some (h.1.since + if cols then g.flits else r * g.rowBytes / 512)⟩,
    hs.any (·.poison)⟩

/-- The words of local SRAM of a vector at `base`, each with the first row of the array whose element it holds; the scale bytes are
needed from row 0 on (assumption log 31). -/
def Fmt.feeds (f : Fmt) (base : Nat) : List Feed :=
  (words64 base f.vecBytes).map fun w =>
    let r := (64 * w - base) / (f.depth * f.rowBytes / 16384)
    ⟨if r < 128 then r else 0, some w, none⟩

/-- Vector `n` of a memory operand: its bytes as they stand on the beat, to be read through the banks of local SRAM (R51). -/
def State.memVector (s : State) (c : Nat) (m : MemRef) (f : Fmt) (n : Nat) : Moving :=
  let a := m.addr c n
  ⟨f, f.opVec (s.bytes a f.vecBytes), f.feeds (m.base + m.stride * n), !(s.badIn a f.vecBytes).isEmpty⟩

/-- The operation whose next vector falls on a beat. -/
def ArrayS.jobDue (r : ArrayS) (sbc : Nat) : Option (ArrJob × MulArgs) :=
  match r.job with
  | some j =>
    match j.entry.cmd.mulArgs with
    | some a => if (j.entry.start + j.next * a.fmt.interval) % beatMod = sbc then some (j, a) else none
    | none => none
  | none => none

/-- Whether the tiles of an operation's next vector serve it; a vector from memory, or from tiles already begun, needs none. -/
def ArrayS.needs (r : ArrayS) (j : ArrJob) (a : MulArgs) (sbc period : Nat) : TileNeed :=
  if a.src = .special ∧ j.next % 128 = 0 then r.tileNeed a.fmt.tiles a.fmt a.cols sbc period else .ok

/-- The vector that the injector injects. -/
def State.movingVector (s : State) (c : Nat) (x : Side) (j : ArrJob) (a : MulArgs) : Moving :=
  match a.src with
  | .mem m => s.memVector c m a.fmt j.next
  | .special =>
    let hs := ((s.core c).arr x).handed.take a.fmt.tiles
    tileVector (tilesFmt a.fmt hs) a.cols hs (j.next % 128)

/-- An array after the injection of a vector: the vector in flight, its whey entry, and the operation's next vector. -/
def ArrayS.inject (r : ArrayS) (j : ArrJob) (a : MulArgs) (v : Moving) (z : VecEnd) (period : Nat) : ArrayS :=
  let o : OutVec :=
    { op := j.opnum, since := period, feeds := v.feeds, ready := none, lat := a.fmt.fill, gap := a.fmt.interval,
      gen := r.gen, out := z.out, fp := z.fp, lanes := z.lanes, null := z.null, poison := z.poison, bad := z.bad }
  let last := decide (j.next + 1 = a.n)
  { r with
    outs := r.outs ++ [o]
    whey := match a.whey with
      | some (wb, _) => (match z.entry with | some w => AMap.set r.whey (wb + j.next) w | none => AMap.erase r.whey (wb + j.next))
      | none => r.whey
    job := if last then none else some { j with next := j.next + 1 }
    ops := r.ops.map fun o => if last ∧ o.num = j.opnum then { o with ended := true } else o }

/-- The tiles that a vector of an operation uses up: those of its last row or column. -/
def ArrayS.spent (r : ArrayS) (j : ArrJob) (a : MulArgs) : List Handed :=
  if a.src = .special ∧ j.next % 128 = 127 then r.handed.take a.fmt.tiles else []

/-- The injection of a moving vector: its product with the stationary block, exact or in FP32, its whey entry, and the tiles it
uses up. -/
def State.injectVec (s : State) (c : Nat) (x : Side) (j : ArrJob) (a : MulArgs) : State :=
  let k := s.core c
  let r := k.arr x
  let v := s.movingVector c x j a
  let w := a.whey.bind fun p => AMap.find? r.whey (p.1 + j.next)
  let poison := !j.null && (v.poison || (match r.stat with | some st => st.poison | none => false))
  let prod := if j.null then ([], 0) else outLanes v.fmt a.anchor r.stat v.vec
  let z := if j.null then a.nullEnd w else a.vecEnd w j.next prod.1 poison j.entry.step
  let hs := r.spent j a
  let s := (s.consumeIf poison c j.entry).modCore c fun k =>
    (k.setArr x { (k.arr x).inject j a v z s.dev.period with handed := r.handed.drop hs.length }).consume hs
      ((k.sbc + 1) % beatMod)
  (s.bumpSide .arrCntWindow c x prod.2).bumpSide .arrCntVec c x 1

/-- R39: the injector cannot write the vector of the present beat. -/
def ArrayS.blocked (r : ArrayS) (sbc period : Nat) : Bool := (r.jobDue sbc).isSome && r.feedFull period

/-- R16: the tile whose column the present beat injects is not complete. -/
def ArrayS.tileLate (r : ArrayS) (sbc period : Nat) : Bool :=
  match r.jobDue sbc with
  | some (j, a) => r.needs j a sbc period == .late
  | none => false

/-- What the injector of an array does on the present beat, if nothing holds it. -/
def State.injectSide (s : State) (c : Nat) (x : Side) : State :=
  let r := (s.core c).arr x
  match r.jobDue (s.core c).sbc with
  | some (j, a) =>
    if r.needs j a (s.core c).sbc s.dev.period = .ok ∧ ¬ r.feedFull s.dev.period then s.injectVec c x j a else s
  | none => s

/-- The present beat's injections and press shifts in both arrays of a core. -/
def State.injectBeat (s : State) (c : Nat) : State :=
  (((s.injectSide c .a).injectSide c .b).pressBeat c .a).pressBeat c .b

/-- A fault of an array: the beat's injections go on, ARR_FAULT is recorded, and the core faults. -/
def State.arrFault (s : State) (c : Nat) (x : Side) (code cause opseq entry : Nat) (step : BitVec 64) : State :=
  let s := if (s.core c).st = .running then s.injectBeat c else s
  (s.recordFault .arrFault (sideIdx c x) 8 (word [(entry, 17), (opseq, 9), (cause, 0)])).coreFault c code step

/-- R34, R35: an operation whose injector comes to a tile that no RECV has handed over, or to one of another pair, stops; its
earlier vectors complete. -/
def State.jobStarved (s : State) (c : Nat) (x : Side) : State :=
  let k := s.core c
  let r := k.arr x
  let stop (j : ArrJob) (code cause : Nat) : State :=
    (s.modArr c x fun r => { r with job := none, injEnd := k.sbc }).arrFault c x code cause j.opnum 0 j.entry.step
  match r.jobDue k.sbc with
  | some (j, a) =>
    match r.needs j a k.sbc s.dev.period with
    | .absent => stop j 0x0105 6
    | .format => stop j 0x0109 5
    | _ => s
  | none => s

/-- PRESS on its beat. A block from local SRAM comes in row by row; tiles are taken at once. A refused PRESS has no operation
number: ARR_FAULT.OPSEQ is that of the last operation started (DESIGN CHOICE, assumption log 109). -/
def State.press (s : State) (c : Nat) (x : Side) (e : QEntry) (src : Src) (t : Bool) (f : Fmt) (frozen : Bool) : State :=
  let k := s.core c
  let r := k.arr x
  let s' := s.popHead c x.engine
  match r.pressEarly k.sbc with
  | some cause => s'.arrFault c x 0x0102 cause r.issued 0 e.step
  | none =>
    if f.pair = 0 ∨ (f.mx ∧ ¬ t) then s'.arrFault c x 0x0109 5 r.issued 0 e.step
    else
      match src with
      | .mem m => s'.modArr c x fun r => r.pressed ⟨f, [], t, frozen, false⟩ ⟨e, some m⟩ k.sbc
      | .special =>
        match r.tileNeed f.tiles f true k.sbc s.dev.period with
        | .absent => s'.arrFault c x 0x0105 6 r.issued 0 e.step
        | .format => s'.arrFault c x 0x0109 5 r.issued 0 e.step
        | .late => s.freeze c 2 x.engine
        | .ok =>
          let hs := r.handed.take f.tiles
          let g := tilesFmt f hs
          let rows := (List.range 128).map (tilesRow g (hs.map fun h => h.tile.data))
          let st : Stat := ⟨g, rows, t, hs.any (·.tile.tag.frozen), hs.any (·.poison)⟩
          (s'.modCore c fun k =>
            (k.setArr x { (k.arr x).pressed st ⟨e, none⟩ k.sbc with handed := r.handed.drop f.tiles }).consume hs
              ((k.sbc + 130) % beatMod)).consumeIf st.poison c e

/-- The operation's formats against the pressed block and the microscaling rule (R34, R103). -/
def ArrayS.formatOk (r : ArrayS) (a : MulArgs) : Bool :=
  a.fmt.pair ≠ 0 && (match r.stat with | some st => st.fmt.pair == a.fmt.pair | none => true)
    && !(a.fmt.mx && a.cols && a.src == .special)

/-- An operation that starts: its number is drawn, and the injector is busy until its last vector has been injected (R37). -/
def ArrayS.begun (r : ArrayS) (e : QEntry) (a : MulArgs) (null : Bool) : ArrayS :=
  let n := (r.issued + 1) % 256
  { r with issued := n, used := true, injIsPress := false, injEnd := (e.start + (a.n - 1) * a.fmt.interval + 1) % beatMod,
           ops := r.ops ++ [⟨n, false⟩], job := some ⟨e, n, 0, null⟩ }

/-- The tiles in hand for an operation that are of another pair than its own (R34). -/
def ArrayS.foreign (r : ArrayS) (a : MulArgs) : Bool :=
  a.src == .special && (r.handed.take (a.n / 128 * a.fmt.tiles)).any fun h => !a.fmt.pairOk h.tile.tag.fmt

/-- MUL or MULX on its beat. One that is not started draws no number: ARR_FAULT.OPSEQ is that of the last operation started
(DESIGN CHOICE, assumption log 109). -/
def State.mulStart (s : State) (c : Nat) (x : Side) (e : QEntry) (a : MulArgs) : State :=
  let k := s.core c
  let r := k.arr x
  let s' := s.popHead c x.engine
  if r.injBusy k.sbc then
    (if r.injIsPress then s'.arrFault c x 0x0102 1 r.issued 0 e.step else s'.arrFault c x 0x0106 7 r.issued 0 e.step)
  else if ¬ r.formatOk a ∨ r.foreign a then s'.arrFault c x 0x0109 5 r.issued 0 e.step
  else
    match (if a.src = .special then r.tileNeed a.fmt.tiles a.fmt a.cols k.sbc s.dev.period else .ok : TileNeed) with
    | .late => s.freeze c 2 x.engine
    | .absent =>
      let n := (r.issued + 1) % 256
      (s'.modArr c x fun r => { r with issued := n }).arrFault c x 0x0105 6 n 0 e.step
    | _ => s'.modArr c x fun r => r.begun e a (k.nullOps x)

/-! ### Vectors in flight -/

/-- R51: whether a bank serves word `w` in an MCLK in which the banks of `used` are taken and the words of `got` are read for the
feeders: one word a bank, for every vector that waits for it (assumption log 35). -/
def bankServes (used got : List Nat) (w : Nat) : Bool :=
  got.contains w || !(used.contains (w % 64) || got.any fun v => v % 64 == w % 64)

/-- R51: the words that the feeders of one vector wait for are read where their banks serve them, and are there from period `d` on;
with them the words read so far in the MCLK. -/
def fillFeeds (d : Nat) (used : List Nat) : List Feed → List Nat → List Feed × List Nat
  | [], got => ([], got)
  | g :: gs, got =>
    match g.word, g.data with
    | some w, none =>
      if bankServes used got w then (let q := fillFeeds d used gs (w :: got); ({ g with data := some d } :: q.1, q.2))
      else (let q := fillFeeds d used gs got; (g :: q.1, q.2))
    | _, _ => let q := fillFeeds d used gs got; (g :: q.1, q.2)

/-- The same for vectors in their order; what is read in an MCLK is there from its first period on. -/
def fillVecs (period : Nat) (used : List Nat) : List OutVec → List Nat → List OutVec × List Nat
  | [], got => ([], got)
  | o :: os, got =>
    let p := if o.feeds.all (·.data.isSome) then (o.feeds, got) else fillFeeds (max o.since (period - 1)) used o.feeds got
    let q := fillVecs period used os p.2
    ({ o with feeds := p.1 } :: q.1, q.2)

/-- The MCLK's feeder fills of both arrays of a core, the banks of `used` being taken (R51). -/
def Core.fill (k : Core) (period : Nat) (used : List Nat) : Core :=
  let p := fillVecs period used k.arrA.outs []
  let q := fillVecs period used k.arrB.outs p.2
  { k with arrA := { k.arrA with outs := p.1 }, arrB := { k.arrB with outs := q.1 } }

/-- What goes on in an array whether or not the core is frozen (R40): the vectors whose data is there move on. -/
def ArrayS.flow (r : ArrayS) (period : Nat) : ArrayS :=
  ({ r with outs := stampOuts period (r.inCells period) 0 [] 128 r.outs } : ArrayS).settle period

/-- One period of the vectors in flight of a core. -/
def Core.flow (k : Core) (period : Nat) : Core :=
  { k with arrA := k.arrA.flow period, arrB := k.arrB.flow period }

/-- R45, R47: a vector that its whey entry refuses has come to the whey. -/
def State.wheyFault (s : State) (c : Nat) (x : Side) : State :=
  let at_ (o : OutVec) : Bool := o.bad.isSome && o.ready.any fun p => decide (p ≤ s.dev.period + 1)
  match ((s.core c).arr x).outs.find? at_ with
  | some o =>
    match o.bad with
    | some b =>
      if (s.core c).live then
        (s.modArr c x fun r => { r with outs := r.outs.map fun o => if at_ o then { o with bad := none } else o }).arrFault
          c x b.code b.cause o.op b.entry b.step
      else s
    | none => s
  | none => s

/-- Whether the oldest operation has completed: all its vectors injected, and through the array. -/
def ArrayS.opComplete (r : ArrayS) (period : Nat) : Bool :=
  match r.ops with
  | o :: _ => o.ended && (r.outs.drop (r.arrived period)).all fun v => v.op ≠ o.num
  | [] => false

/-- ARRAY_OP_COMPLETE: OPS_DONE advances to the oldest operation's number. -/
def State.opComplete (s : State) (c : Nat) (x : Side) : State :=
  let r := (s.core c).arr x
  match r.ops with
  | o :: os => if r.opComplete s.dev.period then s.modArr c x fun r => { r with done := o.num, ops := os } else s
  | [] => s

/-! ### DRAIN and SKIPDW -/

/-- DRAIN on its beat (R37, R38): its first vector is read at once, one more on each beat after it. A refused DRAIN records the
number of the last operation started (DESIGN CHOICE, assumption log 109). Its range entry is looked up, claimed and counted once on
this beat, whatever its vectors hold (DESIGN CHOICE, assumption log 121). -/
def State.drain (s : State) (c : Nat) (x : Side) (e : QEntry) (dst : DrainDst) (n : Nat) (f : Fmt) (oscale : Int) (sr : Bool)
    (key : KeyRef) : State :=
  let k := s.core c
  let r := k.arr x
  let s := s.popHead c x.engine
  if r.used ∧ ¬ beatReached k.sbc r.drainEnd then s.arrFault c x 0x0106 7 r.issued 0 e.step
  else if r.level s.dev.period < n then s.arrFault c x 0x010A 3 r.issued 0 e.step
  else
    let (s, hit, cor) := s.rangeLookup c e.stream e.step key.tensor (match dst with | .vreg _ => none | .mem _ => some f)
    (s.modArr c x fun r =>
      { r with drainEnd := (k.sbc + n) % beatMod, used := true, drain := some ⟨e, dst, n, f, oscale, sr, key, cor, hit, 0⟩ }).drainStep
        c x

/-- SKIPDW on its beat (R43, R37). -/
def State.skipdw (s : State) (c : Nat) (x : Side) (e : QEntry) (on : Bool) : State :=
  let k := s.core c
  let r := k.arr x
  let s := s.popHead c x.engine
  if r.injBusy k.sbc then
    (if r.injIsPress then s.arrFault c x 0x0102 1 r.issued 0 e.step else s.arrFault c x 0x0106 7 r.issued 0 e.step)
  else s.modArr c x fun r => { r with skip := on }

/-! ### The rows -/

/-- An array command on its beat. -/
def State.arrayCmd (s : State) (c : Nat) (x : Side) (e : QEntry) : State :=
  match e.cmd with
  | .press src t f fr => s.press c x e src t f fr
  | .drain dst n f os sr key => s.drain c x e dst n f os sr key
  | .skipdw on => s.skipdw c x e on
  | _ => match e.cmd.mulArgs with | some a => s.mulStart c x e a | none => s

/-- Start the array command at the head of a core's queue, if `p` accepts it. -/
def State.arrayStart (s : State) (c : Nat) (x : Side) (p : Cmd → Bool) : State :=
  s.startWith c x.engine p fun t e =>
    -- a command that is not performed accesses nothing
    if ((t.arrayCmd c x e).core c).st = .running then (t.hazards c e).arrayCmd c x e else t.arrayCmd c x e

/-- PRESS (R42, R43, R44). -/
def execPress (c : CoreId) (x : Side) (s : State) : Host.Outcome State Fault Refusal :=
  .next (s.arrayStart c x fun | .press _ _ _ _ => true | _ => false)

/-- MUL (R37). -/
def execMul (c : CoreId) (x : Side) (s : State) : Host.Outcome State Fault Refusal :=
  .next (s.arrayStart c x fun | .mul _ _ _ _ _ => true | _ => false)

/-- MULX (R45, R47, R305). -/
def execMulx (c : CoreId) (x : Side) (s : State) : Host.Outcome State Fault Refusal :=
  .next (s.arrayStart c x fun | .mulx _ _ _ _ _ _ _ => true | _ => false)

/-- ARRAY_OP_COMPLETE (R37). -/
def execArrayOpComplete (c : CoreId) (x : Side) (s : State) : Host.Outcome State Fault Refusal := .next (s.opComplete c x)

/-- DRAIN (R38, R306). -/
def execDrain (c : CoreId) (x : Side) (s : State) : Host.Outcome State Fault Refusal :=
  .next (s.arrayStart c x fun | .drain _ _ _ _ _ _ => true | _ => false)

/-- SKIPDW (R49). -/
def execSkipdw (c : CoreId) (x : Side) (s : State) : Host.Outcome State Fault Refusal :=
  .next (s.arrayStart c x fun | .skipdw _ => true | _ => false)

end Sys2Proof.Machine
end

