-- ==== Sys2Proof/Machine/Vector.lean ====
section
/-!
DEFINITION. The vector unit: lane-wise arithmetic (R105), the fixed trees (R106), VCVT (R307), loads and stores, and the
landing of results (R82).
-/
namespace Sys2Proof.Machine

/-- The lanes of a register, `n` of `w` bits. -/
def regLanes (w n : Nat) (r : BitVec 4096) : List Nat := (List.range n).map fun i => r.toNat / 2 ^ (w * i) % 2 ^ w

/-- A register from lanes of `w` bits, lane 0 lowest. -/
def regOfLanes (w : Nat) (cs : List Nat) : BitVec 4096 :=
  BitVec.ofNat 4096 (cs.foldr (fun c a => c % 2 ^ w + 2 ^ w * a) 0)

/-- Width and count of the lanes of a view. -/
def Lanes.width : Lanes → Nat
  | .fp32 | .int32 => 32
  | .bf16 | .fp16 => 16
def Lanes.count : Lanes → Nat
  | .fp32 | .int32 => 128
  | .bf16 | .fp16 => 256

/-- The float layout of a view. -/
def Lanes.fmt? : Lanes → Option FloatFmt
  | .fp32 => some Machine.fp32
  | .bf16 => some Machine.bf16
  | .fp16 => some Machine.fp16
  | .int32 => none

/-- One INT32 lane: modulo 2 ^ 32, signed comparisons. -/
def VOp.intLane (o : VOp) (a b c : Nat) : Nat :=
  match o with
  | .add => (a + b) % 2 ^ 32
  | .sub => (a + 2 ^ 32 - b) % 2 ^ 32
  | .mul => a * b % 2 ^ 32
  | .max => if sint 32 a ≤ sint 32 b then b else a
  | .min => if sint 32 a ≤ sint 32 b then a else b
  | .sel => if 0 ≤ sint 32 c then a else b
  | _ => 0

/-- One floating-point lane (R105). -/
def VOp.floatLane (o : VOp) (f : FloatFmt) (a b c : Nat) : Nat :=
  let x := f.decode a
  let y := f.decode b
  let z := f.decode c
  match o with
  | .add => f.round (x.add y)
  | .sub => f.round (x.add y.negate)
  | .mul => f.round (x.mul y)
  | .fma => f.round ((x.mul y).add z)
  | .max => f.round (x.max y)
  | .min => f.round (x.min y)
  | .exp2 => f.round x.exp2
  | .log2 => f.round x.log2
  | .rcp => f.round x.rcp
  | .rsq => f.round x.rsqrt
  | .sel => f.round (match z with
    | .nan => y
    | .inf n => if n then y else x
    | .fin n m _ => if n ∧ m ≠ 0 then y else x)
  | .reds | .redm => 0

/-- The reduction of a list of lanes by the fixed tree (R106). -/
def VOp.tree (o : VOp) (f : FloatFmt) (cs : List Nat) : Nat :=
  (treeFold (fun a b => match o with
    | .reds => f.round ((f.decode a).add (f.decode b))
    | _ => f.round ((f.decode a).max (f.decode b))) 8 cs).headD 0

/-- The result of a vector operation on whole registers. -/
def VOp.apply (o : VOp) (ty : Lanes) (a b c : BitVec 4096) : BitVec 4096 :=
  let w := ty.width
  let l (r : BitVec 4096) := regLanes w ty.count r
  match ty.fmt? with
  | none => regOfLanes w (((l a).zip ((l b).zip (l c))).map fun p => o.intLane p.1 p.2.1 p.2.2)
  | some f =>
    match o with
    | .reds | .redm => regOfLanes w [o.tree f (l a)]
    | _ => regOfLanes w (((l a).zip ((l b).zip (l c))).map fun p => o.floatLane f p.1 p.2.1 p.2.2)

/-- A vector register of a core. -/
def VecS.reg (v : VecS) (n : Nat) : BitVec 4096 := AMap.get v.regs 0 n

/-- Queue a write that lands later. -/
def State.later (s : State) (c : Nat) (p : Pend) : State :=
  s.modCore c fun k => { k with vec := { k.vec with pend := k.vec.pend ++ [p] } }

/-- A lane-wise or tree operation on its start beat. -/
def State.vecOp (s : State) (c : Nat) (e : QEntry) (o : VOp) (vd va vb vc : Nat) (ty : Lanes) : State :=
  let v := (s.core c).vec
  let poison := (o.sources va vb vc).any (· ∈ v.poisoned)
  ((s.popHead c 3).consumeIf poison c e).later c
    (.reg ((e.start + o.latency) % beatMod) e.start vd (o.apply ty (v.reg va) (v.reg vb) (v.reg vc)) poison)

/-- The 128 values of a packed register (R307, direction 1). -/
def unpackReg (f : Fmt) (r : BitVec 4096) : List Val :=
  match f with
  | .mxfp4 =>
    ((regLanes 4 128 r).zipIdx).map fun p => mxScale (regLanes 8 68 r) (64 + p.2 / 32) ((Fmt.mxfp4).decode p.1)
  | .mxint8 =>
    ((regLanes 8 128 r).zipIdx).map fun p => mxScale (regLanes 8 132 r) (128 + p.2 / 32) ((Fmt.mxint8).decode p.1)
  | f => (regLanes (8 * (f.rowBytes / 128)) 128 r).map f.decode
where
  /-- Multiply by the E8M0 scale; 0xFF makes the block NaN (R103). -/
  mxScale (bs : List Nat) (i : Nat) (v : Val) : Val :=
    let s := bs.getD i 0
    if s = 255 then .nan else v.shift ((s : Int) - 127)

/-- Direction 1 rounds to FP32 with the signed largest value beyond the range. -/
def fp32Clamped (v : Val) : Nat := (fp32.convert .rne v).code

/-- VCVT on its start beat (R307, R114, R117). -/
def State.vcvt (s : State) (c : Nat) (e : QEntry) (vd va : Nat) (f : Fmt) (back sr : Bool) (oscale : Int) (key : KeyRef) : State :=
  let v := (s.core c).vec
  let poison := decide (va ∈ v.poisoned)
  let s := (s.popHead c 3).consumeIf poison c e
  let due := (e.start + 6) % beatMod
  if back then
    let (s, _, cor) := s.rangeLookup c e.stream e.step key.tensor none
    s.later c (.reg due e.start vd
      (regOfLanes 32 ((unpackReg f (v.reg va)).map fun x => fp32Clamped (x.shift (-(oscale + cor))))) poison)
  else
    let (s, hit, cor) := s.rangeLookup c e.stream e.step key.tensor (some f)
    let seed := (s.ctx (s.core c).ctx).seed
    let (bytes, cnt) := convertVec f (oscale + cor) oscale (keyRnd seed e.step key sr 0)
      ((regLanes 32 128 (v.reg va)).map fun x => { v := fp32.decode x })
    (s.countConv c key.tensor hit (some f) cnt).later c (.reg due e.start vd (regOfBytes bytes) poison)

/-- VLD on its start beat. -/
def State.vld (s : State) (c : Nat) (e : QEntry) (v : Nat) (m : MemRef) : State :=
  let r := if m.clm then s.coreRead c (m.addr c 0) 512 else (s, s.bytes (m.addr c 0) 512)
  (r.1.popHead c 3).later c
    (.reg ((e.start + m.loadLatency) % beatMod) e.start v (regOfBytes r.2) (!(s.badIn (m.addr c 0) 512).isEmpty))

/-- VST on its start beat. -/
def State.vst (s : State) (c : Nat) (e : QEntry) (v : Nat) (m : MemRef) : State :=
  let u := (s.core c).vec
  (s.popHead c 3).later c
    (.mem ((e.start + m.storeLatency) % beatMod) e.start (m.addr c 0) (bytesOfReg (u.reg v)) (decide (v ∈ u.poisoned)) m.clm)

/-- Start the vector command at the head of a core's queue, if it is a `p`, its accesses noted. -/
def State.vectorStart (s : State) (c : Nat) (p : Cmd → Bool) : State :=
  s.startWith c 3 p fun s e =>
    let s := s.hazards c e
    match e.cmd with
    | .vec o vd va vb vc ty => s.vecOp c e o vd va vb vc ty
    | .vcvt vd va f back sr os key => s.vcvt c e vd va f back sr os key
    | .vld v m => s.vld c e v m
    | .vst v m => s.vst c e v m
    | _ => s

/-- The vector commands of one operation. -/
def isVec (o : VOp) : Cmd → Bool
  | .vec o' _ _ _ _ _ => o' == o
  | _ => false

/-- VADD. -/
def execVadd (c : CoreId) (s : State) : Host.Outcome State Fault Refusal := .next (s.vectorStart c (isVec .add))
/-- VSUB. -/
def execVsub (c : CoreId) (s : State) : Host.Outcome State Fault Refusal := .next (s.vectorStart c (isVec .sub))
/-- VMUL. -/
def execVmul (c : CoreId) (s : State) : Host.Outcome State Fault Refusal := .next (s.vectorStart c (isVec .mul))
/-- VFMA, one rounding. -/
def execVfma (c : CoreId) (s : State) : Host.Outcome State Fault Refusal := .next (s.vectorStart c (isVec .fma))
/-- VMAX. -/
def execVmax (c : CoreId) (s : State) : Host.Outcome State Fault Refusal := .next (s.vectorStart c (isVec .max))
/-- VMIN. -/
def execVmin (c : CoreId) (s : State) : Host.Outcome State Fault Refusal := .next (s.vectorStart c (isVec .min))
/-- VEXP2. -/
def execVexp2 (c : CoreId) (s : State) : Host.Outcome State Fault Refusal := .next (s.vectorStart c (isVec .exp2))
/-- VLOG2. -/
def execVlog2 (c : CoreId) (s : State) : Host.Outcome State Fault Refusal := .next (s.vectorStart c (isVec .log2))
/-- VRCP. -/
def execVrcp (c : CoreId) (s : State) : Host.Outcome State Fault Refusal := .next (s.vectorStart c (isVec .rcp))
/-- VRSQ. -/
def execVrsq (c : CoreId) (s : State) : Host.Outcome State Fault Refusal := .next (s.vectorStart c (isVec .rsq))
/-- VSEL. -/
def execVsel (c : CoreId) (s : State) : Host.Outcome State Fault Refusal := .next (s.vectorStart c (isVec .sel))
/-- VCVT (R307). -/
def execVcvt (c : CoreId) (s : State) : Host.Outcome State Fault Refusal :=
  .next (s.vectorStart c fun | .vcvt _ _ _ _ _ _ _ => true | _ => false)
/-- VREDS (R106). -/
def execVreds (c : CoreId) (s : State) : Host.Outcome State Fault Refusal := .next (s.vectorStart c (isVec .reds))
/-- VREDM (R106). -/
def execVredm (c : CoreId) (s : State) : Host.Outcome State Fault Refusal := .next (s.vectorStart c (isVec .redm))
/-- VLD. -/
def execVld (c : CoreId) (s : State) : Host.Outcome State Fault Refusal :=
  .next (s.vectorStart c fun | .vld _ _ => true | _ => false)
/-- VST. -/
def execVst (c : CoreId) (s : State) : Host.Outcome State Fault Refusal :=
  .next (s.vectorStart c fun | .vst _ _ => true | _ => false)
/-- VECTOR_RESULT_LAND: the writes due on the present beat land (R82). -/
def execVectorResultLand (c : CoreId) (s : State) : Host.Outcome State Fault Refusal := .next (s.land c)

end Sys2Proof.Machine
end

