-- ==== Sys2Proof/Machine/Ladle.lean ====
section
/-!
DEFINITION. The ladle (*The ladle*): MV and MVACC, the accumulator with its term count, and EMIT.
-/
namespace Sys2Proof.Machine

/-- Weight format of LFMT; none for 5 to 7. -/
def ladleFmt : Nat → Option Fmt
  | 0 => some .mxfp4 | 1 => some .mxint8 | 2 => some .e4m3 | 3 => some .e5m2 | 4 => some .int8
  | _ => none

/-- The elements of `x` that a weight unit meets, one byte each. -/
def LdlCmd.xChunk (l : LdlCmd) (v : VecS) (u : Nat) : List Nat :=
  (List.range l.depth).map fun j =>
    let i := l.depth * (u % l.chunks) + j
    (v.reg (l.x + i / 512)).toNat / 2 ^ (8 * (i % 512)) % 256

/-- The products of one row of a weight unit, added to the row's entry; and the blocks outside the window. `sc` holds the scale
bytes of the row, one for each block of an MX format. -/
def LdlCmd.rowSum (l : LdlCmd) (f : Fmt) (ws : List Byte) (xs sc : List Nat) (a : Lane) : Lane × Nat :=
  let w := (f.codes ws).map f.operand
  let x := xs.map (if l.lfmt = 4 then Fmt.int8.operand else Fmt.e4m3.operand)
  if f.mx then dotBlocks l.w.anchor w x sc (List.replicate sc.length 127) a 0
  else ((w.zip x).foldl (fun a p => a.addProduct (p.1.mul p.2)) a, 0)

/-- Scale bytes of a row of a weight unit. -/
def LdlCmd.rowScales (l : LdlCmd) : Nat := if l.lfmt = 0 then 8 else 4

/-- Weight unit `u` with the elements of `x` that it meets and the scale bytes `sc` of its group: row `r` of the unit goes to entry
`16 (u / chunks) + r`. The scale bytes stand unit by unit in row order (assumption log 21). -/
def LdlCmd.unitSum (l : LdlCmd) (f : Fmt) (sc : List Byte) (h : Nat × List Byte × List Nat) (p : List Lane × Nat) : List Lane × Nat :=
  let row := h.1 / l.chunks * 16
  let sums := (List.range 128).map fun i =>
    let a := p.1.getD i {}
    if row ≤ i ∧ i < row + 16 then
      let r := i - row
      l.rowSum f ((h.2.1.drop (128 * r)).take 128) h.2.2
        (((sc.drop ((h.1 % ladleGroup l.lfmt * 16 + r) * l.rowScales)).take l.rowScales).map (·.toNat)) a
    else (a, 0)
  (sums.map (·.1), p.2 + (sums.map (·.2)).sum)

/-- A fault of the ladle: LDL_FAULT, which holds the last one, then the fault of the core. -/
def State.ldlFault (s : State) (c code cause : Nat) (e : QEntry) : State :=
  (s.setReg .ldlFault (coreIdx c) (word [(1, 8), (cause, 0)])).coreFault c code e.step

/-- R52: the operand ranges. -/
def LdlCmd.rangeOk (l : LdlCmd) : Bool :=
  l.w.base % 4096 == 0 && decide (l.chunks * l.depth ≤ 16384) && decide (l.x + l.xRegs ≤ 64)

/-- The term count that the operations issued so far leave. -/
def LdlS.lastTerms (q : LdlS) : Nat := match q.jobs.getLast? with | some j => j.terms | none => q.terms

/-- MV or MVACC on its start beat: its checks, and its place behind the operations that still own MCLKs (R52, R53). -/
def State.ladle (s : State) (c : Nat) (e : QEntry) (l : LdlCmd) : State :=
  let k := s.core c
  let s' := s.popHead c 4
  let terms := (if l.acc then k.ldl.lastTerms else 0) + l.chunks * l.depth
  if ¬ l.rangeOk then s'.ldlFault c 0x0105 0 e
  else if (ladleFmt l.lfmt).isNone then s'.ldlFault c 0x0109 1 e
  else if terms > 2 ^ 20 then s'.ldlFault c 0x010C 2 e
  else ((s.hazards c e).popHead c 4).modCore c fun q =>
    { q with ldl := { q.ldl with jobs := q.ldl.jobs ++ [{ entry := e, cmd := l, first := k.ldl.begins e, terms := terms }] } }

/-- The first beat of an operation: MV clears the accumulator. -/
def LdlS.start (q : LdlS) (j : LdlJob) : LdlS :=
  if j.cmd.acc then q else { q with lanes := List.replicate 128 {}, terms := 0, poison := false }

/-- The operation in progress, at the front of its queue, becomes another. -/
def LdlS.setJob (q : LdlS) (j : LdlJob) : LdlS := { q with jobs := j :: q.jobs.tail }

/-- The operation in progress reads its unit `p`, as memory and the registers stand on the beat: a weight unit is multiplied, one of
an MX format once the scale unit of its group has been read. Blocks outside the window are counted. -/
def State.ladleUnit (s : State) (c : Nat) (j : LdlJob) (f : Fmt) (p : Nat) : State :=
  let l := j.cmd
  let k := s.core c
  let a := l.w.addr c 0 + 2048 * p
  let bs := s.bytes a 2048
  let add (hs : List (Nat × List Byte × List Nat)) (sc : List Byte) : List Lane × Nat :=
    hs.foldl (fun p h => l.unitSum f sc h p) (k.ldl.lanes, 0)
  let bad := !(s.badIn a 2048).isEmpty || (match l.weightUnit p with | some u => k.vec.poisoned.contains (l.x + l.xReg u) | none => false)
  let r : LdlJob × (List Lane × Nat) := match l.weightUnit p with
    | some u =>
      let h := (u, bs, l.xChunk k.vec u)
      if f.mx then ({ j with held := j.held ++ [h] }, (k.ldl.lanes, 0)) else (j, add [h] [])
    | none => ({ j with held := [] }, add j.held bs)
  let s := (s.consumeIf bad c j.entry).modCore c fun k =>
    { k with ldl := { k.ldl.setJob r.1 with lanes := r.2.1, poison := k.ldl.poison || bad } }
  (s.bumpCore .ldlCntUnits (coreIdx c) 1 c).bumpCore .ldlCntWindow (coreIdx c) r.2.2 c

/-- After an operation's last unit its term count stands, and with EMIT the accumulator is converted, to be written 16 beats after the
beats that the operation owns (assumption log 40). -/
def State.ladleLast (s : State) (c : Nat) (j : LdlJob) : State :=
  let q := (s.core c).ldl
  let conv := convertVec .fp32 0 0 (fun _ => .rne) (q.lanes.map (·.present false))
  let s := s.modCore c fun k =>
    { k with ldl := { k.ldl with
        terms := j.terms
        emits := if j.cmd.emit then k.ldl.emits ++ [((j.ends + 15) % beatMod, j.cmd.vd, regOfBytes conv.1, q.poison)] else k.ldl.emits } }
  if j.cmd.emit then s.countConv c 0 false none conv.2 else s

/-- Whether `n` beats after its first an operation has an MCLK of its own to begin with: RATE of every four. -/
def LdlCmd.owns (l : LdlCmd) (n : Nat) : Bool := n % 2 == 0 && decide (n / 2 % 4 < l.rate)

/-- The units that an operation reads `n` beats after its first. -/
def LdlCmd.due (l : LdlCmd) (n : Nat) : List Nat :=
  let i := 2 * (l.rate * (n / 8) + n / 2 % 4)
  if l.owns n then [i, i + 1].filter fun p => decide (p < l.units) else []

/-- What the ladle does on the present beat of its core: an operation whose first beat has come starts, and in an MCLK that it owns
it reads two units; an operation that owns no MCLK any more leaves. -/
def State.ladleBeat (s : State) (c : Nat) : State :=
  let s := s.modCore c fun k => { k with ldl := { k.ldl with jobs := k.ldl.jobs.filter fun j => !beatReached k.sbc j.ends } }
  let k := s.core c
  match k.ldl.jobs with
  | [] => s
  | j :: _ =>
    match ladleFmt j.cmd.lfmt with
    | none => s
    | some f =>
      if ¬ beatReached k.sbc j.first then s
      else
        let n := beatSub k.sbc j.first
        let s := if n = 0 then s.modCore c fun k => { k with ldl := k.ldl.start j } else s
        let s := (j.cmd.due n).foldl (fun s p =>
          match (s.core c).ldl.jobs with | j :: _ => s.ladleUnit c j f p | [] => s) (s.bumpCore .ldlCntSlots (coreIdx c) (b2n (j.cmd.owns n)) c)
        if (j.cmd.due n).contains (j.cmd.units - 1) then s.ladleLast c j else s

/-- Start the ladle command at the head of a core's queue. -/
def State.ladleStart (s : State) (c : Nat) (acc : Bool) : State :=
  s.startWith c 4 (fun | .ladle l => l.acc == acc | _ => false) fun s e =>
    match e.cmd with
    | .ladle l => s.ladle c e l
    | _ => s

/-- MV: clears the accumulator, then accumulates. -/
def execMv (c : CoreId) (s : State) : Host.Outcome State Fault Refusal := .next (s.ladleStart c false)

/-- MVACC: accumulates without clearing. -/
def execMvacc (c : CoreId) (s : State) : Host.Outcome State Fault Refusal := .next (s.ladleStart c true)

/-- LADLE_EMIT: the accumulator values whose 16 beats are over reach their registers. -/
def execLadleEmit (c : CoreId) (s : State) : Host.Outcome State Fault Refusal := .next (s.landEmits c)

end Sys2Proof.Machine
end

