-- ==== Sys2Proof/Machine/Sequencer.lean ====
section
/-!
DEFINITION. The sequencer: fetching segments into the banks (R71, R308), decoding (R312), the deposit rule (R59), loops,
banks and the counter operation.
-/
namespace Sys2Proof.Machine

/-! ### Banks and fetch -/

/-- The last instruction index of a bank or half (R73). -/
def SeqS.lastIndex (q : SeqS) : Nat := if q.two then 2047 else 4095

/-- R70: the switch that a BANK waits for, once its target is READY; the old bank becomes FREE and empty. -/
def SeqS.bankSwitch (q : SeqS) (x : StreamSel) : SeqS :=
  let t := q.strm x
  match t.bankWait with
  | none => q
  | some entry =>
    let new := 1 - t.bank
    let b := q.bankOf x new
    if b.st = .ready then
      let q := q.setBank x t.bank { st := .free }
      let q := q.setBank x new { b with st := .active }
      q.setStrm x { t with bank := new, pc := entry, bankWait := none, initFill := false, waitBank := false }
    else q

/-- Decode a program-queue segment entry of 32 bytes. -/
def Seg.ofWord (w : Nat) : Seg :=
  { addr := bits w 255 192, segId := bits w 191 176, first := bits w 175 164, ninstr := bits w 163 151,
    ndesc := bits w 150 142, bank := bits w 141 141, last := bit w 139 }

/-- The next segment of a stream's program queue; a cyclic queue goes on at its cycle entry. -/
def Strm.segAt (t : Strm) : Option Seg :=
  match t.segs[t.nextSeg]? with
  | some g => some g
  | none =>
    match t.cycle with
    | some k => t.segs[k]?
    | none => none

/-- The position after the next segment. -/
def Strm.segNext (t : Strm) : Nat :=
  if t.nextSeg < t.segs.length then t.nextSeg + 1 else match t.cycle with | some k => k + 1 | none => t.nextSeg

/-- Write the descriptors and instructions of a segment into a bank or half. -/
def Bank.fill (b : Bank) (m : Mem) (g : Seg) : Bank :=
  let d := (List.range g.ndesc).foldl (fun d i => AMap.set d i (BitVec.ofNat 128 (Mem.readLE m (g.addr + 16 * i) 16))) b.desc
  let c := (List.range g.ninstr).foldl
    (fun c i => AMap.set c (g.first + i) (BitVec.ofNat 64 (Mem.readLE m (g.addr + 16 * g.ndesc + 8 * i) 8))) b.code
  { b with desc := d, code := c }

/-- SEGMENT_FETCH: the fetcher takes the next segment of a stream. It waits behind a bank that is READY (R308); a segment
that names the stream's ACTIVE bank, other than the initial bank before its first LAST, is rejected (R71). -/
def State.segmentFetch (s : State) (c : Nat) (x : StreamSel) : State :=
  let k := s.core c
  let q := k.seqr
  let t := q.strm x
  if k.slot.isNone ∨ (x = .bwd ∧ ¬ q.two) ∨ t.waitBank then s
  else
    match t.segAt with
    | none => s
    | some g =>
      let b := q.bankOf x g.bank
      let t' := { t with nextSeg := t.segNext }
      let init := t.initFill && g.bank == t.bank
      if b.st = .active ∧ ¬ init then
        let s := s.modCore c fun k => k.modSeq fun q => q.setStrm x t'
        let s := s.setReg .seqBank (coreIdx c) (word [(g.segId, 16), (1, 8)])
        s.raise 0x0103 { kind := 0, index := c, ctx := k.owner, step := t.step, detail := BitVec.ofNat 64 k.sbc }
      else if b.st = .ready then s
      else
        let b' := b.fill s.mem g
        let b' := if init then b' else { b' with st := if g.last then .ready else .loading }
        let t' := { t' with initFill := t.initFill && !(init && g.last), waitBank := g.last && !init }
        s.modCore c fun k => k.modSeq fun q => (q.setBank x g.bank b').setStrm x t'

/-! ### The interleave plan (R75) -/

/-- The word at a stream's next instruction. -/
def SeqS.fetchWord (q : SeqS) (x : StreamSel) : Option Nat :=
  let t := q.strm x
  (AMap.find? (q.bankOf x t.bank).code t.pc).map (·.toNat)

/-- Whether a word is one of the five gates. -/
def isGate (w : Nat) : Bool := decide (1 ≤ opcodeOf w ∧ opcodeOf w ≤ 5)

/-- A plan entry: STREAM[15], BLOCKS[14:0]. -/
def SeqS.planEntry (q : SeqS) (i : Nat) : StreamSel × Nat :=
  let e := q.plan.getD i 0
  (if bit e 15 then .bwd else .fwd, bits e 14 0)

/-- Go to the next plan entry. -/
def SeqS.planNext (q : SeqS) : SeqS :=
  let p := if q.ptr + 1 < q.plan.length then q.ptr + 1 else 0
  let (x, n) := q.planEntry p
  { q with ptr := p, cur := x, left := n }

/-- The plan entry whose blocks come next: the one after an entry whose BLOCKS are used up (R75). -/
def SeqS.planSpent (q : SeqS) : SeqS := if q.left = 0 then { q.planNext with cur := q.cur } else q

/-- In normal mode, decoding at a gate goes on in the stream of the current plan entry: the next entry when the current one
has had its BLOCKS (R75), the plan's own stream again after blocks picked from the other one (R76, R77). A BANK that waits
holds decoding where it is (R70). -/
def SeqS.planTurn (q : SeqS) : SeqS :=
  let t := q.strm q.cur
  if q.two ∧ ¬ q.pick ∧ ¬ (q.pickMode ∧ t.atGate) ∧ t.bankWait = none then
    match q.fetchWord q.cur with
    | some w => if isGate w then (let q := q.planSpent; { q with cur := (q.planEntry q.ptr).1 }) else q
    | none => q
  else q

/-! ### Decode (R312) -/

/-- What operand resolution reads. -/
def State.decEnv (s : State) (c : Nat) (x : StreamSel) : DecEnv :=
  let k := s.core c
  let t := k.seqr.strm x
  let b := k.seqr.bankOf x t.bank
  { q := t.qreg, desc := fun i => AMap.get b.desc 0 i, two := k.seqr.two, folded := (s.ctx k.ctx).folded,
    paced := decide ((s.ctx k.ctx).period ≠ 0), streams := k.seqr.streams, harpBytes := k.seqr.harpBytes }

/-- The queue entry of an instruction. -/
def SeqS.entryOf (q : SeqS) (x : StreamSel) (w : Nat) (cmd : Cmd) : QEntry :=
  let t := q.strm x
  { cmd := cmd, start := (q.blk + offsetOf w) % beatMod, stream := x, step := t.step, opcode := opcodeOf w,
    engine := engineOf w, pc := t.pc, bank := t.bank }

/-- The depth of an engine's queue. -/
def queueDepth : Nat → Nat
  | 0 => 16 | 1 | 2 | 4 => 64 | 3 | 5 => 128 | 6 => 256 | 7 | 8 => 32 | _ => 8

/-- The key under which the last start beat of a unit is kept: the drain unit of an array counts apart (R37). -/
def unitKey (e : QEntry) : Nat := match e.cmd with | .drain _ _ _ _ _ _ => 30 + e.engine | _ => 20 + e.engine

/-- R59: `none` when the deposit rule holds, else LATE_BY. Commands of the gate queue and of CTR may share a beat (DESIGN CHOICE,
assumption log 118). -/
def SeqS.late (q : SeqS) (sbc : Nat) (e : QEntry) : Option Nat :=
  let lead := beatSub e.start sbc
  if ¬ (2 ≤ lead ∧ lead < 2 ^ 47) then
    some (if lead < 2 then 2 - lead else min 255 (beatMod - lead + 2))
  else
    let early := match AMap.find? q.lastStart e.engine with
      | some l => !decide (beatSub e.start l < 2 ^ 47)
      | none => false
    let shared := decide (1 ≤ e.engine ∧ e.engine ≤ 8) && AMap.find? q.lastStart (unitKey e) == some e.start
    if early || shared then some 0 else none

/-- Deposit an entry in its engine's queue. -/
def SeqS.deposit (q : SeqS) (e : QEntry) : SeqS :=
  { q.setQueue e.engine (q.queue e.engine ++ [e]) with
    lastStart := AMap.set (AMap.set q.lastStart e.engine e.start) (unitKey e) e.start }

/-- The operations of CNT, modulo 2 ^ 32. -/
def cntValue (t : Strm) (w : Nat) : Nat :=
  let imm := bits w 22 0
  let sx : Nat := (sint 23 imm % 2 ^ 32).toNat
  let a := t.qreg (bits w 27 23)
  let b := t.qreg (bits imm 4 0)
  (match bits w 35 33 with
    | 0 => sx
    | 1 => bits (t.qreg (bits w 32 28)) 22 0 + bits imm 8 0 * 2 ^ 23
    | 2 => a + sx
    | 3 => a + b
    | 4 => a + 2 ^ 32 - b
    | 5 => a * 2 ^ bits imm 4 0
    | _ => a * bits imm 15 0) % 2 ^ 32

/-- A decode-time instruction (CNT, LBREAK, NOP with OFFSET 0): the stream after it, or the refusal. -/
def Strm.decodeTime (t : Strm) (w : Nat) : Except Refuse Strm :=
  match opcodeOf w with
  | 0x90 =>
    if bits w 35 33 = 7 then .error (illegal 3)
    else .ok { t.setQ (bits w 32 28) (cntValue t w) with pc := t.pc + 1 }
  | 0x0A =>
    let qb := t.qreg (bits w 33 29)
    match bits w 35 34, t.loops with
    | 3, _ => .error (illegal 3)
    | _, [] => .error (illegal 3)
    | cond, l :: ls =>
      let hit := cond = 0 ∨ (cond = 1 ∧ qb ≠ 0) ∨ (cond = 2 ∧ qb = 0)
      .ok { t with loops := (if hit then { l with brk := true } else l) :: ls, pc := t.pc + 1 }
  | _ => .ok { t with pc := t.pc + 1 }

/-- The checks of LOOP, LEND and BANK before the deposit rule (R67, R69, R70); `none` when the LOOP's LEND has not been
fetched yet. -/
def SeqS.boundaryCheck (q : SeqS) (x : StreamSel) (w : Nat) : Option (Except Refuse Unit) :=
  let t := q.strm x
  match opcodeOf w with
  | 0x08 =>
    let body := bits w 11 0
    if t.loops.length ≥ 8 then some (.error (0x0107, 5))
    else if body = 0 ∨ body = 4095 ∨ t.pc + body + 1 > q.lastIndex then some (.error (illegal 8))
    else
      match AMap.find? (q.bankOf x t.bank).code (t.pc + body + 1) with
      | none => none
      | some l => some (if opcodeOf l.toNat = 0x09 ∧ engineOf l.toNat = 0 then .ok () else .error (illegal 8))
  | 0x09 => some (if t.loops.isEmpty then .error (illegal 8) else .ok ())
  | 0x0B => some (if t.loops.isEmpty then .ok () else .error (illegal 6))
  | _ => some (.ok ())

/-- The stream after a boundary, marker or command has been deposited. -/
def Strm.advance (t : Strm) (w : Nat) : Strm :=
  match opcodeOf w with
  | 0x08 =>
    let n := if bit w 35 then t.qreg (bits w 16 12) else bits w 34 12
    if n = 0 then { t with pc := t.pc + bits w 11 0 + 2 }
    else { t with pc := t.pc + 1, loops := ⟨n, t.pc + 1, false⟩ :: t.loops }
  | 0x09 =>
    match t.loops with
    | [] => { t with pc := t.pc + 1 }
    | l :: ls =>
      let n := if l.brk then 0 else l.count - 1
      if n > 0 then { t with pc := l.top, loops := { l with count := n } :: ls } else { t with pc := t.pc + 1, loops := ls }
  | 0x0B => { t with pc := t.pc + 1, bankWait := some (bits w 35 24) }
  | 0x0C => { t with pc := t.pc + 1, step := t.step + 1 }
  | _ => { t with pc := t.pc + 1 }

/-- The instructions that end a block. -/
def isBoundary (w : Nat) : Bool :=
  isGate w || opcodeOf w = 0x08 || opcodeOf w = 0x09 || opcodeOf w = 0x0B || opcodeOf w = 0x0F || opcodeOf w = 0

/-- The sequencer after the deposit of an instruction: block start, plan count, HALT. -/
def SeqS.after (q : SeqS) (x : StreamSel) (w : Nat) (e : QEntry) : SeqS :=
  let q := q.setStrm x ((q.strm x).advance w)
  let q := if isGate w ∧ q.two then { q with left := q.left - 1 } else q
  if opcodeOf w = 0x0F then { q with blk := (e.start + 64) % beatMod, decStop := true }
  else if isBoundary w then { q with blk := (e.start + 1) % beatMod }
  else q

/-- Harp commands of a core that its harp holds and has not begun count with its queue (R124). -/
def State.handedTo (s : State) (c eng : Nat) : Nat :=
  if eng = 7 then ((s.cluster (clusterOf c)).harpQ.filter fun h => h.core == c).length else 0

/-- Decode the word `w` of stream `x` (R312): the pair, the reserved bits, the decode-time OFFSET, the operation's own
checks, the deposit rule. A full target queue leaves the word undecoded; the FETCH freeze is over then, the instruction being there
(DESIGN CHOICE, assumption log 117). -/
def State.decodeWord (s : State) (c : Nat) (x : StreamSel) (w : Nat) : State :=
  let k := s.core c
  let q := k.seqr
  let e0 := q.entryOf x w .nop
  if engineOf w ∉ enginesOf (opcodeOf w) then s.seqFault c e0 0x0105 0 0
  else if ¬ reservedClear w then s.seqFault c e0 0x0105 2 0
  else if isDecodeTime w then
    if offsetOf w ≠ 0 then s.seqFault c e0 0x0105 7 0
    else
      match (q.strm x).decodeTime w with
      | .error r => s.seqFault c e0 r.1 r.2 0
      | .ok t => s.setCore c (k.modSeq fun q => { q.setStrm x t with decoded := true, decFetch := false, decQueue := false })
  else if (q.queue (engineOf w)).length + s.handedTo c (engineOf w) ≥ queueDepth (engineOf w) then
    s.setCore c (k.modSeq fun q => { q with decQueue := true, decFetch := false })
  else
    match q.boundaryCheck x w with
    | none => s.setCore c (k.modSeq fun q => { q with decFetch := true, decQueue := false })
    | some (.error r) => s.seqFault c e0 r.1 r.2 0
    | some (.ok _) =>
      match (s.decEnv c x).resolve w with
      | .error r => s.seqFault c e0 r.1 r.2 0
      | .ok cmd =>
        let e := { q.entryOf x w cmd with step := if opcodeOf w = 0x0C then (q.strm x).step + 1 else (q.strm x).step }
        match q.late k.sbc e with
        | some by_ => s.seqFault c e 0x0106 4 by_
        | none =>
          s.setCore c (k.modSeq fun q => { (q.deposit e).after x w e with decoded := true, decFetch := false, decQueue := false })

/-- Pick mode holds a gate at the head of its stream (R76); the beat of the gate that ends the current block is noted. The
gate has been fetched, so decoding no longer waits, and a plan entry that has had its BLOCKS gives way to the next. -/
def SeqS.holdGate (q : SeqS) (x : StreamSel) (w : Nat) : SeqS :=
  let t := q.strm x
  let q := { q with decFetch := false, decQueue := false }
  if t.atGate then q
  else { (q.setStrm x { t with atGate := true }).planSpent with pickMode := true, pickAt := (q.blk + offsetOf w) % beatMod }

/-- Whether a core's decoding stands at a held gate whose beat has been reached, so that the head gates are evaluated (R76). -/
def Core.picking (k : Core) : Bool :=
  k.live && k.seqr.two && k.seqr.pickMode && (k.seqr.strm k.seqr.cur).atGate && beatReached k.sbc k.seqr.pickAt

/-- One decode of a core: at most one instruction in a period, none after a HALT or a fault; the wait for fetch and for a
bank (R58, R70), the end of the bank (R73), the plan (R75) and pick mode (R76, R77). `want` restricts it to some opcodes. -/
def State.decodeStep (s : State) (c : Nat) (want : Nat → Bool) : State :=
  let k := s.core c
  if ¬ k.live ∨ k.seqr.decStop ∨ k.seqr.decoded then s
  else
    let q := (k.seqr.bankSwitch k.seqr.cur).planTurn
    let q := if q.cur = k.seqr.cur then q else q.bankSwitch q.cur
    let x := q.cur
    let t := q.strm x
    let put (q : SeqS) := s.setCore c { k with seqr := q }
    if t.bankWait.isSome then put { q with decFetch := true, decQueue := false }
    else if (q.queue 0).length ≥ 16 then put { q with decQueue := true, decFetch := false }
    else if t.pc > q.lastIndex then
      -- no instruction stands there: the last index of the bank is recorded (assumption log 95)
      (put q).seqFault c { q.entryOf x 0 .nop with opcode := 0, engine := 0, pc := q.lastIndex } 0x0105 8 0
    else
      match q.fetchWord x with
      | none => put { q with decFetch := true, decQueue := false }
      | some w =>
        if ¬ want (opcodeOf w) then s
        else if isGate w ∧ q.two ∧ (q.pick ∨ (q.pickMode ∧ t.atGate)) then put (q.holdGate x w)
        else (put (if isGate w then { q with pickMode := false } else q)).decodeWord c x w

/-- INSTRUCTION_DECODE: the sequencer decodes the next instruction. -/
def execInstructionDecode (c : CoreId) (s : State) : Host.Outcome State Fault Refusal :=
  .next (s.decodeStep c fun _ => true)

/-- A boundary whose condition is always met is passed on its beat; before that, the row decodes its instruction. -/
def State.openBoundary (s : State) (c : Nat) (cmd : Cmd) (op : Nat) : State :=
  match s.ready c 0 with
  | some e => if e.cmd = cmd then s.popHead c 0 else s.decodeStep c (· == op)
  | none => s.decodeStep c (· == op)

/-- NOP: nothing at decode with OFFSET 0, otherwise a boundary whose condition is always met. -/
def execNop (c : CoreId) (s : State) : Host.Outcome State Fault Refusal := .next (s.openBoundary c .nop 0x00)

/-- LOOP (R67, R69). -/
def execLoop (c : CoreId) (s : State) : Host.Outcome State Fault Refusal := .next (s.openBoundary c .loop 0x08)

/-- LEND (R67). -/
def execLend (c : CoreId) (s : State) : Host.Outcome State Fault Refusal := .next (s.openBoundary c .lend 0x09)

/-- LBREAK (R68). -/
def execLbreak (c : CoreId) (s : State) : Host.Outcome State Fault Refusal := .next (s.decodeStep c (· == 0x0A))

/-- CNT. -/
def execCnt (c : CoreId) (s : State) : Host.Outcome State Fault Refusal := .next (s.decodeStep c (· == 0x90))

/-- BANK (R70): the switch itself takes place once the target is READY. -/
def execBank (c : CoreId) (s : State) : Host.Outcome State Fault Refusal :=
  let q := (s.core c).seqr
  if (q.strm q.cur).bankWait.isSome ∧ (q.bankOf q.cur (1 - (q.strm q.cur).bank)).st = .ready then
    .next (s.modCore c fun k => k.modSeq fun q => { q.bankSwitch q.cur with decFetch := false })
  else .next (s.openBoundary c .bank 0x0B)

end Sys2Proof.Machine
end

