-- ==== Sys2Proof/Machine/Hoop.lean ====
section
/-!
DEFINITION. The hoop (*Cores, Clusters and the Hoop*): positions and hop latencies, the way a tile travels, is checked,
copied, forwarded and retired (R15 to R25, R32, R33), and the hoop commands of a core.
-/
namespace Sys2Proof.Machine

/-! ### Positions and rings -/

/-- Whether a core is in service: not fused off and not bypassed. -/
def Core.inService (k : Core) : Bool := match k.st with | .fusedOff | .outOfService => false | _ => true

/-- HUB_HOOP_CFG.JOIN as it reads: 0 when X_UP is 0 (R27). -/
def State.joined (s : State) : Bool := s.field .hubHoopCfg [] 0 0 == 1 && s.field .hubHoopCfg [] 1 1 == 1

/-- The physical core after `x` on CW: over both dies when joined, within its die when split. -/
def physNext (joined : Bool) (x : Nat) : Nat := if joined then (x + 1) % 64 else 32 * (x / 32) + (x % 32 + 1) % 32

/-- Beats of the link behind core `x` that leaves its cluster; 0 within a cluster (nominal hop latencies). -/
def crossBeats (joined : Bool) (x : Nat) : Nat :=
  if x % 32 = 31 then (if joined then 24 else 12) else if x % 4 = 3 then 6 else 0

/-- The latency from core `x` on CW to position `b`, each bypassed core passed costing one beat. -/
def hopBeats (joined : Bool) (b : Nat) : Nat → Nat → Nat → Nat → Nat
  | 0, _, cross, byp => cross + byp
  | fuel + 1, x, cross, byp =>
    let cross := cross + crossBeats joined x
    let y := physNext joined x
    if y = b then (if cross = 0 then 3 else cross) + byp else hopBeats joined b fuel y cross (byp + 1)

/-- The latency between two consecutive positions on CW. -/
def hopLatency (joined : Bool) (a b : Nat) : Nat := hopBeats joined b 64 a 0 0

/-- The positions of a run of clusters: its in-service cores in hoop order (R21). -/
def State.positions (s : State) (first count : Nat) : List Nat :=
  ((List.range (4 * count)).map (4 * first + ·)).filter fun c => (s.core c).inService

/-- The latencies between consecutive elements of a list of positions. -/
def pathBeats (joined : Bool) : List Nat → Nat
  | a :: b :: r => hopLatency joined a b + pathBeats joined (b :: r)
  | _ => 0

/-- Whether an arc of `count` clusters is folded: it does not cover its whole hoop. -/
def State.foldedFor (s : State) (count : Nat) : Bool := count != (if s.joined then 16 else 8)

/-- The latency from the last position of an arc to its first: a closing link, or the turns and the express return. -/
def closeBeats (joined folded : Bool) (ps : List Nat) : Nat :=
  if folded then 2 + pathBeats joined ps + 2 else hopLatency joined (ps.getLastD 0) (ps.headD 0)

/-- RING_BEATS of an arc. -/
def ringBeats (joined folded : Bool) (ps : List Nat) : Nat := pathBeats joined ps + closeBeats joined folded ps

/-- The place of a number in a list. -/
def placeOf (l : List Nat) (a : Nat) : Nat := (l.takeWhile (· ≠ a)).length

/-- The next position of a ring and the latency to it; `none` for CCW in a folded arc. -/
def State.ringNext (s : State) (ctx c : Nat) (d : Dir) : Option (Nat × Nat) :=
  let x := s.ctx ctx
  let ps := s.positions x.first x.count
  let i := placeOf ps c
  match d with
  | .cw =>
    if i + 1 < ps.length then some (ps.getD (i + 1) 0, hopLatency s.joined c (ps.getD (i + 1) 0))
    else some (ps.headD 0, closeBeats s.joined x.folded ps)
  | .ccw =>
    if x.folded then none
    else if i = 0 then some (ps.getLastD 0, closeBeats s.joined false ps)
    else some (ps.getD (i - 1) 0, hopLatency s.joined (ps.getD (i - 1) 0) c)

/-! ### Tiles under way -/

/-- A turning tile (R32). -/
def Tag.turning (t : Tag) : Bool := t.hops == 255

/-- The oldest tile on the way to a position on a direction. -/
def State.airHead (s : State) (c : Nat) (d : Dir) : Option Air := s.dev.air.find? fun a => a.pos == c && a.dir == d

/-- Replace the oldest such tile. -/
def airReplace (c : Nat) (d : Dir) (new : Option Air) : List Air → List Air
  | [] => []
  | a :: r => if a.pos = c ∧ a.dir = d then new.toList ++ r else a :: airReplace c d new r

/-- Replace or remove the oldest tile on the way to a position. -/
def State.setAirHead (s : State) (c : Nat) (d : Dir) (new : Option Air) : State :=
  { s with dev := { s.dev with air := airReplace c d new s.dev.air } }

/-- Until when an outgoing hop is busy. -/
def HoopS.busy (h : HoopS) : Dir → Nat
  | .cw => h.busyCw
  | .ccw => h.busyCcw

/-- Occupy an outgoing hop. -/
def HoopS.setBusy (h : HoopS) (d : Dir) (n : Nat) : HoopS :=
  match d with
  | .cw => { h with busyCw := n }
  | .ccw => { h with busyCcw := n }

/-- Flits that the elastic buffer before a position holds because its region drains them more slowly than they come (R231). -/
def HoopS.held (h : HoopS) : Dir → Nat
  | .cw => h.heldCw
  | .ccw => h.heldCcw

/-- Set them. -/
def HoopS.setHeld (h : HoopS) (d : Dir) (n : Nat) : HoopS :=
  match d with
  | .cw => { h with heldCw := n }
  | .ccw => { h with heldCcw := n }

/-- Pending PASS counts. -/
def HoopS.pass (h : HoopS) : Dir → Nat
  | .cw => h.passCw
  | .ccw => h.passCcw

/-- Set a PASS count. -/
def HoopS.setPass (h : HoopS) (d : Dir) (n : Nat) : HoopS :=
  match d with
  | .cw => { h with passCw := n }
  | .ccw => { h with passCcw := n }

/-- The outgoing hop is free and has credit: no run on it, and the next position's elastic buffer is not held up, by a tile that waits
in it or because the clock that would drain it has stopped (R22, R23, R233). -/
def State.hopFree (s : State) (ctx c : Nat) (d : Dir) : Bool :=
  decide ((s.core c).hoop.busy d ≤ s.dev.period) &&
    match s.ringNext ctx c d with
    | none => false
    | some (n, _) => match s.airHead n d with | some a => !a.stalled && !s.regionStopped (clusterOf n) | none => true

/-- Send a tile on the outgoing hop of a position; `retire` tells that a RETIRE has named its set. -/
def State.send (s : State) (ctx c : Nat) (d : Dir) (origin : Nat) (retire : Bool) (t : Tile) : State :=
  match s.ringNext ctx c d with
  | none => s
  | some (n, lat) =>
    let a : Air :=
      { pos := n, dir := d, tile := t, ctx := ctx, origin := origin, readyAt := s.dev.period + lat, stalled := false, retire := retire }
    let s := { s with dev := { s.dev with air := s.dev.air ++ [a] } }
    let idle := s.dev.period - (s.core c).hoop.busy d
    let s := s.modCore n fun k => { k with hoop := k.hoop.setHeld d (k.hoop.held d - idle) }
    s.modCore c fun k => { k with hoop := k.hoop.setBusy d (s.dev.period + t.flits) }

/-- Flits that a list of buffered tiles occupies. -/
def bufFlits (l : List TBuf) : Nat := (l.map (·.tile.flits)).foldl (· + ·) 0

/-- Flits in the tile buffer of a direction, copies of turning tiles included. -/
def HoopS.fill (h : HoopS) (d : Dir) : Nat := bufFlits (h.buf d) + bufFlits (h.turnBuf d)

/-- A tile buffer holds 256 flits per direction. -/
def HoopS.room (h : HoopS) (d : Dir) (t : Tile) : Bool := decide (h.fill d + t.flits ≤ 256)

/-- Copy a tile into a tile buffer. -/
def HoopS.copy (h : HoopS) (d : Dir) (t : Tile) (period : Nat) : HoopS :=
  let b : TBuf := { uid := h.uid, tile := t, since := period, named := false, users := 0, freeAt := 0 }
  let h := { h with uid := h.uid + 1 }
  if t.tag.turning then h.setTurnBuf d (h.turnBuf d ++ [b]) else h.setBuf d (h.buf d ++ [b])

/-- Whether a head gate that a core evaluates in pick mode awaits a turning tile on a direction: GATE.ARRIVE with TURN = 1. -/
def Core.headTurns (k : Core) (d : Dir) : Bool :=
  k.picking && [StreamSel.fwd, .bwd].any fun x =>
    match k.seqr.fetchWord x with
    | some w => decide (opcodeOf w = 1) && bit w 34 && bit w 35 == (d == .ccw)
    | none => false

/-- Whether a position takes a copy of the next turning tile on a direction: more RECVs for turning tiles are posted, or more gates
await one, than copies are there that no RECV has named (R33, R62, assumption log 38). -/
def Core.turnWanted (k : Core) (d : Dir) : Bool :=
  let posted := (k.seqr.queue 5).countP fun e => match e.cmd with | .recv d' true _ _ => d' == d | _ => false
  let gates := (k.seqr.queue 0).countP fun e => match e.cmd with | .gateArrive d' true _ _ => d' == d | _ => false
  decide ((k.hoop.turnBuf d).countP (!·.named) < max posted (max gates (b2n (k.headTurns d))))

/-- What a position does with a tile: copy it, forward it, retire it, use up a PASS. -/
structure HoopAct where
  copy : Bool
  forward : Bool
  retired : Bool
  pass : Bool
  deriving DecidableEq, Repr

/-- R21, R22, R33: the action of a position on a tile whose HOPS has been decremented; `here` tells that a turning tile
of a set that a RETIRE has named has come back to the position that turned it. -/
def hoopAct (assigned turning here wanted : Bool) (hops pass : Nat) : HoopAct :=
  if turning then
    (if here then ⟨false, false, true, false⟩ else ⟨assigned && wanted, true, false, false⟩)
  else if ¬ assigned then ⟨false, hops != 0, hops == 0, false⟩
  else if hops = 0 then ⟨true, false, true, false⟩
  else if pass > 0 then ⟨false, true, false, true⟩
  else ⟨true, true, false, false⟩

/-- The action of a position on the tile that has reached it. -/
def State.actOn (s : State) (c : Nat) (a : Air) : HoopAct :=
  let k := s.core c
  hoopAct k.slot.isSome a.tile.tag.turning
    (a.origin == c && a.retire)
    (k.turnWanted a.dir) (a.tile.tag.hops - 1) (k.hoop.pass a.dir)

/-- The tile with HOPS decremented; a turning tile keeps 0xFF. -/
def Tile.hopped (t : Tile) : Tile :=
  if t.tag.turning then t else { t with tag := { t.tag with hops := t.tag.hops - 1 } }

/-- The context of a position: its program's, or the arc's for an unassigned position. -/
def State.posCtx (s : State) (c : Nat) (a : Air) : Option Nat :=
  match (s.core c).owner with | some x => some x | none => some a.ctx

/-- A tile at the entry of a position: performed whole when the tile buffer has room and the outgoing hop is free,
otherwise it waits in the elastic buffer (R22). -/
def State.enter (s : State) (c : Nat) (a : Air) : State :=
  let act := s.actOn c a
  let k := s.core c
  let t := a.tile.hopped
  if (act.copy ∧ ¬ k.hoop.room a.dir t) ∨ (act.forward ∧ ¬ s.hopFree a.ctx c a.dir) then
    s.setAirHead c a.dir (some { a with stalled := true })
  else
    let s := s.setAirHead c a.dir none
    let s := s.modCore c fun k =>
      let h := if act.copy then k.hoop.copy a.dir t s.dev.period else k.hoop
      let h := if act.pass then h.setPass a.dir (h.pass a.dir - 1) else h
      { k with hoop := h }
    let s := if act.forward then s.send a.ctx c a.dir a.origin a.retire t else s
    let ctx := s.posCtx c a
    ((s.bump .hoopCntIn (coreIdx c) (b2n act.copy) ctx 0 c).bump .hoopCntFwd (coreIdx c) (b2n act.forward) ctx 0 c).bump
      .hoopCntRet (coreIdx c) (b2n act.retired) ctx 0 c

/-- Mark words of a payload uncorrectable (R19): their 32-byte sectors, and POISON in the tag. -/
def Tile.spoil (t : Tile) (ws : List Nat) : Tile :=
  if ws.isEmpty then t
  else { t with tag := { t.tag with poison := true }, bad := ws.foldl (fun l w => insertNat l (w / 4)) t.bad }

/-- The tag with bits flipped on the way (R18). -/
def Tag.flip (t : Tag) (mask : Nat) : Tag :=
  if mask = 0 then t
  else
    let w := t.word ^^^ (mask % 2 ^ 256)
    { tensor := bits w 23 0, row := bits w 43 24, col := bits w 63 44, fmt := bits w 67 64, parity := bit w 68, frozen := bit w 69,
      poison := bit w 70, scaleExp := bits w 79 72, hops := bits w 87 80, check := bits w 255 240,
      rsv := bits w 71 71 + 2 * bits w 239 88 }

/-- TILE_ARRIVE: the first flit of the oldest tile on the way reaches a position. The physical errors of the hop are
given: flipped tag bits, corrected words and uncorrectable words (R18, R19). -/
def State.tileArrive (s : State) (c : Nat) (d : Dir) (flips ce : Nat) (ue : List Nat) : State :=
  match s.airHead c d with
  | none => s
  | some a =>
    if a.stalled ∨ s.dev.period < a.readyAt ∨ s.regionStopped (clusterOf c) then s
    else
      let ctx := s.posCtx c a
      let tag := a.tile.tag.flip flips
      let words := a.tile.data.length / 8
      let ue := (ue.filter fun w => decide (w < words)).foldl insertNat []
      let s := (s.bump .hoopEccCe (coreIdx c) ce ctx 0 c).bump .hoopEccUe (coreIdx c) ue.length ctx 0 c
      if tag.crc ≠ tag.check ∨ tag.rsv ≠ 0 then
        let s := (s.setAirHead c d none).hoopFault c 1 d tag
        match (s.core c).owner with
        | some _ => s.coreFault c 0x0101 ((s.core c).seqr.strm (s.core c).seqr.cur).step
        | none => s.raise 0x0101 { kind := 0, index := c, ctx := ctx }
      else s.enter c { a with tile := { a.tile with tag := tag }.spoil ue }

/-- TILE_BUFFER_ADMIT: a tile that waits in the elastic buffer moves on once there is room and the hop is free (R22). -/
def State.tileAdmit (s : State) (c : Nat) (d : Dir) : State :=
  match s.airHead c d with
  | none => s
  | some a => if a.stalled ∧ ¬ s.regionStopped (clusterOf c) then s.enter c { a with stalled := false } else s

/-! ### Hoop commands of a core -/

/-- A tile at this position is about to leave on the outgoing hop (R23: forwarded tiles take precedence); one that waits for
room in the tile buffer is not. -/
def State.forwardWaits (s : State) (c : Nat) (d : Dir) : Bool :=
  match s.airHead c d with
  | none => false
  | some a =>
    decide (a.readyAt ≤ s.dev.period) && (s.actOn c a).forward && (!(s.actOn c a).copy || (s.core c).hoop.room d a.tile.hopped)

/-- Why an INJECT or TURN cannot proceed on this beat: the freeze cause, the lower number when both hold (R23, R61, R184). -/
def State.injectBlocked (s : State) (c : Nat) (i : InjCmd) : Option Nat :=
  let k := s.core c
  if i.src = .special ∧ (AMap.get (s.cluster (clusterOf c)).ports [] (c % 4)).isEmpty then some 3
  else if ¬ s.hopFree k.ctx c i.dir ∨ s.forwardWaits c i.dir then some 8
  else none

/-- Turning flits on a ring of a context. -/
def State.turningFlits (s : State) (ctx : Nat) (d : Dir) : Nat :=
  ((s.dev.air.filter fun a => a.ctx == ctx && a.dir == d && a.tile.tag.turning).map fun a => a.tile.flits).foldl (· + ·) 0

/-- The tag that an INJECT or TURN builds (R10, R17): PARITY is the step parity XOR PAR, or the granule parity that the
run carried. -/
def InjCmd.builtTag (i : InjCmd) (step : BitVec 64) (gpar : Option Bool) (poison : Bool) : Tag :=
  ({ tensor := i.tag.tensor, row := i.tag.row, col := i.tag.col, fmt := i.tag.fmt,
     parity := match gpar with | some p => p | none => (step.toNat % 2 == 1) != i.par,
     frozen := i.frozen, poison := poison, scaleExp := i.scaleExp, hops := i.hops, check := 0 } : Tag).seal

/-- INJECT or TURN on its beat. -/
def State.inject (s : State) (c : Nat) (e : QEntry) (i : InjCmd) : State :=
  let k := s.core c
  match Fmt.ofCode i.tag.fmt with
  | none => s
  | some f =>
    let len := f.payload + f.scales
    if i.turn ∧ s.turningFlits k.ctx i.dir + f.flits > 32 * (s.ctx k.ctx).count then (s.popHead c 5).coreFault c 0x0105 e.step
    else
      match s.injectBlocked c i with
      | some cause => s.freeze c cause 5
      | none =>
        match i.src with
        | .mem m =>
          let a := m.addr c 0
          let bad := (s.badIn a len).map (· - a / 32)
          ((s.hazards c e).popHead c 5).send k.ctx c i.dir c false ⟨i.builtTag e.step none !bad.isEmpty, s.bytes a len, bad⟩
        | .special =>
          match AMap.get (s.cluster (clusterOf c)).ports [] (c % 4) with
          | [] => s
          | r :: rs =>
            if r.data.length ≠ len then
              ((s.popHead c 5).hoopFault c 2 i.dir (i.builtTag e.step r.gpar !r.bad.isEmpty)).coreFault c 0x0109 e.step
            else
              let s := s.modCluster (clusterOf c) fun q => { q with ports := AMap.set q.ports (c % 4) rs }
              (s.popHead c 5).send k.ctx c i.dir c false ⟨i.builtTag e.step r.gpar !r.bad.isEmpty, r.data, r.bad⟩

/-- Hand a tile to one array. -/
def State.handOver (s : State) (c : Nat) (x : Side) (h : Handed) : State :=
  s.modArr c x fun r => { r with handed := r.handed ++ [h] }

/-- The tiles that an array operation takes from those handed over, each with whether it takes rows: `n` at most. -/
def Cmd.takes (n : Nat) (q : Cmd) : List Bool :=
  match q with
  | .press .special _ f _ => List.replicate f.tiles false
  | _ =>
    match q.mulArgs with
    | some a => if a.src = .special then List.replicate ((n + 127) / 128 * a.fmt.tiles) (!a.cols) else []
    | none => []

/-- The vectors of an operation. -/
def Cmd.vectors (q : Cmd) : Nat := match q.mulArgs with | some a => a.n | none => 0

/-- Whether the next tile that an array is handed is taken by rows: by the operation in progress, or the first one waiting in its
queue, that no tile in hand serves (R36, R120). -/
def Core.takesRows (k : Core) (x : Side) : Bool :=
  let r := k.arr x
  let now := match r.job with | some j => j.entry.cmd.takes (j.entry.cmd.vectors - j.next) | none => []
  let later := ((k.seqr.queue x.engine).map fun e => e.cmd.takes e.cmd.vectors).flatten
  ((now ++ later)[r.handed.length]?).getD false

/-- Whether a RECV needs the whole tile (R16): not where the array that it hands the tile to takes rows (R36), of two arrays at
least one (assumption log 27). -/
def Core.wholeTile (k : Core) (dest : Nat) : Bool :=
  match dest with
  | 0 => !k.takesRows .a
  | 1 => !k.takesRows .b
  | 2 => !(k.takesRows .a || k.takesRows .b)
  | _ => true

/-- RECV on its beat (R16, R313). -/
def State.recv (s : State) (c : Nat) (e : QEntry) (d : Dir) (turn : Bool) (dest : Nat) (m : Option MemRef) : State :=
  let k := s.core c
  match k.hoop.awaited d turn with
  | none => s.freeze c 2 5
  | some b =>
    if k.wholeTile dest ∧ ¬ b.complete s.dev.period then s.freeze c 2 5
    else
    match dest, m with
    | 3, some m => s.recvMem c e d turn m
    | _, _ =>
      let h : Handed := ⟨b.uid, d, turn, b.tile, b.since, k.sbc⟩
      let s := (s.popHead c 5).modCore c fun k => k.nameTile d turn b.uid (if dest = 2 then 2 else 1)
      if dest = 0 then s.handOver c .a h
      else if dest = 1 then s.handOver c .b h
      else (s.handOver c .a h).handOver c .b h

/-- RETIRE: every turning tile of the set that this position has turned on the direction is removed when it comes back (R32). -/
def State.retireSet (s : State) (c : Nat) (d : Dir) (t : Nat) : State :=
  { s with dev := { s.dev with air := s.dev.air.map fun a =>
      if a.origin = c ∧ a.dir = d ∧ a.tile.tag.turning ∧ a.tile.tag.tensor = t then { a with retire := true } else a } }

/-- Perform a hoop command that is at the head of the queue. -/
def State.hoopCmd (s : State) (c : Nat) (e : QEntry) : State :=
  match e.cmd with
  | .inject i => s.inject c e i
  | .recv d t dest m => s.recv c e d t dest m
  | .pass d n => (s.popHead c 5).modCore c fun k => { k with hoop := k.hoop.setPass d (k.hoop.pass d + n) }
  | .retire d t => (s.popHead c 5).retireSet c d t
  | _ => s

/-- Start the hoop command at the head of a core's queue, if `p` accepts it. -/
def State.hoopStart (s : State) (c : Nat) (p : Cmd → Bool) : State :=
  s.startWith c 5 p fun s e => s.hoopCmd c e

/-- INJECT (R21, R23, R184). -/
def execInject (c : CoreId) (s : State) : Host.Outcome State Fault Refusal :=
  .next (s.hoopStart c fun | .inject i => !i.turn | _ => false)

/-- RECV (R16, R313). -/
def execRecv (c : CoreId) (s : State) : Host.Outcome State Fault Refusal :=
  .next (s.hoopStart c fun | .recv _ _ _ _ => true | _ => false)

/-- PASS (R22). -/
def execPass (c : CoreId) (s : State) : Host.Outcome State Fault Refusal :=
  .next (s.hoopStart c fun | .pass _ _ => true | _ => false)

/-- RETIRE. -/
def execRetire (c : CoreId) (s : State) : Host.Outcome State Fault Refusal :=
  .next (s.hoopStart c fun | .retire _ _ => true | _ => false)

/-- TURN (R32). -/
def execTurn (c : CoreId) (s : State) : Host.Outcome State Fault Refusal :=
  .next (s.hoopStart c fun | .inject i => i.turn | _ => false)

/-- TILE_ARRIVE. -/
def execTileArrive (c : CoreId) (d : Dir) (flips ce : Nat) (ue : List Nat) (s : State) : Host.Outcome State Fault Refusal :=
  .next (s.tileArrive c d flips ce ue)

/-- TILE_BUFFER_ADMIT. -/
def execTileBufferAdmit (c : CoreId) (d : Dir) (s : State) : Host.Outcome State Fault Refusal := .next (s.tileAdmit c d)

end Sys2Proof.Machine
end

