-- ==== Sys2Proof/Machine/Entries.lean ====
section
/-!
DEFINITION. The entries of block lists and the streams that begin them (*Streams, Prefetch and Paced Mode*: the table of the
block-list entry, R173), and the delays of memory that a frozen core sees as an origin (R61, R149, R162).
-/
namespace Sys2Proof.Machine

/-! ### Block-list entries -/

/-- A block-list entry. -/
structure Entry where
  addr : Nat
  len : Nat
  stride : Nat
  count : Nat
  op : Nat
  waitk : Nat
  fence : Bool
  gpar : Bool
  nspace : Bool
  nhoop : Bool
  port : Nat
  near : Nat
  waitcnt : Nat
  waiton : Nat
  buf : Nat
  flow : Nat
  aop : Nat
  atype : Nat
  zero : Bool
  deriving DecidableEq, Repr

/-- Decode an entry of the descriptor store. -/
def Entry.ofWord (w : Nat) : Entry :=
  { addr := bits w 255 192, len := bits w 191 160, stride := bits w 159 128, count := bits w 127 112, op := bits w 111 108,
    waitk := bits w 107 106, fence := bit w 105, gpar := bit w 104, nspace := bit w 103, nhoop := bit w 102, port := bits w 101 100,
    near := bits w 95 64, waitcnt := bits w 63 48, waiton := bits w 47 42, buf := bits w 41 34, flow := bits w 33 20,
    aop := bits w 19 16, atype := bits w 15 14, zero := bits w 99 96 == 0 && bits w 13 0 == 0 }

/-- Entry `i` of a cluster's descriptor store. -/
def Cluster.entry (q : Cluster) (i : Nat) : Entry := Entry.ofWord (AMap.get q.store 0 (i % 65536)).toNat

/-- Whether an atomic's type is allowed by the table of hub-cache atomics. -/
def Entry.typeOk (e : Entry) : Bool :=
  match e.aop, e.atype with
  | 7, t => t == 1
  | 3, t | 4, t => t == 0 || t == 1
  | a, t => decide (a < 7 ∧ t < 3)

/-- Tile payload lengths of R15. -/
def tileLens : List Nat := [8704, 16384, 16896, 32768, 65536]

/-- R173. -/
def Entry.formatOk (e : Entry) : Bool :=
  let al := fun n => e.addr % n == 0 && e.len % n == 0 && e.stride % n == 0
  decide (e.op < 8) && e.zero &&
  (e.op == 2 || e.op == 7 || (al 32 && e.near % 32 == 0)) &&
  (e.op != 2 || (e.near % 32 == 0 && e.len == (if e.atype = 1 then 8 else 4) && al e.len && e.typeOk)) &&
  (e.op == 6 || e.len != 0) &&
  (!e.nhoop || (e.op == 0 && tileLens.contains e.len)) &&
  (!e.gpar || e.nhoop) &&
  (e.op != 7 || (al 32 && decide (e.near < 65536) && decide (32 * e.near + e.len * e.count ≤ 2097152)))

/-- The far-end address of run `i`. -/
def Entry.far (e : Entry) (i : Nat) : Nat := e.addr + i * e.stride

/-- Bytes of one run at the near end. -/
def Entry.nearLen (e : Entry) : Nat := if e.op = 2 then 32 else e.len

/-- The tier-space address of the near end of run `i` for cluster `k`. -/
def Entry.nearAddr (e : Entry) (k i : Nat) : Nat :=
  let off := e.near + e.nearLen * i
  if e.nspace then localAddr (4 * k + e.port) off else clusterAddr k off

/-- Whether an operation has a near end in cluster memory or local SRAM. -/
def Entry.hasNear (e : Entry) : Bool := e.op != 6 && e.op != 7 && !e.nhoop

/-! ### Access -/

/-- A stream. -/
def State.stream (s : State) (k x : Nat) : StreamS := AMap.get (s.cluster k).streams {} x
/-- Change a stream. -/
def State.modStream (s : State) (k x : Nat) (f : StreamS → StreamS) : State :=
  s.modCluster k fun q => { q with streams := AMap.set q.streams x (f (AMap.get q.streams {} x)) }

/-- Begun entries of a stream that have not completed. -/
def StreamS.inFlight (t : StreamS) : Nat := (t.begun.filter fun b => !b.complete).length

/-- The same over all streams of a cluster. -/
def Cluster.inFlight (q : Cluster) : Nat := (q.streams.map fun p => p.2.inFlight).foldl (· + ·) 0

/-- Bytes of a granule. -/
def granBytes : Nat := 65536

/-- Granule numbers that `[a, a + n)` touches. -/
def gransOf (a n : Nat) : List Nat :=
  if n = 0 then [] else (List.range ((a + n - 1) / granBytes - a / granBytes + 1)).map (a / granBytes + ·)

/-! ### Delays (R61, R149, R162) -/

/-- Whether a stream has a begun entry that has not completed and whose far end touches a granule of a set. -/
def State.streamTouches (s : State) (k x : Nat) (p : Nat → Bool) : Bool :=
  (s.stream k x).begun.any fun b =>
    let e := (s.cluster k).entry b.entry
    !b.complete && (e.op != 3 && e.op != 4 && e.op != 5 && e.op != 6) &&
      (List.range e.count).any fun i => (gransOf (e.far i) e.len).any p

/-- The streams with a begun entry that has not completed and that feeds the injection port of core `c`. -/
def State.feedingStreams (s : State) (c : Nat) : List Nat :=
  let q := s.cluster (clusterOf c)
  (List.range 64).filter fun x => (s.stream (clusterOf c) x).begun.any fun b =>
    let e := q.entry b.entry
    !b.complete && e.nhoop && e.port == c % 4

/-- The streams that a core frozen under STREAM waits for: its gate's, or those that feed the port of its INJECT. -/
def State.awaitedStreams (s : State) (c : Nat) : List Nat :=
  let q := s.core c
  match q.seqr.frz with
  | some f =>
    if f.cause ≠ 3 then []
    else
      match f.engine, q.seqr.queue 0 with
      | some 0, e :: _ => match e.cmd with | .gateStream x _ => [x] | _ => []
      | some 5, _ => s.feedingStreams c
      | _, _ => []
  | none => []

/-- A delay of the granules of a set: a core frozen on a stream that accesses one of them sees the origin. No data changes. -/
def State.delay (s : State) (origin : Nat) (p : Nat → Bool) : State :=
  (List.range 64).foldl (fun s c =>
    if (s.awaitedStreams c).any fun x => s.streamTouches (clusterOf c) x p then
      s.modCore c fun q => q.modSeq fun z => { z with frz := z.frz.map fun f => { f with origin := some origin } }
    else s) s

end Sys2Proof.Machine
end

