-- ==== Sys2Proof/Machine/Flash.lean ====
section
/-!
DEFINITION. The flash of the cave and its translation map (R167 to R170): pages placed in the least-worn free block, blocks
relocated to a fresh one, erase counts, and whether the cave takes writes.
-/
namespace Sys2Proof.Machine

/-- Bytes of a flash page. -/
def pageBytes : Nat := 16384

/-- Blocks on the module. -/
def State.caveBlocks (s : State) : Nat := s.field .caveBlocks [] 59 40

/-- Change the flash. -/
def State.modFlash (s : State) (f : Flash → Flash) : State := { s with nv := { s.nv with flash := f s.nv.flash } }

/-- A block. -/
def Flash.block (f : Flash) (b : Nat) : CaveBlk := AMap.get f.blocks {} b

/-- Change a block. -/
def Flash.modBlock (f : Flash) (b : Nat) (g : CaveBlk → CaveBlk) : Flash := { f with blocks := AMap.set f.blocks b (g (f.block b)) }

/-- Whether a block is free: good, not being filled, and holding no page of the map. -/
def Flash.isFree (f : Flash) (b : Nat) : Bool :=
  !(f.block b).bad && f.fill != some b && f.map.all fun p => p.2 != b

/-- The free block of the lowest erase count among `n`, the lower number on a tie (R168). -/
def Flash.freeBlock (f : Flash) (n : Nat) : Option Nat :=
  ((List.range n).filter f.isFree).foldl (fun best b =>
    match best with
    | none => some b
    | some a => if (f.block b).pe < (f.block a).pe then some b else some a) none

/-- Take a free block for filling; a block that had been programmed is erased first. -/
def Flash.openBlock (f : Flash) (n : Nat) : Flash :=
  match f.freeBlock n with
  | none => f
  | some b =>
    { f.modBlock b fun k => { k with pe := if k.next = 0 then k.pe else k.pe + 1, next := 0, reads := 0 } with fill := some b }

/-- Program one logical page: into the block being filled, a new one when it is full. -/
def Flash.program (f : Flash) (n page : Nat) : Flash :=
  let full := match f.fill with | some b => decide ((f.block b).next ≥ 2048) || (f.block b).bad | none => true
  let f := if full then { f with fill := none }.openBlock n else f
  match f.fill with
  | none => f
  | some b =>
    { f.modBlock b fun k => { k with next := k.next + 1 } with
      map := AMap.set f.map page b, nandBytes := f.nandBytes + pageBytes }

/-- Rewrite every valid page of a block to a fresh block; new writes go on in the block that was being filled. -/
def Flash.relocate (f : Flash) (n b : Nat) : Flash :=
  let g := ((f.map.filter fun p => p.2 == b).map (·.1)).foldl (fun f p => f.program n p) { f with fill := none }
  if f.fill = some b then g else { g with fill := f.fill }

/-- Gigabytes that a byte count has passed since an earlier one. -/
def gbSteps (old new : Nat) : Nat := new / 1000000000 - old / 1000000000

/-- Change the flash and count the gigabytes programmed. -/
def State.flashWork (s : State) (f : Flash → Flash) : State :=
  let old := s.nv.flash.nandBytes
  let s := s.modFlash f
  s.bump .caveCntNandgb [] (gbSteps old s.nv.flash.nandBytes) none 6 0

/-- Whether the cave is read-only (R170). -/
def State.caveRo (s : State) : Bool := s.field .caveStatus [] 5 5 == 1

/-- A block whose pages have been rewritten is erased. -/
def Flash.renew (f : Flash) (n b : Nat) : Flash := (f.relocate n b).modBlock b fun k => { k with pe := k.pe + 1, reads := 0, next := 0 }

/-- Forget the pages of `[a, a + n)`, whose bytes are no longer in the cave. -/
def Flash.unmap (f : Flash) (a n : Nat) : Flash :=
  { f with map := f.map.filter fun p => decide (p.1 < a / pageBytes ∨ (a + n + pageBytes - 1) / pageBytes ≤ p.1) }

/-- Program every page of `[a, a + n)` (R168). -/
def State.programPages (s : State) (a n : Nat) : State :=
  if n = 0 then s
  else
    let m := s.caveBlocks
    s.flashWork fun f => (List.range ((a + n - 1) / pageBytes - a / pageBytes + 1)).foldl (fun f i => f.program m (a / pageBytes + i)) f

/-- Whether the cave accepts writes: not read-only, map restored, not stopping (R170, R171). -/
def State.caveOpen (s : State) : Bool := !s.caveRo && s.field .caveStatus [] 4 4 == 1

/-- The lowest and the highest erase count of the good blocks. -/
def Flash.spread (f : Flash) (n : Nat) : Option (Nat × Nat) :=
  ((List.range n).filter fun b => !(f.block b).bad).foldl (fun x b =>
    let pe := (f.block b).pe
    match x with
    | none => some (pe, pe)
    | some (lo, hi) => some (min lo pe, max hi pe)) none

/-- The least-erased good block that holds data, the lower number on a tie. -/
def Flash.coldest (f : Flash) : Option Nat :=
  (f.map.map (·.2)).foldl (fun best b =>
    match best with
    | none => some b
    | some a =>
      let x := (f.block b).pe
      let y := (f.block a).pe
      if x < y ∨ (x = y ∧ b < a) then some b else best) none

end Sys2Proof.Machine
end

