-- ==== Sys2Proof/Machine/Tiers.lean ====
section
/-!
DEFINITION. Tier space and memory: the map and what a requester reaches (R148), granules, quotas and allocation (R151 to
R156), moves, retirement and row failures (R149, R161 to R166), the code words of SRAM (R304) and the bandwidth
regulators (R157, R158).
-/
namespace Sys2Proof.Machine

/-! ### The map -/

/-- What an address of tier space names. -/
inductive Space where
  | local_ (core off : Nat)
  | cluster (k off : Nat)
  | hub (off : Nat)
  | far (unit : Nat)
  | hole
  deriving DecidableEq, Repr

/-- The first address of each translated range. -/
def stackBase : Nat := 0x10000000000
def cellarBase : Nat := 0x20000000000
def caveBase : Nat := 0x1000000000000
def hubBase : Nat := 0x200000000
/-- Frames of the cave: 12.8 TB or 3.2 TB by CAVE_GB of FEAT_MEM. -/
def State.caveFrames (s : State) : Nat := if s.field .featMem [] 63 48 = 3200 then 48828125 else 195312500

/-- Granules of a home range, by region TIER (2 hub cache, 3 stacked memory, 4 cellar, 5 cave). -/
def State.tierGrans (s : State) : Nat → Nat
  | 2 => 8192
  | 3 => 12484608
  | 4 => 16777216
  | _ => s.caveFrames

/-- The first granule of a home range. -/
def tierFirst : Nat → Nat
  | 2 => hubBase / granBytes
  | 3 => stackBase / granBytes
  | 4 => cellarBase / granBytes
  | _ => caveBase / granBytes

/-- Classify an address (tier-space map). -/
def State.space (s : State) (a : Nat) : Space :=
  if a < 64 * 0x2000000 then
    let c := a / 0x2000000
    if a % 0x2000000 < 0x1800000 ∧ (s.core c).inService then .local_ c (a % 0x2000000) else .hole
  else if 0x100000000 ≤ a ∧ a < 0x100000000 + 16 * 0x8000000 then
    .cluster ((a - 0x100000000) / 0x8000000) ((a - 0x100000000) % 0x8000000)
  else if hubBase ≤ a ∧ a < hubBase + 0x20000000 then .hub (a - hubBase)
  else if stackBase ≤ a ∧ a < stackBase + 12484608 * granBytes then .far 1
  else if cellarBase ≤ a ∧ a < cellarBase + 16777216 * granBytes then .far 9
  else if caveBase ≤ a ∧ a < caveBase + s.caveFrames * granBytes then .far 10
  else .hole

/-- The descriptor of a granule, `none` when FREE. -/
def State.gran (s : State) (g : Nat) : Option Gran := AMap.find? s.dev.memS.grans g

/-- Change the memory system. -/
def State.modMem (s : State) (f : MemS → MemS) : State := { s with dev := { s.dev with memS := f s.dev.memS } }

/-- Store a descriptor. -/
def State.setGran (s : State) (g : Nat) (x : Gran) : State := s.modMem fun m => { m with grans := AMap.set m.grans g x }

/-- Whether a cluster belongs to a context's arc. -/
def Ctx.hasCluster (x : Ctx) (k : Nat) : Bool := x.valid && decide (x.first ≤ k ∧ k < x.first + x.count)

/-- R148: why a requester for a context does not reach the bytes of one granule: 0 outside the context, 1 a hole. `via` is
the cluster of a stream engine, which alone reaches the local SRAM of its cores (R13). -/
def State.reachGran (s : State) (via : Option Nat) (c a : Nat) : Option Nat :=
  match s.space a with
  | .hole => some 1
  | .local_ k _ => if via = some (clusterOf k) ∧ (s.ctx c).hasCluster (clusterOf k) then none else some 0
  | .cluster k _ => if (s.ctx c).hasCluster k then none else some 0
  | .hub _ | .far _ =>
    match s.gran (a / granBytes) with
    | some g => if g.owner = some c then none else some 0
    | none => some 0

/-- R148 over a range: the first failing place and its cause. -/
def State.reachVia (s : State) (via : Option Nat) (c a n : Nat) : Option (Nat × Nat) :=
  ((gransOf a n).map fun g => max a (g * granBytes)).findSome? fun x => (s.reachGran via c x).map fun q => (x, q)

/-- R148 for a requester other than a stream engine. -/
def State.reach (s : State) (c a n : Nat) : Option (Nat × Nat) := s.reachVia none c a n

/-- Record a fault of a memory access in MEM_FAULT and MEM_FAULT_ADDR (REQ, CTX, SRC, CAUSE). -/
def State.memFault (s : State) (code req ctx src cause addr : Nat) : State :=
  if s.field .memFault [] 8 8 = 1 then s
  else
    (s.setReg .memFault [] (word [(code, 48), (req, 36), (ctx, 33), (src, 16), (1, 8), (cause, 0)])).setReg .memFaultAddr []
      (BitVec.ofNat 64 addr)

/-! ### Accounting (R151, R152) -/

/-- The accounting unit of a granule of a tier and partition. -/
def unitOf (tier part : Nat) : Nat := match tier with | 2 => 0 | 3 => 1 + part / 2 | 4 => 9 | _ => 10

/-- The home partition that PLACE gives granule `i` (R150). -/
def placePart (place i : Nat) : Nat := if place = 0 then i % 16 else 2 * (place - 1) + i % 2

/-- The quota of a context in a unit. -/
def State.quota (s : State) (c u : Nat) : Nat :=
  s.field .memQuota [c, if u = 0 then 0 else if u ≤ 8 then 1 else if u = 9 then 2 else 3] 31 0

/-- Allocatable frames of a unit, less those lost to retirement beyond the reserve. -/
def State.cap (s : State) (u : Nat) : Nat :=
  (if u = 0 then 7936 else if u ≤ 8 then 1544970 else if u = 9 then 16777216 else s.caveFrames) - AMap.get s.dev.memS.lost 0 u

/-- Frames of a unit that an owner holds. -/
def State.usedBy (s : State) (o : Option Nat) (u : Nat) : Nat :=
  (s.dev.memS.grans.filter fun p => p.2.owner == o && p.2.at_ == u).length

/-- Frames of a unit in use. -/
def State.usedAll (s : State) (u : Nat) : Nat := (s.dev.memS.grans.filter fun p => p.2.at_ == u).length

/-- The sum of the quotas of all contexts in a unit. -/
def State.quotaSum (s : State) (u : Nat) : Nat := ((List.range 8).map fun c => s.quota c u).foldl (· + ·) 0

/-- Pool frames that are free: the pool less what contexts hold above their quotas and what the firmware holds. -/
def State.poolFree (s : State) (u : Nat) : Nat :=
  s.cap u - s.quotaSum u - ((List.range 8).map fun c => s.usedBy (some c) u - s.quota c u).foldl (· + ·) 0 - s.usedBy none u

/-- Frames that an owner can have without eviction: its unused quota, then the free pool. -/
def State.available (s : State) (o : Option Nat) (u : Nat) : Nat :=
  (match o with | some c => s.quota c u - s.usedBy o u | none => 0) + s.poolFree u

/-- The age of a granule. -/
def MemS.age (m : MemS) (g : Gran) : Nat := (m.now + 2 ^ 32 - g.stamp % 2 ^ 32) % 2 ^ 32

/-- R153: whether a granule may be evicted from a unit. -/
def State.mayEvict (s : State) (u : Nat) (excl : List Nat) (p : Nat × Gran) : Bool :=
  match p.2.owner with
  | none => false
  | some c => p.2.at_ == u && !p.2.pin && !p.2.retiring && decide (s.usedBy (some c) u > s.quota c u) && !excl.contains p.1

/-- The candidate of the greatest age, the lower address on a tie. -/
def State.victim (s : State) (u : Nat) (excl : List Nat) : Option Nat :=
  ((s.dev.memS.grans.filter (s.mayEvict u excl)).foldl (fun (best : Option (Nat × Gran)) p =>
    match best with
    | none => some p
    | some b =>
      let x := s.dev.memS.age p.2
      let y := s.dev.memS.age b.2
      if x > y ∨ (x = y ∧ p.1 < b.1) then some p else best) none).map (·.1)

/-- A move of a granule: it is copied into a frame of another unit and its descriptor is switched to that frame; the pages of one
that comes into the cave are programmed, those of one that leaves it forgotten (R149, R168). Accesses of it wait meanwhile, which
is the MIGRATION origin of R61. -/
def State.moveTo (s : State) (g u : Nat) : State :=
  match s.gran g with
  | none => s
  | some x =>
    let s := (s.setGran g { x with at_ := u, hits := 0, errs := 0 }).modMem fun m => { m with moves := m.moves.filter (· ≠ g) }
    let s := if u = 10 then s.programPages (g * granBytes) granBytes
      else if x.at_ = 10 then s.modFlash fun f => f.unmap (g * granBytes) granBytes else s
    s.delay 4 (· == g)

/-- Make `n` frames of a unit available to an owner, evicting under R153 in a stack or the cellar; an evicted granule
lands one tier down under the same rule, in the cave only while it takes writes (R170). Whether it succeeded is returned;
evictions stay performed. -/
def State.makeRoom : Nat → State → Option Nat → Nat → Nat → List Nat → State × Bool
  | 0, s, o, u, n, _ => (s, decide (n ≤ s.available o u))
  | fuel + 1, s, o, u, n, excl =>
    if n ≤ s.available o u then (s, true)
    else if u = 0 ∨ u = 10 then (s, false)
    else
      match s.victim u excl with
      | none => (s, false)
      | some g =>
        let down := if u = 9 then 10 else 9
        let owner := (s.gran g).bind (·.owner)
        match (if down = 10 ∧ ¬ s.caveOpen then (s, false) else State.makeRoom fuel s owner down 1 []) with
        | (s, true) => State.makeRoom fuel ((s.moveTo g down).bump .migCntDown [] 1 none 4 0) o u n excl
        | (s, false) => State.makeRoom fuel s o u n (g :: excl)

/-- Enough fuel for every granule to be tried. -/
def State.evictFuel (s : State) : Nat := 2 * s.dev.memS.grans.length + 2

/-- An allocation in one home range: owner, TIER, PLACE, granules, PIN, and whether it is a slab. -/
structure AllocReq where
  owner : Option Nat
  tier : Nat
  place : Nat := 0
  n : Nat
  pin : Bool := false
  slab : Bool := false
  deriving DecidableEq, Repr

/-- Frames that an allocation needs in a unit. -/
def AllocReq.inUnit (r : AllocReq) (u : Nat) : Nat :=
  if r.tier = 3 then ((List.range r.n).filter fun i => unitOf 3 (placePart r.place i) == u).length
  else if unitOf r.tier 0 = u then r.n else 0

/-- Whether `n` granules from `g` are free and inside the range of a tier. -/
def State.runFree (s : State) (tier g n : Nat) : Bool :=
  decide (tierFirst tier ≤ g ∧ g + n ≤ tierFirst tier + s.tierGrans tier) &&
    s.dev.memS.grans.all fun p => !decide (g ≤ p.1 ∧ p.1 < g + n)

/-- The granule of a flash page. -/
def pageGran (page : Nat) : Nat := page * pageBytes / granBytes

/-- Whether an allocation can have the `n` granules from `g`: they are free, and the flash holds no page of a detached volume there
(R257, assumption log 128). -/
def State.runBlank (s : State) (tier g n : Nat) : Bool :=
  s.runFree tier g n && s.nv.flash.map.all fun p => !decide (g ≤ pageGran p.1 ∧ pageGran p.1 < g + n)

/-- The first granule of a run for an allocation: the hint when it is free, else the lowest free run (assumption log 22). -/
def State.findRun (s : State) (tier n : Nat) (hint : Option Nat) : Option Nat :=
  match hint.filter fun g => s.runBlank tier g n with
  | some g => some g
  | none =>
    let cands := tierFirst tier :: (s.dev.memS.grans.map (·.1 + 1)) ++ (s.nv.flash.map.map fun p => pageGran p.1 + 1)
    (cands.filter fun g => s.runBlank tier g n).foldl (fun best g =>
      match best with | none => some g | some b => some (min b g)) none

/-- Make room in every unit of an allocation. -/
def State.roomFor (r : AllocReq) : List Nat → State → State × Bool
  | [], s => (s, true)
  | u :: us, s =>
    match State.makeRoom s.evictFuel s r.owner u (r.inUnit u) [] with
    | (s, true) => State.roomFor r us s
    | (s, false) => (s, false)

/-- Read-zero a range of tier space (R152). -/
def State.clear (s : State) (a n : Nat) : State :=
  { s with mem := Mem.clearRange s.mem a n, bad := removeNats s.bad (a / 32) ((a + n) / 32) }

/-- Create the descriptors of an allocation. -/
def State.grant (s : State) (r : AllocReq) (g : Nat) : State :=
  let home (i : Nat) : Gran :=
    let p := if r.tier = 3 then placePart r.place i else 0
    { owner := r.owner, home := unitOf r.tier p, part := p, at_ := unitOf r.tier p, pin := r.pin, slab := r.slab,
      stamp := s.dev.memS.now }
  ((s.modMem fun m => { m with grans := (List.range r.n).foldl (fun gs i => AMap.set gs (g + i) (home i)) m.grans }).clear
    (g * granBytes) (r.n * granBytes)).bump .migCntZero [] r.n none 4 0

/-- R152: an allocation, all or nothing: its first granule, or the refusal with QUOTA_DENIED. -/
def State.alloc (s : State) (r : AllocReq) (hint : Option Nat) : State × Option Nat :=
  let refuse (s : State) : State × Option Nat :=
    let s := (s.bump .memCntDenied [] 1 r.owner 4 0).memFault 0x0306 5 (r.owner.getD 0) 0 3 0
    (s.raise 0x0306 { kind := 10, index := 0, ctx := r.owner }, none)
  match State.roomFor r ((List.range 11).filter fun u => r.inUnit u != 0) s with
  | (s, false) => refuse s
  | (s, true) =>
    match s.findRun r.tier r.n hint with
    | none => refuse s
    | some g => (s.grant r g, some g)

/-- Scratch granules of the cave that are freed hold nothing for a volume attached there later: their pages are forgotten and their
bytes read zero (R156, R257). -/
def State.forgetScratch (s : State) (g n : Nat) : State :=
  let s := s.modFlash fun f => f.unmap (g * granBytes) (n * granBytes)
  if tierFirst 5 ≤ g then s.clear (g * granBytes) (n * granBytes) else s

/-- Free granules (R156). -/
def State.freeGrans (s : State) (g n : Nat) : State :=
  (s.forgetScratch g n).modMem fun m =>
    { m with grans := m.grans.filter fun p => !decide (g ≤ p.1 ∧ p.1 < g + n),
             moves := m.moves.filter fun x => !decide (g ≤ x ∧ x < g + n),
             retire := m.retire.filter fun x => !decide (g ≤ x ∧ x < g + n) }

/-- Whether a granule belongs to the attached volume of a context. -/
def Ctx.inVol (x : Ctx) (g : Nat) : Bool := decide (x.volBase / granBytes ≤ g ∧ g < x.volBase / granBytes + x.volLen)

/-- Free every granule of a context. Its volume is only detached: the flash keeps what it holds (R257). -/
def State.freeCtx (s : State) (c : Nat) : State :=
  let caved := (s.dev.memS.grans.filter fun p => p.2.owner == some c && p.2.at_ == 10 && !(s.ctx c).inVol p.1).map (·.1)
  (caved.foldl (fun s g => s.forgetScratch g 1) s).modMem fun m =>
    let mine (g : Nat) : Bool := match AMap.find? m.grans g with | some x => x.owner == some c | none => false
    { m with grans := m.grans.filter (fun p => p.2.owner != some c), moves := m.moves.filter (fun g => !mine g),
             retire := m.retire.filter (fun g => !mine g) }

/-! ### Accesses by the owner: stamps and promotion (R155) -/

/-- One access of a granule by a stream, ripener or link engine acting for its owner. -/
def State.touchGran (s : State) (g : Nat) : State :=
  match s.gran g with
  | none => s
  | some x =>
    let below := x.at_ != x.home
    let x := { x with stamp := s.dev.memS.now, hits := if below then min 15 (x.hits + 1) else 0 }
    let s := s.setGran g x
    let want := max 1 (s.field .migCfg [] 3 0)
    if below ∧ x.hits ≥ want ∧ s.field .migCfg [] 4 4 = 1 ∧ g ∉ s.dev.memS.moves ∧ 1 ≤ s.available x.owner x.home then
      s.modMem fun m => { m with moves := m.moves ++ [g] }
    else s

/-- An access of a range by its owner. -/
def State.touch (s : State) (a n : Nat) : State := (gransOf a n).foldl State.touchGran s

/-- GRANULE_MOVE: a queued promotion is performed, if promotion is still enabled and a home frame can still be had without
evicting. -/
def State.granuleMove (s : State) (g : Nat) : State :=
  if g ∉ s.dev.memS.moves then s
  else
    let s := s.modMem fun m => { m with moves := m.moves.filter (· ≠ g) }
    match s.gran g with
    | none => s
    | some x =>
      if x.at_ ≠ x.home ∧ ¬ x.retiring ∧ s.field .migCfg [] 4 4 = 1 ∧ 1 ≤ s.available x.owner x.home then
        (s.moveTo g x.home).bump .migCntUp [] 1 none 4 0
      else s

/-! ### Errors and retirement -/

/-- The context that owns an address. -/
def State.ownerOf (s : State) (a : Nat) : Option Nat :=
  match s.space a with
  | .local_ c _ => s.clusterCtx (clusterOf c)
  | .cluster k _ => s.clusterCtx k
  | .hub _ | .far _ => (s.gran (a / granBytes)).bind (·.owner)
  | .hole => none

/-- Poison `n` sectors from sector `x`; UNCORRECTABLE is raised once, not again for stored poison. -/
def State.spoil (s : State) (x n kind index : Nat) : State :=
  let secs := (List.range n).map (x + ·)
  let fresh := secs.any fun y => !s.bad.contains y
  let s := { s with bad := secs.foldl insertNat s.bad }
  if fresh then
    s.raise 0x0301 { kind := kind, index := index, ctx := s.ownerOf (x * 32), detail := BitVec.ofNat 64 (x * 32) }
  else s

/-- Queue a granule for retirement. -/
def State.queueRetire (s : State) (g : Nat) : State :=
  match s.gran g with
  | some _ => s.modMem fun m => { m with retire := if g ∈ m.retire then m.retire else m.retire ++ [g] }
  | none => s

/-- R163, R165: a failure of a row of a stack; the enclosing granule retires on the third, or without a spare row. The copy of a
remap delays accesses of the granule (R162). -/
def State.rowFailure (s : State) (n : Nat) (l : RowLoc) (ue : Bool) (g : Nat) : State :=
  let r := AMap.get s.dev.memS.rows {} (n, l)
  let spare := s.field .hbmSpare [n] 19 0
  let third := decide (r.fails ≥ 2 ∨ spare = 0)
  let fails := if third then 3 else r.fails + 1
  let s := s.recordFault .hbmFault [n] 63
    (word [(fails, 61), (b2n ue, 60), (l.pch % 64, 54), (l.bank % 64, 48), (l.row % 2 ^ 18, 30)])
  let s := s.modMem fun m => { m with rows := AMap.set m.rows (n, l) { words := [], fails := fails } }
  if third then
    let s := if spare = 0 ∧ s.field .hbmStatus [n] 2 2 = 0 then
        (s.setField .hbmStatus [n] 2 2 1).raise 0x0302 { kind := 5, index := n, ctx := none } else s
    s.queueRetire g
  else ((s.setField .hbmSpare [n] 19 0 (spare - 1)).bump .hbmCntRemap [n] 1 none 5 n).delay 4 (· == g)

/-- A code word of a stack is read: R161 and R163. -/
def State.stackWord (s : State) (n a : Nat) (l : RowLoc) (e : Ecc) : State :=
  let w := a / 64
  match e with
  | .clean => s
  | .corrected =>
    let s := s.bump .hbmCntCe [n] 1 none 5 n
    let r := AMap.get s.dev.memS.rows {} (n, l)
    let ws := insertNat r.words w
    if ws.length ≥ 3 then s.rowFailure n l false (a / granBytes)
    else s.modMem fun m => { m with rows := AMap.set m.rows (n, l) { r with words := ws } }
  | .uncorrectable =>
    ((s.bump .hbmCntUe [n] 1 none 5 n).spoil (2 * w) 2 5 n).rowFailure n l true (a / granBytes)

/-- Whether granule `g` resides in a stack. -/
def State.granIn (s : State) (n g : Nat) : Bool := match s.gran g with | some x => x.at_ == 1 + n | none => false

/-- Whether an address lies in a granule that resides in a stack. -/
def State.inStack (s : State) (n a : Nat) : Bool := s.granIn n (a / granBytes)

/-- R164, R165: the retired granule of a stack is counted, the 15,606th with STACK_DEGRADED. The total is the stack's own, whatever
becomes of the counter. -/
def State.countRetired (s : State) (n : Nat) : State :=
  let total := AMap.get s.dev.memS.retired 0 n + 1
  let s := (s.modMem fun m => { m with retired := AMap.set m.retired n total }).bump .hbmCntRetired [n] 1 none 5 n
  let s := (s.bump .migCntRetire [] 1 none 4 0).raise 0x0303 { kind := 5, index := n, ctx := none }
  if total ≥ 15606 ∧ s.field .hbmStatus [n] 1 1 = 0 then
    (s.setField .hbmStatus [n] 1 1 1).raise 0x0305 { kind := 5, index := n, ctx := none }
  else s

/-- A frame of a unit is lost for good. -/
def State.loseFrame (s : State) (u : Nat) : State :=
  s.modMem fun m => { m with lost := AMap.set m.lost u (AMap.get m.lost 0 u + 1) }

/-- GRANULE_RETIRE: a granule that waits for retirement gets a new frame (R164, R166); a pinned one never in another tier (R154). -/
def State.granuleRetire (s : State) (g : Nat) : State :=
  if g ∉ s.dev.memS.retire then s
  else
    match s.gran g with
    | none => s
    | some x =>
      let done (s : State) (x : Gran) : State :=
        ((s.setGran g { x with retiring := false, errs := 0 }).modMem fun m => { m with retire := m.retire.filter (· ≠ g) }).delay 4
          (· == g)
      let stay (s : State) : State := s.setGran g { x with retiring := true }
      if 1 ≤ x.at_ ∧ x.at_ ≤ 8 then
        let n := x.at_ - 1
        let spare := s.field .hbmSpare [n] 63 32
        if spare > 0 then (done (s.setField .hbmSpare [n] 63 32 (spare - 1)) x).countRetired n
        else
          let r := if s.poolFree x.at_ ≥ 1 then (s, true) else State.makeRoom s.evictFuel s none x.at_ 1 [g]
          match r with
          | (s, true) => (done (s.loseFrame x.at_) x).countRetired n
          | (s, false) =>
            if x.pin then stay s
            else
              match State.makeRoom s.evictFuel s x.owner 9 1 [] with
              | (s, true) => (((done (s.loseFrame x.at_) x).moveTo g 9).bump .migCntDown [] 1 none 4 0).countRetired n
              | (s, false) => stay s
      else if x.at_ = 9 then
        let retired (s : State) : State := (s.bump .migCntRetire [] 1 none 4 0).raise 0x0303 { kind := 4, index := 0, ctx := none }
        if s.cap 9 > s.usedAll 9 then retired (done (s.loseFrame 9) x)
        else if ¬ x.pin ∧ s.caveOpen ∧ s.available x.owner 10 ≥ 1 then
          retired (((done (s.loseFrame 9) x).moveTo g 10).bump .migCntDown [] 1 none 4 0)
        else stay s
      else done s x

/-- CELLAR_ACCESS: an uncorrectable error poisons both sectors of its 64 bytes; a granule with three retires (R166). -/
def State.cellarAccess (s : State) (a : Nat) (ue : Bool) : State :=
  let g := a / granBytes
  match s.gran g with
  | none => s
  | some x =>
    if x.at_ = 9 ∧ ue then
      let s := s.spoil (2 * (a / 64)) 2 4 0
      let s := s.setGran g { x with errs := x.errs + 1 }
      if x.errs + 1 ≥ 3 then s.queueRetire g else s
    else s

/-- SRAM_ACCESS: a 64-bit word of local SRAM, cluster memory or the hub cache (R304). -/
def State.sramAccess (s : State) (a : Nat) (e : Ecc) : State :=
  let onChip : Bool := match s.space a with | .local_ _ _ | .cluster _ _ | .hub _ => true | _ => false
  if ¬ onChip then s
  else
    let o := s.ownerOf a
    match e with
    | .clean => s
    | .corrected => s.bump .memCntSramCe [] 1 o 4 0
    | .uncorrectable => (s.bump .memCntSramUe [] 1 o 4 0).spoil (a / 32) 1 4 0

/-- STACKED_MEMORY_ACCESS. -/
def State.stackAccess (s : State) (n a : Nat) (l : RowLoc) (e : Ecc) (miss : Bool) : State :=
  if s.inStack n a then (s.bump .memCntTmiss [] (b2n miss) none 4 0).stackWord n a l e else s

/-- Whether the patrol of a stack meets an address: its granule resides there, or names no data, so that its word is one of a free
frame. -/
def State.patrolled (s : State) (n a : Nat) : Bool :=
  s.inStack n a || ((s.gran (a / granBytes)).isNone && (match s.space a with | .far 1 => true | _ => false))

/-- PATROL_SCRUB_READ: one code word of the patrol, which reads those of free frames too and delays accesses of the stack (R162); the
end of a pass is counted, and corrected errors are forgotten. -/
def State.patrol (s : State) (n a : Nat) (l : RowLoc) (e : Ecc) (last : Bool) : State :=
  let s := s.delay 0 (s.granIn n)
  let s := if s.patrolled n a then s.stackWord n a l e else s
  if last then
    (s.bump .hbmCntScrub [n] 1 none 5 n).modMem fun m =>
      { m with rows := m.rows.map fun p => if p.1.1 = n then (p.1, { p.2 with words := [] }) else p }
  else s

/-- HBM_REFRESH: a refresh holds a bank of a stack, and no data changes. The stack reports its temperature, above 85 °C its doubled
refresh rate (R162, assumption log 99). -/
def State.refresh (s : State) (n temp : Nat) : State :=
  ((s.setField .hbmStatus [n] 11 4 temp).setField .hbmStatus [n] 3 3 (b2n (decide (85 < temp)))).delay 0 (s.granIn n)

/-! ### Rows -/

/-- HBM_REFRESH (R162). -/
def execHbmRefresh (n : StackRefresh) (s : State) : Host.Outcome State Fault Refusal :=
  .next (s.powered fun s => s.refresh n.stack n.temp)

/-- GRANULE_MOVE (R149, R155). -/
def execGranuleMove (g : Nat) (s : State) : Host.Outcome State Fault Refusal := .next (s.clockedBy 17 fun s => s.granuleMove g)

/-- LAST_USE_STAMP_ADVANCE. -/
def execLastUseStampAdvance (s : State) : Host.Outcome State Fault Refusal :=
  .next (s.powered fun s => s.modMem fun m => { m with now := (m.now + 1) % 2 ^ 32 })

/-- STACKED_MEMORY_ACCESS (R161, R163). -/
def execStackedMemoryAccess (n : StackId) (a : Nat) (l : RowLoc) (e : Ecc) (miss : Bool) (s : State) :
    Host.Outcome State Fault Refusal :=
  .next (s.powered fun s => s.stackAccess n a l e miss)

/-- SRAM_ACCESS (R304). -/
def execSramAccess (a : Nat) (e : Ecc) (s : State) : Host.Outcome State Fault Refusal :=
  .next (s.powered fun s => s.sramAccess a e)

/-- CELLAR_ACCESS (R166). -/
def execCellarAccess (a : Nat) (ue : Bool) (s : State) : Host.Outcome State Fault Refusal :=
  .next (s.powered fun s => s.cellarAccess a ue)

/-- PATROL_SCRUB_READ (R162, R163). -/
def execPatrolScrubRead (n : StackId) (a : Nat) (l : RowLoc) (e : Ecc) (last : Bool) (s : State) :
    Host.Outcome State Fault Refusal :=
  .next (s.powered fun s => s.clockedBy 17 fun s => s.patrol n a l e last)

/-- GRANULE_RETIRE (R164). -/
def execGranuleRetire (g : Nat) (s : State) : Host.Outcome State Fault Refusal := .next (s.clockedBy 17 fun s => s.granuleRetire g)

end Sys2Proof.Machine
end

