-- ==== Sys2Proof/Machine/Cave.lean ====
section
/-!
DEFINITION. The cave (R167 to R171): pages placed in the least-worn free block, page writes that are acknowledged once
programmed, read scrub, static levelling, failing blocks, and the read-only mode.
-/
namespace Sys2Proof.Machine

/-- R170: a block joins the bad-block table and takes a reserve block; below 1 % of the blocks the cave is read-only. -/
def State.badBlock (s : State) (b : Nat) : State :=
  if (s.nv.flash.block b).bad then s
  else
    let n := s.caveBlocks
    let s := s.flashWork fun f => (f.modBlock b fun k => { k with bad := true }).relocate n b
    let spare := s.field .caveBlocks [] 19 0 - 1
    let s := (s.setField .caveBlocks [] 39 20 (s.field .caveBlocks [] 39 20 + 1)).setField .caveBlocks [] 19 0 spare
    if 100 * spare < n then s.setField .caveStatus [] 5 5 1 else s

/-- The parts of a write, page by page; the last one sets the parity, if the write sets one. -/
def pageParts (a : Nat) (d : List Byte) (bad : List Nat) (w : Waiter) (par : Option Bool := none) : List CaveW :=
  if d.isEmpty then []
  else
    (List.range ((a + d.length - 1) / pageBytes - a / pageBytes + 1)).map fun i =>
      let lo := max a (pageBytes * (a / pageBytes + i))
      let hi := min (a + d.length) (pageBytes * (a / pageBytes + i + 1))
      { addr := lo, data := (d.drop (lo - a)).take (hi - lo),
        bad := (bad.map (a / 32 + ·)).filter fun x => decide (lo / 32 ≤ x ∧ 32 * x < hi), who := w,
        parity := if hi = a + d.length then par else none }

/-- Whether an address lies in a granule that resides in the cave. -/
def State.inCave (s : State) (a : Nat) : Bool := match s.gran (a / granBytes) with | some g => g.at_ == 10 | none => false

/-- The first address of `[a, a + n)` that a read-only cave keeps from being written (R170). -/
def State.roRefuses (s : State) (a n : Nat) : Option Nat :=
  if s.caveRo then ((gransOf a n).map fun g => max a (g * granBytes)).find? s.inCave else none

/-- R170: a write or erase of a read-only cave is refused: MEM_FAULT, and the event of its source with the address. -/
def State.roRefused (s : State) (req ctx src addr : Nat) (r : Origin) : State :=
  (s.memFault 0x0306 req ctx src 4 addr).raise 0x0306 { r with detail := BitVec.ofNat 64 addr }

/-- Set the parity bit of a granule, if a write sets one (R143). -/
def State.setParity (s : State) (g : Nat) (b : Option Bool) : State :=
  match b, s.gran g with | some b, some x => s.setGran g { x with parity := b } | _, _ => s

/-- A part of a write is performed, and the parity bit that it sets with it. -/
def State.putPart (s : State) (p : CaveW) : State :=
  (s.putWithShared p.addr p.data (p.bad.map (· - p.addr / 32))).setParity (p.addr / granBytes) p.parity

/-- Write for a requester: bytes whose granule resides in the cave wait to be programmed, page by page (R167); others are
written at once. `bad` counts poisoned sectors from the first byte. -/
def State.farWrite (s : State) (a : Nat) (d : List Byte) (bad : List Nat) (w : Waiter) (par : Option Bool := none) : State :=
  (pageParts a d bad w par).foldl (fun s p =>
    if s.inCave p.addr then { s with dev := { s.dev with caveQ := s.dev.caveQ ++ [.page p] } } else s.putPart p) s

/-- A page of a cave write is programmed and its map update journalled; one whose granule has left the cave is written. -/
def State.programPart (s : State) (p : CaveW) : State :=
  let t := s.putPart p
  if s.inCave p.addr then
    let old := s.nv.flash.userBytes
    let t := t.flashWork fun f => { f.program s.caveBlocks (p.addr / pageBytes) with userBytes := f.userBytes + p.data.length }
    t.bump .caveCntUsergb [] (gbSteps old t.nv.flash.userBytes) none 6 0
  else t

/-- A write that a unit or the firmware waits out: its cave pages are programmed one after the other. -/
def State.farPut (s : State) (a : Nat) (d : List Byte) (bad : List Nat) : State :=
  (pageParts a d bad .firmware).foldl State.programPart s

/-- A page that waits to be programmed. -/
def CaveReq.pageOf : CaveReq → Option CaveW
  | .page p => some p
  | .run _ _ => none

/-- Who waits. -/
def CaveReq.who : CaveReq → Waiter
  | .page p => p.who
  | .run w _ => w

/-- Whether a page is one of a stream's run. -/
def CaveReq.streamPage : CaveReq → Bool
  | .page p => (match p.who with | .stream _ _ _ => true | _ => false)
  | .run _ _ => false

/-- CAVE_PAGE_READ: reads of the block are counted; a page that no retry decodes is delivered poisoned and its block
joins the bad-block table (R169). -/
def State.cavePageRead (s : State) (page retries : Nat) (ue : Bool) : State :=
  let s := s.bump .caveCntRetry [] retries none 6 0
  match AMap.find? s.nv.flash.map page with
  | none => s
  | some b =>
    let s := s.modFlash fun f => f.modBlock b fun k => { k with reads := k.reads + 1 }
    if ue then ((s.bump .caveCntUe [] 1 none 6 0).spoil (page * 512) 512 6 0).badBlock b else s

/-- CAVE_READ_SCRUB: a block whose reads have reached RD_LIMIT is rewritten to a fresh block (R169). -/
def State.caveScrub (s : State) (b : Nat) : State :=
  let n := s.caveBlocks
  if (s.nv.flash.block b).reads ≥ s.field .caveCfg [] 31 16 ∧ ¬ (s.nv.flash.block b).bad then
    (s.flashWork fun f => f.renew n b).bump .caveCntScrub [] 1 none 6 0
  else s

/-- CAVE_STATIC_LEVEL: with a spread above WL_SPREAD the data of the least-erased block that holds data moves (R168). -/
def State.caveLevel (s : State) : State :=
  let n := s.caveBlocks
  match s.nv.flash.spread n, s.nv.flash.coldest with
  | some (lo, hi), some b => if hi - lo > s.field .caveCfg [] 15 0 then s.flashWork fun f => f.renew n b else s
  | _, _ => s

/-- CAVE_PAGE_READ (R169). -/
def execCavePageRead (page retries : Nat) (ue : Bool) (s : State) : Host.Outcome State Fault Refusal :=
  .next (s.powered fun s => s.cavePageRead page retries ue)

/-- CAVE_READ_SCRUB (R169). -/
def execCaveReadScrub (b : Nat) (s : State) : Host.Outcome State Fault Refusal :=
  .next (s.powered fun s => s.caveScrub b)

/-- CAVE_STATIC_LEVEL (R168). -/
def execCaveStaticLevel (s : State) : Host.Outcome State Fault Refusal :=
  .next (s.powered fun s => s.caveLevel)

/-- CAVE_BLOCK_FAIL: a block that fails to program or erase (R170). -/
def execCaveBlockFail (b : Nat) (s : State) : Host.Outcome State Fault Refusal :=
  .next (s.powered fun s => s.badBlock b)

end Sys2Proof.Machine
end

