-- ==== Sys2Proof/Machine/Regulators.lean ====
section
/-!
DEFINITION. The bandwidth regulators (R157, R158): a context's transfers of stacked memory as requests that wait for their tokens,
and what each request does once it proceeds.
-/
namespace Sys2Proof.Machine

/-- BWR_CFG in force: the value of the last tick (R158). -/
def State.bwrNow (s : State) (c p : Nat) : BitVec 64 := AMap.get s.dev.memS.bwr (word [(1, 63), (4096, 32)]) (c, p)

/-- BURST in force, in sectors: at least 64. -/
def State.burst (s : State) (c p : Nat) : Nat := max 64 (wbits (s.bwrNow c p) 55 32)

/-- Whether a regulator is bypassed. -/
def State.unreg (s : State) (c p : Nat) : Bool := wbits (s.bwrNow c p) 63 63 == 1

/-- The bucket of a regulator after a tick, in 1/64 sectors. -/
def bucketTick (level rate burst : Nat) : Nat := min (level + rate) (64 * burst)

/-- Whether the oldest request of a regulator finds too few tokens. -/
def State.bwrWaits (s : State) (c p : Nat) : Bool :=
  match s.dev.memS.regQ.find? fun r => r.ctx == c && r.part == p with
  | some r => !s.unreg c p && decide (s.field .bwrLevel [c, p] 29 0 < 64 * r.sectors)
  | none => false

/-- The series of requests of at most 64 sectors, each within one 2 KiB piece, that a range makes (R157): address and
sectors. -/
def piecesOf (a n : Nat) : List (Nat × Nat) :=
  if n = 0 then []
  else
    (List.range ((a + n - 1) / 2048 - a / 2048 + 1)).map fun i =>
      let lo := max a (2048 * (a / 2048 + i))
      let hi := min (a + n) (2048 * (a / 2048 + i + 1))
      (lo, (hi - 1) / 32 - lo / 32 + 1)

/-- The parts of `[a, a + n)` that lie in one granule each: address and bytes. -/
def granParts (a n : Nat) : List (Nat × Nat) :=
  (gransOf a n).map fun g => (max a (g * granBytes), min (a + n) ((g + 1) * granBytes) - max a (g * granBytes))

/-- The partition at whose regulator an access of an address by a context waits; none where it passes at once. -/
def State.regulator (s : State) (c a : Nat) : Option Nat :=
  match s.gran (a / granBytes) with
  | some g => if 1 ≤ g.at_ ∧ g.at_ ≤ 8 ∧ ¬ s.unreg c g.part then some g.part else none
  | none => none

/-- Count sectors that a stream writes poisoned (R182). -/
def State.countPoison (s : State) (k n : Nat) : State := s.bump .strCntPoison [k] n (s.clusterCtx k) 1 k

/-- A request proceeds. -/
def State.perform (s : State) (w : Waiter) : RegAct → State
  | .pass | .port _ _ _ _ => s
  | .put a d bad p => s.farWrite a d bad w p
  | .copy src dst n k =>
    let bad := (s.badIn src n).map (· - src / 32)
    (s.farWrite dst (s.bytes src n) bad w).countPoison k bad.length
  | .desc k slot src n =>
    let d := s.bytes src n
    let bad := (s.badIn src n).map (slot + · - src / 32)
    (s.modCluster k fun q =>
      { q with store := (List.range (n / 32)).foldl (fun st j =>
                 AMap.set st (slot + j) (BitVec.ofNat 256 (leNat ((d.drop (32 * j)).take 32)))) q.store
               storeBad := bad.foldl insertNat (removeNats q.storeBad slot (slot + n / 32)) }).countPoison k bad.length

/-! ### The order of streams' runs at their targets (R181) -/

/-- Whether a run of a stream reads its far end, at `a`. -/
def RegAct.reads (a : Nat) : RegAct → Bool
  | .copy src _ _ _ => src == a
  | .desc _ _ _ _ | .port _ _ _ _ => true
  | .pass | .put _ _ _ _ => false

/-- Whether an address lies in the hub cache. -/
def State.inHub (s : State) (a : Nat) : Bool := match s.gran (a / granBytes) with | some g => g.at_ == 0 | none => false

/-- A request that no regulator holds back. A stream's run stands behind the atomics that have reached the hub cache before it, and
one that reads the cave behind the pages that streams have still to write there; while the memory's region is stopped every request
waits (R233); any other proceeds. -/
def State.issue (s : State) (w : Waiter) (a : Nat) (act : RegAct) : State :=
  match w with
  | .stream _ _ _ =>
    if (s.gran (a / granBytes)).isSome ∧ s.regionStopped 17 ∨ s.inHub a ∧ s.dev.hubQ ≠ [] then { s with dev := { s.dev with hubQ := s.dev.hubQ ++ [.run w act] } }
    else if s.inCave a ∧ act.reads a ∧ s.dev.caveQ.any CaveReq.streamPage then
      { s with dev := { s.dev with caveQ := s.dev.caveQ ++ [.run w act] } }
    else s.perform w act
  | _ =>
    if (s.gran (a / granBytes)).isSome ∧ s.regionStopped 17 then { s with dev := { s.dev with hubQ := s.dev.hubQ ++ [.run w act] } }
    else s.perform w act

/-- The runs that wait for the cave and that no stream's page precedes proceed. -/
def State.releaseCave (s : State) : State :=
  let ready := s.dev.caveQ.takeWhile fun q => !q.streamPage
  let rest := ready.filter (·.pageOf.isSome) ++ s.dev.caveQ.dropWhile fun q => !q.streamPage
  ready.foldl (fun s q => match q with | .run w act => s.perform w act | .page _ => s) { s with dev := { s.dev with caveQ := rest } }

/-- The runs at the front of the hub cache's queue proceed: no atomic precedes them. -/
def State.releaseHub (s : State) : State :=
  let run (q : HubReq) : Bool := match q with | .run _ _ => true | .atomic _ => false
  (s.dev.hubQ.takeWhile run).foldl (fun s q => match q with | .run w act => s.perform w act | .atomic _ => s)
    { s with dev := { s.dev with hubQ := s.dev.hubQ.dropWhile run } }

/-- Remove the first element that satisfies a test. -/
def dropFirst {α : Type} (p : α → Bool) : List α → List α
  | [] => []
  | a :: r => if p a then r else a :: dropFirst p r

/-- CAVE_PAGE_WRITE: the oldest waiting page is programmed and its map update journalled; it is then acknowledged, and runs that waited
for it to be written proceed. -/
def State.cavePageWrite (s : State) : State :=
  match s.dev.caveQ.findSome? CaveReq.pageOf with
  | none => s
  | some p =>
    if s.field .caveStatus [] 4 4 = 1 ∧ ¬ s.regionStopped 17 ∧ (s.nv.flash.fill ≠ none ∨ s.nv.flash.freeBlock s.caveBlocks ≠ none) then
      ({ s with dev := { s.dev with caveQ := dropFirst (·.pageOf.isSome) s.dev.caveQ } }.programPart p).releaseCave
    else s

/-- An access of `[a, a + n)` by a context, `act` being what each part of it does: on stacked memory a series of requests, which wait
at the regulators; elsewhere at once, granule by granule (R157). -/
def State.regulate (s : State) (c a n : Nat) (w : Waiter) (act : Nat → Nat → RegAct) : State :=
  (granParts a n).foldl (fun s g =>
    match s.regulator c g.1 with
    | some p => s.modMem fun m => { m with regQ := m.regQ ++ (piecesOf g.1 g.2).map fun q => ⟨c, p, q.2, w, act q.1 (min (g.1 + g.2) (2048 * (q.1 / 2048 + 1)) - q.1)⟩ }
    | none => s.issue w g.1 (act g.1 g.2)) s

/-- Who waits for the hub cache. -/
def HubReq.who : HubReq → Waiter
  | .atomic a => .stream a.cluster a.stream a.seq
  | .run w _ => w

/-- Whether something of a waiter still waits at a regulator, for the hub cache or for the cave. -/
def State.waits (s : State) (w : Waiter) : Bool :=
  (s.dev.memS.regQ.any fun r => r.who == w) || (s.dev.hubQ.any fun q => q.who == w) || s.dev.caveQ.any fun q => q.who == w

/-- Whether a run that does `act` still waits there. -/
def State.actWaits (s : State) (act : RegAct) : Bool :=
  (s.dev.memS.regQ.any fun r => r.act == act) || (s.dev.hubQ.any fun q => match q with | .run _ a => a == act | .atomic _ => false) ||
    s.dev.caveQ.any fun q => match q with | .run _ a => a == act | .page _ => false

/-- REGULATOR_GRANT: the oldest request of a regulator proceeds when the bucket holds its tokens. -/
def State.regGrant (s : State) (c p : Nat) : State :=
  let mine (r : RegReq) : Bool := r.ctx == c && r.part == p
  match s.dev.memS.regQ.find? mine with
  | none => s
  | some r =>
    if s.regionStopped 17 then s else
    let level := s.field .bwrLevel [c, p] 29 0
    let go (s : State) : State := (s.modMem fun m => { m with regQ := dropFirst mine m.regQ }).perform r.who r.act
    if s.unreg c p then go s
    else if level ≥ 64 * r.sectors then go (s.setField .bwrLevel [c, p] 29 0 (level - 64 * r.sectors))
    else s

/-- The requests of a regulator that is bypassed proceed at once, those that have waited first (R157). -/
def State.bypass (s : State) (c p : Nat) : State :=
  let mine (r : RegReq) : Bool := r.ctx == c && r.part == p
  if s.unreg c p ∧ ¬ s.regionStopped 17 then
    (s.dev.memS.regQ.filter mine).foldl (fun s r => s.perform r.who r.act)
      (s.modMem fun m => { m with regQ := m.regQ.filter fun r => !mine r })
  else s

/-- One regulator at a tick: a wait is counted, BWR_CFG as it is written comes into force, and the bucket gains its tokens. -/
def State.bwrTick1 (s : State) (c p : Nat) : State :=
  let s := s.bump .bwrWait [c, p] (b2n (s.bwrWaits c p)) (some c) 4 0
  let s := s.modMem fun m => { m with bwr := AMap.set m.bwr (c, p) (s.reg .bwrCfg [c, p]) }
  (s.setField .bwrLevel [c, p] 29 0 (bucketTick (s.field .bwrLevel [c, p] 29 0) (wbits (s.bwrNow c p) 15 0) (s.burst c p))).bypass c p

/-- BWR_TOKEN_TICK over all 128 regulators. -/
def State.bwrTick (s : State) : State :=
  (List.range 8).foldl (fun s c => (List.range 16).foldl (fun s p => s.bwrTick1 c p) s) s

end Sys2Proof.Machine
end

