-- ==== Sys2Proof/Machine/Fabric.lean ====
section
/-!
DEFINITION. Fabric ports and forwarding: training and sparing (R191 to R193), frames and the link layer (R194 to R197),
forwarding (R198 to R201), flows (R202 to R210) and the link engine's counters.
-/
namespace Sys2Proof
open Sys2Proof.Machine

/-! ### Frames -/

/-- A frame with every field cut to its width. -/
def Frame.norm (f : Frame) : Frame :=
  { f with pmask := f.pmask % 2 ^ 128, dst := f.dst % 4096, src := f.src % 4096, flow := f.flow % 16384,
           seq := f.seq % 2 ^ 24, vc := f.vc % 4, kind := f.kind % 8, plen := f.plen % 256, fidx := f.fidx % 2 ^ 20,
           msg := f.msg % 65536, ttl := f.ttl % 64, rsv := f.rsv % 512, tail := f.tail % 65536 }

/-- The header as a 256-bit number. -/
def Frame.header (f : Frame) : Nat :=
  f.rsv + f.ttl * 2 ^ 9 + f.msg * 2 ^ 15 + f.fidx * 2 ^ 31 + f.plen * 2 ^ 51 + b2n f.last * 2 ^ 59 + f.kind * 2 ^ 60
    + b2n f.esc * 2 ^ 63 + f.vc * 2 ^ 64 + f.seq * 2 ^ 66 + f.flow * 2 ^ 90 + f.src * 2 ^ 104 + f.dst * 2 ^ 116
    + f.pmask * 2 ^ 128

/-- The CRC-32 of the trailer: over the header, the payload and trailer bits [63:32]. -/
def Frame.crc (f : Frame) (lseq : Nat) : Nat := crc32 (leBytes 32 f.header ++ f.data ++ leBytes 4 (lseq % 65536 * 65536 + f.tail))

/-- Bytes of a frame on the wire. -/
def Frame.bytes (f : Frame) : Nat := 40 + f.data.length

/-- Credit units of a frame. -/
def Frame.units (f : Frame) : Nat := 1 + f.plen

/-- The class of a frame: its VC, or 4 + VC with ESC. -/
def Frame.cls (f : Frame) : Nat := f.vc + 4 * b2n f.esc

/-- R194: whether a frame with a good CRC is accepted. -/
def Frame.valid (f : Frame) : Bool :=
  (match f.kind with
    | 0 => f.vc == 0 || f.vc == 2
    | 1 | 2 => f.vc == 1
    | 3 | 4 => f.vc == 3
    | _ => false) &&
  decide (f.plen ≤ 128) && f.data.length == 32 * f.plen && f.rsv == 0 && f.tail == 0

/-- The poisoned sectors that PMASK names. -/
def Frame.badSectors (f : Frame) : List Nat := (List.range f.plen).filter fun i => bit f.pmask i

end Sys2Proof

namespace Sys2Proof.Machine

/-! ### Access -/

/-- Change the link engine. -/
def State.modLink (s : State) (f : LinkS → LinkS) : State := { s with dev := { s.dev with link := f s.dev.link } }
/-- A port. -/
def State.port (s : State) (p : Nat) : PortS := AMap.get s.dev.link.ports {} p
/-- Change a port. -/
def State.modPort (s : State) (p : Nat) (f : PortS → PortS) : State :=
  s.modLink fun l => { l with ports := AMap.set l.ports p (f (AMap.get l.ports {} p)) }
/-- A flow. -/
def State.flow (s : State) (f : Nat) : Flow := AMap.get s.dev.link.flows {} f
/-- Replace a flow. -/
def State.setFlow (s : State) (f : Nat) (w : Flow) : State := s.modLink fun l => { l with flows := AMap.set l.flows f w }
/-- Change a flow. -/
def State.modFlow (s : State) (f : Nat) (g : Flow → Flow) : State := s.setFlow f (g (s.flow f))
/-- LNK_CFG.ID; 0xFFF while unassigned. -/
def State.moduleId (s : State) : Nat := s.field .lnkCfg [] 11 0
/-- DIM of a port. -/
def State.portDim (s : State) (p : Nat) : Nat := s.field .lnkPortCfg [p] 5 4
/-- WRAP of a port. -/
def State.portWrap (s : State) (p : Nat) : Bool := s.field .lnkPortCfg [p] 7 7 == 1
/-- The context of a flow's events: none for a flow of the firmware. -/
def Flow.owner (w : Flow) : Option Nat := if w.fw then none else some w.ctx

/-- Whether a port drops what is routed to it (R208): it is not UP and not retraining in service. -/
def PortS.dead (k : PortS) : Bool :=
  match k.st with
  | .up => false
  | .retraining => k.fresh
  | _ => true

/-- Whether a port is replaying or retraining (R208). -/
def PortS.replaying (k : PortS) : Bool := k.st == .retraining || k.replayTo.isSome

/-- STATE of LNK_PORT_STATUS. -/
def PortSt.code : PortSt → Nat
  | .disabled => 0
  | .training => 1
  | .up => 2
  | .retraining => 3
  | .down => 4

/-- LNK_PORT_STATUS. -/
def PortS.status (k : PortS) : BitVec 64 :=
  word [(k.lanes.foldl (fun n l => n + 2 ^ l) 0, 32), (k.cause, 24), (k.lanes.length, 20), (b2n (k.lanes.contains 4), 17),
    (b2n k.replaying, 16), (k.st.code, 0)]

/-- LNK_PORT_PEER. -/
def PortS.peerWord (k : PortS) : BitVec 64 :=
  match k.peer with
  | none => 0
  | some q => word [(1, 63), (b2n q.endpoint, 62), (q.gen % 256, 48), (q.port % 16, 44), (q.id % 4096, 0)]

/-- LNK_STATUS. -/
def State.linkStatus (s : State) : BitVec 64 :=
  let ps := List.range 16
  word [((s.dev.link.flows.filter fun p => p.2.st != .closed).length, 32),
    (ps.foldl (fun n p => n + b2n ((s.port p).st == .up) * 2 ^ p) 0, 16),
    (ps.foldl (fun n p => n + b2n (s.port p).replaying * 2 ^ p) 0, 0)]

/-! ### Frames of a message -/

/-- PMASK of poisoned sectors. -/
def pmaskOf (bad : List Nat) : Nat := bad.foldl (fun n i => n ||| 2 ^ i) 0

/-- The frames of one message: 4,096 payload bytes each, the last one shorter and with END. -/
def messageFrames (proto : Frame) (data : List Byte) (bad : List Nat) : List Frame :=
  let n := max 1 ((data.length + 4095) / 4096)
  (List.range n).map fun i =>
    let d := (data.drop (4096 * i)).take 4096
    let d := d ++ List.replicate ((32 - d.length % 32) % 32) 0
    { proto with seq := (proto.seq + i) % 2 ^ 24, fidx := i, last := i + 1 == n, plen := d.length / 32, data := d,
                 pmask := pmaskOf ((bad.filter fun b => decide (128 * i ≤ b ∧ b < 128 * i + 128)).map (· - 128 * i)) }

/-! ### Drops and credit -/

/-- R211: a dropped frame of this module fails the firmware flow that sent it. -/
def State.failShipment (s : State) (f : Frame) : State :=
  if f.src = s.moduleId ∧ f.kind = 0 then
    s.modLink fun l => { l with flows := l.flows.map fun (p : Nat × Flow) =>
      if p.2.fw && p.2.st == .opened && p.2.peer == f.dst && p.2.pflow == f.flow then (p.1, { p.2 with st := .faulted }) else p }
  else s

/-- R207: a dropped frame is counted; the first one while VALID is 0 is recorded and raises FLOW_SEQ. -/
def State.drop (s : State) (cause : Nat) (f : Frame) (port : Nat) (ctx : Option Nat) : State :=
  let s := (s.failShipment f).bump .lnkCntDrop [] 1 none 7 0
  if s.field .lnkDrop [] 8 8 = 1 then s
  else
    (s.setReg .lnkDrop [] (word [(f.src, 52), (f.dst, 40), (f.flow, 26), (port, 22), (1, 8), (cause, 0)])).raise 0x0402
      { kind := 7, index := port, ctx := ctx, detail := BitVec.ofNat 64 f.flow }

/-- Put something on the wire of a port. -/
def State.emit (s : State) (p : Nat) (w : Wire) : State := s.modPort p fun k => { k with wire := k.wire ++ [w] }

/-- Return the units of a class to the partner (R196). -/
def State.lcredit (s : State) (inp : Option (Nat × Nat)) (units : Nat) : State :=
  match inp with
  | some (p, c) => if (s.port p).st = .up ∨ (s.port p).st = .retraining then s.emit p (.lcredit c units) else s
  | none => s

/-- Whether a landing holds its class on a port and its write has not been issued. -/
def Landing.held (p : Nat) (l : Landing) : Bool := !l.issued && (match l.inp with | some (q, _) => q == p | none => false)

/-- The port on which a landing's frame came; 0 for a frame of this module. -/
def Landing.port (l : Landing) : Nat := match l.inp with | some (q, _) => q | none => 0

/-- Accepted frames of flow `f` that wait to land are dropped, and ask for no tokens any more. -/
def State.dropWaiting (s : State) (f cause : Nat) (ls : List Landing) : State :=
  let w := s.flow f
  let s := s.modFlow f fun w => { w with landings := w.landings.filter fun x => !ls.contains x }
  let s := s.modMem fun m => { m with regQ := m.regQ.filter fun r => ls.all fun x => r.who != .flow f x.num }
  ls.foldl (fun s x => s.drop cause x.frame x.port w.owner) s

/-- The same, their credit going back to the partner. -/
def State.refuseWaiting (s : State) (f cause : Nat) : State :=
  let ls := (s.flow f).landings.filter fun l => !l.issued
  ls.foldl (fun s l => s.lcredit l.inp l.frame.units) (s.dropWaiting f cause ls)

/-- R208: the frames of flow `f` that wait to land in a port's input buffer are dropped; the flow expects them again, so that the loss
shows as a gap (assumption log 101). -/
def State.dropLandings (s : State) (p f : Nat) : State :=
  match (s.flow f).landings.filter (Landing.held p) with
  | [] => s
  | l :: ls => (s.modFlow f fun w => { w with seq := l.frame.seq, msg := l.frame.msg, fidx := l.frame.fidx }).dropWaiting f 2 (l :: ls)

/-- R208: drop every frame that a port holds in its replay and input buffers, and those that wait to leave on it. -/
def State.dropBuffers (s : State) (p : Nat) : State :=
  let mine (t : TxWait) : Bool := t.out == p || (match t.inp with | some (q, _) => q == p | none => false)
  let gone := s.dev.link.tx.filter mine
  let back := (s.port p).replay
  let s := (s.modLink fun l => { l with tx := l.tx.filter fun t => !mine t }).modPort p fun k =>
    { k with replay := [], replayTo := none, unacked := 0, discarding := false }
  let s := back.foldl (fun s f => s.drop 2 f.frame p f.ctx) s
  let s := gone.foldl (fun s t =>
    let s := s.drop 2 t.frame (match t.inp with | some (q, _) => q | none => 0) t.ctx
    match t.inp with
    | some (q, c) => if q = p then s else s.lcredit (some (q, c)) t.frame.units
    | none => s) s
  let s := s.dev.link.flows.foldl (fun s q => s.dropLandings p q.1) s
  let behind := s.dev.link.held.filter fun h => h.1 == p
  behind.foldl (fun s h => s.drop 2 h.2 p none) (s.modLink fun l => { l with held := l.held.filter fun h => h.1 != p })

/-- A port goes DOWN: its buffers are dropped and LINK_DOWN is raised (R208). -/
def State.linkDown (s : State) (p cause : Nat) : State :=
  ((s.modPort p fun k => { k with st := .down, cause := cause, lanes := [], fresh := true }).dropBuffers p).raise 0x0401
    { kind := 7, index := p, ctx := none }

/-! ### Training and sparing (R191 to R193) -/

/-- The lanes that a port may use. -/
def State.usable (s : State) (p : Nat) (good : List Nat) : List Nat :=
  (if s.field .lnkPortCtrl [p] 3 3 = 1 then [0, 1, 2, 3, 4] else [0, 1, 2, 3]).filter fun l => good.contains l

/-- The lanes of a port at training: the four lowest good ones, else two, else one. -/
def trainLanes (l : List Nat) : List Nat := l.take (if l.length ≥ 4 then 4 else if l.length ≥ 2 then 2 else 1)

/-- R192: 0 where the partner allows the port to come up, else the cause. -/
def State.identity (s : State) (q : Peer) : Nat :=
  if q.gen ≠ 2 then 2 else if q.id = s.moduleId ∧ q.id ≠ 0xFFF then 3 else 0

/-- FEAT_LINK follows the result of a training (R95, R191, R193): PORTS, and SPARE, which a training after start-up only clears. -/
def State.featTrained (s : State) (p : Nat) (up spare : Bool) : State :=
  let old := s.field .featLink [] (16 + p) (16 + p) == 1
  (s.setField .featLink [] p p (b2n up)).setField .featLink [] (16 + p) (16 + p)
    (b2n (up && spare && (old || s.field .hubState [] 2 0 != 4)))

/-- A training that does not bring the port up. -/
def State.trainFails (s : State) (p cause : Nat) : State := (s.featTrained p false false).linkDown p cause

/-- A port trains from the beginning: lane selection, identity exchange, UP. -/
def State.train (s : State) (p : Nat) (good : List Nat) (q : Peer) : State :=
  let lanes := trainLanes (s.usable p good)
  if lanes = [] then s.trainFails p 5
  else
    let s := s.modPort p fun k => { k with good := good, peer := some q }
    match s.identity q with
    | 0 =>
      let s := s.modPort p fun k =>
        { k with st := .up, cause := 0, lanes := lanes, fresh := false, credits := q.credits, lseq := 0, expect := 0,
                 split := (s.reg .lnkPortCred0 [p], s.reg .lnkPortCred1 [p]) }
      s.featTrained p true (lanes.contains 4)
    | c => s.trainFails p c

/-- The identity exchange is repeated on a port that is UP, the partner's id having changed (R192). -/
def State.exchange (s : State) (p : Nat) (q : Peer) : State :=
  let s := s.modPort p fun k => { k with peer := some q }
  match s.identity q with | 0 => s | c => s.linkDown p c

/-- PORT_TRAINING_COMPLETE: a training ends; on a port that is UP, the identity exchange alone is repeated (assumption log 102). -/
def State.trainingComplete (s : State) (p : Nat) (good : List Nat) (q : Peer) : State :=
  if s.field .lnkPortCtrl [p] 0 0 = 0 then s
  else match (s.port p).st with | .training => s.train p good q | .up => s.exchange p q | _ => s

/-- A retrain begins: `fresh` for a retrain of the host, which drops the port's frames (R208). -/
def State.startRetrain (s : State) (p : Nat) (fresh : Bool) : State :=
  let s := (s.modPort p fun k => { k with st := .retraining, fresh := fresh }).bump .lnkPortCntRetrain [p] 1 none 7 p
  if fresh then s.dropBuffers p else s

/-- R193 in service: the lanes after lane `l` has failed. -/
def spareLanes (usable lanes : List Nat) (l : Nat) : List Nat :=
  let rest := lanes.filter (· ≠ l)
  if usable.contains 4 ∧ ¬ lanes.contains 4 then rest ++ [4]
  else if lanes.length > 2 then (usable.filter (· ≠ l)).take 2
  else (usable.filter (· ≠ l)).take 1

/-- LANE_FAIL: a lane loses lock or exceeds 16,384 corrected symbols in 1 ms. -/
def State.laneFail (s : State) (p l : Nat) : State :=
  let k := s.port p
  if (k.st = .up ∨ k.st = .retraining) ∧ k.good.contains l then
    let s := s.modPort p fun k => { k with good := k.good.filter (· ≠ l) }
    if ¬ k.lanes.contains l then s
    else
      match spareLanes (s.usable p (s.port p).good) k.lanes l with
      | [] => s.linkDown p 5
      | ls => ((s.modPort p fun k => { k with lanes := ls }).startRetrain p k.fresh).raise 0x0405
          { kind := 7, index := p, ctx := none }
  else s

/-- PORT_RETRAIN: a retrain ends: of the host, as training does; in service, with the lanes chosen, those that do not lock having
failed in their turn (R193). The identities are exchanged again, so that an id changed meanwhile is noticed (R192). -/
def State.retrained (s : State) (p : Nat) (good : List Nat) (q : Peer) : State :=
  let k := s.port p
  if k.st ≠ .retraining then s
  else if k.fresh then s.train p good q
  else
    let s := (k.good.filter fun l => !good.contains l).foldl (fun s l => s.laneFail p l) s
    if k.lanes.all good.contains then (s.modPort p fun k => { k with st := .up }).exchange p q else s

/-- The exchange is repeated when ROUTE_SET changes this module's id: a duplicate takes the port DOWN (R192). -/
def State.recheckPeers (s : State) : State :=
  (List.range 16).foldl (fun s p =>
    match (s.port p).st, (s.port p).peer with
    | .up, some q => match s.identity q with | 0 => s | c => s.linkDown p c
    | _, _ => s) s

/-- LINK_DOWN: a port loses every lane (CAUSE 5), or does not complete a training after start-up (CAUSE 1). -/
def State.linkLost (s : State) (p : Nat) : State :=
  match (s.port p).st with
  | .up | .retraining => s.linkDown p 5
  | .training => if s.field .hubState [] 2 0 = 4 then s.trainFails p 1 else s
  | _ => s

/-! ### Routing (R198 to R200) -/

/-- Where a frame goes: a port, or the cause of its drop. -/
def State.route (s : State) (f : Frame) (forward : Bool) : Except Nat Nat :=
  let e := (AMap.get s.dev.link.fwd 0 f.dst).toNat
  if ¬ bit e 31 then .error 0
  else if forward ∧ f.ttl = 0 then .error 1
  else
    let a := bits e 30 27
    let b := bits e 26 23
    let x := if ¬ bit e 22 ∨ (f.src + f.flow) % 2 = 0 then a else b
    let y := if bit e 22 then (if x = a then b else a) else x
    let z := if (s.port x).st = .down then y else x
    if (s.port z).dead then .error 2 else .ok z

/-- R199: ESC of a frame that leaves on a port. -/
def State.escOut (s : State) (inp : Option Nat) (out : Nat) (esc : Bool) : Bool :=
  if s.portWrap out then true
  else
    match inp with
    | none => false
    | some p => if s.portDim p = s.portDim out then esc else false

/-- Queue a frame for a port. -/
def State.enqueue (s : State) (inp : Option (Nat × Nat)) (out : Nat) (f : Frame) (who : Option Waiter) (ctx : Option Nat) : State :=
  let f := { f with esc := s.escOut (inp.map (·.1)) out f.esc }
  s.modLink fun l => { l with tx := l.tx ++ [⟨out, inp, f.cls, f, who, ctx⟩] }

/-! ### Receiving (R204 to R209) -/

/-- Why a landing write is not performed: the code, the MEM_FAULT cause and the address (R148, R170, R209). -/
def State.landRefused (s : State) (w : Flow) (a n : Nat) : Option (Nat × Nat × Nat) :=
  match s.reach w.ctx a n with
  | some (x, c) => some (0x0104, c, x)
  | none => (s.roRefuses a n).map fun x => (0x0306, 4, x)

/-- R209: a landing write that is refused: MEM_FAULT, the code, the flow FAULTED and the frame dropped with cause 6, and with it those
of the flow that wait to land. -/
def State.landFault (s : State) (port : Nat) (inp : Option (Nat × Nat)) (f : Frame) (r : Nat × Nat × Nat) : State :=
  let w := s.flow f.flow
  let s := (s.memFault r.1 2 w.ctx 0 r.2.1 r.2.2).raise r.1
    { kind := 7, index := port, ctx := w.owner, detail := BitVec.ofNat 64 f.flow }
  (((s.modFlow f.flow fun w => { w with st := .faulted }).drop 6 f port w.owner).lcredit inp f.units).refuseWaiting f.flow 6

/-- Write the landing writes of a flow that may be performed, their reach as it now is: the credit goes back once a write has been
performed, and a frame with END counts its message as delivered (R204). -/
def State.landFlow : Nat → State → Nat → State
  | 0, s, _ => s
  | n + 1, s, f =>
    let w := s.flow f
    match w.landings with
    | [] => s
    | l :: rest =>
      let who : Waiter := .flow f l.num
      if ¬ l.issued then
        if s.waits who then s
        else
          let a := w.base + l.frame.msg % w.slots * w.slotSize + 4096 * l.frame.fidx
          match s.landRefused w a l.frame.data.length with
          | some r =>
            State.landFlow n ((s.modFlow f fun w => { w with landings := rest }).landFault l.port l.inp l.frame r) f
          | none =>
            let s := s.modFlow f fun w => { w with landings := { l with issued := true } :: rest }
            State.landFlow n (s.farWrite a l.frame.data l.frame.badSectors who) f
      else if s.waits who then s
      else
        let s := (s.modFlow f fun w =>
          let msgs := if l.frame.last then (w.msgs + 1) % 2 ^ 32 else w.msgs
          { w with landings := rest, msgs := msgs, released := if w.rel then w.released else msgs }).lcredit l.inp l.frame.units
        State.landFlow n s f

/-- Run the landing writes of a flow. -/
def State.landFlowAll (s : State) (f : Nat) : State := State.landFlow (2 * (s.flow f).landings.length + 1) s f

/-- Run the landing writes of every flow. -/
def State.landFlows (s : State) : State := s.dev.link.flows.foldl (fun s p => s.landFlowAll p.1) s

/-- Poison `[a, a + n)` of a landing area where the context reaches it. -/
def State.poisonArea (s : State) (c a n : Nat) : State :=
  let secs := (List.range ((n + 31) / 32)).map (a / 32 + ·)
  { s with bad := (secs.filter fun x => (s.reachGran none c (x * 32)).isNone).foldl insertNat s.bad }

/-- R205: the landing area that missing frames would have filled, up to the arriving frame. -/
def State.poisonGap (s : State) (w : Flow) (f : Frame) : State :=
  let slot (m : Nat) : Nat := w.base + m % w.slots * w.slotSize
  if f.msg = w.msg then s.poisonArea w.ctx (slot w.msg + 4096 * w.fidx) (min (4096 * f.fidx) w.slotSize - 4096 * w.fidx)
  else
    let s := s.poisonArea w.ctx (slot w.msg + 4096 * w.fidx) (w.slotSize - 4096 * w.fidx)
    let whole := min ((f.msg + 65536 - w.msg) % 65536 - 1) w.slots
    let s := (List.range whole).foldl (fun s i => s.poisonArea w.ctx (slot (w.msg + 1 + i)) w.slotSize) s
    s.poisonArea w.ctx (slot f.msg) (min (4096 * f.fidx) w.slotSize)

/-- LNK_DROP for a gap, and FLOW_SEQ, which every gap raises (R205, R207). -/
def State.gapEvent (s : State) (f : Frame) (port n : Nat) (ctx : Option Nat) : State :=
  ((s.bump .lnkCntGap [] n none 7 0).recordFault .lnkDrop [] 8
    (word [(f.src, 52), (f.dst, 40), (f.flow, 26), (port, 22), (7, 0)])).raise 0x0402
      { kind := 7, index := port, ctx := ctx, detail := BitVec.ofNat 64 f.flow }

/-- A gap on an RX flow: `n` missing frames before frame `f`. -/
def State.flowGap (s : State) (f : Frame) (port n : Nat) : State :=
  let w := s.flow f.flow
  let s := (s.gapEvent f port n w.owner).poisonGap w f
  s.modFlow f.flow fun w =>
    let msgs := (w.msgs + (f.msg + 65536 - w.msg) % 65536) % 2 ^ 32
    { w with gaps := (w.gaps + n) % 2 ^ 32, msgs := msgs, released := if w.rel then w.released else msgs }

/-- Place a frame of an RX flow (R204), or fault the flow (R209); behind frames that wait to land, the reach is looked up at its own
write. -/
def State.place (s : State) (port : Nat) (inp : Option (Nat × Nat)) (f : Frame) : State :=
  let w := s.flow f.flow
  let a := w.base + f.msg % w.slots * w.slotSize + 4096 * f.fidx
  let n := min f.data.length (w.slotSize - 4096 * f.fidx)
  match if w.landings = [] then s.landRefused w a n else none with
  | some r => s.landFault port inp f r
  | none =>
    let s := if n < f.data.length then s.drop 5 f port w.owner else s
    let num := w.landed
    let s := s.modFlow f.flow fun w =>
      { w with seq := (f.seq + 1) % 2 ^ 24, msg := if f.last then (f.msg + 1) % 65536 else f.msg,
               fidx := if f.last then 0 else (f.fidx + 1) % 2 ^ 20, landed := num + 1,
               landings := w.landings ++ [⟨num, inp, { f with data := f.data.take n }, false⟩] }
    let s := ((s.bump .lnkCntRxf [] 1 none 7 0).touch a n).regulate w.ctx a n (.flow f.flow num) fun _ _ => .pass
    s.landFlowAll f.flow

/-- Deliver a DATA or CREDIT frame to its flow (*Outcome of a frame arriving for this module*). -/
def State.deliver (s : State) (port : Nat) (inp : Option (Nat × Nat)) (f : Frame) : State :=
  let w := s.flow f.flow
  let gone (s : State) (cause : Nat) (ctx : Option Nat) : State := (s.drop cause f port ctx).lcredit inp f.units
  if w.st = .faulted then gone s 6 w.owner
  else if w.st ≠ .opened ∨ f.src ≠ w.peer then gone s 3 (if w.st = .closed then none else w.owner)
  else if f.kind = 3 ∧ w.kind = 0 then
    ((s.modFlow f.flow fun w => { w with credit := w.slots - (w.msgs + 65536 - f.msg) % 65536 }).bump
      .lnkCntRxf [] 1 none 7 0).lcredit inp f.units
  else if f.kind = 0 ∧ w.kind = 1 then
    let d := (f.seq + 2 ^ 24 - w.seq) % 2 ^ 24
    if d = 0 then s.place port inp f
    else if d < 2 ^ 23 then (s.flowGap f port d).place port inp f
    else gone (s.modFlow f.flow fun w => { w with stale := (w.stale + 1) % 2 ^ 32 }) 4 w.owner
  else gone s 3 w.owner

/-! ### Originating (R198, R203, R206) -/

/-- Originate a frame. -/
def State.originate (s : State) (f : Frame) (ctx : Option Nat) (who : Option Waiter) : State :=
  let s := s.bump .lnkCntTxf [] 1 none 7 0
  let f := { f with ttl := s.field .lnkCfg [] 21 16, src := s.moduleId }
  if f.dst = s.moduleId ∧ f.dst ≠ 0xFFF then s.deliver 0 none f
  else
    match s.route f false with
    | .error c => s.drop c f 0 ctx
    | .ok p => s.enqueue none p f who ctx

/-- Originate frames in order. -/
def State.originateAll (s : State) (fs : List Frame) (ctx : Option Nat) (who : Option Waiter) : State :=
  fs.foldl (fun s f => s.originate f ctx who) s

/-- Send one message of a TX flow: it takes one credit, the next MSG and the next SEQs (R203). -/
def State.sendMessage (s : State) (f : Nat) (data : List Byte) (bad : List Nat) (who : Option Waiter) : State :=
  let w := s.flow f
  let proto : Frame :=
    { dst := w.peer, src := 0, flow := w.pflow, seq := w.seq, vc := w.vc, kind := 0, last := false, plen := 0, fidx := 0,
      msg := w.msg, ttl := 0, data := [] }
  let fs := messageFrames proto data bad
  (s.modFlow f fun w =>
    { w with seq := (w.seq + fs.length) % 2 ^ 24, msg := (w.msg + 1) % 65536, msgs := (w.msgs + 1) % 2 ^ 32,
             credit := w.credit - 1 }).originateAll fs w.owner who

/-- Whether a waiting run may go on its flow: an OPEN one of the context that it comes from (R174). -/
def State.maySend (s : State) (r : SendRun) : Bool :=
  (s.flow r.flow).st == .opened && (match r.who with | .stream k _ _ => s.clusterCtx k == (s.flow r.flow).owner | _ => true)

/-- Send the runs of a flow that wait, oldest first, while it has credit (R203). -/
def State.pumpSends : Nat → State → Nat → State
  | 0, s, _ => s
  | n + 1, s, f =>
    match s.dev.link.sends.find? fun r => r.flow == f && s.maySend r with
    | none => s
    | some r =>
      if (s.flow f).credit = 0 then s
      else
        let s := s.modLink fun l => { l with sends := dropFirst (· == r) l.sends }
        let bad := (s.badIn r.addr r.len).map (· - r.addr / 32)
        let s := match r.who with | .stream k _ _ => s.countPoison k bad.length | _ => s
        State.pumpSends n (s.sendMessage f (s.bytes r.addr r.len) bad (some r.who)) f

/-- Send what a flow's credit allows. -/
def State.pump (s : State) (f : Nat) : State := State.pumpSends s.dev.link.sends.length s f

/-- Whether a stream entry still has runs to send, or frames that no replay buffer has accepted (R179). -/
def State.sending (s : State) (w : Waiter) : Bool :=
  (s.dev.link.sends.any fun r => r.who == w) || s.dev.link.tx.any fun t => t.who == some w

/-- CREDIT_FRAME_SEND: after a rise in RELEASED the peer gets a CREDIT frame that carries it (R206). -/
def State.creditFrame (s : State) (f : Nat) : State :=
  let w := s.flow f
  if w.st = .opened ∧ w.kind = 1 ∧ w.released ≠ w.told ∧ ¬ s.regionStopped 16 then
    let s := s.modFlow f fun w => { w with told := w.released }
    let s := s.originate { dst := w.peer, src := 0, flow := w.pflow, seq := 0, vc := 3, kind := 3, last := true, plen := 0,
                           fidx := 0, msg := w.released % 65536, ttl := 0, data := [] } w.owner none
    s.pump w.pflow
  else s

/-! ### The link layer (R195 to R197) -/

/-- Whether a frame heads its class: at its input port, or among the frames originated here for its port. -/
def headOf (tx : List TxWait) (p cls inp : Nat) : Option TxWait :=
  if inp < 16 then
    ((List.range 8).filterMap fun k => tx.find? fun t => t.inp == some (inp, k)).find? fun t => t.out == p && t.cls == cls
  else tx.find? fun t => t.inp.isNone && t.out == p && t.cls == cls

/-- The heads of a class that may leave on a port, in round-robin order after the one served last. -/
def State.heads (s : State) (p cls : Nat) : List (Nat × TxWait) :=
  let start := AMap.get (s.port p).lastIn 16 cls
  (List.range 17).filterMap fun i =>
    let inp := (start + 1 + i) % 17
    (headOf s.dev.link.tx p cls inp).map fun t => (inp, t)

/-- Bytes in the replay buffer. -/
def PortS.replayBytes (k : PortS) : Nat := k.replay.foldl (fun n f => n + f.frame.bytes) 0

/-- Whether the partner's class has credit for the whole frame. -/
def PortS.credited (k : PortS) (t : TxWait) : Bool := decide (t.frame.units ≤ k.credits.getD t.cls 0)

/-- Whether the replay buffer, 256 KiB, has room for a frame. -/
def PortS.room (k : PortS) (t : TxWait) : Bool := decide (k.replayBytes + t.frame.bytes ≤ 262144)

/-- The next frame of a class. -/
def State.classNext (s : State) (p cls : Nat) : Option (Nat × TxWait) :=
  (s.heads p cls).find? fun t => (s.port p).credited t.2 && (s.port p).room t.2

/-- The next frame of a VC: the escape class first. -/
def State.vcNext (s : State) (p vc : Nat) : Option (Nat × TxWait) := (s.classNext p (4 + vc)).or (s.classNext p vc)

/-- The weight of a VC in LNK_PORT_ARB; 0 acts as 1. -/
def State.weight (s : State) (p vc : Nat) : Nat := max 1 (s.field .lnkPortArb [p] (4 * vc + 3) (4 * vc))

/-- Deficit round robin over VC0 to VC2 with a quantum of 4 KiB times the weight. -/
def State.drr (s : State) (p : Nat) : Nat → Nat → List Nat → Option ((Nat × TxWait) × Nat × List Nat)
  | 0, _, _ => none
  | n + 1, vc, d =>
    let nx := (vc + 1) % 3
    let add (d : List Nat) : List Nat := d.set nx (d.getD nx 0 + 4096 * s.weight p nx)
    match s.vcNext p vc with
    | none => State.drr s p n nx (add (d.set vc 0))
    | some t =>
      if d.getD vc 0 ≥ t.2.frame.bytes then some (t, vc, d.set vc (d.getD vc 0 - t.2.frame.bytes))
      else State.drr s p n nx (add d)

/-- R197: the frame that a port sends next, with the arbiter after it. -/
def State.pick (s : State) (p : Nat) : Option ((Nat × TxWait) × Nat × List Nat) :=
  let k := s.port p
  match s.vcNext p 3 with
  | some t => some (t, k.vc, k.deficit)
  | none => s.drr p 12 k.vc k.deficit

/-- FRAME_SEND: the frame leaves, takes the next LSEQ and credit, and enters the replay buffer; the units it used in its
input buffer go back. -/
def State.frameSend (s : State) (p : Nat) : State :=
  if (s.port p).st ≠ .up ∨ s.regionStopped 16 then s
  else
    match s.pick p with
    | none => s
    | some ((inp, t), vc, d) =>
      let f := if t.inp.isSome then { t.frame with ttl := t.frame.ttl - 1 } else t.frame
      let s := s.modLink fun l => { l with tx := dropFirst (fun x => x == t) l.tx }
      let s := s.modPort p fun k =>
        { k with vc := vc, deficit := d, lastIn := AMap.set k.lastIn t.cls inp,
                 credits := k.credits.set t.cls (k.credits.getD t.cls 0 - f.units), lseq := (k.lseq + 1) % 65536,
                 replay := k.replay ++ [⟨k.lseq, f, t.ctx, 0⟩], wire := k.wire ++ [.frame f k.lseq (f.crc k.lseq)] }
      let s := s.bump .lnkPortCntTx [p] 1 none 7 p
      if t.inp.isSome then (s.bump .lnkCntFwd [] 1 none 7 0).lcredit t.inp f.units else s

/-- `(a − b) mod 2 ^ 16`. -/
def seq16 (a b : Nat) : Nat := (a + 65536 - b % 65536) % 65536

/-- LINK_ACK: frames up to the LSEQ leave the replay buffer. -/
def State.linkAck (s : State) (p lseq : Nat) : State :=
  s.modPort p fun k =>
    let rest := k.replay.filter fun f => decide (seq16 lseq f.lseq ≥ 32768)
    { k with replay := rest
             replayTo := match k.replayTo with
               | some x => if rest.any fun f => f.lseq == x then some x else none
               | none => none }

/-- The eighth resend of one LSEQ retrains the port; three such retrains in 10 ms take it DOWN (R195). -/
def State.replayLimit (s : State) (p : Nat) : State :=
  let now := s.dev.tick
  let ts := (s.port p).limitTicks.filter (fun t => decide (now < t + 1000000)) ++ [now]
  let s := s.modPort p fun k => { k with replay := k.replay.map fun f => { f with tries := 0 }, limitTicks := ts }
  if ts.length ≥ 3 then (s.modPort p fun k => { k with limitTicks := [] }).linkDown p 4 else s.startRetrain p false

/-- Resend every outstanding frame from an LSEQ onward, in order; an LSEQ resent 8 times in a row retrains the port (R195). -/
def State.resend (s : State) (p lseq : Nat) : State :=
  let k := s.port p
  let from_ (f : Sent) : Bool := decide (seq16 f.lseq lseq < 32768)
  let again := k.replay.filter from_
  if k.st ≠ .up ∨ again = [] then s
  else
    let s := (s.modPort p fun k =>
      { k with wire := k.wire ++ again.map fun f => .frame f.frame f.lseq (f.frame.crc f.lseq)
               replay := k.replay.map fun f => { f with tries := if from_ f then f.tries + 1 else 0 }
               replayTo := (again.getLast?).map (·.lseq) }).bump .lnkPortCntReplay [p] again.length none 7 p
    if again.any fun f => decide (7 ≤ f.tries) then s.replayLimit p else s

/-- REPLAY_TIMEOUT: no ACK for 20 µs with frames outstanding. -/
def State.replayTimeout (s : State) (p : Nat) : State :=
  match (s.port p).replay with
  | [] => s
  | f :: _ => s.resend p f.lseq

/-- ACK_SEND. -/
def State.ackSend (s : State) (p : Nat) : State :=
  if (s.port p).st = .up ∧ (s.port p).unacked > 0 ∧ ¬ s.regionStopped 16 then
    (s.modPort p fun k => { k with unacked := 0 }).emit p (.ack (seq16 (s.port p).expect 1))
  else s

/-- LCREDIT. -/
def State.creditBack (s : State) (p cls units : Nat) : State :=
  s.modPort p fun k => { k with credits := k.credits.set cls (k.credits.getD cls 0 + units) }

/-- One tick of a port: it is counted as stopped by credit, or by a full replay buffer (R195, R196). -/
def State.portTick (s : State) (p : Nat) : State :=
  let k := s.port p
  if k.st ≠ .up then s
  else
    let hs := ((List.range 8).map fun c => (s.heads p c).map (·.2)).flatten
    (s.bump .lnkPortCntCstall [p] (b2n (hs.any fun t => !k.credited t)) none 7 p).bump .lnkPortCntRstall [p]
      (b2n (hs.any fun t => !k.room t)) none 7 p

/-- One tick of the link engine, while its region's clock runs. -/
def State.linkTick (s : State) : State := s.clockedBy 16 fun s => (List.range 16).foldl State.portTick s

/-! ### Flow contexts -/

/-- STATE of a flow context. -/
def FlowSt.code : FlowSt → Nat
  | .closed => 0
  | .opened => 1
  | .closing => 2
  | .faulted => 3

/-- A word of a flow context. -/
def Flow.word (w : Flow) : Nat → BitVec 64
  | 0 => Machine.word [(w.st.code, 61), (w.kind, 59), (w.ctx, 56), (b2n w.fw, 55), (w.vc, 53), (b2n w.rel, 52), (w.peer, 36),
      (w.pflow, 22)]
  | 1 => Machine.word [(w.seq, 40), (w.msg, 24), (w.fidx, 4)]
  | 2 => Machine.word [(w.msgs, 32), (if w.kind = 0 then w.credit else w.released, 0)]
  | 3 => BitVec.ofNat 64 w.base
  | 4 => Machine.word [(w.slotSize, 32), (w.slots, 16)]
  | 5 => BitVec.ofNat 64 w.relword
  | 6 => Machine.word [(w.gaps, 32), (w.stale, 0)]
  | _ => 0

/-- R206: the link engine sees an atomic on a release word. -/
def State.seeRelease (s : State) (a : Nat) : State :=
  s.modLink fun l =>
    { l with flows := l.flows.map fun p =>
        if p.2.st == .opened && p.2.kind == 1 && p.2.rel && p.2.relword == a then
          (p.1, { p.2 with released := leNat (s.bytes a 4) })
        else p }

/-- Whether a TX flow has handed over every run that has begun to send (R203, R210): a run that waits for CREDIT has not, and a flow
that is CLOSING takes no CREDIT frame. -/
def State.flowDrained (s : State) (f : Nat) : Bool :=
  let w := s.flow f
  !(s.dev.link.tx.any fun t => t.inp.isNone && t.frame.kind == 0 && t.frame.dst == w.peer && t.frame.flow == w.pflow)

/-- Close an RX or a drained TX flow: frames that still wait to land are dropped with cause 3 (R210), and all give their credit back. -/
def State.endFlow (s : State) (f : Nat) : State :=
  let s := s.refuseWaiting f 3
  let s := (s.flow f).landings.foldl (fun s l => s.lcredit l.inp l.frame.units) s
  s.modFlow f fun w => { w with st := .closed, landings := [], red := none }

/-! ### Writes of the port registers (R208, R212) -/

/-- The eight class sizes of a split. -/
def splitClasses (a b : BitVec 64) : List Nat :=
  ((List.range 4).map fun i => wbits a (16 * i + 15) (16 * i)) ++ (List.range 4).map fun i => wbits b (16 * i + 15) (16 * i)

/-- CREDIT_SPLIT_WRITE: LNK_PORT_CRED0 (`hi` false) or LNK_PORT_CRED1. -/
def State.creditSplit (s : State) (p : Nat) (hi : Bool) (v : BitVec 64) : State :=
  let a := if hi then s.reg .lnkPortCred0 [p] else v
  let b := if hi then v else s.reg .lnkPortCred1 [p]
  let cs := splitClasses a b
  if s.field .lnkPortCtrl [p] 0 0 = 0 ∧ cs.all (fun n => decide (129 ≤ n)) ∧ cs.foldl (· + ·) 0 ≤ 12288 then
    if hi then s.setReg .lnkPortCred1 [p] v else s.setReg .lnkPortCred0 [p] v
  else s.setField .lnkPortCtrl [p] 4 4 1

/-- RETRAIN: the host retrains an enabled port. -/
def State.hostRetrain (s : State) (p : Nat) : State :=
  if s.field .lnkPortCtrl [p] 0 0 = 1 then s.startRetrain p true else s

/-- PORT_ENABLE_WRITE. -/
def State.portEnable (s : State) (p : Nat) (on : Bool) : State :=
  let was := s.field .lnkPortCtrl [p] 0 0
  let s := s.setField .lnkPortCtrl [p] 0 0 (b2n on)
  if on ∧ was = 0 then s.modPort p fun k => { k with st := .training, cause := 0, fresh := true, lanes := [], peer := none }
  else if ¬ on ∧ was = 1 then
    (s.modPort p fun k => { k with st := .disabled, cause := 6, fresh := true, lanes := [] }).dropBuffers p
  else s

/-! ### Rows -/

/-- PORT_TRAINING_COMPLETE (R191, R192). -/
def execPortTrainingComplete (p : PortId) (good : BitVec 5) (q : Peer) (s : State) : Host.Outcome State Fault Refusal :=
  .next (s.clockedBy 16 fun s => s.trainingComplete p ((List.range 5).filter fun l => bit good.toNat l) q)

/-- LANE_FAIL (R193). -/
def execLaneFail (p : PortId) (l : Fin 5) (s : State) : Host.Outcome State Fault Refusal := .next (s.laneFail p l)

/-- PORT_RETRAIN (R193, R208). -/
def execPortRetrain (p : PortId) (good : BitVec 5) (q : Peer) (s : State) : Host.Outcome State Fault Refusal :=
  .next (s.clockedBy 16 fun s => s.retrained p ((List.range 5).filter fun l => bit good.toNat l) q)

/-- FRAME_SEND (R197). -/
def execFrameSend (p : PortId) (s : State) : Host.Outcome State Fault Refusal := .next (s.frameSend p)

/-- LINK_ACK (R195). -/
def execLinkAck (p : PortId) (lseq : BitVec 16) (s : State) : Host.Outcome State Fault Refusal :=
  .next (s.powered fun s => s.clockedBy 16 fun s => s.linkAck p lseq.toNat)

/-- LINK_NAK (R195). -/
def execLinkNak (p : PortId) (lseq : BitVec 16) (s : State) : Host.Outcome State Fault Refusal := .next (s.clockedBy 16 fun s => s.resend p lseq.toNat)

/-- ACK_SEND (R195). -/
def execAckSend (p : PortId) (s : State) : Host.Outcome State Fault Refusal := .next (s.ackSend p)

/-- REPLAY_TIMEOUT (R195). -/
def execReplayTimeout (p : PortId) (s : State) : Host.Outcome State Fault Refusal := .next (s.clockedBy 16 fun s => s.replayTimeout p)

/-- LCREDIT (R196). -/
def execLcredit (p : PortId) (cls : Fin 8) (units : Nat) (s : State) : Host.Outcome State Fault Refusal :=
  .next (s.powered fun s => s.clockedBy 16 fun s => s.creditBack p cls units)

/-- LINK_DOWN (R208). -/
def execLinkDown (p : PortId) (s : State) : Host.Outcome State Fault Refusal := .next (s.linkLost p)

/-- CREDIT_SPLIT_WRITE (R212). -/
def execCreditSplitWrite (p : PortId) (hi : Bool) (v : Word) (s : State) : Host.Outcome State Fault Refusal :=
  .next (s.hosted fun s => s.creditSplit p hi v)

/-- RETRAIN (R208). -/
def execRetrain (p : PortId) (s : State) : Host.Outcome State Fault Refusal :=
  .next (s.hosted fun s => s.hostRetrain p)

/-- PORT_ENABLE_WRITE (R212). -/
def execPortEnableWrite (p : PortId) (on : Bool) (s : State) : Host.Outcome State Fault Refusal :=
  .next (s.hosted fun s => s.portEnable p on)

end Sys2Proof.Machine
end

