-- ==== Sys2Proof/Machine/Reduction.lean ====
section
/-!
DEFINITION. Exact gradient reduction (R213 to R226): wire codes and their scales, slabs, chunks, rounds, norm words,
ALLGATHER and BROADCAST, and the arrival of a frame at a port (R194, R195, R198).
-/
namespace Sys2Proof.Machine

/-! ### The group -/

/-- Chunks of the extent. -/
def RedRec.chunks (r : RedRec) : Nat := (r.count + 32767) / 32768

/-- Elements of a chunk. -/
def RedRec.chunkLen (r : RedRec) (j : Nat) : Nat := min 32768 (r.count - 32768 * j)

/-- The parent of a rank. -/
def RedRec.parent (r : RedRec) (k : Nat) : Nat := r.parents.getD k 0xFFFF

/-- The children of a rank. -/
def RedRec.children (r : RedRec) (k : Nat) : List Nat := (List.range r.g).filter fun q => r.parent q == k

/-- Ranks in the subtree of a rank, by following every rank's parents. -/
def RedRec.under (r : RedRec) (k : Nat) : Nat → Nat → Bool
  | 0, q => q == k
  | n + 1, q => q == k || (r.parent q != 0xFFFF && RedRec.under r k n (r.parent q))

/-- Contributions that a rank's message for chunk `j` carries. -/
def RedRec.share (r : RedRec) (j k : Nat) : Nat :=
  if r.tree then ((List.range r.g).filter (r.under k r.g)).length
  else (k + 2 * r.g - (j % r.g + 1) % r.g) % r.g + 1

/-- Whether a rank completes chunk `j`: its owner, or the root. -/
def RedRec.completes (r : RedRec) (j k : Nat) : Bool := if r.tree then r.parent k == 0xFFFF else j % r.g == k

/-- Where a rank sends its part of chunk `j`. -/
def RedRec.up (r : RedRec) (k : Nat) : Nat := if r.tree then r.parent k else (k + 1) % r.g

/-- Where a rank sends the result of chunk `j`. -/
def RedRec.down (r : RedRec) (j k : Nat) : List Nat :=
  if r.tree then r.children k
  else
    let n := (k + 1) % r.g
    if n = j % r.g then [] else [n]

/-- The neighbours of this member. -/
def RedRec.neighbours (r : RedRec) : List Nat :=
  if r.tree then (if r.parent r.rank = 0xFFFF then [] else [r.parent r.rank]) ++ r.children r.rank
  else [(r.rank + r.g - 1) % r.g, (r.rank + 1) % r.g]

/-- Bytes of a code at wire and sum width. -/
def RedRec.wire (r : RedRec) : Nat := if r.int16 then 2 else 1
def RedRec.sumw (r : RedRec) : Nat := 2 * r.wire

/-- QMAX. -/
def RedRec.qmax (r : RedRec) : Nat := if r.int16 then 32767 else 127

/-- The scale entry of an element. -/
def RedRec.entry (r : RedRec) (i : Nat) : Nat := if r.int16 then 0 else i / 32

/-- Entries of the scale table. -/
def RedRec.scaleEntries (r : RedRec) : Nat := if r.coll > 1 then 0 else if r.int16 then 1 else (r.count + 31) / 32

/-- The step of round `n`. -/
def RedRec.step (r : RedRec) (n : Nat) : BitVec 64 := BitVec.ofNat 64 (r.step0 + n)

/-- Messages of one rank's LEN bytes (COLL 2 and 3). -/
def RedRec.pieces (r : RedRec) : Nat := (r.count + 131071) / 131072

/-- Results, notices or messages of a round. -/
def RedRec.total (r : RedRec) : Nat := if r.coll ≤ 1 then r.chunks else if r.coll = 2 then r.g * r.pieces else r.pieces

/-- Bytes of message `m` of COLL 2 and 3. -/
def RedRec.pieceLen (r : RedRec) (m : Nat) : Nat := min 131072 (r.count - 131072 * (m % r.pieces))

/-- MSG of message `m` of COLL 2 and 3. In ALLGATHER it names the origin in its low 12 bits and the message of that origin, modulo 16,
above: the spec numbers chunks only (DESIGN CHOICE, assumption log 58). -/
def RedRec.pieceMsg (r : RedRec) (m : Nat) : Nat := if r.coll = 2 then m / r.pieces + 4096 * (m % r.pieces % 16) else m % 65536

/-- Where message `m` of COLL 2 and 3 lands. -/
def RedRec.pieceAt (r : RedRec) (m : Nat) : Nat := r.res + m / r.pieces * r.count + 131072 * (m % r.pieces)

/-! ### Scales (R219) -/

/-- The smallest BF16 code not below a magnitude. -/
def bf16Up : Val → Nat
  | .fin _ m e =>
    if m = 0 then 0
    else
      let g := bf16.grid.at m e
      if g ≤ e then bf16.encode false (m * pow2 (e - g)) g
      else
        let d := pow2 (g - e)
        bf16.encode false ((m + d - 1) / d) g
  | _ => 0x7F80

/-- The unit exponent of a scale entry. -/
def State.unitX (s : State) (r : RedRec) (e : Nat) : Int := sint 8 (leNat (s.bytes (r.scale + 4 * e + 3) 1))

/-- Whether `2 ^ HEADROOM × M ≤ QMAX × 2 ^ X`. -/
def unitFits (headroom qmax : Nat) (m : Val) (x : Int) : Bool :=
  match m with
  | .fin _ n e =>
    let k := e + headroom - x
    decide (n * pow2 k ≤ qmax * pow2 (-k))
  | _ => false

/-- X′: the smallest exponent that fits, clamped to −128 to 127. -/
def nextX (headroom qmax : Nat) (m : Val) : Int :=
  match (List.range 256).find? fun (i : Nat) => unitFits headroom qmax m ((i : Int) - 128) with
  | some i => (i : Int) - 128
  | none => 127

/-- R219: one scale entry after a round with the agreed amax `a`. -/
def scaleStep (r : RedRec) (entry a : Nat) : Nat :=
  let m := max a (bf16Up ((bf16.decode (entry % 65536)).shift (-(r.decay : Int))))
  if m = 0 then entry / 2 ^ 24 * 2 ^ 24
  else sintCode 8 (nextX r.headroom r.qmax (bf16.decode m)) * 2 ^ 24 + m

/-! ### Slabs (R160, R217) -/

/-- ACC48 of R160 on a slab word: a code's value, or the poison mark. -/
def acc48 (w : Nat) (v : Option Int) : Nat :=
  match v with
  | none => w % 2 ^ 63 + 2 ^ 63
  | some x => w / 2 ^ 48 * 2 ^ 48 + sintCode 48 (sint 48 w + x)

/-- A code of `n` bytes: none for the poison code. -/
def codeVal (n c : Nat) : Option Int := if c % 2 ^ (8 * n) = 2 ^ (8 * n - 1) then none else some (sint (8 * n) c)

/-- Split bytes into little-endian codes of `n` bytes. -/
def codesOf (n : Nat) : Nat → List Byte → List Nat
  | 0, _ => []
  | k + 1, d => leNat (d.take n) :: codesOf n k (d.drop n)

/-- Bytes of a slab slot. -/
def slabBytes : Nat := 264192

/-- The address of the slab slot of a chunk. -/
def RedRec.slot (r : RedRec) (j : Nat) : Nat := r.slab + slabBytes * (j % r.slots)

/-- The slab words of a chunk. -/
def State.slabWords (s : State) (r : RedRec) (j : Nat) : List Nat :=
  codesOf 8 (r.chunkLen j) (s.bytes (r.slot j) (8 * r.chunkLen j))

/-- Amax words of a chunk: one for each block, or one for the chunk. -/
def RedRec.amaxWords (r : RedRec) (j : Nat) : Nat := if r.int16 then 1 else (r.chunkLen j + 31) / 32

/-- The amax words that a chunk's slot holds. -/
def State.slabAmax (s : State) (r : RedRec) (j : Nat) : List Nat :=
  codesOf 2 (r.amaxWords j) (s.bytes (r.slot j + 262144) (2 * r.amaxWords j))

/-- Change the reduction state of a flow. -/
def State.modRed (s : State) (f : Nat) (g : RedS → RedS) : State := s.modFlow f fun w => { w with red := w.red.map g }

/-- A contribution to a chunk: values (none: poison), amax, and what its record says. -/
structure Part where
  vals : List (Option Int)
  amax : List Nat
  pcount : Nat
  prank : Nat
  contrib : Nat
  own : Bool
  deriving DecidableEq, Repr

/-- Add a contribution or partial to a chunk's slab slot, cleared when the chunk takes it (R217). -/
def State.slabAdd (s : State) (f : Nat) (x : RedS) (j : Nat) (p : Part) : State :=
  let r := x.cfg
  let fresh := (AMap.find? x.slabs j).isNone
  let s := if fresh then s.clear (r.slot j) slabBytes else s
  let ws := ((s.slabWords r j).zip p.vals).map fun q => acc48 q.1 q.2
  let am := ((s.slabAmax r j).zip (p.amax ++ List.replicate 1024 0)).map fun q => max q.1 q.2
  let s := (s.put (r.slot j) (ws.map (leBytes 8)).flatten false).put (r.slot j + 262144) (am.map (leBytes 2)).flatten false
  (s.modRed f fun x =>
    let o := AMap.get x.slabs {} j
    { x with slabs := AMap.set x.slabs j { contrib := o.contrib + p.contrib, pcount := o.pcount + p.pcount,
                                           prank := min o.prank p.prank, own := o.own || p.own } }).bump
    .redCntAdds [] p.vals.length none 8 0

/-! ### Messages -/

/-- The chunk record. -/
def RedRec.record (r : RedRec) (j pcount prank contrib : Nat) (step : BitVec 64) (norm : Nat) (amax : List Nat) : List Byte :=
  let am := (amax.map (leBytes 2)).flatten
  let room := if r.int16 then 32 else 2048
  leBytes 4 j ++ leBytes 4 r.crc ++ leBytes 4 pcount ++ leBytes 2 prank ++ leBytes 2 contrib ++ leBytes 8 step.toNat
    ++ leBytes 8 0 ++ leBytes 80 norm ++ leBytes 16 0 ++ am ++ List.replicate (room - am.length) 0

/-- A chunk's codes as bytes at a width. -/
def codeBytes (n : Nat) (vals : List (Option Int)) : List Byte :=
  (vals.map fun v => leBytes n (match v with | some x => sintCode (8 * n) x | none => 2 ^ (8 * n - 1))).flatten

/-- Originate a message to a neighbour, which takes that neighbour's next SEQs. -/
def State.toNeighbour (s : State) (f q : Nat) (fs : List Frame) : State :=
  let w := s.flow f
  match w.red with
  | none => s
  | some x =>
    let n := AMap.get x.nbrs {} q
    let fs := (fs.zip (List.range fs.length)).map fun p =>
      { p.1 with seq := (n.txSeq + p.2) % 2 ^ 24, dst := x.cfg.ids.getD q 0xFFF, flow := f, vc := 1 }
    (s.modRed f fun x =>
      { x with nbrs := AMap.set x.nbrs q { AMap.get x.nbrs {} q with txSeq := (n.txSeq + fs.length) % 2 ^ 24 } }).originateAll
      fs w.owner none

/-- A blank frame of a kind. -/
def redFrame (kind msg : Nat) : Frame :=
  { dst := 0, src := 0, flow := 0, seq := 0, vc := 1, kind := kind, last := false, plen := 0, fidx := 0, msg := msg % 65536,
    ttl := 0, data := [] }

/-- The frames of a chunk's message: the data, then the chunk record with END. -/
def chunkFrames (kind j : Nat) (data rcd : List Byte) : List Frame :=
  let ds := if data = [] then [] else (messageFrames (redFrame kind j) data []).map fun f => { f with last := false }
  ds ++ [{ redFrame kind j with fidx := ds.length, last := true, plen := rcd.length / 32, data := rcd }]

/-! ### Norm words (R225) -/

/-- Whether an open flow has completed its round for a step. -/
def RedS.reached (x : RedS) (step : Nat) : Bool := decide (step < x.cfg.step0 + x.rounds)

/-- R225: a norm word is stored once every open flow that names it has completed the step; a FAULTED flow holds it back until the host
closes it (R9). -/
def State.normStore (s : State) (n : Nat) (step : BitVec 64) : State :=
  let all := s.dev.link.flows.all fun p =>
    match p.2.red with
    | some x => !(p.2.st != .closed && x.cfg.normId == n) || x.reached step.toNat
    | none => true
  match AMap.find? s.dev.link.norms (n, step) with
  | some (a, bad) =>
    if all then
      ((s.setReg .redNorm [n] (BitVec.ofNat 64 (if bad then fp64.nanCode else fp64.round (Val.ofInt a (-288))))).setReg
        .redNstep [n] (wput step 63 63 1)).modLink fun l => { l with norms := AMap.erase l.norms (n, step) }
    else s
  | none => s

/-- Store every norm word whose condition has become true. -/
def State.normsSettle (s : State) : State := s.dev.link.norms.foldl (fun s p => s.normStore p.1.1 p.1.2) s

/-- R209 for a flow of a reduction: an access of its source or result that is refused raises the code, and the flow is FAULTED. -/
def State.redFault (s : State) (f : Nat) (r : Nat × Nat × Nat) : State :=
  let w := s.flow f
  let s := (s.memFault r.1 2 w.ctx 0 r.2.1 r.2.2).raise r.1
    { kind := 8, index := 0, ctx := some w.ctx, step := (match w.red with | some x => x.cfg.step x.rounds | none => 0),
      detail := BitVec.ofNat 64 f }
  s.modFlow f fun w => { w with st := .faulted }

/-! ### Completing a chunk (R218, R221, R225) -/

/-- The part of a write of `d` at `a` that begins at `lo`: its bytes and poisoned sectors, and the parity that it sets. -/
def writePart (a : Nat) (d : List Byte) (bad : List Nat) (par : Nat → Nat → Option Bool) (lo n : Nat) : RegAct :=
  .put lo ((d.drop (lo - a)).take n)
    ((bad.filter fun k => lo / 32 ≤ a / 32 + k ∧ a / 32 + k ≤ (lo + n - 1) / 32).map fun k => a / 32 + k - lo / 32) (par lo n)

/-- Write into a result area at the context's regulators, unless the write is refused (R157, R209). -/
def State.resWrite (s : State) (f a : Nat) (d : List Byte) (bad : List Nat) : State :=
  let w := s.flow f
  if w.st ≠ .opened then s
  else
    match s.landRefused w a d.length with
    | some r => s.redFault f r
    | none => (s.touch a d.length).regulate w.ctx a d.length (.flow f 0) (writePart a d bad fun _ _ => none)

/-- Read scale entries at the context's regulators (R157). The values are those of the round, which only its completion changes, so that
nothing waits for them but the round's later reads, its writes and its end. -/
def State.scaleRead (s : State) (f a n : Nat) : State :=
  (s.touch a n).regulate (s.flow f).ctx a n (.flow f 0) fun _ _ => .pass

/-- The scale entries of a chunk: address and bytes. -/
def RedRec.scaleOf (r : RedRec) (j : Nat) : Nat × Nat :=
  if r.int16 then (r.scale, 4) else (r.scale + 4096 * j, 4 * ((r.chunkLen j + 31) / 32))

/-- Write the sums of a chunk at RES in the form of RFORM (R218). -/
def State.writeResult (s : State) (f : Nat) (x : RedS) (j : Nat) (vals : List (Option Int)) : State :=
  let r := x.cfg
  let s := s.scaleRead f (r.scaleOf j).1 (r.scaleOf j).2
  let i0 := 32768 * j
  let unit (i : Nat) : Int := s.unitX r (r.entry (i0 + i))
  if r.fp32 then
    let seed := (s.ctx (s.flow f).ctx).seed
    let rnd (i : Nat) : Rnd := if bit r.tensor 23 then .sr (draw seed r.tensor (r.step x.rounds) (r.ibase + i0 + i)) else .rne
    let es := (vals.zip (List.range vals.length)).map fun p =>
      match p.1 with
      | none => fp32.nanCode
      | some v => (fp32.convert (rnd p.2) (Val.ofInt v (unit p.2))).code
    let a := r.res + 4 * i0
    let bad := ((vals.zip (List.range vals.length)).filter fun p => p.1.isNone).map fun p => (a + 4 * p.2) / 32 - a / 32
    s.resWrite f a (es.map (leBytes 4)).flatten bad
  else if r.int16 then
    let s := if j = (if r.coll = 1 then r.rank else 0) then s.resWrite f r.res (leBytes 1 (sintCode 8 (unit 0)) ++ leBytes 63 0) [] else s
    s.resWrite f (r.res + 64 + 4 * i0) (codeBytes 4 vals) []
  else
    let xs := (List.range ((vals.length + 31) / 32)).map fun b => BitVec.ofNat 8 (sintCode 8 (unit (32 * b)))
    (s.resWrite f (r.res + 2 * i0) (codeBytes 2 vals) []).resWrite f (r.res + (2 * r.count + 63) / 64 * 64 + 1024 * j) xs []

/-- A result's record, as far as a member keeps it. -/
structure ResRec where
  pcount : Nat
  prank : Nat
  norm : Int
  amax : List Nat
  deriving DecidableEq, Repr

/-- A chunk's result or notice is in: agreed amax, norm and poison are taken; the first poisoned chunk of a round raises
REDUCE_POISON, and with HALT_POISON halts the context (R221). -/
def State.finishChunk (s : State) (f : Nat) (x : RedS) (j : Nat) (q : ResRec) : State :=
  let r := x.cfg
  let w := s.flow f
  let step := r.step x.rounds
  let s := s.modRed f fun x =>
    { x with done := x.done ++ [j], pcount := x.pcount + q.pcount, prank := if q.pcount > 0 then min x.prank q.prank else x.prank,
             amax := (q.amax.zip (List.range q.amax.length)).foldl (fun m p =>
               let e := r.entry (32768 * j + 32 * p.2)
               AMap.set m e (max p.1 (AMap.get m 0 e))) x.amax }
  let s := if r.normId = 0xFF then s else s.modLink fun l =>
    let o := AMap.get l.norms (0, false) (r.normId, step)
    { l with norms := AMap.set l.norms (r.normId, step) (o.1 + q.norm, o.2 || decide (q.pcount > 0)) }
  if q.pcount > 0 ∧ x.pcount = 0 then
    let s := s.raise 0x0403 { kind := 8, index := 0, ctx := some w.ctx, step := step, detail := BitVec.ofNat 64 f }
    if r.haltPoison then s.eventHalt w.ctx else s
  else s

/-- NORM of a chunk in units of `2 ^ -288`. -/
def State.chunkNorm (s : State) (r : RedRec) (j : Nat) (vals : List (Option Int)) : Int :=
  (vals.zip (List.range vals.length)).foldl (fun a p =>
    match p.1 with
    | none => a
    | some v => a + v * v * (2 : Int) ^ (2 * (s.unitX r (r.entry (32768 * j + p.2))) + 288).toNat) 0

/-- Send a result, or a notice, onward. -/
def State.sendResult (s : State) (f : Nat) (r : RedRec) (j : Nat) (data rcd : List Byte) : State :=
  (r.down j r.rank).foldl (fun s q => s.toNeighbour f q (chunkFrames 2 j (if r.coll = 1 then [] else data) rcd)) s

/-- CHUNK_COMPLETE: a chunk whose CONTRIB has reached G completes at its owner or root (R218). -/
def State.chunkComplete (s : State) (f : Nat) : State :=
  match (s.flow f).red with
  | none => s
  | some x =>
    let r := x.cfg
    match List.find? (fun p => r.completes p.1 r.rank && p.2.contrib == r.g) x.slabs with
    | none => s
    | some (j, b) =>
      if (s.flow f).st ≠ .opened ∨ s.regionStopped 16 ∨ ¬ x.running then s
      else
        let vals := (s.slabWords r j).map fun w => if bit w 63 then none else some (sint 48 w)
        let am := s.slabAmax r j
        let norm := s.chunkNorm r j vals
        let rcd := r.record j b.pcount b.prank b.contrib (r.step x.rounds) (sintCode 640 norm) am
        let s := s.modRed f fun x => { x with slabs := AMap.erase x.slabs j }
        let s := s.writeResult f x j vals
        if (s.flow f).st ≠ .opened then s
        else (s.finishChunk f x j ⟨b.pcount, b.prank, norm, am⟩).sendResult f r j (codeBytes r.sumw vals) rcd

/-- A middle member whose share of a chunk is complete sends its partial at sum width. -/
def State.forwardPart (s : State) (f j : Nat) : State :=
  match (s.flow f).red with
  | none => s
  | some x =>
    let r := x.cfg
    match AMap.find? x.slabs j with
    | none => s
    | some b =>
      if r.completes j r.rank ∨ b.contrib < r.share j r.rank then s
      else
        let vals := (s.slabWords r j).map fun w => if bit w 63 then none else some (sint 48 w)
        let rcd := r.record j b.pcount b.prank b.contrib (r.step x.rounds) 0 (s.slabAmax r j)
        (s.modRed f fun x => { x with slabs := AMap.erase x.slabs j }).toNeighbour f (r.up r.rank)
          (chunkFrames 1 j (codeBytes r.sumw vals) rcd)

/-! ### Contributing (R215, R216, R226) -/

/-- One element on the wire (R216). -/
def wireElem (r : RedRec) (x : Int) (u code : Nat) (poison : Bool) : ConvOut :=
  let w := 8 * r.wire
  if poison then { code := 2 ^ (w - 1), nan := true } else intConvert w (.sr u) ((fp32.decode code).shift (-x))

/-- The largest magnitude of the finite elements of a list of FP32 codes, as a code without sign. -/
def topCode (l : List (Nat × Bool)) : Nat :=
  l.foldl (fun m p =>
    let c := p.1 % 2 ^ 31
    if p.2 ∨ c ≥ 0x7F800000 then m else max m c) 0

/-- Split a list into runs of `n`. -/
def runsOf {α : Type} (n : Nat) : Nat → List α → List (List α)
  | 0, _ => []
  | k + 1, l => if l.isEmpty then [] else l.take n :: runsOf n k (l.drop n)

/-- The contribution of a member to chunk `j`: wire elements and amax. -/
def State.contribution (s : State) (seed : BitVec 64) (x : RedS) (j : Nat) : List ConvOut × List Nat :=
  let r := x.cfg
  let n := r.chunkLen j
  let a := r.src + 4 * 32768 * j
  let bad := s.badIn a (4 * n)
  let cs := ((codesOf 4 n (s.bytes a (4 * n))).zip (List.range n)).map fun p => (p.1, bad.contains ((a + 4 * p.2) / 32))
  let es := (cs.zip (List.range n)).map fun p =>
    let i := 32768 * j + p.2
    wireElem r (s.unitX r (r.entry i)) (draw seed r.tensor (r.step x.rounds) (r.ibase + i)) p.1.1 p.1.2
  let runs := if r.int16 then [cs] else runsOf 32 1024 cs
  (es, runs.map fun l => bf16Up (fp32.decode (topCode l)))

/-- Count the elements of a list of conversions. -/
def countOut (p : ConvOut → Bool) (es : List ConvOut) : Nat := (es.filter p).length

/-- The contribution of a chunk, its source having been read (COLL 0 and 1). -/
def State.contribute (s : State) (f : Nat) (x : RedS) : State :=
  let r := x.cfg
  let j := x.next
  let w := s.flow f
  let (es, am) := s.contribution (s.ctx w.ctx).seed x j
  let sat := countOut (·.sat) es
  let nan := countOut (·.nan) es
  let s := (s.bump .redCntSat [] sat none 8 0).bump .redCntPoison [] nan none 8 0
  let s := if sat > 0 ∧ x.sat = 0 then
      s.raise 0x0404 { kind := 8, index := 0, ctx := some w.ctx, step := r.step x.rounds, detail := BitVec.ofNat 64 f }
    else s
  let s := s.modRed f fun x => { x with next := j + 1, sat := x.sat + sat, nan := x.nan + nan, inf := x.inf + countOut (·.inf) es }
  let vals := es.map fun e => codeVal r.wire e.code
  let prank := if nan > 0 then r.rank else 0xFFFF
  if r.share j r.rank = 1 ∧ ¬ r.completes j r.rank then
    s.toNeighbour f (r.up r.rank)
      (chunkFrames 1 j (codeBytes r.wire vals) (r.record j nan prank 1 (r.step x.rounds) 0 am))
  else
    match (s.flow f).red with
    | some x => (s.slabAdd f x j ⟨vals, am, nan, prank, 1, true⟩).forwardPart f j
    | none => s

/-- Send the messages that wait for a neighbour's credit (COLL 2 and 3). -/
def State.pumpRed : Nat → State → Nat → State
  | 0, s, _ => s
  | n + 1, s, f =>
    match (s.flow f).red with
    | none => s
    | some x =>
      match x.out.find? fun o => decide ((AMap.get x.nbrs {} o.1).credit > 0) with
      | none => s
      | some o =>
        let s := s.modRed f fun x =>
          let b := AMap.get x.nbrs {} o.1
          { x with out := dropFirst (fun y => y == o) x.out,
                   nbrs := AMap.set x.nbrs o.1 { b with credit := b.credit - 1, sent := b.sent + 1 } }
        State.pumpRed n (s.toNeighbour f o.1 (messageFrames (redFrame 2 (x.cfg.pieceMsg o.2.1)) o.2.2.1 o.2.2.2)) f

/-- Hand message `m` on to the members that still need it, `from_` being the neighbour it came from (R226). -/
def State.passPiece (s : State) (f : Nat) (from_ : Option Nat) (m : Nat) (d : List Byte) (bad : List Nat) : State :=
  match (s.flow f).red with
  | none => s
  | some x =>
    let r := x.cfg
    let origin := if r.coll = 2 then m / r.pieces else r.root
    let dst := if r.tree then r.neighbours.filter fun q => from_ != some q
      else
        let n := (r.rank + 1) % r.g
        if n = origin then [] else [n]
    let s := s.modRed f fun x => { x with out := x.out ++ dst.map fun q => (q, m, d, bad) }
    s.pumpRed (x.out.length + dst.length) f

/-- The next message of this member's own bytes, its source having been read (COLL 2 and 3). -/
def State.contributeBytes (s : State) (f : Nat) (x : RedS) : State :=
  let r := x.cfg
  let m := (if r.coll = 2 then r.rank * r.pieces else 0) + x.next
  let a := r.src + 131072 * x.next
  let n := r.pieceLen m
  let d := s.bytes a n
  let bad := (s.badIn a n).map (· - a / 32)
  let s := s.resWrite f (r.pieceAt m) d bad
  if (s.flow f).st ≠ .opened then s
  else (s.modRed f fun x => { x with next := x.next + 1, done := x.done ++ [m] }).passPiece f none m d bad

/-- Whether a member may convert its next contribution (R215): the chunk SLOTS before it is done, or it has bytes left. -/
def RedS.mayContribute (x : RedS) : Bool :=
  let r := x.cfg
  if r.coll ≤ 1 then decide (x.next < r.chunks) && (decide (x.next < r.slots) || x.done.contains (x.next - r.slots))
  else decide (x.next < r.pieces) && (r.coll == 2 || r.rank == r.root)

/-- The source of the next contribution: address and bytes. -/
def RedS.source (x : RedS) : Nat × Nat :=
  let r := x.cfg
  if r.coll ≤ 1 then (r.src + 131072 * x.next, 4 * r.chunkLen x.next)
  else (r.src + 131072 * x.next, r.pieceLen x.next)

/-- Read the source of the next contribution, and the scale of its chunk, at the context's regulators, once for it. -/
def State.readSource (s : State) (f c : Nat) (x : RedS) : State :=
  if x.asked then s
  else
    let s := (s.touch x.source.1 x.source.2).regulate c x.source.1 x.source.2 (.flow f 0) fun _ _ => .pass
    let s := if x.cfg.coll ≤ 1 then s.scaleRead f (x.cfg.scaleOf x.next).1 (x.cfg.scaleOf x.next).2 else s
    s.modRed f fun x => { x with asked := true }

/-- CHUNK_CONTRIBUTE: the source is read under the regulators (R215), then the contribution is converted and sent. -/
def State.chunkContribute (s : State) (f : Nat) : State :=
  let w := s.flow f
  match w.red with
  | none => s
  | some x =>
    if w.st ≠ .opened ∨ s.regionStopped 16 ∨ ¬ x.running ∨ ¬ x.mayContribute ∨ s.waits (.flow f 0) then s
    else
      match s.reach w.ctx x.source.1 x.source.2 with
      | some (a, c) => s.redFault f (0x0104, c, a)
      | none =>
        let s := s.readSource f w.ctx x
        if s.waits (.flow f 0) then s
        else
          let s := s.modRed f fun x => { x with asked := false }
          if x.cfg.coll ≤ 1 then s.contribute f { x with asked := false } else s.contributeBytes f { x with asked := false }

/-! ### Rounds (R215, R219, R224, R225) -/

/-- Whether the start word exceeds the number of rounds completed, modulo 2 ^ 32 (R215). -/
def State.startDue (s : State) (x : RedS) : Bool := decide (0 < sint 32 (leNat (s.bytes x.cfg.start 4) + 2 ^ 32 - x.rounds % 2 ^ 32))

/-- ROUND_BEGIN. -/
def State.roundBegin (s : State) (f : Nat) : State :=
  let w := s.flow f
  match w.red with
  | none => s
  | some x =>
    if w.st = .opened ∧ ¬ s.regionStopped 16 ∧ ¬ x.running ∧ s.startDue x then
      s.modRed f fun x => { x with running := true, next := 0, amax := [], sat := 0, nan := 0, inf := 0, pcount := 0,
                                   prank := 0xFFFF }
    else s

/-- R219: the scale entries are read and rewritten as a round completes, under the regulators (R157). -/
def State.stepScale (s : State) (f : Nat) (x : RedS) : State :=
  let r := x.cfg
  let n := r.scaleEntries
  let d := (List.range n).flatMap fun e => leBytes 4 (scaleStep r (leNat (s.bytes (r.scale + 4 * e) 4)) (AMap.get x.amax 0 e))
  (s.scaleRead f r.scale (4 * n)).resWrite f r.scale d []

/-- A round is over: the messages of it that a neighbour has sent are no longer kept. -/
def Nbr.endRound (b : Nbr) : Nbr := { b with took := b.took.filter fun m => decide (2 ≤ (b.took.filter (· == m)).length) }

/-- ROUND_COMPLETE. -/
def State.roundComplete (s : State) (f : Nat) : State :=
  let w := s.flow f
  match w.red with
  | none => s
  | some x =>
    let r := x.cfg
    if w.st ≠ .opened ∨ s.regionStopped 16 ∨ ¬ x.running ∨ x.done.length < r.total ∨ s.waits (.flow f 0) then s
    else
      let step := r.step x.rounds
      let s := if r.coll > 1 then s else s.stepScale f x
      if (s.flow f).st ≠ .opened then s
      else
      let s := s.modRed f fun x =>
        { x with running := false, done := x.done.drop r.total, nbrs := x.nbrs.map fun p => (p.1, p.2.endRound), rounds := x.rounds + 1, lastSat := x.sat, lastNan := x.nan, lastInf := x.inf,
                 lastPcount := x.pcount, lastPfirst := if x.prank = 0xFFFF then 0xFFF else r.ids.getD x.prank 0xFFF, lastStep := step }
      let s := s.bump .redCntRounds [] 1 none 8 0
      if r.normId = 0xFF then s else s.normStore r.normId step

/-! ### Receiving -/

/-- Bytes of the data of a message. -/
def RedRec.dataLen (r : RedRec) (kind j q : Nat) : Nat :=
  if r.coll > 1 then r.pieceLen j
  else if kind = 2 then (if r.coll = 1 then 0 else r.sumw * r.chunkLen j)
  else (if r.share j q = 1 then r.wire else r.sumw) * r.chunkLen j

/-- Frames of a message. -/
def RedRec.frames (r : RedRec) (kind j q : Nat) : Nat :=
  (r.dataLen kind j q + 4095) / 4096 + (if r.coll > 1 then 0 else 1)

/-- Bytes of a code in a message. -/
def RedRec.codeLen (r : RedRec) (kind j q : Nat) : Nat :=
  if kind = 2 then r.sumw else if r.share j q = 1 then r.wire else r.sumw

/-- The messages of COLL 2 and 3 that have landed in the round that a new one belongs to. -/
def RedS.landed (x : RedS) : List Nat := x.done.drop (x.cfg.total * (x.done.length / max 1 x.cfg.total))

/-- The first number from `n` on that is `v` modulo `w`. -/
def firstFrom (n v w : Nat) : Nat := n + (v % w + w - n % w) % w

/-- The chunk or message that a MSG field means. A chunk lies in the window of the round in progress, or is one of the first of the
next round; a message of COLL 2 and 3 is the first one of its origin that has not landed and has that number (assumption log 104). -/
def RedS.chunkOf (x : RedS) (msg : Nat) : Nat :=
  let r := x.cfg
  if r.coll > 1 then
    let origin := if r.coll = 2 then msg % 4096 else 0
    let n := (x.landed.filter fun m => decide (m / r.pieces = origin)).length
    origin * r.pieces + (if r.coll = 2 then firstFrom n (msg / 4096) 16 else firstFrom n msg 65536)
  else
    let lo := if x.running then x.next - r.slots else 0
    let j := lo + (msg + 65536 - lo % 65536) % 65536
    if j < r.chunks then j else msg % 65536

/-- `n` bytes of poison codes of `w` bytes. -/
def poisonBytes (w n : Nat) : List Byte := (List.range n).map fun i => if i % w + 1 = w then 0x80 else 0

/-- Poison codes of lost frames within the message that neighbour `q` has sent last. -/
def RedS.gapOf (x : RedS) (q : Nat) : Nat := (AMap.get x.nbrs {} q).gap

/-- The lowest poisoning rank of a message from `q`, a rank of its record and poison codes of lost frames being given. -/
def gapRank (gap q prank : Nat) : Nat := if gap > 0 then min prank q else prank

/-- A message of a REDUCE kind has arrived whole; without its record it counts the sender's share (R222). -/
def State.takePart (s : State) (f q j : Nat) (data : List Byte) (rcd : Option (List Byte)) : State :=
  match (s.flow f).red with
  | none => s
  | some x =>
    let r := x.cfg
    let n := r.codeLen 1 j q
    let vals := (codesOf n (r.chunkLen j) data).map (codeVal n)
    let p : Part :=
      match rcd with
      | some b => ⟨vals, codesOf 2 (r.amaxWords j) (b.drop 128), leNat ((b.drop 8).take 4) + x.gapOf q,
          gapRank (x.gapOf q) q (leNat ((b.drop 12).take 2)), leNat ((b.drop 14).take 2), false⟩
      | none => ⟨vals, [], (vals.filter (·.isNone)).length, q, r.share j q, false⟩
    (s.slabAdd f x j p).forwardPart f j

/-- A result or notice has arrived whole: it is written, and sent on. -/
def State.takeResult (s : State) (f q j : Nat) (data : List Byte) (rcd : Option (List Byte)) : State :=
  match (s.flow f).red with
  | none => s
  | some x =>
    let r := x.cfg
    let vals := if r.coll = 1 then [] else (codesOf r.sumw (r.chunkLen j) data).map (codeVal r.sumw)
    let res : ResRec :=
      match rcd with
      | some b => ⟨leNat ((b.drop 8).take 4) + x.gapOf q, gapRank (x.gapOf q) q (leNat ((b.drop 12).take 2)), sint 640 (leNat ((b.drop 32).take 80)),
          codesOf 2 (r.amaxWords j) (b.drop 128)⟩
      | none => ⟨if r.coll = 1 then r.chunkLen j else (vals.filter (·.isNone)).length, q, 0, []⟩
    let kept := if x.gapOf q = 0 then rcd else none
    let rcd' := kept.getD (r.record j res.pcount res.prank r.g (r.step x.rounds) (sintCode 640 res.norm) res.amax)
    let s := if r.coll = 0 then s.writeResult f x j vals else s
    if (s.flow f).st ≠ .opened then s
    else (s.finishChunk f x j res).sendResult f r j data rcd'

/-- A message of COLL 2 or 3 has arrived whole: it lands, and is sent on. -/
def State.takePiece (s : State) (f q m : Nat) (data : List Byte) (bad : List Nat) : State :=
  match (s.flow f).red with
  | none => s
  | some x =>
    let r := x.cfg
    let d := data.take (r.pieceLen m)
    if r.total ≤ m then s
    else
    let s := s.resWrite f (r.pieceAt m) d bad
    if (s.flow f).st ≠ .opened then s
    else (s.modRed f fun x =>
      let b := AMap.get x.nbrs {} q
      { x with done := x.done ++ [m], nbrs := AMap.set x.nbrs q { b with got := b.got + 1 } }).passPiece f (some q) m d bad

/-- A whole message, by its kind. -/
def State.takeMessage (s : State) (f q kind j : Nat) (data : List Byte) (bad : List Nat) (rcd : Option (List Byte)) : State :=
  match (s.flow f).red with
  | none => s
  | some x =>
    if x.cfg.coll > 1 then s.takePiece f q j data bad
    else
    let s := s.modRed f fun x =>
      let b := AMap.get x.nbrs {} q
      { x with nbrs := AMap.set x.nbrs q { b with took := b.took ++ [(kind, j)] } }
    if kind = 1 then s.takePart f q j data rcd
    else s.takeResult f q j data rcd

/-- Change a neighbour of a reduction flow. -/
def State.modNbr (s : State) (f q : Nat) (g : Nbr → Nbr) : State :=
  s.modRed f fun x => { x with nbrs := AMap.set x.nbrs q (g (AMap.get x.nbrs {} q)) }

/-- The message being received from a neighbour, extended with poison up to frame `k` (R222). -/
def State.fillTo (s : State) (f q k : Nat) : State :=
  match (s.flow f).red with
  | none => s
  | some x =>
    let r := x.cfg
    let b := AMap.get x.nbrs {} q
    let j := b.chunk
    let len := min (4096 * k) (r.dataLen b.kind j q) - b.data.length
    let w := r.codeLen b.kind j q
    let s := s.modNbr f q fun b =>
      { b with fidx := k, gap := b.gap + (if r.coll > 1 then 0 else len / w), data := b.data ++ (if r.coll > 1 then List.replicate len 0 else poisonBytes w len),
               bad := if r.coll > 1 then b.bad ++ (List.range ((len + 31) / 32)).map (b.data.length / 32 + ·) else b.bad }
    if r.coll > 1 then s else s.bump .redCntGappoison [] (len / w) none 8 0

/-- The message being received from a neighbour ends without its remaining frames. -/
def State.closeMessage (s : State) (f q : Nat) : State :=
  match (s.flow f).red with
  | none => s
  | some x =>
    let b := AMap.get x.nbrs {} q
    let j := b.chunk
    let s := s.fillTo f q (x.cfg.frames b.kind j q)
    match (s.flow f).red with
    | none => s
    | some y =>
      let b := AMap.get y.nbrs {} q
      (s.modNbr f q fun b => { b with fidx := 0, data := [], bad := [], msg := (b.msg + 1) % 65536 }).takeMessage f q b.kind j b.data
        b.bad none

/-- Open a message from a neighbour, that of chunk or piece `j`. -/
def State.openMessage (s : State) (f q kind msg j : Nat) : State :=
  s.modNbr f q fun b => { b with kind := kind, msg := msg % 65536, chunk := j, fidx := 0, data := [], bad := [], gap := 0 }

/-- Whether neighbour `q` sends this member a message of a kind for chunk `j`: partials come from the predecessor of a ring but of the
chunks that it owns, and from the children of a tree; results from the predecessor but of the chunks that this member owns, and from
the parent. -/
def RedRec.sends (r : RedRec) (q kind j : Nat) : Bool :=
  if kind = 1 then r.up q == r.rank && !r.completes j q
  else if r.tree then r.parent r.rank == q else q == (r.rank + r.g - 1) % r.g && !r.completes j r.rank

/-- The messages that a neighbour may have sent before one of kind `kind` for chunk or piece `j`, and that have not come: those of the
same kind and origin in ascending order, then the others, at most SLOTS of the other kind (DESIGN CHOICE, assumption log 57). -/
def RedS.missing (x : RedS) (q kind j : Nat) : List (Nat × Nat) :=
  let r := x.cfg
  if r.coll > 1 then
    let open_ := (List.range r.total).filter fun m => !x.landed.contains m && m != j && (r.coll = 3 || m / r.pieces != r.rank)
    let same := open_.filter fun m => m / r.pieces == j / r.pieces
    ((same.filter (· < j)) ++ open_.filter fun m => m / r.pieces != j / r.pieces).map fun m => (2, m)
  else
    let took := (AMap.get x.nbrs {} q).took
    let seen (m : Nat × Nat) : Bool := decide ((if x.done.length < r.chunks then 1 else 2) ≤ (took.filter (· == m)).length)
    let of (k : Nat) : List (Nat × Nat) := ((List.range r.chunks).map (k, ·)).filter fun m => r.sends q k m.2 && !seen m
    (of kind).filter (fun m => decide (m.2 < j)) ++ (of (3 - kind)).take r.slots

/-- The messages, in order, that `n` missing frames have held. -/
def RedRec.lostOf (r : RedRec) (q : Nat) : Nat → List (Nat × Nat) → List (Nat × Nat)
  | _, [] => []
  | n, m :: ms =>
    let k := max 1 (r.frames m.1 m.2 q)
    if k ≤ n then m :: RedRec.lostOf r q (n - k) ms else RedRec.lostOf r q n ms

/-- R222: `n` frames are missing from a neighbour before frame `g`. -/
def State.redGap (s : State) (f q n port : Nat) (g : Frame) : State :=
  match (s.flow f).red with
  | none => s
  | some x =>
    let r := x.cfg
    let b := AMap.get x.nbrs {} q
    let s := (s.gapEvent g port n (s.flow f).owner).modFlow f fun w => { w with gaps := (w.gaps + n) % 2 ^ 32 }
    if b.fidx > 0 ∧ b.kind = g.kind ∧ b.msg = g.msg ∧ b.fidx + n = g.fidx then s.fillTo f q g.fidx
    else
      let rest := if b.fidx > 0 then r.frames b.kind b.chunk q - b.fidx else 0
      let s := if b.fidx > 0 then s.closeMessage f q else s
      match (s.flow f).red with
      | none => s
      | some x =>
        let j := x.chunkOf g.msg
        let s := (r.lostOf q (n - rest - g.fidx) (x.missing q g.kind j)).foldl (fun s m =>
          (s.openMessage f q m.1 m.2 m.2).closeMessage f q) s
        (s.openMessage f q g.kind g.msg j).fillTo f q g.fidx

/-- The last frame of a message from a neighbour: the message is taken; where its landing is refused the frame is dropped with
cause 6 (R209). -/
def State.endMessage (s : State) (f q j port : Nat) (g : Frame) (rcd : Option (List Byte)) : State :=
  match (s.flow f).red with
  | none => s
  | some y =>
    let b := AMap.get y.nbrs {} q
    let s := (s.modNbr f q fun b => { b with fidx := 0, data := [], bad := [], msg := (g.msg + 1) % 65536 }).takeMessage f q g.kind j
      b.data b.bad rcd
    if (s.flow f).st = .faulted then s.drop 6 g port (s.flow f).owner else s

/-- A frame in sequence from a neighbour. -/
def State.redFrameIn (s : State) (f q : Nat) (port : Nat) (g : Frame) : State :=
  match (s.flow f).red with
  | none => s
  | some x =>
    let r := x.cfg
    let s := s.bump .lnkCntRxf [] 1 none 7 0
    let s := s.modNbr f q fun b => { b with rxSeq := (g.seq + 1) % 2 ^ 24 }
    let s := if g.fidx = 0 then s.openMessage f q g.kind g.msg (x.chunkOf g.msg) else s
    let here := match (s.flow f).red with | some y => (AMap.get y.nbrs {} q).chunk | none => 0
    let j := if g.last ∧ r.coll ≤ 1 then leNat (g.data.take 4) else here
    let w := r.codeLen g.kind j q
    let bad := g.badSectors
    let d := if r.coll > 1 then g.data
      else ((g.data.zip (List.range g.data.length)).map fun p =>
        if bad.contains (p.2 / 32) then (if p.2 % w + 1 = w then 0x80 else 0) else p.1)
    if g.last ∧ r.coll ≤ 1 then
      if leNat ((g.data.drop 4).take 4) ≠ r.crc then
        (s.modFlow f fun w => { w with st := .faulted }).drop 5 g port (s.flow f).owner
      else s.endMessage f q j port g (some g.data)
    else
      let s := s.modNbr f q fun b =>
        { b with fidx := g.fidx + 1, data := b.data ++ d, bad := b.bad ++ bad.map (128 * g.fidx + ·) }
      if g.last then s.endMessage f q j port g none else s

/-- Deliver a frame to a reduction flow. -/
def State.deliverRed (s : State) (port : Nat) (inp : Option (Nat × Nat)) (g : Frame) : State :=
  let f := g.flow
  let w := s.flow f
  let gone (s : State) (cause : Nat) (ctx : Option Nat) : State := (s.drop cause g port ctx).lcredit inp g.units
  match w.red with
  | none => gone s 3 none
  | some x =>
    let r := x.cfg
    match r.neighbours.find? fun q => r.ids.getD q 0xFFF == g.src with
    | none => gone s 3 w.owner
    | some q =>
      let b := AMap.get x.nbrs {} q
      if g.kind = 3 ∧ r.coll > 1 then
        let s := s.modNbr f q fun b => { b with credit := r.slots - (b.sent % 65536 + 65536 - g.msg) % 65536 }
        ((s.bump .lnkCntRxf [] 1 none 7 0).pumpRed x.out.length f).lcredit inp g.units
      else if g.kind = 1 ∨ g.kind = 2 then
        let d := (g.seq + 2 ^ 24 - b.rxSeq) % 2 ^ 24
        if d = 0 then (s.redFrameIn f q port g).lcredit inp g.units
        else if d < 2 ^ 23 then ((s.redGap f q d port g).redFrameIn f q port g).lcredit inp g.units
        else gone (s.modFlow f fun w => { w with stale := (w.stale + 1) % 2 ^ 32 }) 4 w.owner
      else gone s 3 w.owner

/-- The CREDIT frames of a reduction flow of COLL 2 or 3: release on delivery (R226). -/
def State.creditRed (s : State) (f : Nat) : State :=
  let w := s.flow f
  match w.red with
  | none => s
  | some x =>
    if w.st ≠ .opened ∨ s.regionStopped 16 ∨ s.waits (.flow f 0) then s
    else x.cfg.neighbours.foldl (fun s q =>
      let b := AMap.get x.nbrs {} q
      if b.got = b.told then s
      else
        (s.modNbr f q fun b => { b with told := b.got }).originate
          { redFrame 3 b.got with vc := 3, last := true, dst := x.cfg.ids.getD q 0xFFF, flow := f } w.owner none) s

/-- The reduction state words of a flow. -/
def State.redWord (s : State) (f i : Nat) : BitVec 64 :=
  match (s.flow f).red with
  | none => 0
  | some x =>
    let r := x.cfg
    let nextChunk := ((List.range r.total).find? fun j => !x.done.contains j).getD r.total
    let phase := if x.running then 1 else if s.startDue x then 2 else 0
    match i with
    | 0 => word [(x.rounds % 2 ^ 32, 32), ((if x.running then nextChunk else 0) % 65536, 16), (r.rank, 4), (phase, 0)]
    | 1 => word [(x.lastSat % 2 ^ 48, 0)]
    | 2 => word [(x.lastNan % 2 ^ 48, 0)]
    | 3 => word [(x.lastInf % 2 ^ 48, 0)]
    | 4 => word [(x.lastPfirst, 52), (x.lastPcount % 2 ^ 48, 0)]
    | 5 => x.lastStep
    | _ => 0

/-- RED_STATUS. -/
def State.redStatus (s : State) : BitVec 64 :=
  let reds := s.dev.link.flows.filterMap fun p => p.2.red
  word [((reds.filter (·.running)).length, 32),
    (min 255 ((reds.map fun x => if x.cfg.coll ≤ 1 then x.cfg.slots else 0).foldl (· + ·) 0), 0)]

/-! ### A frame arrives (R194, R195, R198) -/

/-- An accepted frame is delivered here, forwarded, or dropped (R198). -/
def State.admitFrame (s : State) (p : Nat) (f : Frame) : State :=
  let inp : Option (Nat × Nat) := some (p, f.cls)
  if s.moduleId = 0xFFF then (s.drop 3 f p none).lcredit inp f.units
  else if f.dst = s.moduleId then
    let w := s.flow f.flow
    if w.kind = 2 ∧ w.st = .opened then s.deliverRed p inp f
    else
      let s := s.deliver p inp f
      if f.kind = 3 then s.pump f.flow else s
  else
    match s.route f true with
    | .error c => (s.drop c f p none).lcredit inp f.units
    | .ok out => s.enqueue inp out f none none

/-- Whether a landing that waits at a regulator holds a class on an input port (R204). -/
def State.classHeld (s : State) (p cls : Nat) : Bool :=
  s.dev.link.flows.any fun (q : Nat × Flow) => q.2.landings.any fun l => !l.issued && l.inp == some (p, cls)

/-- A frame that has been accepted on port `p`: it stands behind a landing that holds its class there. -/
def State.acceptFrame (s : State) (p : Nat) (f : Frame) : State :=
  if s.classHeld p f.cls ∨ s.dev.link.held.any (fun h => h.1 == p && h.2.cls == f.cls) then
    s.modLink fun l => { l with held := l.held ++ [(p, f)] }
  else s.admitFrame p f

/-- The frames whose class no landing holds any more go on, in the order of their arrival. -/
def State.admitHeld : Nat → State → State
  | 0, s => s
  | n + 1, s =>
    match s.dev.link.held.find? fun h => !s.classHeld h.1 h.2.cls with
    | some h => State.admitHeld n ((s.modLink fun l => { l with held := dropFirst (· == h) l.held }).admitFrame h.1 h.2)
    | none => s

/-- The landing writes that have their tokens, or whose page is written, are performed, and the frames behind them go on. -/
def State.settleLandings (s : State) : State := let s := s.landFlows; State.admitHeld s.dev.link.held.length s

/-- R195: a frame that fails the CRC may have begun to leave when it is checked, cut-through: its copy ends with the inverted CRC, takes
no LSEQ and enters no replay buffer. It has begun to leave where nothing else would leave first (assumption log 103). -/
def State.stomp (s : State) (p : Nat) (f : Frame) : State :=
  if s.moduleId = 0xFFF ∨ f.dst = s.moduleId ∨ s.classHeld p f.cls then s
  else
    match s.route f true with
    | .error _ => s
    | .ok out =>
      let t := s.enqueue (some (p, f.cls)) out f none none
      match t.dev.link.tx.getLast?, t.pick out with
      | some w, some ((_, x), _, _) =>
        if (s.port out).st = .up ∧ x = w then
          let g := { w.frame with ttl := w.frame.ttl - 1 }
          let l := (s.port out).lseq
          s.emit out (.frame g l (0xFFFFFFFF - g.crc l))
        else s
      | _, _ => s

/-- FRAME_RECEIVE: the CRC and LSEQ checks of the link layer, then R194 and R198. -/
def State.frameReceive (s : State) (p : Nat) (f : Frame) (lseq crc ce ue : Nat) : State :=
  let f := f.norm
  let s := (s.bump .lnkPortCntFecCe [p] ce none 7 p).bump .lnkPortCntFecUe [p] ue none 7 p
  let k := s.port p
  if k.st ≠ .up ∨ s.regionStopped 16 then s
  else if crc ≠ f.crc lseq then
    let s := s.bump .lnkPortCntCrc [p] 1 none 7 p
    if crc = 0xFFFFFFFF - f.crc lseq then s
    else ((if k.discarding then s else s.stomp p f).modPort p fun k => { k with discarding := true }).emit p (.nak k.expect)
  else if lseq ≠ k.expect then
    if k.discarding then s else (s.modPort p fun k => { k with discarding := true }).emit p (.nak k.expect)
  else
    let s := s.modPort p fun k =>
      { k with expect := (k.expect + 1) % 65536, discarding := false, unacked := k.unacked + 1 }
    if f.valid then (s.bump .lnkPortCntRx [p] 1 none 7 p).acceptFrame p f
    else (s.drop 5 f p none).lcredit (some (p, f.cls)) f.units

/-! ### Rows -/

/-- FRAME_RECEIVE (R194, R195, R198). -/
def execFrameReceive (p : PortId) (f : Frame) (lseq : BitVec 16) (crc : BitVec 32) (ce ue : Nat) (s : State) :
    Host.Outcome State Fault Refusal :=
  .next (s.powered fun s => s.frameReceive p f lseq.toNat crc.toNat ce ue)

/-- REGULATOR_GRANT (R157): the landing writes that waited for the tokens follow. -/
def execRegulatorGrant (c : CtxId) (p : Fin 16) (s : State) : Host.Outcome State Fault Refusal :=
  .next (s.regGrant c p).settleLandings

/-- BWR_TOKEN_TICK (R157): a regulator that is now bypassed lets its landing writes pass. -/
def execBwrTokenTick (s : State) : Host.Outcome State Fault Refusal :=
  .next (s.powered fun s => (s.clockedBy 17 State.bwrTick).settleLandings)

/-- CAVE_PAGE_WRITE (R167): the landing writes that waited for the page follow. -/
def execCavePageWrite (s : State) : Host.Outcome State Fault Refusal := .next s.cavePageWrite.settleLandings

/-- ROUND_BEGIN (R215). -/
def execRoundBegin (f : FlowId) (s : State) : Host.Outcome State Fault Refusal := .next (s.roundBegin f)

/-- CHUNK_CONTRIBUTE (R216). -/
def execChunkContribute (f : FlowId) (s : State) : Host.Outcome State Fault Refusal := .next (s.chunkContribute f)

/-- CHUNK_COMPLETE (R218). -/
def execChunkComplete (f : FlowId) (s : State) : Host.Outcome State Fault Refusal := .next (s.chunkComplete f)

/-- ROUND_COMPLETE (R224). -/
def execRoundComplete (f : FlowId) (s : State) : Host.Outcome State Fault Refusal := .next (s.roundComplete f)

/-- CREDIT_FRAME_SEND (R206, R226). -/
def execCreditFrameSend (f : FlowId) (s : State) : Host.Outcome State Fault Refusal := .next ((s.creditFrame f).creditRed f)

end Sys2Proof.Machine
end

