-- ==== Sys2Proof/Machine/Harp.lean ====
section
/-!
DEFINITION. The harp (*Backward Pass, Row Engine and Pipelines*): handing over a command, beginning and completing it
(R124), the fields of the row records (R125 to R127), conversion of outputs (R128), poison (R129), ORTHO (R130).
-/
namespace Sys2Proof.Machine

/-! ### FP32 operations on codes, each rounded once (R125) -/

def fadd (a b : Nat) : Nat := fp32.round ((fp32.decode a).add (fp32.decode b))
def fsub (a b : Nat) : Nat := fp32.round ((fp32.decode a).add (fp32.decode b).negate)
def fmul (a b : Nat) : Nat := fp32.round ((fp32.decode a).mul (fp32.decode b))
def fdiv (a b : Nat) : Nat := fp32.round ((fp32.decode a).div (fp32.decode b))
def fmax (a b : Nat) : Nat := fp32.round ((fp32.decode a).max (fp32.decode b))
def fexp2 (a : Nat) : Nat := fp32.round (fp32.decode a).exp2
def frsqrt (a : Nat) : Nat := fp32.round (fp32.decode a).rsqrt
def fcount (n : Nat) : Nat := fp32.round (Val.ofInt n 0)
/-- log2(e) rounded to FP32. -/
def l2e : Nat := 0x3FB8AA3B
/-- −infinity. -/
def negInf : Nat := 0xFF800000
/-- 1.0. -/
def fone : Nat := 0x3F800000
/-- `2 ^ -n`. -/
def fpow (n : Nat) : Nat := fp32.round (.fin false 1 (-(n : Int)))

/-! ### Row records -/

/-- A cleared record. -/
def HarpRec.cleared : HarpRec := { max := negInf }

/-- The four 64-bit words of a record. -/
def HarpRec.word (r : HarpRec) : Nat → BitVec 64
  | 0 => Machine.word [(r.sum, 32), (r.max, 0)]
  | 1 => Machine.word [(r.m2, 32), (r.mean, 0)]
  | 2 => Machine.word [(r.dot2, 32), (r.dot, 0)]
  | _ => Machine.word [(b2n r.poison, 63), (r.count, 0)]

/-- A record with one word written. -/
def HarpRec.setWord (r : HarpRec) (i : Nat) (w : BitVec 64) : HarpRec :=
  match i with
  | 0 => { r with sum := wbits w 63 32, max := wbits w 31 0 }
  | 1 => { r with m2 := wbits w 63 32, mean := wbits w 31 0 }
  | 2 => { r with dot2 := wbits w 63 32, dot := wbits w 31 0 }
  | _ => { r with poison := wbits w 63 63 == 1, count := wbits w 24 0 }

/-- A record while a command works on it: whether R127 has stopped it. -/
structure HarpRow where
  row : HarpRec
  stopped : Bool := false
  deriving DecidableEq, Repr

/-- R127: an addition of `n` elements, or the record left as it is with POISON set. -/
def HarpRow.limited (r : HarpRow) (n : Nat) (f : HarpRec → HarpRec) : HarpRow :=
  if r.stopped then r
  else if r.row.count + n > 2 ^ 24 then ⟨{ r.row with poison := true }, true⟩
  else { r with row := f r.row }

/-- softmax_add. -/
def HarpRec.softmaxAdd (x : Nat) (r : HarpRec) : HarpRec :=
  let r := { r with count := r.count + 1 }
  let m := fmax r.max x
  if m = negInf then r
  else
    { r with sum := fadd (fmul r.sum (fexp2 (fmul (fsub r.max m) l2e))) (fexp2 (fmul (fsub x m) l2e)), max := m }

/-- moments_add. -/
def HarpRec.momentsAdd (x : Nat) (r : HarpRec) : HarpRec :=
  let n := r.count + 1
  let d := fsub x r.mean
  let mean := fadd r.mean (fdiv d (fcount n))
  { r with count := n, mean := mean, m2 := fadd r.m2 (fmul d (fsub x mean)) }

/-- merge, the lane given as a record. -/
def HarpRec.merge (src r : HarpRec) : HarpRec :=
  let m := fmax r.max src.max
  let r1 := if m = negInf then { r with max := m } else
    { r with max := m, sum := fadd (fmul r.sum (fexp2 (fmul (fsub r.max m) l2e))) (fmul src.sum (fexp2 (fmul (fsub src.max m) l2e))) }
  let r2 := if src.count = 0 then r1 else
    let n := r.count + src.count
    let d := fsub src.mean r.mean
    { r1 with
      mean := fadd r.mean (fmul d (fdiv (fcount src.count) (fcount n)))
      m2 := fadd (fadd r.m2 src.m2) (fmul (fmul d d) (fdiv (fmul (fcount r.count) (fcount src.count)) (fcount n)))
      count := n }
  { r2 with dot := fadd r.dot src.dot, dot2 := fadd r.dot2 src.dot2, poison := r.poison || src.poison }

/-- prob. -/
def HarpRec.prob (r : HarpRec) (x : Nat) : Nat := if r.max = negInf then 0 else fexp2 (fmul (fsub x r.max) l2e)
/-- rln. -/
def HarpRec.rln (r : HarpRec) (eps : Nat) : Nat := frsqrt (fadd (fdiv r.m2 (fcount r.count)) (fpow eps))
/-- rrms. -/
def HarpRec.rrms (r : HarpRec) (eps : Nat) : Nat :=
  frsqrt (fadd (fadd (fdiv r.m2 (fcount r.count)) (fmul r.mean r.mean)) (fpow eps))
/-- xhat_ln. -/
def HarpRec.xhatLn (r : HarpRec) (eps x : Nat) : Nat := fmul (fsub x r.mean) (r.rln eps)
/-- xhat_rms. -/
def HarpRec.xhatRms (r : HarpRec) (eps x : Nat) : Nat := fmul x (r.rrms eps)

/-- ROWAPPLY: the output of one element. -/
def HarpRec.applied (r : HarpRec) (mode eps x : Nat) : Nat :=
  match mode with
  | 0 => if (fp32.decode r.sum).isZero then 0 else fdiv (r.prob x) r.sum
  | 1 => r.prob x
  | 2 => r.xhatLn eps x
  | _ => r.xhatRms eps x

/-- ROWGRAD modes 0 to 3: one element `x` with its gradient `b`. -/
def HarpRec.dotAdd (mode eps x b : Nat) (r : HarpRec) : HarpRec :=
  match mode with
  | 0 => { r with dot := fadd r.dot (fmul (fdiv (r.prob x) r.sum) b) }
  | 1 => { r with dot := fadd r.dot (fmul x b) }
  | 2 => { r with dot := fadd r.dot (fmul b (r.xhatLn eps x)), dot2 := fadd r.dot2 b }
  | _ => { r with dot := fadd r.dot (fmul b (r.xhatRms eps x)) }

/-- ROWGRAD modes 4 to 6: the new gradient of one element. -/
def HarpRec.gradOf (mode eps x b : Nat) (r : HarpRec) : Nat :=
  match mode with
  | 4 => fmul (fdiv (r.prob x) r.sum) (fsub b r.dot)
  | 5 => fmul (fsub (fsub b (fdiv r.dot2 (fcount r.count))) (fmul (r.xhatLn eps x) (fdiv r.dot (fcount r.count)))) (r.rln eps)
  | _ => fmul (fsub b (fmul (r.xhatRms eps x) (fdiv r.dot (fcount r.count)))) (r.rrms eps)

/-! ### Elements in cluster memory -/

/-- The cluster-memory address of element `e` of row `r`. -/
def RowRef.at (d : RowRef) (e r : Nat) : Nat := d.base + d.estride * e + r * d.size

/-- R126: whether an element is masked. -/
def RowRef.masked (d : RowRef) (e r : Nat) : Bool := d.causal && decide (d.qpos + e > d.qq + r)

/-- An element as an FP32 code. -/
def State.rowElem (s : State) (k : Nat) (d : RowRef) (e r : Nat) : Nat :=
  match d.fmt.float? with
  | some f => fp32.round (f.decode (Mem.readLE s.mem (clusterAddr k (d.at e r)) d.size))
  | none => 0

/-- Whether an element lies in a poisoned sector, `bad` being the marks. -/
def rowBad (bad : List Nat) (k : Nat) (d : RowRef) (e r : Nat) : Bool :=
  let a := clusterAddr k (d.at e r)
  bad.any fun x => decide (a / 32 ≤ x ∧ x * 32 < a + d.size)

/-- The unmasked elements of a row, in index order. -/
def RowRef.unmasked (d : RowRef) (r : Nat) : List Nat := (List.range d.len).filter fun e => !d.masked e r

/-- The record of row `r` of a command. -/
def State.harpRec (s : State) (k n : Nat) : HarpRec := AMap.get (s.cluster k).records {} n

/-- Store a record. -/
def State.setHarpRec (s : State) (k n : Nat) (r : HarpRec) : State :=
  s.modCluster k fun q => { q with records := AMap.set q.records n r }

/-- R129: the record with POISON set when an element that the row reads lies in a sector that was poisoned before the command: the
marks that the command itself sets, for another row of the sector, are no source. -/
def readPoison (bad : List Nat) (k : Nat) (ds : List RowRef) (es : List Nat) (r : Nat) (x : HarpRec) : HarpRec :=
  if ds.any fun d => es.any fun e => rowBad bad k d e r then { x with poison := true } else x

/-- Write bytes of cluster memory for a row, poisoned with its record; a sector already poisoned by another row of the
same command stays so. -/
def State.rowPut (s : State) (k a : Nat) (bs : List Byte) (poison : Bool) : State :=
  let t := clusterAddr k a
  if poison then s.putShared t bs true
  else ({ s with mem := Mem.writeN s.mem t bs } : State).clmOver t bs.length

/-- A conversion counted in the harp's counters (R128). -/
def State.harpCount (s : State) (k : Nat) (n : Counts) : State :=
  let c := s.clusterCtx k
  (((((s.bump .hrpCntElems [k] n.elems c 2 k).bump .hrpCntSat [k] n.sat c 2 k).bump .hrpCntFlush [k] n.flush c 2 k).bump
    .hrpCntNan [k] n.nan c 2 k).bump .hrpCntInf [k] n.inf c 2 k)

/-- Convert an output (R128): the bytes of the code, and the counts. -/
def RowRef.output (d : RowRef) (seed step : BitVec 64) (key : KeyRef) (e r y : Nat) : List Byte × ConvOut :=
  let o := d.fmt.convert (keyRnd seed step key false e r) ((fp32.decode y).shift d.oscale)
  (leBytes d.size o.code, o)

/-- Write converted outputs of one row, `ys` giving each element its FP32 value or `none` where it is masked. A masked element is
written as 0 and is no conversion (DESIGN CHOICE, assumption log 122). -/
def State.writeRow (s : State) (k : Nat) (d : RowRef) (seed step : BitVec 64) (key : KeyRef) (r : Nat) (poison : Bool) :
    Counts → List (Nat × Option Nat) → State × Counts
  | n, [] => (s, n)
  | n, (e, none) :: ys =>
    State.writeRow (s.rowPut k (d.at e r) (List.replicate d.size 0) poison) k d seed step key r poison n ys
  | n, (e, some y) :: ys =>
    let (bs, o) := d.output seed step key e r y
    State.writeRow (s.rowPut k (d.at e r) bs poison) k d seed step key r poison (n.add o 0) ys

/-- The lane of a field-major block as a record. -/
def State.blockLane (s : State) (k : Nat) (d : RowRef) (r : Nat) : HarpRec :=
  let f (i : Nat) : Nat := Mem.readLE s.mem (clusterAddr k (d.base + d.estride * i + 4 * r)) 4
  { max := f 0, sum := f 1, mean := f 2, m2 := f 3, dot := f 4, dot2 := f 5, count := f 6 % 2 ^ 31, poison := bit (f 6) 31 }

/-- Whether any sector of a lane of a field-major block is poisoned. -/
def blockBad (bad : List Nat) (k : Nat) (d : RowRef) (r : Nat) : Bool :=
  (List.range 7).any fun i => bad.contains (clusterAddr k (d.base + d.estride * i + 4 * r) / 32)

/-- Write one record as a lane of a field-major block. -/
def State.exportLane (s : State) (k : Nat) (d : RowRef) (r : Nat) (x : HarpRec) : State :=
  let fs := [x.max, x.sum, x.mean, x.m2, x.dot, x.dot2, x.count + 2 ^ 31 * b2n x.poison]
  fs.zipIdx.foldl (fun s p => s.rowPut k (d.base + d.estride * p.2 + 4 * r) (leBytes 4 p.1) x.poison) s

/-! ### One row of a command -/

/-- The key of a command; a mode that writes converted values always has one (R123). -/
def HarpCmd.theKey (h : HarpCmd) : KeyRef := h.key.getD ⟨0, 0, 0⟩

/-- Row `r` of a ROWSTAT, ROWAPPLY or ROWGRAD; `bad` holds the poison marks as the command finds them. Where a
command has a DESC2 too, DESC's STAT, EPS, CAUSAL, QPOS and QQ govern (DESIGN CHOICE, assumption log 122). -/
def State.harpRow (s : State) (bad : List Nat) (k : Nat) (q : HarpQ) (r : Nat) : State :=
  let h := q.cmd
  let d := h.d1
  let n := d.stat + r
  let x0 := s.harpRec k n
  let es := d.unmasked r
  let ctx := s.clusterCtx k
  let seed := (s.ctx (ctx.getD 0)).seed
  let d2 := h.d2.getD d
  let accumulate (f : Nat → HarpRec → HarpRec) (x : HarpRec) : HarpRow :=
    es.foldl (fun w e => w.limited 1 (f (s.rowElem k d e r))) ⟨x, false⟩
  let stopped (w : HarpRow) (s : State) : State := s.bump .hrpCntLimit [k] (b2n w.stopped) ctx 2 k
  let poisoned (x : HarpRec) (s : State) : State := s.bump .hrpCntPoison [k] (b2n x.poison) ctx 2 k
  match h.op, h.mode with
  | 0, 0 => s.setHarpRec k n .cleared
  | 0, 3 =>
    let w := accumulate HarpRec.momentsAdd (readPoison bad k [d] es r x0)
    stopped w (s.setHarpRec k n w.row)
  | 0, 4 =>
    let src := s.blockLane k d r
    let x := if blockBad bad k d r then { x0 with poison := true } else x0
    let w := (HarpRow.mk x false).limited src.count (HarpRec.merge src)
    stopped w (s.setHarpRec k n w.row)
  | 0, 5 => poisoned x0 (s.exportLane k d r x0)
  | 0, m =>
    let w := accumulate HarpRec.softmaxAdd (readPoison bad k [d] es r x0)
    let s := stopped w (s.setHarpRec k n w.row)
    if m = 2 then
      let corr := if w.row.max = negInf then fone else fexp2 (fmul (fsub x0.max w.row.max) l2e)
      poisoned w.row (s.rowPut k (d2.base + 4 * r) (leBytes 4 corr) w.row.poison)
    else s
  | 1, m =>
    let x := readPoison bad k [d] es r x0
    let ys := (List.range d.len).map fun e =>
      (e, if d.masked e r then none else some (x.applied m d.eps (s.rowElem k d e r)))
    let (s, cnt) := (s.setHarpRec k n x).writeRow k d2 seed q.step h.theKey r x.poison {} ys
    poisoned x (s.harpCount k cnt)
  | _, 7 => s.setHarpRec k n { x0 with dot := 0, dot2 := 0 }
  | _, m =>
    let x := readPoison bad k [d, d2] es r x0
    if m < 4 then
      s.setHarpRec k n (es.foldl (fun x e => x.dotAdd m d.eps (s.rowElem k d e r) (s.rowElem k d2 e r)) x)
    else
      let ys := (List.range d.len).map fun e =>
        (e, if d.masked e r then none else some (x.gradOf m d.eps (s.rowElem k d e r) (s.rowElem k d2 e r)))
      let (s, cnt) := (s.setHarpRec k n x).writeRow k d2 seed q.step h.theKey r x.poison {} ys
      poisoned x (s.harpCount k cnt)

/-- The rows of a command, in order. -/
def State.harpRows (s : State) (bad : List Nat) (k : Nat) (q : HarpQ) : List Nat → State
  | [] => s
  | r :: rs => State.harpRows (s.harpRow bad k q r) bad k q rs

/-- A vector of a command's outputs: the address of its row 0, and the bytes of a row. -/
def HarpCmd.outputs (h : HarpCmd) : List (Nat × Nat) :=
  let d2 := h.d2.getD h.d1
  match h.op, h.mode with
  | 0, 5 => (List.range 7).map fun i => (h.d1.base + h.d1.estride * i, 4)
  | 0, 2 => [(d2.base, 4)]
  | 0, _ => []
  | 1, _ => (List.range d2.len).map fun e => (d2.at e 0, d2.size)
  | _, m => if 4 ≤ m ∧ m ≤ 6 then (List.range d2.len).map fun e => (d2.at e 0, d2.size) else []

/-- The sectors that a command has written whole, every row in them unpoisoned: they lose an older poison mark. -/
def State.harpClean (s : State) (k : Nat) (h : HarpCmd) : State :=
  let clean (r : Nat) : Bool := !(s.harpRec k (h.d1.stat + r)).poison
  let secs := (h.outputs.map fun o =>
    let a := clusterAddr k o.1
    ((List.range (h.d1.rows * o.2 / 32 + 1)).map (a / 32 + ·)).filter fun x =>
      decide (a ≤ 32 * x ∧ 32 * x + 32 ≤ a + h.d1.rows * o.2) &&
        (List.range h.d1.rows).all fun r => clean r || decide (a + o.2 * (r + 1) ≤ 32 * x ∨ 32 * x + 32 ≤ a + o.2 * r)).flatten
  { s with bad := s.bad.filter fun x => !secs.contains x }

/-! ### ORTHO -/

/-- The dot product of two columns, one term at a time. -/
def fdot (a b : List Nat) : Nat := (a.zip b).foldl (fun acc p => fadd acc (fmul p.1 p.2)) 0

/-- Steps 2 and 3 of a column: subtract the projections on the earlier columns, scale. The flag tells a column written as
zeros (R130). -/
def orthoColumn (qs : List (List Nat)) (v : List Nat) : List Nat × Bool :=
  let v := qs.foldl (fun v q => let p := fdot q v; (v.zip q).map fun x => fsub x.1 (fmul p x.2)) v
  let n := fdot v v
  let small := match fp32.decode n with
    | .fin neg m e => neg || m == 0 || (Val.fin false m e).le (.fin false 1 (-126)) && !(Val.fin false 1 (-126)).le (.fin false m e)
    | _ => false
  if small then (v.map fun _ => 0, true) else (v.map fun x => fmul x (frsqrt n), false)

/-- All columns in order. -/
def orthoColumns : List (List Nat) → List (List Nat) → Nat → List (List Nat) × Nat
  | qs, [], n => (qs, n)
  | qs, v :: vs, n => let (q, z) := orthoColumn qs v; orthoColumns (qs ++ [q]) vs (n + b2n z)

/-- ORTHO. -/
def State.ortho (s : State) (k : Nat) (h : HarpCmd) : State :=
  let d := h.d1
  let col (c : Nat) : Nat := clusterAddr k (d.base + d.estride * c)
  let vs := (List.range h.r).map fun c => (List.range d.len).map fun i => Mem.readLE s.mem (col c + 4 * i) 4
  let bad := (List.range h.r).any fun c => !(s.badIn (col c) (4 * d.len)).isEmpty
  let (qs, z) := orthoColumns [] vs 0
  let s := qs.zipIdx.foldl (fun s p => s.putShared (col p.2) (p.1.map (leBytes 4)).flatten bad) s
  s.bump .hrpCntRankdef [k] z (s.clusterCtx k) 2 k

/-! ### Beginning and completing -/

/-- Bytes that a command moves. -/
def HarpCmd.bytes (h : HarpCmd) : Nat :=
  let n := h.d1.len * h.d1.rows
  let s1 := h.d1.size
  let s2 := (h.d2.getD h.d1).size
  match h.op, h.mode with
  | 0, 0 | 2, 7 => 0
  | 0, 2 => n * s1 + 512
  | 0, 4 | 0, 5 => 3584
  | 0, _ => n * s1
  | 1, _ => n * (s1 + s2)
  | _, m => if m < 4 then n * (s1 + s2) else n * (s1 + 2 * s2)

/-- Beats of a command. -/
def HarpCmd.beats (h : HarpCmd) : Nat :=
  if h.op = 3 then (h.d1.len + 63) / 64 * (h.r * (h.r + 1) / 2) + 40
  else max ((128 * h.d1.len + 255) / 256) ((h.bytes + 511) / 512) + 40

/-- Take the harp command at the head of a core's queue over on its start beat. -/
def State.harpHand (s : State) (c op : Nat) : State :=
  s.startWith c 7 (fun | .harp h => h.op == op | _ => false) fun s e =>
    match e.cmd with
    | .harp h =>
      (s.popHead c 7).modCluster (clusterOf c) fun q =>
        { q with harpQ := q.harpQ ++
            [{ port := c % 4, core := c, start := e.start, ready := some s.dev.period, step := e.step, cmd := h }] }
    | _ => s

/-- The command that has become ready first, the lower PORT on a tie (R124). -/
def harpFirst : List HarpQ → Option HarpQ
  | [] => none
  | h :: hs =>
    match harpFirst hs with
    | none => some h
    | some g =>
      let a := h.ready.getD 0
      let b := g.ready.getD 0
      if a < b ∨ (a = b ∧ h.port ≤ g.port) then some h else some g

/-- R131: whether a PROGRAM_LOAD or CONTEXT_DESTROY of a cluster's context, or a reset of the contexts (R267), waits: the harp's
commands that have not begun are discarded by it, so none begins any more. -/
def State.harpHeld (s : State) (k : Nat) : Bool :=
  match s.clusterCtx k with
  | none => false
  | some c => s.field .hubState [] 2 0 == 6 || s.dev.mbox.any fun p =>
      match p.2.cmd with
      | some a => a.begun && ((a.op == 0x30 && p.2.owner == some c) || (a.op == 0x21 && leNat (a.payload.take 4) == c))
      | none => false

/-- HARP_COMMAND_BEGIN. -/
def State.harpBegin (s : State) (k : Nat) : State :=
  let q := s.cluster k
  match q.harpCur, harpFirst q.harpQ with
  | none, some h => if s.regionStopped k ∨ s.harpHeld k then s else s.setCluster k { q with harpCur := some (h, s.dev.period + h.cmd.beats), harpQ := q.harpQ.erase h }
  | _, _ => s

/-- Put off the end of the harp's command. -/
def State.harpDelay (s : State) (k n : Nat) : State :=
  s.modCluster k fun q => { q with harpCur := q.harpCur.map fun p => (p.1, p.2 + n) }

/-- HARP_COMMAND_COMPLETE: the writes of the command, then its flag. -/
def State.harpComplete (s : State) (k : Nat) : State :=
  match (s.cluster k).harpCur with
  | none => s
  | some (h, till) =>
    if s.dev.period < till ∨ s.regionStopped k then s
    else
      let s := if h.cmd.op = 3 then s.ortho k h.cmd else (s.harpRows s.bad k h (List.range h.cmd.d1.rows)).harpClean k h.cmd
      (s.modCluster k fun q =>
        { q with harpCur := none, flags := AMap.set q.flags h.cmd.flag ((AMap.get q.flags 0 h.cmd.flag + 1) % 65536) }).bump
          .hrpCntOps [k] 1 (s.clusterCtx k) 2 k

/-- ROWSTAT: handed to the harp. -/
def execRowstat (c : CoreId) (s : State) : Host.Outcome State Fault Refusal := .next (s.harpHand c 0)
/-- ROWAPPLY: handed to the harp. -/
def execRowapply (c : CoreId) (s : State) : Host.Outcome State Fault Refusal := .next (s.harpHand c 1)
/-- ROWGRAD: handed to the harp. -/
def execRowgrad (c : CoreId) (s : State) : Host.Outcome State Fault Refusal := .next (s.harpHand c 2)
/-- ORTHO: handed to the harp. -/
def execOrtho (c : CoreId) (s : State) : Host.Outcome State Fault Refusal := .next (s.harpHand c 3)
/-- HARP_COMMAND_BEGIN (R124). -/
def execHarpCommandBegin (k : ClusterId) (s : State) : Host.Outcome State Fault Refusal := .next (s.harpBegin k)
/-- HARP_COMMAND_COMPLETE (R124 to R130). -/
def execHarpCommandComplete (k : ClusterId) (s : State) : Host.Outcome State Fault Refusal := .next (s.harpComplete k)

end Sys2Proof.Machine
end

