-- ==== Sys2Proof/Machine/Streams.lean ====
section
/-!
DEFINITION. The stream engine (R172 to R187) and paced mode (R188 to R190): arms and their waits, entries begun and
completed, injection ports, atomics in the hub cache (R159, R160), deadlock scans, and period boundaries.
-/
namespace Sys2Proof.Machine

/-- Record STR_FAULT and raise a code of a cluster's stream engine. -/
def State.streamFault (s : State) (k code cause stream entry : Nat) (addr : Nat := 0) : State :=
  (s.recordFault .strFault [k] 8 (word [(code, 48), (stream, 42), (entry, 26), (cause, 0)])).raise code
    { kind := 1, index := k, ctx := s.clusterCtx k, detail := BitVec.ofNat 64 addr }

/-- An entry that fails R173 or R174: the stream enters FAULTED. Of a memory fault the record holds the address. -/
def State.entryFault (s : State) (k x code cause entry : Nat) (addr : Nat := 0) : State :=
  (s.modStream k x fun t => { t with st := .faulted }).streamFault k code cause x entry addr

/-! ### Arming (R175 to R177) -/

/-- An arm takes effect: ARMED; an arm wait that is held goes with it. -/
def StreamS.takeArm (t : StreamS) (entry n period : Nat) : StreamS :=
  { t with st := .armed, next := entry, left := n, firstOfArm := true, armedAt := period, pend := none, takenWait := t.armWait,
           armWait := none, met := false }

/-- R176: an arm is received. -/
def State.armStream (s : State) (k x entry n : Nat) : State :=
  match (s.stream k x).st, (s.stream k x).pend with
  | .idle, _ | .done, _ => s.modStream k x fun t => t.takeArm entry n s.dev.period
  | .faulted, _ => s
  | _, none => s.modStream k x fun t => { t with pend := some (entry, n) }
  | _, some _ => s.streamFault k 0x0201 2 x 0

/-- R177: a WAITST is received. -/
def State.waitStream (s : State) (k x on tgt : Nat) : State :=
  match (s.stream k x).armWait with
  | none => s.modStream k x fun t => { t with armWait := some (on, tgt) }
  | some _ => s.streamFault k 0x0201 2 x 0

/-- Start the command at the head of a core's stream queue. -/
def State.streamCmd (s : State) (c : Nat) (e : QEntry) : State :=
  match e.cmd with
  | .arm x entry n => (s.popHead c 6).armStream (clusterOf c) x entry n
  | .waitst x on tgt => (s.popHead c 6).waitStream (clusterOf c) x on tgt
  | _ => s

/-- Start the stream command of a core, if `p` accepts it. -/
def State.streamStart (s : State) (c : Nat) (p : Cmd → Bool) : State := s.startWith c 6 p fun s e => s.streamCmd c e

/-! ### Waits (R180) -/

/-- Whether a count has reached a target, modulo 2 ^ 16. -/
def reached16 (count tgt : Nat) : Bool := decide ((count % 65536 + 65536 - tgt % 65536) % 65536 < 32768)

/-- Whether the own wait of an entry holds. -/
def State.waitHolds (s : State) (k : Nat) (e : Entry) : Bool :=
  match e.waitk with
  | 1 => reached16 (s.stream k e.waiton).doneCnt e.waitcnt
  | 2 => match s.clusterCtx k with | some c => reached16 (s.ctx c).prog e.waitcnt | none => false
  | 3 => reached16 (s.flow e.flow).msgs e.waitcnt
  | _ => true

/-- Whether the arm wait of a stream's first entry holds. -/
def State.armHolds (s : State) (k : Nat) (t : StreamS) : Bool :=
  match t.firstOfArm, t.takenWait with
  | true, some (on, tgt) => reached16 (s.stream k on).doneCnt tgt
  | _, _ => true

/-- Whether a stream has an entry to begin. -/
def StreamS.pending (t : StreamS) : Bool := (t.st == .armed || t.st == .running) && decide (0 < t.left)

/-- Whether the next entry waits under R178. -/
def State.entryWaits (s : State) (k x : Nat) : Bool :=
  let t := s.stream k x
  let e := (s.cluster k).entry t.next
  -- a run that waits for credit holds back the stream's later entries (R203)
  let held := s.dev.link.sends.any fun r => match r.who with | .stream c y _ => c == k && y == x | _ => false
  t.pending && !(!held && ((t.met || s.waitHolds k e) && s.armHolds k t) && (!e.fence || t.begun.all (·.complete)) &&
    decide (t.inFlight < 8) && decide ((s.cluster k).inFlight < 256))

/-! ### Reach (R174) -/

/-- The reach of one run of tier space for a stream of cluster `k`, as a failing address with the MEM_FAULT cause. -/
def State.runReach (s : State) (k c a n : Nat) : Option (Nat × Nat) := s.reachVia (some k) c a n

/-- The MEM_FAULT cause of an address that is out of reach: 1 a hole, 0 outside the context (R148). -/
def State.outside (s : State) (a : Nat) : Nat := match s.space a with | .hole => 1 | _ => 0

/-- The first run of an entry whose near end is not what R174 allows: its address past the 24 MiB or 128 MiB, or in a core that holds
no slot. -/
def State.nearRefused (s : State) (k : Nat) (e : Entry) : Option Nat :=
  let lim := spaceLimit (!e.nspace)
  if ¬ e.hasNear ∨ e.count = 0 then none
  else if e.nspace ∧ (s.core (4 * k + e.port)).slot.isNone then some (e.nearAddr k 0)
  else if e.near + e.nearLen * e.count > lim then
    some (max (e.nearAddr k 0) (if e.nspace then localAddr (4 * k + e.port) lim else clusterAddr k lim))
  else none

/-- R174: why an entry is not performed: the code, STR_FAULT.CAUSE, and the MEM_FAULT cause and address (of a SEND, the entry's
ADDR: assumption log 100). -/
def State.entryRefused (s : State) (k c : Nat) (e : Entry) : Option (Nat × Nat × Option (Nat × Nat)) :=
  let x := s.ctx c
  let range (a q : Nat) : Option (Nat × Nat × Option (Nat × Nat)) := some (0x0104, 1, some (q, a))
  let near : Option (Nat × Nat × Option (Nat × Nat)) := (s.nearRefused k e).bind fun a => range a (s.outside a)
  let runs := List.range e.count
  let far : Option (Nat × Nat × Option (Nat × Nat)) :=
    match e.op with
    | 0 | 7 => (runs.findSome? fun i => s.runReach k c (e.far i) e.len).bind fun r => range r.1 r.2
    | 1 =>
      match runs.findSome? fun i => s.runReach k c (e.far i) e.len with
      | some r => range r.1 r.2
      | none => (runs.findSome? fun i => s.roRefuses (e.far i) e.len).bind fun a => some (0x0306, 1, some (4, a))
    | 2 =>
      match runs.findSome? fun i =>
          (match s.space (e.far i) with | .hub _ => none | _ => some (e.far i, 2)).or (s.runReach k c (e.far i) e.len) with
      | some r => range r.1 r.2
      | none =>
        let slab (a : Nat) : Bool := match s.gran (a / granBytes) with | some g => g.slab | none => false
        if e.aop = 7 ∧ ¬ runs.all fun i => slab (e.far i) then some (0x0203, 0, none) else none
    | 3 =>
      let w := s.flow e.flow
      if w.st ≠ .opened ∨ w.kind ≠ 0 ∨ w.fw ∨ w.ctx ≠ c then range e.addr 0
      else if e.len > w.slotSize then some (0x0203, 0, none)
      else none
    | 4 | 5 =>
      let lo := x.hostBase
      let hi := x.hostBase + x.hostLen
      if ¬ x.hostOk then range e.addr 0
      else (runs.find? fun i => ¬ (lo ≤ e.far i ∧ e.far i + e.len ≤ hi)).bind fun i => range (e.far i) 0
    | _ => none
  far.or near

/-! ### Performing an entry (R179, R181, R182) -/

/-- Whether a run is below the minimum efficient size of its target. -/
def State.smallRun (s : State) (e : Entry) (i : Nat) : Bool :=
  match e.op with
  | 3 => decide (e.len < 4096)
  | 4 | 5 => decide (e.len < 512)
  | 6 => false
  | _ =>
    let unit := (s.gran (e.far i / granBytes)).map (·.at_)
    match unit with
    | some 0 => decide (e.len < 64)
    | some 9 => decide (e.len < 1024)
    | some 10 => decide (e.len < 16384)
    | some _ => decide (e.len < 2048)
    | none => false

/-- The bus address of host memory behind a function's link, as the model keys it. -/
def hostKey (fn a : Nat) : Nat := fn * 2 ^ 64 + a

/-- Issue run `i` of an entry: a run of stacked memory moves its bytes as its requests proceed, any other at once (R157, R181). -/
def State.performRun (s : State) (k c x : Nat) (e : Entry) (seq i : Nat) : State :=
  let who : Waiter := .stream k x seq
  let a := e.far i
  let b := e.nearAddr k i
  let s := if s.smallRun e i then s.bump .strCntSmall [k] 1 (s.clusterCtx k) 1 k else s
  match e.op with
  | 0 =>
    if e.nhoop then
      ((s.touch a e.len).regulate c a e.len who fun _ _ => .port k x seq i).modCluster k fun q =>
        { q with portWait := AMap.set q.portWait e.port (AMap.get q.portWait [] e.port ++ [⟨x, seq, i, a, e.len, e.gpar⟩]) }
    else (s.touch a e.len).regulate c a e.len who fun lo n => .copy lo (b + (lo - a)) n k
  | 1 => (s.touch a e.len).regulate c a e.len who fun lo n => .copy (b + (lo - a)) lo n k
  | 2 => { s with dev := { s.dev with hubQ := s.dev.hubQ ++ [.atomic ⟨k, x, seq, a, b, e.aop, e.atype⟩] } }
  | 3 => s.modLink fun l => { l with sends := l.sends ++ [⟨e.flow, b, e.len, who⟩] }
  | 4 => s.putShared b (Mem.readN s.host.mem (hostKey (s.ctx c).hostFn a) e.len) false
  | 5 =>
    ({ s with host := { s.host with mem := Mem.writeN s.host.mem (hostKey (s.ctx c).hostFn a) (s.bytes b e.len) } }).countPoison k
      (s.badIn b e.len).length
  | 7 => (s.touch a e.len).regulate c a e.len who fun lo n => .desc k (e.near + (e.len / 32) * i + (lo - a) / 32) lo n
  | _ => s

/-- Runs that wait for a port enter it, in order, once their bytes have been read and while it has room: 128 KiB (R184). -/
def State.pumpPort (k port : Nat) : Nat → State → State
  | 0, s => s
  | n + 1, s =>
    let q := s.cluster k
    match AMap.get q.portWait [] port with
    | [] => s
    | w :: ws =>
      let runs := AMap.get q.ports [] port
      if (runs.map (·.data.length)).foldl (· + ·) 0 + w.len > 131072 ∨
          s.actWaits (.port k w.stream w.seq w.run) then s
      else
        let bad := (s.badIn w.addr w.len).map (· - w.addr / 32)
        let gp := if w.gpar then some (match s.gran (w.addr / granBytes) with | some g => g.parity | none => false) else none
        State.pumpPort k port n ((s.modCluster k fun q =>
          { q with portWait := AMap.set q.portWait port ws, ports := AMap.set q.ports port (runs ++ [⟨s.bytes w.addr w.len, bad, gp⟩]) }).countPoison
            k bad.length)

/-- Let runs enter the four injection ports of a cluster. -/
def State.pumpPorts (s : State) (k : Nat) : State :=
  (List.range 4).foldl (fun s p => State.pumpPort k p (AMap.get (s.cluster k).portWait [] p).length s) s

/-- Whether everything of an entry has been performed (*Completion of an entry*). -/
def State.entryDone (s : State) (k x seq : Nat) : Bool :=
  let who : Waiter := .stream k x seq
  !s.waits who && !s.sending who &&
    !((s.cluster k).portWait.any fun p => p.2.any fun w => w.stream == x && w.seq == seq)

/-- Completed entries at the front of a stream's order are counted; after the last one the stream is DONE, or its pending
arm takes effect on the same beat (R176, R179). -/
def StreamS.count (t : StreamS) (period : Nat) : StreamS :=
  let n := (t.begun.takeWhile (·.complete)).length
  let t := { t with begun := t.begun.drop n, doneCnt := (t.doneCnt + n) % 65536 }
  if t.st = .draining ∧ t.begun = [] then
    match t.pend with
    | some (e, n) => t.takeArm e n period
    | none => { t with st := .done }
  else t

/-- Mark the entries of a stream whose work is done as completed, and count. -/
def State.settle (s : State) (k x : Nat) : State :=
  let t := s.stream k x
  let fresh := t.begun.filter fun b => !b.complete && s.entryDone k x b.seq
  let s := s.bump .strCntEntries [k] fresh.length (s.clusterCtx k) 1 k
  s.modStream k x fun t =>
    { t with begun := t.begun.map fun b => if fresh.contains b then { b with complete := true } else b }.count s.dev.period

/-- STREAM_ENTRY_COMPLETE. -/
def State.entryComplete (s : State) (k x : Nat) : State := if s.regionStopped k then s else (s.pumpPorts k).settle k x

/-- An entry begins: its stream moves on in its list, and its runs are performed in order. -/
def State.performEntry (s : State) (k c x : Nat) (e : Entry) : State :=
  let seq := (s.stream k x).seq
  let s := s.modCluster k fun q => { q with began := some (s.dev.period, x) }
  let s := s.modStream k x fun t =>
    { t with st := if t.left ≤ 1 then .draining else .running, next := t.next + 1, left := t.left - 1, firstOfArm := false,
             takenWait := none, armedAt := s.dev.period, met := false, seq := seq + 1,
             begun := t.begun ++ [⟨t.next, seq, false⟩] }
  let s := (List.range e.count).foldl (fun s i => s.performRun k c x e seq i) s
  let s := if e.op = 3 then s.pump e.flow else s
  let s := if e.nhoop then s.pumpPorts k else s
  if e.op = 6 then s.settle k x else s

/-- Whether a stream of a higher number has begun an entry in this period: entries of one beat begin in the order of their streams, so
that ties at their targets go to the lower one (R181); that a lower stream then waits for the next beat is a DESIGN CHOICE (assumption
log 124). -/
def State.laterBegan (s : State) (k x : Nat) : Bool :=
  match (s.cluster k).began with
  | some (p, y) => p == s.dev.period && decide (x < y)
  | none => false

/-- STREAM_ENTRY_BEGIN (R173, R174, R178). -/
def State.entryBegin (s : State) (k x : Nat) : State :=
  let t := s.stream k x
  match s.clusterCtx k with
  | none => s
  | some c =>
    if (s.ctx c).halted ∨ ¬ t.pending ∨ s.dev.period ≤ t.armedAt ∨ s.regionStopped k ∨ s.laterBegan k x then s
    else
      let e := (s.cluster k).entry t.next
      let s := s.modStream k x fun z =>
        { z with met := t.met || s.waitHolds k e, takenWait := if s.armHolds k t then none else t.takenWait }
      if s.entryWaits k x then s
      else if ¬ e.formatOk then s.entryFault k x 0x0203 0 t.next
      else
        match s.entryRefused k c e with
        | some (code, cause, m) =>
          let s := match m with | some (q, a) => s.memFault code 0 c k q a | none => s
          s.entryFault k x code cause t.next ((m.map (·.2)).getD 0)
        | none => s.performEntry k c x e

/-! ### Atomics (R159, R160) -/

/-- The old and new value of an atomic on `n` bytes. -/
def atomicValue (aop atype old x cmp : Nat) : Nat :=
  let w := if atype = 1 then 64 else 32
  let lt (a b : Nat) : Bool := decide (sint w a < sint w b)
  match aop with
  | 0 => if atype = 2 then fadd old x else (old + x) % 2 ^ w
  | 1 => if atype = 2 then fp32.round ((fp32.decode old).min (fp32.decode x)) else if lt x old then x else old
  | 2 => if atype = 2 then fmax old x else if lt old x then x else old
  | 3 => old &&& x
  | 4 => old ||| x
  | 5 => x
  | 6 => if old = cmp then x else old
  | _ => old

/-- An atomic is applied: its old value is written to its record, poisoned for a poisoned word. -/
def State.applyAtomic (s : State) (a : AtomicReq) : State :=
  let n := if a.atype = 1 then 8 else 4
  let old := leNat (s.bytes a.target n)
  let x := leNat (s.bytes a.rcd n)
  let cmp := leNat (s.bytes (a.rcd + 8) n)
  let badWord := !(s.badIn a.target n).isEmpty
  let badOp := !(s.badIn a.rcd 16).isEmpty
  let s := s.touch a.target n
  if a.aop = 7 then
    s.put a.target (leBytes 8 (acc48 old (if badOp then none else some (sint 48 x)))) false
  else
    let s := s.put a.target (leBytes n (atomicValue a.aop a.atype old x cmp)) (badWord || badOp)
    let s := s.countPoison a.cluster (b2n badOp + b2n badWord)
    (s.putShared (a.rcd + 16) (leBytes 8 old) badWord).seeRelease a.target

/-- HUB_ATOMIC: the oldest atomic is applied, and the runs that reached the hub cache after it proceed (R181). -/
def State.hubAtomic (s : State) : State :=
  match s.dev.hubQ with
  | .atomic a :: rest =>
    if s.regionStopped 17 then s else ({ s with dev := { s.dev with hubQ := rest } }.applyAtomic a).releaseHub
  | _ => s

/-! ### Deadlock (R185) -/

/-- The edges of a stream's wait-for record: the streams that its arm wait and its next entry's own wait await and that have no
begun entry in flight. -/
def State.waitEdges (s : State) (k x : Nat) : List Nat :=
  let t := s.stream k x
  let e := (s.cluster k).entry t.next
  let arm := if s.armHolds k t then [] else t.takenWait.toList.map (·.1)
  let own := if t.met ∨ e.waitk ≠ 1 ∨ s.waitHolds k e then [] else [e.waiton]
  if t.pending then (arm ++ own).filter fun y => (s.stream k y).inFlight == 0 else []

/-- The streams that `n` rounds of edges lead to from those of a list. -/
def State.awaitedFrom (s : State) (k : Nat) : Nat → List Nat → List Nat
  | 0, l => l
  | n + 1, l => State.awaitedFrom s k n (l.foldl (fun l y => (s.waitEdges k y).foldl insertNat l) l)

/-- The streams that a stream waits for, at any distance. -/
def State.awaits (s : State) (k x : Nat) : List Nat := State.awaitedFrom s k 64 (s.waitEdges k x)

/-- The streams on the cycles of edges through a stream; none if it is on no cycle. -/
def State.cycle (s : State) (k x : Nat) : List Nat :=
  let l := s.awaits k x
  if x ∈ l then l.filter fun y => decide (x ∈ s.awaits k y) else []

/-- DEADLOCK_SCAN: each cycle of edges is a deadlock, reported once with its lowest stream (R185). -/
def State.deadlockScan (s : State) (k : Nat) : State :=
  if s.regionStopped k then s
  else
    let s := s.bump .strCntScans [k] 1 (s.clusterCtx k) 1 k
    (List.range 64).foldl (fun t x =>
      let l := s.cycle k x
      if l ≠ [] ∧ l.all (fun y => decide (x ≤ y)) then
        let t := l.foldl (fun t y => t.modStream k y fun z => { z with st := .faulted }) t
        let t := t.streamFault k 0x0202 3 x 0
        match t.clusterCtx k with | some c => t.eventHalt c | none => t
      else t) s

/-! ### Reset of streams (R186) -/

/-- Whether every begun entry of a context's streams has completed. -/
def State.streamsDrained (s : State) (c : Nat) : Bool :=
  (List.range 16).all fun k => !(s.ctx c).hasCluster k || (s.cluster k).inFlight == 0

/-- The streams of a cluster become IDLE and its injection ports empty. -/
def State.idleStreams (s : State) (k : Nat) : State :=
  s.modCluster k fun q => { q with streams := [], ports := [], portWait := [] }

/-- R187: the descriptor store accepts writes while no core of the cluster is RUNNING or FROZEN. -/
def State.storeOpen (s : State) (k : Nat) : Bool := (List.range 4).all fun i => !(s.core (4 * k + i)).live

/-! ### Registers of the stream engine -/

/-- STATE codes. -/
def StreamSt.code : StreamSt → Nat
  | .idle => 0
  | .armed => 1
  | .running => 2
  | .draining => 3
  | .done => 4
  | .faulted => 5

/-- STR_STATUS. -/
def State.strStatus (s : State) (k : Nat) : BitVec 64 :=
  let q := s.cluster k
  let fill (p : Nat) : Nat := ((AMap.get q.ports [] p).map (·.data.length)).foldl (· + ·) 0 / 512
  word [(q.inFlight, 36), (fill 3, 27), (fill 2, 18), (fill 1, 9), (fill 0, 0)]

/-- STR_CTXk. -/
def State.strCtx (s : State) (k x : Nat) : BitVec 64 :=
  let t := s.stream k x
  let portWaits := (s.cluster k).portWait.any fun p => p.2.any fun w => w.stream == x
  word [(t.doneCnt, 48), (t.next % 65536, 32), (t.left, 22), (t.inFlight, 18), (b2n (s.entryWaits k x || portWaits), 3), (t.st.code, 0)]

/-- STR_ARMk. -/
def State.strArm (s : State) (k x : Nat) : BitVec 64 :=
  let t := s.stream k x
  word ((match t.armWait.or t.takenWait with | some (on, tgt) => [(1, 58), (on, 52), (tgt % 65536, 36)] | none => []) ++
    match t.pend with | some (e, n) => [(1, 26), (e, 10), (n, 0)] | none => [])

/-- STR_WAITk. -/
def State.strWait (s : State) (k x : Nat) : BitVec 64 :=
  let t := s.stream k x
  let e := (s.cluster k).entry t.next
  let edge := (b2n !(s.waitEdges k x).isEmpty, 63)
  if ¬ t.pending then 0
  else if ¬ s.armHolds k t then
    match t.takenWait with
    | some (on, tgt) => word [edge, (1, 62), (1, 60), (on, 54), (e.buf, 46), (tgt % 65536, 30)]
    | none => 0
  else if ¬ t.met ∧ ¬ s.waitHolds k e then
    word [edge, (1, 62), (e.waitk, 60), (if e.waitk = 1 then e.waiton else 0, 54), (e.buf, 46), (e.waitcnt, 30),
      (if e.waitk = 3 then e.flow else 0, 16)]
  else if s.entryWaits k x then word [(1, 62), (e.buf, 46)]
  else 0

/-! ### Paced mode (R188 to R190) -/

/-- A boundary reaches a core: it is pending until consumed. -/
def Core.boundary (q : Core) : Core := q.modSeq fun z => { z with received := z.received + 1 }

/-- Whether a core is frozen at a GATE.TIME with no pending boundary. -/
def Core.atTime (q : Core) : Bool :=
  q.st == .frozen && (match q.seqr.frz with | some f => f.cause == 6 | none => false) && q.seqr.received == q.seqr.consumed

/-- Whether the next boundary of a context is due: paced, running, and its period over since RUN or the last boundary
(R188). -/
def State.paceDue (s : State) (c : Nat) : Bool :=
  let x := s.ctx c
  x.valid && x.period != 0 && x.running && !x.halted && decide (x.paceAt ≤ s.dev.tick)

/-- PACE_BOUNDARY: the next boundary of a paced context that is not halted. -/
def State.paceBoundary (s : State) (c : Nat) : State :=
  let x := s.ctx c
  if ¬ s.paceDue c then s
  else
    let s := s.modCtx c fun x => { x with paceAt := x.paceAt + x.period }
    let b := s.field .paceBound [c] 47 0 + 1
    let late := (x.slots.zip (List.range x.slots.length)).filter fun p => !(s.core p.1).atTime
    let s := s.setField .paceBound [c] 47 0 b
    let s := x.slots.foldl (fun s k => s.modCore k Core.boundary) s
    match late with
    | [] => s
    | (_, slot) :: _ =>
      let s := s.bump .paceMiss [c] 1 (some c) 10 0
      let s := s.recordFault .paceLate [c] 63 (word [(slot, 48), (b % 2 ^ 48, 0)])
      let s := s.raise 0x0701 { kind := 10, index := 0, ctx := some c }
      if s.field .paceCfg [c] 62 62 = 1 then s.eventHalt c else s

/-! ### Rows -/

/-- ARM (R175, R176). -/
def execArm (c : CoreId) (s : State) : Host.Outcome State Fault Refusal :=
  .next (s.streamStart c fun | .arm _ _ _ => true | _ => false)

/-- WAITST (R177). -/
def execWaitst (c : CoreId) (s : State) : Host.Outcome State Fault Refusal :=
  .next (s.streamStart c fun | .waitst _ _ _ => true | _ => false)

/-- STREAM_ENTRY_BEGIN (R178). -/
def execStreamEntryBegin (k : ClusterId) (x : Fin 64) (s : State) : Host.Outcome State Fault Refusal := .next (s.entryBegin k x)

/-- STREAM_ENTRY_COMPLETE (R179). -/
def execStreamEntryComplete (k : ClusterId) (x : Fin 64) (s : State) : Host.Outcome State Fault Refusal :=
  .next (s.entryComplete k x)

/-- HUB_ATOMIC (R159): what waited behind it follows. -/
def execHubAtomic (s : State) : Host.Outcome State Fault Refusal := .next s.hubAtomic.settleLandings

/-- DEADLOCK_SCAN (R185). -/
def execDeadlockScan (k : ClusterId) (s : State) : Host.Outcome State Fault Refusal := .next (s.deadlockScan k)

/-- PACE_BOUNDARY (R188). -/
def execPaceBoundary (c : CtxId) (s : State) : Host.Outcome State Fault Refusal := .next (s.paceBoundary c)

end Sys2Proof.Machine
end

