-- ==== Sys2Proof/Machine/Gates.lean ====
section
/-!
DEFINITION. Gates, freezes, markers, halting, pick mode, barriers and flags (*Gates and freezes*, *Synchronisation*,
*Two streams, the interleave plan and pick mode*, *Step markers, halting and starting*: R60 to R66, R76 to R79).
-/
namespace Sys2Proof.Machine

/-! ### Conditions (R60 to R64) -/

/-- The freeze cause of a gate. -/
def Cmd.gateCause : Cmd → Nat
  | .gateArrive _ _ _ _ => 2
  | .gateStream _ _ => 3
  | .gateArray _ _ _ => 4
  | .gateBarrier _ _ _ => 5
  | _ => 6

/-- R63: the completed-entry count has reached the target, of a stream that is armed or done and not in FAULTED. -/
def State.streamMet (s : State) (c x tgt : Nat) : Bool :=
  let t := s.stream (clusterOf c) x
  t.st != .idle && t.st != .faulted && reached16 t.doneCnt tgt

/-- Whether the condition of a gate of core `c` holds (the table of gates). -/
def State.gateMet (s : State) (c : Nat) : Cmd → Bool
  | .gateArrive d turn early _ =>
    match (s.core c).hoop.awaited d turn with
    | some b => early || b.complete s.dev.period
    | none => false
  | .gateStream x tgt => s.streamMet c x tgt
  | .gateArray side level val =>
    let r := (s.core c).arr side
    if level then decide (val ≤ r.level s.dev.period) else decide ((r.done + 256 - val % 256) % 256 < 128)
  | .gateBarrier flag id tgt =>
    if flag then reached16 (AMap.get (s.cluster (clusterOf c)).flags 0 id) tgt
    else (AMap.find? (s.core c).bars id).isNone
  | .gateTime => (s.core c).seqr.received != (s.core c).seqr.consumed
  | _ => true

/-- R20 and R10: what the awaited tile's tag and the gate's descriptor show. -/
inductive TagCheck | pass | mismatch | format
  deriving DecidableEq, Repr

/-- Compare a tag with a tag descriptor, for a stream whose step count is `step` (R10, R20). -/
def Tag.compare (t : Tag) (r : TagRef) (step : BitVec 64) : TagCheck :=
  if t.tensor ≠ r.tensor ∨ t.row ≠ r.row ∨ t.col ≠ r.col
      ∨ (r.pchk ∧ ¬ t.frozen ∧ t.parity ≠ (step.toNat % 2 == 1)) then .mismatch
  else if t.fmt ≠ r.fmt then .format
  else .pass

/-- The tag of the awaited tile, when a GATE.ARRIVE with this descriptor is passed. -/
def State.gateTag (s : State) (c : Nat) : Cmd → Option (Dir × Tag × TagRef)
  | .gateArrive d turn _ r => ((s.core c).hoop.awaited d turn).map fun b => (d, b.tile.tag, r)
  | _ => none

/-- Pass a gate whose condition holds: the comparison of R20 for GATE.ARRIVE, one boundary consumed for GATE.TIME; a flag makes
the writes that its posts carry visible (R14). -/
def State.passGate (s : State) (c : Nat) (cmd : Cmd) (step : BitVec 64) : State :=
  match s.gateTag c cmd with
  | some (d, t, r) =>
    match t.compare r step with
    | .pass => s
    | .mismatch => (s.hoopFault c 0 d t).coreFault c 0x0101 step
    | .format => (s.hoopFault c 2 d t).coreFault c 0x0109 step
  | none =>
    match cmd with
    | .gateTime => s.modCore c fun k => k.modSeq fun q => { q with consumed := q.consumed + 1 }
    | .gateBarrier true f _ => s.clmFlag c f
    | _ => s

/-- A gate on its beat: passed, or the core freezes under the gate's cause with the gate at the head of its queue. -/
def State.gate (s : State) (c : Nat) (e : QEntry) : State :=
  if s.gateMet c e.cmd then (s.popHead c 0).passGate c e.cmd e.step else s.freeze c e.cmd.gateCause 0

/-! ### Markers and the HALT instruction (R78, R79) -/

/-- Source 1 of a rind wave: the MARK of slot S0's forward or only stream after which the step count equals STEP. -/
def State.markTrigger (s : State) (c : Nat) (e : QEntry) : State :=
  match (s.core c).owner with
  | none => s
  | some x =>
    match (s.ctx x).arming with
    | some a =>
      if a.src = 1 ∧ ¬ a.fired ∧ a.step = e.step ∧ e.stream = .fwd ∧ (s.core c).slot = some 0 then s.armTrigger x a else s
    | none => s

/-- A MARK on its start beat closes its stream's step for the range monitors (R78). What a DRAIN in progress converts from this beat on
counts in the new step's open record (DESIGN CHOICE, assumption log 121). -/
def State.markBeat (s : State) (c : Nat) (e : QEntry) : State :=
  ((s.popHead c 0).modCore c fun k => { k with vec := k.vec.closeStep e.stream e.step }).markTrigger c e

/-- R80: a context is HALTED once every core with a slot is HALTED. -/
def State.noteHalted (s : State) (x : Nat) : State :=
  if (s.slotCores x).all fun k => (s.core k).st == .halted then s.modCtx x fun y => { y with halted := true } else s

/-- A HALT on its beat: the SBC and the engines stop; a RUN resumes decoding after the HALT (R79). -/
def State.haltBeat (s : State) (c : Nat) : State :=
  let s := (s.popHead c 0).modCore c fun k => { k.halt with seqr := { k.seqr with decStop := false } }
  match (s.core c).owner with
  | some x => s.noteHalted x
  | none => s

/-! ### Barriers and flags (R65, R66) -/

/-- The cores that take part in a barrier of a core: those that hold a slot of its context, in its cluster or in the
whole arc. -/
def State.barCores (s : State) (c : Nat) (arc : Bool) : List Nat :=
  match (s.core c).owner with
  | none => []
  | some x => (s.slotCores x).filter fun k => arc || clusterOf k == clusterOf c

/-- SYNC.BAR on its beat: an arrival, or a freeze while the previous arrival at the same ID is incomplete. -/
def State.syncBar (s : State) (c id : Nat) (arc : Bool) : State :=
  if (AMap.find? (s.core c).bars id).isSome then s.freeze c 5 8
  else (s.popHead c 8).modCore c fun k => { k with bars := AMap.set k.bars id (b2n arc) }

/-- A barrier generation of core `c` at an ID completes once every participant has arrived; an arrival with the other SCOPE is
none of this generation (DESIGN CHOICE, assumption log 111). -/
def State.barComplete (s : State) (c id : Nat) : State :=
  match AMap.find? (s.core c).bars id with
  | none => s
  | some sc =>
    let ps := s.barCores c (sc == 1)
    if ps.all fun k => AMap.find? (s.core k).bars id == some sc then
      (ps.foldl (fun s k => s.modCore k fun q => { q with bars := AMap.erase q.bars id }) s).clmMeet ps
    else s

/-- The cluster-memory stores of a core with an earlier start beat that have not been performed: writes that have not landed, and a
DRAIN that has vectors to come. -/
def Core.clmStores (k : Core) (start : Nat) : Bool :=
  let before (st : Nat) : Bool := beatSub start st != 0 && beatReached start st
  (k.vec.pend.any fun p => match p with | .mem _ st _ _ _ clm => clm && before st | .reg _ _ _ _ _ => false) ||
    [k.arrA, k.arrB].any fun r => match r.drain with
      | some j => (match j.dst with | .mem m => m.clm && before j.entry.start | .vreg _ => false)
      | none => false

/-- Count a cluster flag, modulo 2 ^ 16. -/
def State.postFlag (s : State) (k f : Nat) : State :=
  s.modCluster k fun q => { q with flags := AMap.set q.flags f ((AMap.get q.flags 0 f + 1) % 65536) }

/-- Post the flags of a core's SYNC.FLAGs whose earlier stores have been performed. -/
def State.settleFlags (s : State) (c : Nat) : State :=
  let k := s.core c
  let go := k.flagPosts.filter fun p => !k.clmStores p.2
  go.foldl (fun s p => (s.postFlag (clusterOf c) p.1).clmPost c p.1)
    (s.modCore c fun k => { k with flagPosts := k.flagPosts.filter fun p => k.clmStores p.2 })

/-- SYNC.FLAG on its beat. -/
def State.syncFlag (s : State) (c f : Nat) (e : QEntry) : State :=
  ((s.popHead c 8).modCore c fun k => { k with flagPosts := k.flagPosts ++ [(f, e.start)] }).settleFlags c

/-- Start the SYNC.FLAG at the head of a core's queue, the beat's stores being performed. -/
def State.flagStart (s : State) (c : Nat) : State :=
  s.startWith c 8 (fun | .flag _ => true | _ => false) fun s e => match e.cmd with | .flag f => s.syncFlag c f e | _ => s

/-! ### Pick mode (R76, R77) -/

/-- The head gate of a stream, resolved with the registers as they stand; a refusal of its checks is reported with it. -/
def State.headGate (s : State) (c : Nat) (x : StreamSel) : Option (Nat × Except Refuse Cmd) :=
  let q := (s.core c).seqr
  if (q.strm x).bankWait.isSome then none
  else
    match q.fetchWord x with
    | none => none
    | some w =>
      if isGate w then
        some (w, if engineOf w ≠ 0 then .error (illegal 0)
                 else if ¬ reservedClear w then .error (illegal 2) else (s.decEnv c x).resolve w)
      else none

/-- Whether a stream's head gate is met, or is refused. -/
def State.headMet (s : State) (c : Nat) (x : StreamSel) : Bool :=
  match s.headGate c x with
  | some (_, .ok cmd) => s.gateMet c cmd
  | some (_, .error _) => true
  | none => false

/-- Pick a stream's head gate: its block starts PICK_LEAD beats after the pick. A freeze of another cause than PICK goes on. -/
def State.pickStream (s : State) (c : Nat) (x : StreamSel) : State :=
  match s.headGate c x with
  | none => s
  | some (w, r) =>
    let k := s.core c
    let e := k.seqr.entryOf x w .nop
    let resumes := k.st == .running || k.seqr.frz.any (·.cause == 7)
    match r with
    | .error f => s.seqFault c e f.1 f.2 0
    | .ok cmd =>
      let s := s.modCore c fun k => { k with
        st := if resumes then .running else k.st
        seqr :=
          let q := k.seqr
          let q := q.setStrm x.other { q.strm x.other with atGate := false }
          let q := q.setStrm x { q.strm x with pc := (q.strm x).pc + 1, atGate := false }
          let q := { q with cur := x, blk := (k.sbc + q.pickLead) % beatMod, frz := if resumes then none else q.frz,
                            pickMode := true, decFetch := false }
          if (q.planEntry q.ptr).1 = x then
            { q with left := q.left - 1 }.planSpent
          else q }
      let s := s.bumpCore .seqPicks (coreIdx c ++ [match x with | .fwd => 0 | .bwd => 1]) 1 c
      s.passGate c cmd e.step

/-- Whether a head gate of either stream is met. -/
def State.pickMet (s : State) (c : Nat) : Bool := s.headMet c .fwd || s.headMet c .bwd

/-- BLOCK_PICK: the first met head gate of either stream, the plan's stream first, in a frozen core as in one that runs; with
neither met a core that runs freezes under the pick cause. -/
def State.blockPick (s : State) (c : Nat) : State :=
  let k := s.core c
  if ¬ k.picking then s
  else
    let x := (k.seqr.planEntry k.seqr.ptr).1
    if s.headMet c x then s.pickStream c x
    else if s.headMet c x.other then s.pickStream c x.other
    else if k.st = .running then s.modCore c fun k => { k with st := .frozen, seqr := { k.seqr with frz := some ⟨7, none, none⟩ } }
    else s

/-! ### Re-evaluation of a freeze (R60) -/

/-- Start what waits at the head of the queue that a frozen core waits on. -/
def State.restart (s : State) (c : Nat) (f : Frz) : State :=
  match f.engine with
  | some 0 => match s.ready c 0 with | some e => s.gate c e | none => s
  | some 1 => s.arrayStart c .a fun _ => true
  | some 2 => s.arrayStart c .b fun _ => true
  | some 5 => s.hoopStart c fun _ => true
  | some 8 =>
    match s.ready c 8 with
    | some e => match e.cmd with | .bar id arc => s.syncBar c id arc | _ => s
    | none => s
  | _ => s

/-- R58: the beat B − 2 beyond which the SBC does not advance while decoding waits for fetch has been reached. -/
def Core.fetchBound (k : Core) : Bool :=
  k.seqr.decFetch && beatReached k.sbc ((k.seqr.blk + beatMod - 2) % beatMod)

/-- R39: an array of the core cannot take the vector of the present beat. -/
def Core.arraysBlocked (k : Core) (period : Nat) : Bool :=
  k.arrA.blocked k.sbc period || k.arrB.blocked k.sbc period

/-- R16: an array of the core comes to a tile that it takes by columns and that is not complete. -/
def Core.tileLate (k : Core) (period : Nat) : Bool := k.arrA.tileLate k.sbc period || k.arrB.tileLate k.sbc period

/-- Whether a freeze of cause FETCH, ARRIVE, ARRAY_BP or SRAM that no queue's head holds is over. -/
def Core.unfrozen (k : Core) (period : Nat) (f : Frz) : Bool :=
  if f.cause = 1 then !k.fetchBound
  else if f.cause = 2 then !k.tileLate period
  else if f.cause = 9 then !k.arraysBlocked period
  else if f.cause = 10 then k.sram.lost == 0
  else false

/-- GATE_CONDITION_MET: re-evaluate what a core is frozen on; if it still does not hold, nothing changes. -/
def State.recheck (s : State) (c : Nat) : State :=
  match (s.core c).seqr.frz with
  | none => s
  | some f =>
    if (s.core c).st ≠ .frozen then s
    else if f.cause = 7 then (if ((s.blockPick c).core c).st = .frozen then s else s.blockPick c)
    else if f.engine = none then (if (s.core c).unfrozen s.dev.period f then s.thaw c else s)
    else
      let s' := (s.thaw c).restart c f
      if (s'.core c).st = .frozen then s else s'

/-! ### Rows -/

/-- Evaluate the gate at the head of the gate queue on its beat, if `p` accepts it. -/
def State.gateStart (s : State) (c : Nat) (p : Cmd → Bool) : State :=
  match s.ready c 0 with
  | some e => if p e.cmd then s.gate c e else s
  | none => s

/-- GATE_ARRIVE (R62). -/
def execGateArrive (c : CoreId) (s : State) : Host.Outcome State Fault Refusal :=
  .next (s.gateStart c fun | .gateArrive _ _ _ _ => true | _ => false)

/-- GATE_STREAM (R63). -/
def execGateStream (c : CoreId) (s : State) : Host.Outcome State Fault Refusal :=
  .next (s.gateStart c fun | .gateStream _ _ => true | _ => false)

/-- GATE_ARRAY. -/
def execGateArray (c : CoreId) (s : State) : Host.Outcome State Fault Refusal :=
  .next (s.gateStart c fun | .gateArray _ _ _ => true | _ => false)

/-- GATE_BARRIER. -/
def execGateBarrier (c : CoreId) (s : State) : Host.Outcome State Fault Refusal :=
  .next (s.gateStart c fun | .gateBarrier _ _ _ => true | _ => false)

/-- GATE_TIME (R64). -/
def execGateTime (c : CoreId) (s : State) : Host.Outcome State Fault Refusal :=
  .next (s.gateStart c fun | .gateTime => true | _ => false)

/-- GATE_CONDITION_MET (R60). -/
def execGateConditionMet (c : CoreId) (s : State) : Host.Outcome State Fault Refusal := .next (s.recheck c)

/-- MARK: its decode, and on its beat the closing of the step (R78). -/
def execMark (c : CoreId) (s : State) : Host.Outcome State Fault Refusal :=
  match s.ready c 0 with
  | some e => if e.cmd = .mark then .next (s.markBeat c e) else .next (s.decodeStep c (· == 0x0C))
  | none => .next (s.decodeStep c (· == 0x0C))

/-- HALT_INSTRUCTION: its decode, which stops decoding, and on its beat the halt of the core (R79). -/
def execHaltInstruction (c : CoreId) (s : State) : Host.Outcome State Fault Refusal :=
  match s.ready c 0 with
  | some e => if e.cmd = .halt then .next (s.haltBeat c) else .next (s.decodeStep c (· == 0x0F))
  | none => .next (s.decodeStep c (· == 0x0F))

/-- BLOCK_PICK (R76). -/
def execBlockPick (c : CoreId) (s : State) : Host.Outcome State Fault Refusal := .next (s.blockPick c)

/-- SYNC_BAR (R65). -/
def execSyncBar (c : CoreId) (s : State) : Host.Outcome State Fault Refusal :=
  match s.ready c 8 with
  | some e => match e.cmd with | .bar id arc => .next (s.syncBar c id arc) | _ => .next s
  | none => .next s

/-- BARRIER_COMPLETE (R65). -/
def execBarrierComplete (c : CoreId) (id : Fin 16) (s : State) : Host.Outcome State Fault Refusal := .next (s.barComplete c id)

/-- SYNC_FLAG (R66). -/
def execSyncFlag (c : CoreId) (s : State) : Host.Outcome State Fault Refusal :=
  .next (s.flagStart c)

/-- RIND: a wave on its beat when the context allows program triggers (R286). -/
def execRind (c : CoreId) (s : State) : Host.Outcome State Fault Refusal :=
  match s.ready c 9 with
  | some _ =>
    match (s.core c).owner with
    | some x => if (s.ctx x).rindProg then .next ((s.popHead c 9).trigger ⟨5, none⟩) else .next (s.popHead c 9)
    | none => .next (s.popHead c 9)
  | none => .next s

end Sys2Proof.Machine
end

