-- ==== Sys2Proof/Machine/Ripener.lean ====
section
/-!
DEFINITION. The ripeners (*The Ripener: Parameter Updates*): update sections and their checks (R134), group begins in FP64
(R137, R139, R141), updates by granule (R135, R140 to R143), completion, passes (R137, R144, R145).
-/
namespace Sys2Proof.Machine

/-! ### FP64 operations on codes, each rounded once -/

def d64 (c : Nat) : Val := fp64.decode c
def r64 (v : Val) : Nat := fp64.round v
def dadd (a b : Nat) : Nat := r64 ((d64 a).add (d64 b))
def dsub (a b : Nat) : Nat := r64 ((d64 a).add (d64 b).negate)
def dmul (a b : Nat) : Nat := r64 ((d64 a).mul (d64 b))
def ddiv (a b : Nat) : Nat := r64 ((d64 a).div (d64 b))
/-- An integer as FP64. -/
def dint (n : Nat) : Nat := r64 (Val.ofInt n 0)
def done64 : Nat := 0x3FF0000000000000
def dhalf : Nat := 0x3FE0000000000000
/-- The FP64 value nearest to π. -/
def dpi : Nat := 0x400921FB54442D18
/-- FP64 to FP32. -/
def to32 (c : Nat) : Nat := fp32.round (d64 c)
/-- FP32 to FP64, exact. -/
def to64 (c : Nat) : Nat := r64 (fp32.decode c)

/-- `Σ (−1)ⁿ x^(2n) / (2n)!` in fixed point, the terms from `n` on. -/
def cosSeries : Nat → Nat → Int → Int → Int
  | 0, _, _, acc => acc
  | fuel + 1, x2, t, acc =>
    let n := 64 - fuel
    let t' := -(t * (x2 : Int) / (2 ^ fixBits : Int) / ((2 * n - 1) * (2 * n) : Nat))
    cosSeries fuel x2 t' (acc + t')

/-- The cosine of a value of `[0, 4)`, correctly rounded. -/
def dcos (c : Nat) : Nat :=
  match d64 c with
  | .fin _ m e =>
    if m = 0 then done64
    else
      let x := if e + fixBits ≥ 0 then m * pow2 (e + fixBits) else m / pow2 (-(e + fixBits))
      let s := cosSeries 64 (x * x / 2 ^ fixBits) (2 ^ fixBits : Int) (2 ^ fixBits : Int)
      r64 (Val.ofInt (2 * s + 1) (-(fixBits : Int) - 1))
  | _ => fp64.nanCode

/-! ### Update sections (R134) -/

/-- A reader of little-endian fields: offset and length in bytes. -/
abbrev Rd := Nat → Nat → Nat

/-- Read an UPD record. -/
def Upd.read (rd : Rd) (o : Nat) : Upd :=
  { post := bit (rd (o + 1) 1) 0, waitFlow := bit (rd (o + 1) 1) 1, group := rd (o + 2) 2, count := rd (o + 4) 4,
    master := rd (o + 8) 8, avg := rd (o + 16) 8, wcopy := rd (o + 24) 8, gsrc := rd (o + 32) 8, gspan := rd (o + 40) 4,
    gsrcn := rd (o + 44) 1 % 16, gform := bits (rd (o + 44) 1) 5 4, flow := rd (o + 46) 2 % 16384, tensor := rd (o + 48) 3,
    ibase := rd (o + 52) 5 }

/-- The format of a command record. -/
def commandOk (rd : Rd) (o ngroup : Nat) : Bool :=
  match rd o 1 with
  | 0 | 2 => true
  | 1 =>
    let u := Upd.read rd o
    decide (rd (o + 1) 1 < 4) && decide (u.group < ngroup) && decide (1 ≤ u.count) &&
      u.master % 64 == 0 && u.avg % 64 == 0 && u.wcopy % 64 == 0 && u.gsrc % 64 == 0 && u.gspan % 64 == 0 &&
      decide (1 ≤ u.gsrcn ∧ u.gsrcn ≤ 4) && decide (u.gform ≤ 2) && decide (rd (o + 44) 1 < 64) && rd (o + 45) 1 == 0 &&
      decide (rd (o + 46) 2 < 16384) && rd (o + 51) 1 == 0 && rd (o + 57) 7 == 0
  | _ => false

/-- The format of a group record. -/
def groupOk (rd : Rd) (o ncurve : Nat) : Bool :=
  let curve := rd (o + 72) 2
  (curve == 0xFFFF || decide (curve < ncurve)) && decide (rd (o + 74) 1 ≤ 2) && decide (rd (o + 75) 1 < 4) &&
    decide (rd (o + 76) 2 < 64) && decide (1 ≤ rd (o + 78) 1 ∧ rd (o + 78) 1 ≤ 6) && rd (o + 80) 48 == 0

/-- Whether an FP64 code is above 0. -/
def dpos (c : Nat) : Bool :=
  match d64 c with | .fin n m _ => !n && decide (0 < m) | .inf n => !n | .nan => false

/-- Records of a curve before the one that ends it. -/
def curveLen (rd : Rd) (o : Nat) : Nat :=
  ((List.range 256).find? fun i => rd (o + 32 * i) 1 == 15).getD 256

/-- The constraints of one segment. -/
def segmentOk (rd : Rd) (o : Nat) : Bool :=
  match rd o 1 with
  | 0 => true
  | 1 | 2 => decide (1 ≤ rd (o + 8) 8)
  | 3 => decide (1 ≤ rd (o + 8) 8) && dpos (rd (o + 16) 8) && dpos (rd (o + 24) 8)
  | 4 => dpos (rd (o + 24) 8)
  | _ => false

/-- R139: a curve is well formed. -/
def curveOk (rd : Rd) (o : Nat) : Bool :=
  let n := curveLen rd o
  decide (1 ≤ n) && ((List.range n).all fun i => segmentOk rd (o + 32 * i)) &&
    (List.range (n - 1)).all fun i => decide (rd (o + 32 * i + 1) 7 < rd (o + 32 * (i + 1) + 1) 7)

/-- The header of an UPDATE section at tier-space address `base`. -/
def RipS.ofHeader (rd : Rd) (base : Nat) : RipS :=
  { base := base, ncmd := rd 0 4, ngroup := rd 4 2, ncurve := rd 6 2, groupOff := rd 8 4, curveOff := rd 12 4,
    cmdOff := rd 16 4, cycle := rd 20 4 }

/-- R134: whether an UPDATE section of `size` bytes loads. -/
def sectionOk (rd : Rd) (size : Nat) : Bool :=
  let h := RipS.ofHeader rd 0
  decide (64 ≤ size) && rd 24 40 == 0 && decide (1 ≤ h.ngroup ∧ h.ngroup ≤ 4096) && decide (h.ncurve ≤ 64) &&
    decide (h.groupOff + 128 * h.ngroup ≤ size) && decide (h.curveOff + 8192 * h.ncurve ≤ size ∨ h.ncurve = 0) &&
    decide (h.cmdOff + 64 * h.ncmd ≤ size) && (h.cycle == 0xFFFFFFFF || decide (h.cycle < h.ncmd)) &&
    ((List.range h.ncmd).all fun i => commandOk rd (h.cmdOff + 64 * i) h.ngroup) &&
    ((List.range h.ngroup).all fun i => groupOk rd (h.groupOff + 128 * i) h.ncurve) &&
    (List.range h.ncurve).all fun i => curveOk rd (h.curveOff + 8192 * i)

/-! ### Access -/

/-- The reader of tier space from an address. -/
def State.rd (s : State) (base : Nat) : Rd := fun o n => leNat (s.bytes (base + o) n)

/-- The update stream of a context in a ripener. -/
def State.rip (s : State) (n c : Nat) : Option RipS := AMap.find? s.dev.rips (n, c)

/-- Change an update stream. -/
def State.modRip (s : State) (n c : Nat) (f : RipS → RipS) : State :=
  match s.rip n c with
  | some r => { s with dev := { s.dev with rips := AMap.set s.dev.rips (n, c) (f r) } }
  | none => s

/-- The offset of the next command. -/
def RipS.at_ (r : RipS) : Nat := r.cmdOff + 64 * r.cmd

/-- The opcode of the next command. -/
def State.ripOp (s : State) (r : RipS) : Nat := s.rd r.base r.at_ 1

/-- Whether a stream may go on: its context runs, and the memory system's region has its clock. -/
def State.ripRuns (s : State) (c : Nat) (r : RipS) : Bool :=
  !(s.ctx c).halted && (r.st == .running || r.st == .waiting) && !s.regionStopped 17

/-- The stream moves to its next command: at the end it goes on at CYCLE, or stops. -/
def RipS.advance (r : RipS) : RipS :=
  let r := { r with started := none, done := 0, remote := [], raised := false, st := .running }
  if r.cmd + 1 < r.ncmd then { r with cmd := r.cmd + 1 }
  else if r.cycle = 0xFFFFFFFF then { r with cmd := r.cmd + 1, st := .stopped }
  else { r with cmd := r.cycle }

/-- R134, R145: a fault of an update stream. -/
def State.ripFault (s : State) (n c code cause : Nat) (r : RipS) (addr : Nat := 0) : State :=
  let s := s.recordFault .ripFault [n] 8 (word [(code, 48), (r.cmd, 16), (c, 13), (cause, 0)])
  (s.modRip n c fun r => { r with st := .faulted }).raise code
    { kind := 3, index := n, ctx := some c, step := r.step, detail := BitVec.ofNat 64 addr }

/-! ### Starting an UPD (R136, R137, R139, R141) -/

/-- Bytes of a gradient source. -/
def Upd.srcBytes (u : Upd) : Nat :=
  match u.gform with
  | 0 => 4 * u.count
  | 1 => (2 * u.count + 63) / 64 * 64 + (u.count + 31) / 32
  | _ => 64 + 4 * u.count

/-- Bytes of one element of a working copy. -/
def wfmtBytes (f : Nat) : Nat := match Fmt.ofCode f with | some f => f.rowBytes / 128 | none => 4

/-- Bytes of a parameter's running averages. -/
def avgBytes (rule : Nat) : Nat := if rule = 2 then 4 else 8

/-- The extents of an UPD. -/
def Upd.extents (u : Upd) (rule wfmt : Nat) : List (Nat × Nat) :=
  [(u.master, 4 * u.count), (u.avg, avgBytes rule * u.count), (u.wcopy, wfmtBytes wfmt * u.count)] ++
    (List.range u.gsrcn).map fun k => (u.gsrc + k * u.gspan, u.srcBytes)

/-- The value of a curve at step `t` (R139). -/
def curveValue (rd : Rd) (o t : Nat) : Nat :=
  let n := curveLen rd o
  let t0 (i : Nat) : Nat := rd (o + 32 * i + 1) 7
  let i := (((List.range n).filter fun i => decide (t0 i ≤ t)).getLast?).getD 0
  let q := o + 32 * i
  let v0 := rd (q + 16) 8
  let v1 := rd (q + 24) 8
  let dt := dint (t - t0 i)
  let u0 := ddiv dt (dint (rd (q + 8) 8))
  let u := match (d64 u0).le (d64 done64) with | true => u0 | false => done64
  match rd q 1 with
  | 0 => v0
  | 1 => dadd v0 (dmul (dsub v1 v0) u)
  | 2 => dadd v1 (dmul (dsub v0 v1) (dmul (dadd done64 (dcos (dmul dpi u))) dhalf))
  | 3 => dmul v0 (r64 (d64 (dmul u (r64 (d64 (ddiv v1 v0)).log2))).exp2)
  | _ => dmul v0 (r64 (d64 (ddiv v1 (dadd v1 dt))).sqrt)

/-- A group begins: T, P1 and P2 after the increment, and its constants (R137, R141). -/
def groupBegin (rd : Rd) (r : RipS) (g norm : Nat) : (Nat × Nat × Nat) × GroupC :=
  let o := r.groupOff + 128 * g
  let t := (rd o 8 + 1) % 2 ^ 64
  let beta1 := rd (o + 32) 8
  let beta2 := rd (o + 40) 8
  let p1 := dmul (rd (o + 8) 8) beta1
  let p2 := dmul (rd (o + 16) 8) beta2
  let decay := rd (o + 48) 8
  let clip := rd (o + 56) 8
  let gmul := rd (o + 68) 4
  let rule := rd (o + 74) 1
  let value := if rd (o + 72) 2 = 0xFFFF then done64 else curveValue rd (r.curveOff + 8192 * rd (o + 72) 2) t
  let lr := dmul (rd (o + 24) 8) value
  let g64 := to64 gmul
  let f :=
    if dpos clip then
      let n := dmul (r64 (d64 norm).sqrt) (g64 % 2 ^ 63)
      if d64 n ≠ .nan ∧ ¬ (d64 n).le (d64 clip) then ddiv clip n else done64
    else done64
  let a := if rule = 2 then to32 lr else to32 (ddiv lr (dsub done64 p1))
  let wscale := sint 8 (rd (o + 79) 1)
  let nonfinite := match d64 norm with | .fin _ _ _ => false | _ => true
  ((t, p1, p2),
   { rule := rule, g := to32 (dmul g64 f), b1 := to32 beta1, k1 := to32 (dsub done64 beta1), b2 := to32 beta2,
     k2 := to32 (dsub done64 beta2), a := a, c2 := to32 (ddiv done64 (dsub done64 p2)), d := to32 (dmul lr decay), l := to32 decay,
     eps := rd (o + 64) 4, hold := bit (rd (o + 75) 1) 0, wsr := bit (rd (o + 75) 1) 1, wfmt := rd (o + 78) 1, wscale := wscale,
     bad := clip % 2 ^ 63 != 0 && nonfinite })

/-- The step of a standing request that is to be staged next: the one due, or, while that one is being shipped or written, the one
EVERY steps later. -/
def stageStep (staged : Bool) (next every : Nat) : Option Nat :=
  if ¬ staged then some next else if every = 0 then none else some (next + every)

/-- The ranges that a snapshot or a checkpoint of a context has still to stage, each with its step (R11, R263). -/
def Ctx.unstaged (x : Ctx) : List (Nat × Nat × Nat) :=
  (match x.snap with
    | some q => (stageStep q.stage.isSome q.next q.every).toList.map fun n => (q.src, q.len, n)
    | none => []) ++
  (match x.chk with
    | some q => (stageStep (q.phase != 0) q.next q.every).toList.flatMap fun n => q.extents.map fun e => (e.1, e.2, n)
    | none => [])

/-- Whether a granule of `[a, a + n)` of a past step has still to be staged. -/
def State.heldBack (s : State) (c : Nat) (r : RipS) (a n : Nat) : Bool :=
  (s.ctx c).unstaged.any fun p =>
    decide (p.2.2 < r.step.toNat) && (gransOf a n).any fun g => (gransOf p.1 p.2.1).contains g

/-- R136: whether an UPD still waits: for its flow, or for the norm word of a group that has not begun. A norm word that is stored for
another step than S, a later one too, does not end the wait: DESIGN CHOICE (assumption log 105). -/
def State.updWaits (s : State) (r : RipS) (u : Upd) : Bool :=
  let rd := s.rd r.base
  let o := r.groupOff + 128 * u.group
  let flowDone : Bool := match (s.flow u.flow).red with
    | some x => (s.flow u.flow).st == .opened && decide (x.cfg.step0 ≤ r.step.toNat) && x.reached r.step.toNat
    | none => false
  let n := rd (o + 76) 2
  let normDone : Bool := s.field .redNstep [n] 63 63 == 1 && s.field .redNstep [n] 62 0 == r.step.toNat % 2 ^ 63
  let begun := (AMap.find? r.begun u.group).isSome
  (u.waitFlow && !flowDone) || (!begun && rd (o + 56) 8 % 2 ^ 63 != 0 && !normDone)

/-- The norm word of a group. -/
def State.normWord (s : State) (r : RipS) (g : Nat) : Nat := (s.reg .redNorm [s.rd r.base (r.groupOff + 128 * g + 76) 2]).toNat

/-- A stream's accesses of stacked memory that only pass the regulators, and stamp their granules. -/
def State.ripPass (s : State) (n c : Nat) (es : List (Nat × Nat)) : State :=
  es.foldl (fun s e => (s.touch e.1 e.2).regulate c e.1 e.2 (.ripener n c) fun _ _ => .pass) s

/-- Ask for what the next step of a stream reads. -/
def State.ripAsk (s : State) (n c : Nat) (es : List (Nat × Nat)) : State :=
  (s.ripPass n c es).modRip n c fun r => { r with asked := true }

/-- One write of a stream, at the regulators; a read-only cave refuses it, and the stream goes on (R170, assumption log 112). -/
def State.ripWrite (s : State) (n c : Nat) (step : BitVec 64) (a : Nat) (d : List Byte) (bad : List Nat)
    (par : Nat → Nat → Option Bool) : State :=
  match s.roRefuses a d.length with
  | some x => s.roRefused 1 c n x { kind := 3, index := n, ctx := some c, step := step }
  | none => (s.touch a d.length).regulate c a d.length (.ripener n c) (writePart a d bad par)

/-- Begin the group of an UPD, at its first UPD of the pass. -/
def State.beginGroup (s : State) (n c : Nat) (r : RipS) (g : Nat) : State :=
  match AMap.find? r.begun g with
  | some _ => s
  | none =>
    let ((t, p1, p2), k) := groupBegin (s.rd r.base) r g (s.normWord r g)
    let o := r.base + r.groupOff + 128 * g
    (s.ripWrite n c r.step o (leBytes 8 t ++ leBytes 8 p1 ++ leBytes 8 p2) [] fun _ _ => none).modRip n c fun r =>
      { r with begun := AMap.set r.begun g k }

/-- What a stream reads to start an UPD: its record, and the record and the curve of a group that has not begun. -/
def State.startReads (s : State) (r : RipS) : List (Nat × Nat) :=
  let rd := s.rd r.base
  let g := (Upd.read rd r.at_).group
  let go := r.groupOff + 128 * g
  let curve := rd (go + 72) 2
  let co := r.curveOff + 8192 * curve
  (r.base + r.at_, 64) ::
    (if ¬ commandOk rd r.at_ r.ngroup ∨ (AMap.find? r.begun g).isSome then []
     else (r.base + go, 128) :: (if curve < r.ncurve then [(r.base + co, 32 * min 256 (curveLen rd co + 1))] else []))

/-- R134, R138: whether the records of an UPD are well formed as they now stand; those of a group that has begun in the pass were read
then. -/
def State.updOk (s : State) (r : RipS) (u : Upd) : Bool :=
  let rd := s.rd r.base
  let go := r.groupOff + 128 * u.group
  let curve := rd (go + 72) 2
  commandOk rd r.at_ r.ngroup && ((AMap.find? r.begun u.group).isSome ||
    (groupOk rd go r.ncurve && (curve == 0xFFFF || curveOk rd (r.curveOff + 8192 * curve))))

/-- RULE and WFMT of the group of an UPD: of its begin where it has begun (R138). -/
def State.ruleOf (s : State) (r : RipS) (u : Upd) : Nat × Nat :=
  let go := r.groupOff + 128 * u.group
  match AMap.find? r.begun u.group with
  | some k => (k.rule, k.wfmt)
  | none => (s.rd r.base (go + 74) 1, s.rd r.base (go + 78) 1)

/-- R263: whether the begin of a group waits for its record to be staged. -/
def State.groupHeld (s : State) (c : Nat) (r : RipS) (u : Upd) : Bool :=
  (AMap.find? r.begun u.group).isNone && s.heldBack c r (r.base + (r.groupOff + 128 * u.group)) 128

/-- The UPD of the next command, its records having been read: it is refused, waits, or starts. -/
def State.startUpd (s : State) (n c : Nat) (r : RipS) : State :=
  let u := Upd.read (s.rd r.base) r.at_
  if ¬ s.updOk r u then s.ripFault n c 0x0105 0 r
  else
    match (u.extents (s.ruleOf r u).1 (s.ruleOf r u).2).findSome? fun e => s.reach c e.1 e.2 with
    | some (a, q) => (s.memFault 0x0104 1 c n q a).ripFault n c 0x0104 1 r a
    | none =>
      if bit u.tensor 22 then s.ripFault n c 0x010B 2 r
      else if s.updWaits r u then s.modRip n c fun r => { r with st := .waiting }
      else if s.groupHeld c r u then s.modRip n c fun r => { r with st := .running }
      else (s.beginGroup n c r u.group).modRip n c fun r => { r with started := some u, done := 0, asked := false, st := .running }

/-- UPD: the next command of a context's stream starts once its records have been read. -/
def State.updStart (s : State) (n c : Nat) : State :=
  match s.rip n c with
  | none => s
  | some r =>
    if ¬ s.ripRuns c r ∨ r.started.isSome ∨ s.ripOp r = 0 ∨ s.ripOp r = 2 ∨ s.waits (.ripener n c) then s
    else
      let s := if r.asked then s else s.ripAsk n c (s.startReads r)
      if s.waits (.ripener n c) then s else s.startUpd n c r

/-! ### Updating (R140 to R143) -/

/-- Element `i` of source `k` as an FP32 code, and whether it came from a poisoned sector (R140). -/
def State.gradElem (s : State) (u : Upd) (k i : Nat) : Nat × Bool :=
  let a := u.gsrc + k * u.gspan
  match u.gform with
  | 0 => (leNat (s.bytes (a + 4 * i) 4), !(s.badIn (a + 4 * i) 4).isEmpty)
  | 1 =>
    let x := a + (2 * u.count + 63) / 64 * 64 + i / 32
    let bad := !(s.badIn (a + 2 * i) 2).isEmpty || !(s.badIn x 1).isEmpty
    match codeVal 2 (leNat (s.bytes (a + 2 * i) 2)) with
    | none => (fp32.nanCode, bad)
    | some v => (fp32.round (Val.ofInt v (sint 8 (leNat (s.bytes x 1)))), bad)
  | _ =>
    let bad := !(s.badIn (a + 64 + 4 * i) 4).isEmpty || !(s.badIn a 1).isEmpty
    match codeVal 4 (leNat (s.bytes (a + 64 + 4 * i) 4)) with
    | none => (fp32.nanCode, bad)
    | some v => (fp32.round (Val.ofInt v (sint 8 (leNat (s.bytes a 1)))), bad)

/-- The gradient of a parameter: its sources added in ascending order; NaN for a poisoned one. -/
def State.gradient (s : State) (u : Upd) (i : Nat) : Nat × Bool :=
  let es := (List.range u.gsrcn).map fun k =>
    let (g, b) := s.gradElem u k i
    (if b then fp32.nanCode else g, b)
  match es with
  | [] => (0, false)
  | e :: r => r.foldl (fun a x => (fadd a.1 x.1, a.2 || x.2)) e

/-- `√` of an FP32 code. -/
def fsqrt (a : Nat) : Nat := fp32.round (fp32.decode a).sqrt

/-- R141: one update. -/
def GroupC.update (k : GroupC) (w m v g : Nat) : Nat × Nat × Nat :=
  let g := fmul g k.g
  let g := if k.rule = 0 then g else fadd g (fmul k.l w)
  if k.rule = 2 then
    let m := fadd (fmul k.b1 m) g
    (fsub w (fmul k.a m), m, v)
  else
    let m := fadd (fmul k.b1 m) (fmul k.k1 g)
    let v := fadd (fmul k.b2 v) (fmul k.k2 (fmul g g))
    let q := fdiv (fmul k.a m) (fadd (fsqrt (fmul v k.c2)) k.eps)
    (if k.rule = 0 then fsub (fsub w q) (fmul k.d w) else fsub w q, m, v)

/-- One parameter after its update: weight, averages, whether they are poisoned, held, and its working-copy element. -/
structure ParamOut where
  w : Nat
  m : Nat
  v : Nat
  marked : Bool
  held : Bool
  copy : ConvOut
  deriving DecidableEq, Repr

/-- Update parameter `i` of an UPD. -/
def State.paramOut (s : State) (c : Nat) (r : RipS) (u : Upd) (k : GroupC) (i : Nat) : ParamOut :=
  let ab := avgBytes k.rule
  let w := leNat (s.bytes (u.master + 4 * i) 4)
  let m := leNat (s.bytes (u.avg + ab * i) 4)
  let v := if k.rule = 2 then 0 else leNat (s.bytes (u.avg + ab * i + 4) 4)
  let (g, poison) := s.gradient u i
  let finite := decide (g % 2 ^ 31 < 0x7F800000)
  let special := !finite || poison || k.bad
  let held := special && k.hold
  let (w', m', v') := if held then (w, m, v) else k.update w m v g
  let rnd := if k.wsr then Rnd.sr (draw (s.ctx c).seed u.tensor r.step (u.ibase + i)) else Rnd.rne
  let x := (fp32.decode w').shift k.wscale
  let copy := match Fmt.ofCode k.wfmt with | some f => f.convert rnd x | none => { code := 0 }
  ⟨w', m', v', special && !held, held, copy⟩

/-- The parameters that the next granule of an UPD takes: up to the end of a granule of 16,384 master weights. -/
def Upd.granule (u : Upd) (done : Nat) : Nat :=
  let a := u.master + 4 * done
  min (u.count - done) (((a / granBytes + 1) * granBytes - a + 3) / 4)

/-- The command that an update stream takes after command `i`. -/
def RipS.after (r : RipS) (i : Nat) : Nat := if i + 1 < r.ncmd then i + 1 else if r.cycle = 0xFFFFFFFF then r.ncmd else r.cycle

/-- The commands from `i` on that a stream's pass still takes after its present one, at most `n`. -/
def State.passRest (s : State) (r : RipS) : Nat → Nat → List Nat
  | 0, _ => []
  | n + 1, i =>
    if r.ncmd ≤ i ∨ i = r.cmd ∨ s.rd r.base (r.cmdOff + 64 * i) 1 = 2 then [] else i :: State.passRest s r n (r.after i)

/-- The working copies of the UPDs among commands of a stream: address and bytes. -/
def State.copiesOf (s : State) (r : RipS) (is : List Nat) : List (Nat × Nat) :=
  is.filterMap fun i =>
    let o := r.cmdOff + 64 * i
    let u := Upd.read (s.rd r.base) o
    if s.rd r.base o 1 = 1 then some (u.wcopy, wfmtBytes (s.ruleOf r u).2 * u.count) else none

/-- The working copies that a stream has still to write in the pass of step `n`. -/
def State.copiesLeft (s : State) (r : RipS) (n : Nat) : List (Nat × Nat) :=
  if n < r.step.toNat then []
  else if r.step.toNat < n then s.copiesOf r (List.range r.ncmd)
  else if r.ncmd ≤ r.cmd ∨ (r.started = none ∧ s.ripOp r = 2) then []
  else
    (match r.started with
      | some u => let wb := wfmtBytes (s.ruleOf r u).2; [(u.wcopy + wb * r.done, wb * (u.count - r.done))]
      | none => s.copiesOf r [r.cmd]) ++ s.copiesOf r (s.passRest r r.ncmd (r.after r.cmd))

/-- The working copies that the streams of a context have still to write in the pass of stream `r`, which is its stream in ripener
`n`. -/
def State.wcopyLeft (s : State) (n c : Nat) (r : RipS) : List (Nat × Nat) :=
  s.copiesLeft r r.step.toNat ++
    (s.dev.rips.filter fun p => p.1.2 == c && p.1.1 != n).flatMap fun p => s.copiesLeft p.2 r.step.toNat

/-- The parity that a part `[lo, lo + n)` of a working-copy write that ends at `last` sets (R143): that of its granule, once no more
of the pass is written there. Which write is the last one where several UPDs share a granule: DESIGN CHOICE (assumption log 106). -/
def parityAt (left : List (Nat × Nat)) (last : Nat) (p : Bool) (lo n : Nat) : Option Bool :=
  let g := lo / granBytes
  if ((lo + n) % granBytes = 0 ∨ lo + n = last) ∧ left.all (fun e => decide (e.2 = 0 ∨ (g + 1) * granBytes ≤ e.1 ∨ e.1 + e.2 ≤ g * granBytes))
  then some p else none

/-- Write the outputs of parameters from `i0` on; `left` is what the pass still writes of working copies. The sectors of a held
parameter keep their marks with their bytes (R142). -/
def State.writeParams (s : State) (n c : Nat) (step : BitVec 64) (u : Upd) (k : GroupC) (i0 : Nat) (ps : List ParamOut)
    (left : List (Nat × Nat)) : State :=
  let ab := avgBytes k.rule
  let wb := wfmtBytes k.wfmt
  let sectors (a size : Nat) (f : ParamOut → Bool) : List Nat :=
    ((ps.zip (List.range ps.length)).filter fun p => f p.1).flatMap fun p =>
      let lo := a + size * p.2
      (List.range ((lo + size - 1) / 32 - lo / 32 + 1)).map fun j => lo / 32 + j
  let marks (a size : Nat) : List Nat :=
    (sectors a size (·.marked) ++ (sectors a size (·.held)).filter s.bad.contains).map (· - a / 32)
  let wa := u.master + 4 * i0
  let aa := u.avg + ab * i0
  let ca := u.wcopy + wb * i0
  let s := s.ripWrite n c step wa (ps.map fun p => leBytes 4 p.w).flatten (marks wa 4) fun _ _ => none
  let s := s.ripWrite n c step aa (ps.map fun p => leBytes 4 p.m ++ (if k.rule = 2 then [] else leBytes 4 p.v)).flatten (marks aa ab)
    fun _ _ => none
  s.ripWrite n c step ca (ps.map fun p => leBytes wb p.copy.code).flatten []
    (parityAt left (ca + wb * ps.length) ((step.toNat + 1) % 2 == 1))

/-- What parameters `[i, i + n)` of an UPD read of its gradient sources, by address and bytes: elements, exponents, the header. -/
def Upd.sources (u : Upd) (i n : Nat) : List (Nat × Nat) :=
  (List.range u.gsrcn).flatMap fun q =>
    let a := u.gsrc + q * u.gspan
    match u.gform with
    | 0 => [(a + 4 * i, 4 * n)]
    | 1 => [(a + 2 * i, 2 * n), (a + (2 * u.count + 63) / 64 * 64 + i / 32, (i + n - 1) / 32 - i / 32 + 1)]
    | _ => (if i = 0 then [(a, 64)] else []) ++ [(a + 64 + 4 * i, 4 * n)]

/-- What parameters `[i, i + n)` of an UPD read. -/
def Upd.reads (u : Upd) (k : GroupC) (i n : Nat) : List (Nat × Nat) :=
  [(u.master + 4 * i, 4 * n), (u.avg + avgBytes k.rule * i, avgBytes k.rule * n)] ++ u.sources i n

/-- The granules that parameters `[i, i + n)` of an UPD touch. -/
def Upd.touched (u : Upd) (k : GroupC) (i n : Nat) : List Nat :=
  ((u.wcopy + wfmtBytes k.wfmt * i, wfmtBytes k.wfmt * n) :: u.reads k i n).flatMap fun e => gransOf e.1 e.2

/-- Whether a granule counts as remote for ripener `n`: in another stack, the hub cache or the cellar (R133). -/
def State.remote (s : State) (n g : Nat) : Bool := match s.gran g with | some x => x.at_ != 1 + n && x.at_ != 10 | none => false

/-- R11 and R263: the update of the next granule waits until every granule it writes has been staged. -/
def State.snapWaits (s : State) (c : Nat) (r : RipS) (u : Upd) (k : GroupC) : Bool :=
  let n := u.granule r.done
  s.heldBack c r (u.master + 4 * r.done) (4 * n) || s.heldBack c r (u.avg + avgBytes k.rule * r.done) (avgBytes k.rule * n) ||
    s.heldBack c r (u.wcopy + wfmtBytes k.wfmt * r.done) (wfmtBytes k.wfmt * n)

/-- Whether a stream has begun a granule that it goes on with while its context is halted (R146). -/
def RipS.inGranule (r : RipS) : Bool := r.asked && r.started.isSome && r.st == .running

/-- A stream with a granule to update: its UPD and its group's constants. -/
def State.ripReady (s : State) (n c : Nat) : Option (RipS × Upd × GroupC) :=
  match s.rip n c with
  | none => none
  | some r =>
    match r.started with
    | none => none
    | some u =>
      match AMap.find? r.begun u.group with
      | none => none
      | some k =>
        if (s.ripRuns c r ∨ (r.inGranule ∧ ¬ s.regionStopped 17)) ∧ r.done < u.count then some (r, u, k) else none

/-- One granule of a stream, what it reads having passed the regulators. -/
def State.ripGranule (s : State) (n c : Nat) (r : RipS) (u : Upd) (k : GroupC) : State :=
  let i := r.done
  let m := u.granule i
  let ps := (List.range m).map fun j => s.paramOut c r u k (i + j)
  let far := ((u.touched k i m).filter fun g => !r.remote.contains g && s.remote n g).eraseDups
  let s := s.writeParams n c r.step u k i ps (s.wcopyLeft n c { r with done := i + m })
  let count (s : State) (x : RegName) (n' : Nat) : State := s.bump x [n] n' (some c) 3 n
  let s := count (count (count s .ripCntParams m) .ripCntRemote far.length) .ripCntHold (ps.filter (·.held)).length
  let s := count (count (count s .ripCntSat (ps.filter (·.copy.sat)).length) .ripCntFlush (ps.filter (·.copy.flush)).length)
    .ripCntNan (ps.filter (·.copy.nan)).length
  let bad := ps.any fun p => p.held || p.marked
  let s := if bad ∧ ¬ r.raised then s.raise 0x0304 { kind := 3, index := n, ctx := some c, step := r.step } else s
  let s := s.modRip n c fun r => { r with done := i + m, asked := false, remote := r.remote ++ far, raised := r.raised || bad }
  { s with dev := { s.dev with ripTurn := AMap.set s.dev.ripTurn n c } }

/-- RIP_GRANULE_UPDATE: the next context in round robin that does not wait updates one granule (R135). -/
def State.ripUpdate (s : State) (n : Nat) : State :=
  let last := AMap.get s.dev.ripTurn 7 n
  let pick := ((List.range 8).map fun i => (last + 1 + i) % 8).findSome? fun c =>
    match s.ripReady n c with
    | some (r, u, k) => if (¬ r.asked ∧ s.snapWaits c r u k) ∨ s.waits (.ripener n c) then none else some (c, r, u, k)
    | none => none
  match pick with
  | some (c, r, u, k) =>
    let s := if r.asked then s else s.ripAsk n c (u.reads k r.done (u.granule r.done))
    if s.waits (.ripener n c) then s else s.ripGranule n c r u k
  | none => s

/-- UPD_COMPLETE: every write of an UPD is performed; POST increments the progress counter (R144). -/
def State.updComplete (s : State) (n c : Nat) : State :=
  match s.rip n c with
  | none => s
  | some r =>
    match r.started with
    | none => s
    | some u =>
      if s.ripRuns c r ∧ r.done = u.count ∧ ¬ s.waits (.ripener n c) then
        let s := s.modRip n c RipS.advance
        if u.post then s.modCtx c fun x => { x with prog := (x.prog + 1) % 2 ^ 32 } else s
      else s

/-- PASS_END: S increments and every group becomes unbegun. An UPD that has started is not looked up again (R135). -/
def State.passEnd (s : State) (n c : Nat) : State :=
  match s.rip n c with
  | none => s
  | some r =>
    if s.ripRuns c r ∧ r.started = none ∧ r.cmd < r.ncmd ∧ s.ripOp r = 2 ∧ ¬ s.waits (.ripener n c) then
      (s.ripPass n c [(r.base + r.at_, 64)]).modRip n c fun r => { r.advance with step := r.step + 1, begun := [] }
    else s

/-- UPDATE_NOP. -/
def State.updateNop (s : State) (n c : Nat) : State :=
  match s.rip n c with
  | none => s
  | some r =>
    if s.ripRuns c r ∧ r.started = none ∧ r.cmd < r.ncmd ∧ s.ripOp r = 0 ∧ ¬ s.waits (.ripener n c) then
      (s.ripPass n c [(r.base + r.at_, 64)]).modRip n c RipS.advance
    else s

/-- Whether a stream waits under R136: its next UPD has been refused for it, and would be again. -/
def State.awaitsRed (s : State) (r : RipS) : Bool := r.st == .waiting && s.updWaits r (Upd.read (s.rd r.base) r.at_)

/-- Whether a stream waits for a snapshot or a checkpoint: with its next granule, or with the begin of a group. -/
def State.awaitsSnap (s : State) (n c : Nat) (r : RipS) : Bool :=
  match r.started with
  | some _ => (match s.ripReady n c with | some (r, u, k) => !r.asked && s.snapWaits c r u k | none => false)
  | none =>
    let u := Upd.read (s.rd r.base) r.at_
    s.ripRuns c r && decide (r.cmd < r.ncmd) && s.ripOp r == 1 && !s.updWaits r u && s.groupHeld c r u

/-- One MCLK of the memory system's region: waits for the reduction and for a snapshot are counted, one for each context that waits:
DESIGN CHOICE (assumption log 107). -/
def State.ripTick (s : State) : State :=
  if s.regionStopped 17 then s
  else
    s.dev.rips.foldl (fun s p =>
      let (n, c) := p.1
      if (s.ctx c).halted then s
      else
        (s.bump .ripCntWaitred [n] (b2n (s.awaitsRed p.2)) (some c) 3 n).bump .ripCntSnapwait [n] (b2n (s.awaitsSnap n c p.2)) (some c)
          3 n) s

/-! ### Registers -/

/-- RIP_STATUS. -/
def State.ripStatus (s : State) (n : Nat) : BitVec 64 :=
  word [(AMap.get s.dev.ripTurn 0 n, 5), (b2n ((List.range 8).any fun c => (s.ripReady n c).isSome), 4)]

/-- RIP_CTXc. -/
def State.ripCtx (s : State) (n c : Nat) : BitVec 64 :=
  match s.rip n c with
  | none => 0
  | some r =>
    let st : Nat :=
      match r.st with
      | .loaded => 1
      | .running => if (s.ctx c).halted then 4 else 2
      | .waiting => if (s.ctx c).halted then 4 else if s.awaitsRed r then 3 else 2
      | .faulted => 5
      | .stopped => 6
    let group := if r.cmd < r.ncmd ∧ s.ripOp r = 1 then (Upd.read (s.rd r.base) r.at_).group else 0
    word [(r.cmd, 32), (st, 16), (group % 4096, 0)]

/-- RIP_STEPc. -/
def State.ripStep (s : State) (n c : Nat) : BitVec 64 := match s.rip n c with | some r => r.step | none => 0

/-- RUN: LOADED and HALTED streams run; S is set where the run starts from LOADED (R146). -/
def State.ripRun (s : State) (c : Nat) (fresh : Option (BitVec 64)) : State :=
  { s with dev := { s.dev with rips := s.dev.rips.map fun p =>
      if p.1.2 = c then
        (p.1, { p.2 with st := match p.2.st with | .loaded => if p.2.ncmd = 0 then .stopped else .running | .waiting => .running | t => t
                         step := match fresh with | some x => x | none => p.2.step })
      else p } }

/-! ### Rows -/

/-- UPD (R136, R137, R141). -/
def execUpd (n : RipId) (c : CtxId) (s : State) : Host.Outcome State Fault Refusal := .next (s.updStart n c)

/-- RIP_GRANULE_UPDATE (R135, R143). -/
def execRipGranuleUpdate (n : RipId) (s : State) : Host.Outcome State Fault Refusal := .next (s.ripUpdate n)

/-- UPD_COMPLETE (R144). -/
def execUpdComplete (n : RipId) (c : CtxId) (s : State) : Host.Outcome State Fault Refusal := .next (s.updComplete n c)

/-- PASS_END (R137). -/
def execPassEnd (n : RipId) (c : CtxId) (s : State) : Host.Outcome State Fault Refusal := .next (s.passEnd n c)

/-- UPDATE_NOP (R135). -/
def execUpdateNop (n : RipId) (c : CtxId) (s : State) : Host.Outcome State Fault Refusal := .next (s.updateNop n c)

end Sys2Proof.Machine
end

