-- ==== Sys2Proof/Machine/Clocks.lean ====
section
/-!
DEFINITION. Clocks, the energy planner, the meters and the limits (*Clocks, Energy Ledger and Limits*: R228 to R245, R311).
Measured values are operands of the commands that sample them.
-/
namespace Sys2Proof.Machine

/-! ### Exact fractions -/

/-- A fraction with a positive denominator. -/
structure Frac where
  n : Int
  d : Nat
  deriving DecidableEq, Repr

def Frac.ofInt (n : Int) : Frac := ⟨n, 1⟩
def Frac.add (a b : Frac) : Frac := ⟨a.n * b.d + b.n * a.d, a.d * b.d⟩
def Frac.sub (a b : Frac) : Frac := ⟨a.n * b.d - b.n * a.d, a.d * b.d⟩
def Frac.mul (a b : Frac) : Frac := ⟨a.n * b.n, a.d * b.d⟩
def Frac.le (a b : Frac) : Bool := decide (a.n * b.d ≤ b.n * a.d)
def Frac.lt (a b : Frac) : Bool := decide (a.n * b.d < b.n * a.d)
/-- The larger of a fraction and 0. -/
def Frac.pos (a : Frac) : Frac := ⟨max 0 a.n, a.d⟩

/-! ### Steps (R228, R229) -/

/-- Change the clock state. -/
def State.modClk (s : State) (f : ClkS → ClkS) : State := { s with dev := { s.dev with clk := f s.dev.clk } }

/-- The step in force. -/
def State.curStep (s : State) : Nat := s.field .clkStatus [] 4 0

/-- The step that the regions run at or are changing to. -/
def State.stepNow (s : State) : Nat := s.dev.clk.target.getD s.curStep

/-- Begin a change of step. -/
def State.setStep (s : State) (k : Nat) : State :=
  if k = s.stepNow then s
  else (s.modClk fun c => { c with target := some k }).setField .clkStatus [] 13 13 1

/-- The regions of the module. -/
def regions : List Nat := List.range 19

/-- Whether the hop from `p` to `n` crosses the boundary of region `r`. -/
def hopCrosses (r p n : Nat) : Bool := clusterOf p != clusterOf n && (clusterOf p == r || clusterOf n == r)

/-- Whether a tile is under way to core `c` over a hop that crosses the boundary of region `r`. -/
def State.tileCrosses (s : State) (r c : Nat) (d : Dir) : Bool :=
  match s.airHead c d with
  | some a => (s.positions (s.ctx a.ctx).first (s.ctx a.ctx).count).any fun p =>
      (match s.ringNext a.ctx p d with | some (n, _) => n == c | none => false) && hopCrosses r p c
  | none => false

/-- Whether the outgoing hop of core `c` is taken and crosses the boundary of region `r`. -/
def State.hopBlocked (s : State) (r c : Nat) (d : Dir) : Bool :=
  match (s.core c).owner with
  | some x => !s.hopFree x c d && (match s.ringNext x c d with | some (n, _) => hopCrosses r c n | none => false)
  | none => false

/-- The hub region at the far end of an entry: the memory's, the links', or that of PCI Express. -/
def Entry.farRegion (e : Entry) : Option Nat :=
  match e.op with | 3 => some 16 | 4 | 5 => some 18 | 6 => none | _ => some 17

/-- Whether a stream of cluster `k` has an entry in progress whose runs cross the boundary of region `r`. -/
def State.streamCrosses (s : State) (r k x : Nat) : Bool :=
  (s.stream k x).begun.any fun b =>
    match ((s.cluster k).entry b.entry).farRegion with
    | some h => !b.complete && (r == k || r == h)
    | none => false

/-- Whether an arc-scope barrier that core `c` waits for has tokens that cross the boundary of region `r`: from a cluster of its arc to
the root of the control network. -/
def State.barCrosses (s : State) (r c id : Nat) : Bool :=
  match AMap.find? (s.core c).bars id, (s.core c).owner with
  | some 1, some x => r == 18 || (s.ctx x).hasCluster r
  | _, _ => false

/-- The segment that a stream's fetcher would begin now. -/
def State.fetchTarget (s : State) (c : Nat) (x : StreamSel) : Option Seg :=
  let k := s.core c
  let q := k.seqr
  let t := q.strm x
  if k.slot.isNone ∨ (x = .bwd ∧ ¬ q.two) ∨ t.waitBank then none
  else
    match t.segAt with
    | none => none
    | some g =>
      let st := (q.bankOf x g.bank).st
      if (st = .active ∧ ¬ (t.initFill ∧ g.bank = t.bank)) ∨ st = .ready then none else some g

/-- Whether core `c`'s fetcher has a segment to bring from memory over a crossing of region `r`. -/
def State.fetchCrosses (s : State) (r c : Nat) : Bool :=
  (r == clusterOf c || r == 17) && [StreamSel.fwd, .bwd].any fun x => (s.fetchTarget c x).isSome

/-- Whether the boundary that core `c` waits for comes over a crossing of region `r`, from the hub region that paces the contexts. -/
def timeCrosses (r c : Nat) : Bool := r == clusterOf c || r == 18

/-- Whether what a gate of core `c` awaits comes over a crossing of region `r`. -/
def State.gateCrosses (s : State) (r c : Nat) : Cmd → Bool
  | .gateArrive d _ _ _ => s.tileCrosses r c d
  | .gateStream x _ => s.streamCrosses r (clusterOf c) x
  | .gateBarrier false id _ => s.barCrosses r c id
  | .gateTime => timeCrosses r c
  | _ => false

/-- Whether what a core waits for is an item at a crossing of region `r` (R231). -/
def State.awaitsCrossing (s : State) (r c : Nat) (f : Frz) : Bool :=
  match f.cause with
  | 1 => s.fetchCrosses r c
  | 2 => s.tileCrosses r c .cw || s.tileCrosses r c .ccw
  | 3 => (s.awaitedStreams c).any fun x => s.streamCrosses r (clusterOf c) x
  | 5 =>
    let q := (s.core c).seqr
    (match q.queue 0 with | e :: _ => s.gateCrosses r c e.cmd | [] => false) ||
      (match q.queue 8 with | e :: _ => (match e.cmd with | .bar id _ => s.barCrosses r c id | _ => false) | [] => false)
  | 6 => timeCrosses r c
  | 7 => [StreamSel.fwd, .bwd].any fun x => match s.headGate c x with | some (_, .ok cmd) => s.gateCrosses r c cmd | _ => false
  | 8 => s.hopBlocked r c .cw || s.hopBlocked r c .ccw
  | _ => false

/-- R231: a core frozen on an item that a crossing of region `r` holds counts its wait under CLOCK. -/
def State.clockOrigin (s : State) (r c : Nat) : State :=
  let k := s.core c
  match k.st, k.seqr.frz with
  | .frozen, some f =>
    if s.awaitsCrossing r c f then
      s.setCore c (k.modSeq fun q => { q with frz := some { f with origin := some 2 } })
    else s
  | _, _ => s

/-- The CLOCK origin of a change or stretch in region `r`. -/
def State.clockWaits (s : State) (r : Nat) : State := (List.range 64).foldl (fun s c => s.clockOrigin r c) s

/-- A hop on which the sender injects, or the receiver drains, one flit less than a period's: the tile under way, or with flits still to
come, is a period later. What the receiver has not drained stays in the 16 flits of the elastic buffer; once they are full the
sender's hop is busy for a period longer (R231, assumption log 123). -/
def State.slowHop (s : State) (x p : Nat) (d : Dir) (sender : Bool) : State :=
  match s.ringNext x p d with
  | none => s
  | some (n, _) =>
    let now := s.dev.period
    let late (l : List TBuf) : List TBuf := l.map fun b => if b.complete now then b else { b with since := b.since + 1 }
    let leaving := decide (now < (s.core p).hoop.busy d)
    let full := decide (16 ≤ (s.core n).hoop.held d)
    let s := { s with dev := { s.dev with air := s.dev.air.map fun (a : Air) =>
      if a.pos = n ∧ a.dir = d ∧ a.ctx = x ∧ !a.stalled ∧ now ≤ a.readyAt then { a with readyAt := a.readyAt + 1 } else a } }
    let s := s.modCore n fun k =>
      let h := (k.hoop.setBuf d (late (k.hoop.buf d))).setTurnBuf d (late (k.hoop.turnBuf d))
      { k with hoop := if leaving && !sender && !full then h.setHeld d (h.held d + 1) else h }
    if leaving && (sender || full) then s.modCore p fun k => { k with hoop := k.hoop.setBusy d (k.hoop.busy d + 1) } else s

/-- A period of region `r` that is late: every hop over its boundary slows down, on the sender's side or the receiver's. -/
def State.slowCross (s : State) (r : Nat) : State :=
  (List.range 64).foldl (fun s p =>
    match s.clusterCtx (clusterOf p) with
    | none => s
    | some x => [Dir.cw, .ccw].foldl (fun s d =>
        match s.ringNext x p d with
        | some (n, _) => if hopCrosses r p n then s.slowHop x p d (clusterOf p == r) else s
        | none => s) s) s

/-- STEP_CHANGE: every region adopts the step that is being changed to. -/
def State.stepChange (s : State) : State :=
  match s.dev.clk.target with
  | none => s
  | some k =>
    let s := (s.modClk fun c => { c with target := none }).setField .clkStatus [] 13 13 0
    let s := s.setField .clkStatus [] 4 0 k
    let s := regions.foldl (fun s r => ((s.setField .clkRegion [r] 10 6 k).clockWaits r).slowCross r) s
    s.bump .clkCntChanges [] 1 none 9 0

/-- DROOP_STRETCH: a stretch of region `r`, at most once in 4 beats (R230). -/
def State.stretch (s : State) (r : Nat) : State :=
  let free : Bool := match AMap.find? s.dev.clk.stretchAt r with | some p => decide (p + 4 ≤ s.dev.period) | none => true
  if free ∧ ¬ s.regionStopped r then
    (((s.modClk fun c => { c with stretchAt := AMap.set c.stretchAt r s.dev.period }).bump .clkStretch [r] 1 none 9 r).clockWaits r).slowCross r
  else s

/-! ### The planner (R237, R238) -/

/-- NRG_MODEL: the fixed power and the power of untagged segments. -/
def State.fixedW (s : State) : Nat := s.field .nrgModel [] 11 0
def State.untaggedW (s : State) : Nat := s.field .nrgModel [] 27 16

/-- NRG_CFG: P_S, R_MAX and BURST_W. -/
def State.sustW (s : State) : Nat := s.field .nrgCfg [] 23 12
def State.resJ (s : State) : Nat := s.field .nrgCfg [] 35 24
def State.burstW (s : State) : Nat := s.field .nrgCfg [] 47 36

/-- A_x: the average power of a segment at step 0, in W. -/
def SegRun.average (x : SegRun) (untagged : Nat) : Frac :=
  match x.tag with
  | some (beats, mj, _) => ⟨(mj * 2500000 : Nat), max 1 beats⟩
  | none => Frac.ofInt untagged

/-- W: the peak power of a segment. -/
def SegRun.peak (x : SegRun) (untagged : Nat) : Frac :=
  match x.tag with
  | some (_, _, w) => Frac.ofInt w
  | none => Frac.ofInt untagged

/-- `F + Σ max(0, p − F) × (32 − k) / 32`. -/
def powerAt (f k : Nat) (ps : List Frac) : Frac :=
  (Frac.ofInt f).add (((ps.map fun p => (p.sub (Frac.ofInt f)).pos).foldl Frac.add (Frac.ofInt 0)).mul ⟨((32 - k : Nat) : Int), 32⟩)

/-- The time to the earliest planned end at step `k`, in seconds. -/
def nextEnd (k : Nat) (xs : List SegRun) : Option Frac :=
  match (xs.filter fun x => x.tag.isSome).map (·.left) with
  | [] => none
  | l :: ls => some ⟨((ls.foldl min l) * 32 : Nat), 2500000000 * (32 - k)⟩

/-- Whether the planner takes step `k` (the pseudocode of R237). -/
def State.stepOk (s : State) (xs : List SegRun) (k : Nat) : Bool :=
  let f := s.fixedW
  let u := s.untaggedW
  let p := powerAt f k (xs.map fun x => x.average u)
  let q := powerAt f k (xs.map fun x => x.peak u)
  let ps := Frac.ofInt s.sustW
  let level := s.dev.clk.level
  if (Frac.ofInt s.burstW).lt q then false
  else if p.le ps ∧ 0 ≤ level then true
  else if xs.any fun x => x.tag.isNone then decide (level < 0) && p.lt ps
  else
    match nextEnd k xs with
    | some d => (Frac.ofInt 0).le ((⟨level, 1000000⟩ : Frac).sub ((p.sub ps).mul d))
    | none => p.lt ps

/-- The lowest step that the planner may pick now, from emergencies: the emergency step until 1 ms after the current limit
releases, then 4 less; and the thermal step (R241, R242). -/
def State.holdOver (s : State) : Bool :=
  match s.dev.clk.elec with
  | some (_, some t) => decide (t + 100000 ≤ s.dev.tick)
  | some (_, none) => false
  | none => true

/-- CLK_STEP.FLOOR. -/
def State.stepFloor (s : State) : Nat :=
  max (match s.dev.clk.elec with | some (e, _) => if s.holdOver then e - 4 else e | none => 0) (s.dev.clk.thermal.getD 0)

/-- The first acceptable step from `k` on; 24 when none is. -/
def State.planFrom (s : State) (xs : List SegRun) : Nat → Nat → Nat
  | 0, _ => 24
  | n + 1, k => if k ≥ 24 then 24 else if s.stepOk xs k then k else State.planFrom s xs n (k + 1)

/-- CLK_STEP.CAP; values above 24 act as 24. -/
def State.stepCap (s : State) : Nat := min 24 (s.field .clkStep [] 4 0)

/-- The planner's choice for the segments in progress. -/
def State.planStep (s : State) (xs : List SegRun) : Nat := s.planFrom xs 25 (max s.stepCap s.stepFloor)

/-- Segments whose planned end has come leave the planner's view. -/
def State.segsEnd (s : State) : State :=
  s.modClk fun c => { c with segs := c.segs.filter fun x => x.tag.isNone || x.left != 0 }

/-- A planning point: the step is chosen for the segments in progress, counted and applied; an electrical emergency step holds until
1 ms after the release, and the first planning point from then on ends the emergency. -/
def State.planPoint (s : State) : State :=
  let s := s.segsEnd.bump .nrgCntPlans [] 1 none 9 0
  if s.holdOver then
    let k := s.planStep s.dev.clk.segs
    ((s.modClk fun c => { c with elec := none }).setField .clkStep [] 12 8 k).setStep k
  else s.setField .clkStep [] 12 8 s.stepNow

/-- Whether the planned end of a segment in progress has come. -/
def State.planDue (s : State) : Bool := s.dev.clk.segs.any fun x => x.tag.isSome && x.left == 0

/-- PLANNING_POINT at the planned end of a segment in progress. -/
def State.planEnd (s : State) : State := if s.planDue then s.planPoint else s

/-! ### Segment starts and holds (R239) -/

/-- A context's share in W. -/
def State.shareW (s : State) (c : Nat) : Nat := s.field .nrgShare [c] 43 32

/-- The capacity of a share reservoir in nJ (R311). -/
def State.shareCap (s : State) (w : Nat) : Int := s.resJ * 1000000000 * w / max 1 s.sustW

/-- Whether the share reservoir of a context covers a segment until its planned end at step `k`. -/
def State.shareCovers (s : State) (c : Nat) (x : SegRun) (k : Nat) : Bool :=
  let w := s.shareW c
  let f := s.fixedW
  if w = 0 then true
  else
    let est := (((x.average s.untaggedW).sub (Frac.ofInt f)).mul ⟨((32 - k : Nat) : Int), 32⟩).add ⟨(f * (s.ctx c).count : Nat), 16⟩
    let excess := est.sub (Frac.ofInt w)
    if excess.le (Frac.ofInt 0) then true
    else
      match nextEnd k [x] with
      | some d => (excess.mul d).le ⟨AMap.get s.dev.clk.shares 0 c, 1000000000⟩
      | none => false

/-- A segment of slot S0 starts: an untagged one before it ends (R238), and the planner plans with it. -/
def State.segStart (s : State) (x : SegRun) : State :=
  (s.modClk fun c => { c with segs := c.segs.filter (fun y => !(y.ctx == x.ctx && y.tag.isNone)) ++ [x] }).planPoint

/-- The segment of a fetch as the planner sees it. -/
def State.segRun (s : State) (c : Nat) (g : Seg) : SegRun :=
  let tag := AMap.find? (s.ctx c).energy g.segId
  ⟨c, g.segId, tag, match tag with | some (b, _, _) => b | none => 0⟩

/-- SEGMENT_FETCH: a start of slot S0 is a planning point, and a start that the context's share does not cover is held; the segments
in progress then stay as they were. -/
def State.fetchPlanned (s : State) (c : Nat) (x : StreamSel) : State :=
  match s.fetchTarget c x with
  | none => s.segmentFetch c x
  | some g =>
    let k := s.core c
    let held := s.dev.clk.held.find? fun h => h.1 == k.ctx && h.2.1 == g.segId
    match held with
    | some (_, _, false) => s
    | _ =>
      if k.slot ≠ some 0 then s.segmentFetch c x
      else
        let r := s.segRun k.ctx g
        let s' := s.segStart r
        if held.isSome ∨ s'.shareCovers k.ctx r (s'.field .clkStep [] 12 8) then
          (s'.modClk fun c => { c with held := c.held.filter fun h => h.1 != k.ctx || h.2.1 != g.segId }).segmentFetch c x
        else
          (s'.modClk fun c => { c with segs := s.segsEnd.dev.clk.segs, held := c.held ++ [(k.ctx, g.segId, false)] }).bump
            .nrgCntHold [] 1 (some k.ctx) 9 0

/-- Whether a hold of the start of segment `id` by context `c` may end: the share reservoir has refilled enough, or the context's other
segments have ended. -/
def State.mayRelease (s : State) (c id : Nat) : Bool :=
  let r := s.segRun c { addr := 0, segId := id, first := 0, ninstr := 0, ndesc := 0, bank := 0, last := false }
  s.shareCovers c r (s.field .clkStep [] 12 8) ||
    !((s.segsEnd.dev.clk.segs.any fun x => x.ctx == c) || s.dev.clk.held.any fun h => h.1 == c && h.2.2)

/-- SEGMENT_HOLD_RELEASE: the first hold of a context that may end ends; the others are tried again with it in progress. -/
def State.holdRelease (s : State) (c : Nat) : State :=
  match s.dev.clk.held.find? fun h => h.1 == c && !h.2.2 && s.mayRelease c h.2.1 with
  | none => s
  | some h => s.modClk fun k => { k with held := k.held.map fun y => if y = h then (c, h.2.1, true) else y }

/-! ### Reference and lock (R232, R233) -/

/-- The module enters FAILED with a cause (R293). -/
def State.fail (s : State) (cause : Nat) : State :=
  ((s.setField .hubState [] 15 8 cause).setField .hubState [] 2 0 5).setField .hubAlert [] 5 5 1

/-- REF_LOSS: the selected MREF is lost. -/
def State.refLoss (s : State) : State :=
  if s.field .clkStatus [] 14 14 = 0 then
    ((s.setField .clkStatus [] 14 14 1).setField .clkStatus [] 15 15 1).setField .hubAlert [] 0 0 1
  else s

/-- The contexts with a core or engine in a region: those whose arc includes the cluster, or every context for a hub
region. -/
def State.regionCtxs (s : State) (r : Nat) : List Nat :=
  (List.range 8).filter fun c => (s.ctx c).valid && (decide (16 ≤ r) || (s.ctx c).hasCluster r)

/-- PLL_UNLOCK: a region's clock stops, and the affected contexts are halted. -/
def State.pllUnlock (s : State) (r : Nat) : State :=
  if s.field .clkRegion [r] 0 0 = 0 then s
  else
    let s := ((s.setField .clkRegion [r] 0 0 0).setField .clkRegion [r] 1 1 1).setField .clkRegion [r] 2 2 1
    let s := (s.setField .hubAlert [] 1 1 1).modClk fun c => { c with unlocks := AMap.set c.unlocks r s.dev.tick }
    (s.regionCtxs r).foldl State.haltCtx s

/-- PLL_RELOCK within 1 ms: the region resumes at the module step, and what waited for the memory's goes on. -/
def State.pllRelock (s : State) (r : Nat) : State :=
  match AMap.find? s.dev.clk.unlocks r with
  | none => s
  | some t =>
    if s.dev.tick ≤ t + 100000 then
      let s := ((s.setField .clkRegion [r] 0 0 1).setField .clkRegion [r] 2 2 0).modClk fun c =>
        { c with unlocks := AMap.erase c.unlocks r }
      if r = 17 then s.releaseHub else s
    else s

/-- PLL_RELOCK_TIMEOUT: after 1 ms a cluster's enabled cores go out of service, and a hub region fails the module. -/
def State.pllTimeout (s : State) (r : Nat) : State :=
  match AMap.find? s.dev.clk.unlocks r with
  | none => s
  | some t =>
    if t + 100000 < s.dev.tick then
      let s := s.modClk fun c => { c with unlocks := AMap.erase c.unlocks r }
      if r < 16 then
        (List.range 4).foldl (fun s i => s.modCore (4 * r + i) fun k =>
          if k.st = .fusedOff then k else { k with st := .outOfService }) s
      else s.fail 7
    else s

/-! ### Meters (R234 to R236, R311, R244) -/

/-- A sum of numbers. -/
def sumNat (l : List Nat) : Nat := l.foldl (· + ·) 0

/-- The energy in nJ that a context is charged for an interval: its part of the fixed power and of the rest (R234). -/
def State.charge (s : State) (vin : Nat) (regs : List Nat) (c : Nat) : Nat :=
  let x := s.ctx c
  let fixed := min (s.fixedW * 100) vin
  let own := sumNat ((List.range x.count).map fun i => regs.getD (x.first + i) 0)
  fixed * 1000 * x.count / 16 + (vin - fixed) * 1000 * own / max 1 (sumNat (regs.take 16))

/-- Clamp to a range. -/
def clampInt (lo hi v : Int) : Int := max lo (min hi v)

/-- R236: the reservoir at the end of an interval in which VIN gave `vin` µJ. -/
def State.reservoir (s : State) (vin : Nat) : State :=
  let cap : Int := s.resJ * 1000000
  let l := clampInt (-cap) cap (s.dev.clk.level + (s.sustW * 100 : Nat) - vin)
  let s := s.modClk fun c => { c with level := l, spent := c.spent && decide (2 * l < cap) }
  if l < 0 ∧ ¬ s.dev.clk.spent then
    (s.modClk fun c => { c with spent := true }).raise 0x0501 { kind := 9, index := 0, ctx := none }
  else s

/-- The wear of one interval in ps: 100 µs × 2^((T − 85)/10) × (V / V_NOM)^8, the exponential in FP64; `t` is in 0.25 °C and
`v` the ratio in units of 2 ^ -16 (R244). -/
def wearOf (t v : Nat) : Nat :=
  let x : Val := (Val.ofInt ((t : Int) - 340) 0).div (Val.ofInt 40 0)
  match fp64.decode (fp64.round (fp64.decode (fp64.round x)).exp2) with
  | .fin _ m e => if 0 ≤ e then 100000000 * v ^ 8 * m * 2 ^ e.toNat / 2 ^ 128 else 100000000 * v ^ 8 * m / 2 ^ (128 + (-e).toNat)
  | _ => 0

/-- 150 % of the design life, in ps. -/
def wearLimit : Nat := 236520000 * 1000000000000

/-- Add wear; it saturates at 150 % and raises WEAR_LIMIT once. -/
def State.addWear (s : State) (n : Nat) : State :=
  let w := s.dev.clk.wear
  if wearLimit ≤ w then s
  else
    let s := s.modClk fun c => { c with wear := min wearLimit (w + n) }
    if wearLimit ≤ w + n then s.raise 0x0504 { kind := 9, index := 0, ctx := none } else s

/-- The hottest sensor. -/
def State.hottest (s : State) : Nat := (regions.map fun r => s.field .clkRegion [r] 25 16).foldl max 0

/-- METER_INTERVAL: the energy of the 12 rails in µJ, that of the 16 cluster regions on rails 1 to 4, and the highest
VCORE ratio. -/
def State.meter (s : State) (rails regs : List Nat) (v : Nat) : State :=
  let vin := rails.getD 0 0
  let s := s.modClk fun c => { c with rails := (List.range 12).foldl (fun m i =>
    AMap.set m i (AMap.get m 0 i + rails.getD i 0)) c.rails }
  let ctxs := (List.range 8).filter fun c => (s.ctx c).valid
  let runs := ctxs.any fun c => (s.slotCores c).any fun k => (s.core k).live
  let parts := if runs then ctxs.map fun c => (c, s.charge vin regs c) else []
  let s := s.modClk fun k => { k with
    ctxE := parts.foldl (fun m p => AMap.set m p.1 (AMap.get m 0 p.1 + p.2)) k.ctxE
    idleE := k.idleE + (vin * 1000 - sumNat (parts.map (·.2))) }
  let s := s.reservoir vin
  let s := s.modClk fun k => { k with shares := k.shares.map fun p =>
    let cap := s.shareCap (s.shareW p.1)
    let used := match parts.find? fun q => q.1 == p.1 with | some q => q.2 | none => 0
    (p.1, clampInt (-cap) cap (p.2 + (s.shareW p.1 * 100000 : Nat) - used)) }
  s.addWear (wearOf s.hottest v)

/-- WEAR_LEDGER_SAVE. -/
def State.wearSave (s : State) : State := { s with nv := { s.nv with wear := s.dev.clk.wear } }

/-- OVERBURST_CHECK: the 1 ms average of VIN, in mW (R240). -/
def State.overburst (s : State) (mw : Nat) : State :=
  if s.burstW * 1000 < mw ∧ mw ≤ 4000000 then s.bump .nrgCntOverburst [] 1 none 9 0 else s

/-! ### Emergencies (R241 to R243) -/

/-- An emergency step: recorded, counted and raised. -/
def State.emergency (s : State) (cause to_ region : Nat) : State :=
  let rec_ := word [(cause, 61), (to_, 56), (s.stepNow, 51), (region, 46), (s.hubTick % 2 ^ 46, 0)]
  ((((s.recordFault .nrgEmerg [] 63 rec_).bump .nrgCntEmerg [] 1 none 9 0).raise 0x0503
    { kind := 9, index := region, ctx := none })).setStep to_

/-- CURRENT_LIMIT: 8 steps down (R241). -/
def State.currentLimit (s : State) : State :=
  let k := min 24 (s.stepNow + 8)
  (s.emergency 1 k 0).modClk fun c => { c with elec := some (k, none) }

/-- CURRENT_LIMIT_RELEASE. -/
def State.currentRelease (s : State) : State :=
  s.modClk fun c => { c with elec := c.elec.map fun p => (p.1, some (p.2.getD s.dev.tick)) }

/-- The region of the hottest sensor. -/
def hotRegion (temps : List Nat) : Nat := (temps.takeWhile (· ≠ temps.foldl max 0)).length

/-- THERMAL_SAMPLE: the 19 junction sensors in 0.25 °C, read every 100 µs. The first reading of 105 °C or more in a
millisecond raises the step by one; 100 samples below 100 °C end the thermal step. -/
def State.thermal (s : State) (temps : List Nat) : State :=
  let t := (temps ++ List.replicate 19 0).take 19
  let s := (regions.zip t).foldl (fun s p => s.setField .clkRegion [p.1] 25 16 (min 1023 p.2)) s
  let hot := t.any fun x => decide (420 ≤ x)
  let cool := t.all fun x => decide (x < 400)
  let first := hot && !s.dev.clk.hot
  let s := s.modClk fun c =>
    let n := if cool then c.cool + 1 else 0
    let last := c.sample % 10 == 9
    { c with cool := n, sample := (c.sample + 1) % 10, hot := (c.hot || hot) && !last,
             thermal := if 100 ≤ n then none else c.thermal }
  if first then
    let k := min 24 (s.stepNow + 1)
    ((s.emergency 2 k (hotRegion t)).setField .hubAlert [] 4 4 1).modClk fun c => { c with thermal := some k }
  else s

/-- Change the supply. -/
def State.modPower (s : State) (f : PowerS → PowerS) : State := { s with nv := { s.nv with power := f s.nv.power } }

/-- Only what is not volatile remains: the cave's memory and `Nv`. -/
def State.wipe (s : State) : State :=
  { s with dev := {}, mem := s.mem.filter fun p => decide (2 ^ 48 ≤ p.1), bad := s.bad.filter fun x => decide (2 ^ 43 ≤ x) }

/-- The rails go off: nothing runs any more; `cause` says what will have begun the next start, `shutdown` how the stop left
the cave. -/
def State.railsOff (s : State) (cause shutdown : Nat) : State :=
  ({ s.wipe with host := { s.host with unmasked := [], pending := [] } }).modPower fun p =>
    { p with rails := false, good := 0, trained := false, stopAt := none, lost := false, cause := cause, shutdown := shutdown }

/-- THERMTRIP: the trip is logged, the latch closes and the rails go off. -/
def State.thermTrip (s : State) (r t : Nat) : State :=
  if t < 460 ∨ ¬ s.nv.power.rails then s
  else
    let log := word [(1, 63), (r, 58), (min 1023 t, 48), (s.dev.clk.wear / 1000000000000, 0)]
    let s := { s with nv := { s.nv with tripLog := log, tripTick := s.hubTick } }
    (s.railsOff 3 2).modPower fun p => { p with trip := true }

/-! ### Writes (R245) -/

/-- NRG_MODEL_WRITE. -/
def State.modelWrite (s : State) (v : BitVec 64) : State :=
  if (List.range 64).any fun c => (s.core c).live then s.setField .nrgStatus [] 33 33 1
  else ((s.setField .nrgModel [] 27 16 (wbits v 27 16)).setField .nrgModel [] 11 0 (wbits v 11 0)).planPoint

/-- STEP_CAP_WRITE. -/
def State.capWrite (s : State) (v : BitVec 64) : State := (s.setField .clkStep [] 4 0 (wbits v 4 0)).planPoint

/-! ### Views -/

/-- CLK_STATUS with EMERG. -/
def State.clkStatus (s : State) : BitVec 64 :=
  wput (s.reg .clkStatus []) 12 11 (b2n s.dev.clk.elec.isSome + 2 * b2n s.dev.clk.thermal.isSome)

/-- CLK_STEP with FLOOR. -/
def State.clkStep (s : State) : BitVec 64 := wput (s.reg .clkStep []) 20 16 s.stepFloor

/-- NRG_STATUS with EXHAUSTED and LEVEL in mJ. -/
def State.nrgStatus (s : State) : BitVec 64 :=
  let l := s.dev.clk.level
  wput (wput (s.reg .nrgStatus []) 32 32 (b2n (decide (l < 0)))) 31 0 ((l / 1000) % 2 ^ 32).toNat

/-- NRG_WEAR. -/
def State.nrgWear (s : State) : BitVec 64 :=
  let sec := s.dev.clk.wear / 1000000000000
  word [(b2n (decide (wearLimit ≤ s.dev.clk.wear)), 63), (min 1500 (sec * 1000 / 157680000), 48), (sec, 0)]

/-- NRG_SHAREc with LEVEL in mJ. -/
def State.nrgShare (s : State) (c : Nat) : BitVec 64 :=
  word [(s.shareW c, 32), (((AMap.get s.dev.clk.shares 0 c / 1000000) % 2 ^ 32).toNat, 0)]

/-! ### Rows -/

/-- SEGMENT_FETCH (R71, R308, R239). -/
def execSegmentFetch (c : CoreId) (x : StreamSel) (s : State) : Host.Outcome State Fault Refusal := .next (s.fetchPlanned c x)
/-- PLANNING_POINT (R237). -/
def execPlanningPoint (s : State) : Host.Outcome State Fault Refusal := .next s.planEnd
/-- SEGMENT_HOLD_RELEASE (R239). -/
def execSegmentHoldRelease (c : CtxId) (s : State) : Host.Outcome State Fault Refusal := .next (s.holdRelease c)
/-- STEP_CHANGE (R229). -/
def execStepChange (s : State) : Host.Outcome State Fault Refusal := .next s.stepChange
/-- DROOP_STRETCH (R230). -/
def execDroopStretch (r : RegionId) (s : State) : Host.Outcome State Fault Refusal :=
  .next (s.powered fun s => s.stretch r)
/-- REF_LOSS (R232). -/
def execRefLoss (s : State) : Host.Outcome State Fault Refusal :=
  .next (s.powered fun s => s.refLoss)
/-- PLL_UNLOCK (R233). -/
def execPllUnlock (r : RegionId) (s : State) : Host.Outcome State Fault Refusal :=
  .next (s.powered fun s => s.pllUnlock r)
/-- PLL_RELOCK (R233). -/
def execPllRelock (r : RegionId) (s : State) : Host.Outcome State Fault Refusal :=
  .next (s.powered fun s => (s.pllRelock r).settleLandings)

/-- PLL_RELOCK_TIMEOUT (R233). -/
def execPllRelockTimeout (r : RegionId) (s : State) : Host.Outcome State Fault Refusal :=
  .next (s.powered fun s => s.pllTimeout r)
/-- METER_INTERVAL (R234 to R236, R311, R244). -/
def execMeterInterval (rails regs : List Nat) (v : Nat) (s : State) : Host.Outcome State Fault Refusal :=
  .next (s.powered fun s => s.meter rails regs v)
/-- WEAR_LEDGER_SAVE (R244). -/
def execWearLedgerSave (s : State) : Host.Outcome State Fault Refusal :=
  .next (s.powered fun s => s.wearSave)
/-- OVERBURST_CHECK (R240). -/
def execOverburstCheck (mw : Nat) (s : State) : Host.Outcome State Fault Refusal :=
  .next (s.powered fun s => s.overburst mw)
/-- CURRENT_LIMIT (R241). -/
def execCurrentLimit (s : State) : Host.Outcome State Fault Refusal :=
  .next (s.powered fun s => s.currentLimit)
/-- CURRENT_LIMIT_RELEASE (R241). -/
def execCurrentLimitRelease (s : State) : Host.Outcome State Fault Refusal :=
  .next (s.powered fun s => s.currentRelease)
/-- THERMAL_SAMPLE (R242). -/
def execThermalSample (temps : List Nat) (s : State) : Host.Outcome State Fault Refusal :=
  .next (s.powered fun s => s.thermal temps)
/-- THERMTRIP (R243, R298). -/
def execThermtrip (r : RegionId) (t : Nat) (s : State) : Host.Outcome State Fault Refusal := .next (s.thermTrip r t)
/-- NRG_MODEL_WRITE (R245). -/
def execNrgModelWrite (v : Word) (s : State) : Host.Outcome State Fault Refusal :=
  .next (s.hosted fun s => s.modelWrite v)
/-- STEP_CAP_WRITE (R245). -/
def execStepCapWrite (v : Word) (s : State) : Host.Outcome State Fault Refusal :=
  .next (s.hosted fun s => s.capWrite v)

end Sys2Proof.Machine
end

