-- ==== Sys2Proof/Machine/Host.lean ====
section
/-!
DEFINITION. The mailboxes (*Host Interface and Command Set*: R247, R249 to R255; *Identity, Attestation and Command
Authentication*: R274, R275): the checks of a command when the host hands it over, and its response.
-/
namespace Sys2Proof.Machine

/-! ### Mailboxes -/

/-- A mailbox. -/
def State.mbox (s : State) (m : Nat) : Mbox := AMap.get s.dev.mbox {} m

/-- Change a mailbox. -/
def State.modMbox (s : State) (m : Nat) (f : Mbox → Mbox) : State :=
  { s with dev := { s.dev with mbox := AMap.set s.dev.mbox m (f (s.mbox m)) } }

/-- HUB_STATE.STATE. -/
def State.hubState (s : State) : Nat := s.field .hubState [] 2 0

/-- The owner hash of fuse words 64 to 67 is fused (R271). -/
def State.ownerHash (s : State) : List Byte :=
  ((List.range 4).map fun i => leBytes 8 (AMap.get s.nv.fuses 0 (64 + i)).toNat).flatten

/-- Whether the owner hash is fused. -/
def State.ownerSet (s : State) : Bool := s.ownerHash.any fun b => b != 0

/-- What a command may be given to: the management mailbox, a context's, the security mailbox. -/
structure OpInfo where
  mgmt : Bool
  ctx : Bool
  sec : Bool
  critical : Bool

/-- The command table with the mailbox roles (R253); `none` for an opcode it does not list. -/
def opInfo : Nat → Option OpInfo
  | 0x01 => some ⟨true, true, true, false⟩
  | 0x02 => some ⟨true, true, false, false⟩
  | 0x10 | 0x11 => some ⟨false, false, true, false⟩
  | 0x20 | 0x21 | 0x40 | 0x62 | 0x80 | 0xA0 | 0xF1 => some ⟨true, false, false, true⟩
  | 0xF0 => some ⟨true, false, false, false⟩
  | 0x33 | 0x41 => some ⟨true, true, false, false⟩
  | 0x30 | 0x31 | 0x32 | 0x34 | 0x50 | 0x51 | 0x52 | 0x60 | 0x61 | 0x70 | 0x71 => some ⟨false, true, false, false⟩
  | 0x72 => some ⟨false, true, false, true⟩
  | 0x90 => some ⟨false, false, true, true⟩
  | _ => none

/-- Whether a mailbox accepts a command (the table of mailbox roles). -/
def OpInfo.accepts (i : OpInfo) (m : Nat) : Bool := if m = 0 then i.mgmt else if m = 63 then i.sec else i.ctx

/-- Whether a LENGTH is that of the command, or in its range (step 4 of R252). -/
def State.lengthOk (s : State) (m op len : Nat) (payload : List Byte) : Bool :=
  let p (o n : Nat) : Nat := leNat ((payload.drop o).take n)
  match op with
  | 0x01 | 0x02 => len == 0
  | 0x33 | 0x41 => len == (if m = 0 then 1 else 0)
  | 0x10 | 0x11 | 0x50 | 0x70 | 0x71 => len == 32
  | 0x20 => len == 128
  | 0x21 | 0x61 | 0xF0 => len == 4
  | 0x30 | 0x32 => len == 8
  | 0x31 | 0x52 | 0x72 | 0x80 | 0xF1 => len == 16
  | 0x34 | 0xA0 => len == 1
  | 0x40 => len == 48
  | 0x51 => decide (32 ≤ len) && decide (p 28 2 ≤ 124) && len == 32 + 16 * p 28 2
  | 0x60 => len == (if p 2 1 = 2 then 192 else 64) && decide (3 ≤ len)
  | 0x62 => decide (24 ≤ len) && decide (p 4 2 ≤ 249) && len == 24 + 8 * p 4 2
  | 0x90 => len == (if s.ownerSet then 248 else 120)
  | _ => false

/-! ### The response (R250, R275) -/

/-- The response key and its use: `K_rsp` over STATUS, LENGTH, COUNTER and payload. -/
def checkBytes (head len counter : Nat) (payload : List Byte) : List Byte :=
  leBytes 2 head ++ leBytes 2 len ++ leBytes 8 counter ++ payload

/-- Write the whole response half of a mailbox, clear OWN and raise its vector. -/
def State.respond (s : State) (m fn seq status : Nat) (payload : List Byte) (counter : Nat) (check : List Byte) : State :=
  let n := payload.length
  let head := leBytes 4 (seq % 2 ^ 31) ++ leBytes 2 n ++ leBytes 2 status ++ leBytes 8 counter ++
    (check ++ List.replicate (16 - check.length) 0) ++ payload
  (s.modMbox m fun b =>
    { b with cells := Mem.writeLE (Mem.writeN (Mem.clearRange b.cells 0x800 0x800) 0x800 head) 0 4 (seq % 2 ^ 31),
             own := false, cmd := none }).vector (m + 2048 * fn)

/-- Answer the command that a mailbox has accepted. -/
def State.answer (s : State) (m : Nat) (a : Accepted) (status : Nat) (payload : List Byte) : State :=
  match a.key with
  | some k => s.respond m a.fn a.seq status payload a.counter ((hmac k (checkBytes status payload.length a.counter payload)).take 16)
  | none => s.respond m a.fn a.seq status payload 0 []

/-! ### Security checks (R274) -/

/-- K_cmd and K_rsp of a mailbox: HKDF-Expand of the session's export master secret. -/
def mailboxKey (label : String) (ems : List Byte) (m epoch session : Nat) : List Byte :=
  hkdfExpand ems (asciiBytes label ++ leBytes 1 m ++ leBytes 4 epoch ++ leBytes 4 session) 32

/-- The live session that a mailbox is bound to. -/
def State.boundSession (s : State) (m : Nat) : Option Sess :=
  match (s.mbox m).session with
  | some i => s.dev.spdm.sessions.find? fun x => x.id == i && x.up
  | none => none

/-- Raise a code of the security log; vector 73 is raised too when the log has no room for the record (R274). -/
def State.secRaise (s : State) (code : Nat) (o : Origin) : State :=
  let t := s.raise code o
  if (s.log 9).used < 256 then t else t.vector 73

/-- Record a refusal: its counter, SEC_LAST, the event and vector 73 (R273, R274). -/
def State.refusal (s : State) (m op status : Nat) : State :=
  let last := word [(op, 32), (status, 16), (m, 0)]
  let o : Origin := { kind := 11, index := m, ctx := none }
  let s := s.recordFault .secLast [] 63 last
  match status with
  | 0x15 => s.vector 73
  | 0x16 => (s.bump .secCntAuthfail [] 1 none 11 m).secRaise 0x0601 o
  | 0x17 => (s.bump .secCntReplay [] 1 none 11 m).secRaise 0x0602 o
  | 0x18 =>
    let s := s.bump .secCntExhaust [] 1 none 11 m
    if (s.mbox m).spent then s.vector 73
    else (s.modMbox m fun b => { b with spent := true }).secRaise 0x0603 o
  | _ => s

/-- Step 6 of R252 for a critical command: the status of a refusal, or the response key. -/
def State.authorise (s : State) (m op counter : Nat) (payload check : List Byte) : Except Nat (List Byte) :=
  let b := s.mbox m
  match s.boundSession m with
  | none => .error 0x15
  | some x =>
    if b.lastCtr = 2 ^ 64 - 1 then .error 0x18
    else if counter ≤ b.lastCtr then .error 0x17
    else
      let k := mailboxKey "N2MB-CMD" x.ems m b.epoch x.id
      if (hmac k (checkBytes op payload.length counter payload)).take 16 ≠ check then .error 0x16
      else .ok (mailboxKey "N2MB-RSP" x.ems m b.epoch x.id)

/-! ### Submitting (R250 to R252) -/

/-- The next SEQ of a mailbox. -/
def Mbox.nextSeq (b : Mbox) : Nat := if b.lastSeq = 2 ^ 31 - 1 then 1 else b.lastSeq + 1

/-- Draw a fresh nonce (R277). -/
def State.drawNonce (s : State) : State :=
  let k := s.nv.power.draws
  (List.range 4).foldl (fun s i => s.setReg .secDbgNonce [i] (Config.nonce k i))
    { s with nv := { s.nv with power := { s.nv.power with draws := k + 1 } } }

/-- The checks of a command whose OWN bit has just been set, in the order of R252; a DEBUG_UNLOCK that they refuse has used up the
nonce (R277). -/
def State.checkCommand (s : State) (m fn seq : Nat) : State :=
  let b := s.mbox m
  let len := Mem.readLE b.cells 4 2
  let op := Mem.readLE b.cells 6 2
  let counter := Mem.readLE b.cells 8 8
  let payload := Mem.readN b.cells 0x20 (min len 2016)
  let info := opInfo op
  let critical := match info with | some i => i.critical | none => false
  let refuse (s : State) (status : Nat) : State := (if op = 0x90 then s.drawNonce else s).respond m fn seq status [] (if critical then counter else 0) []
  if seq ≠ b.nextSeq then refuse s 0x10
  else
    let s := s.modMbox m fun b => { b with lastSeq := seq }
    match info with
    | none => refuse s 0x11
    | some i =>
      if ¬ i.accepts m then refuse s 0x12
      else if ¬ s.lengthOk m op len payload then refuse s 0x13
      else if s.hubState ≠ 4 ∧ op ≠ 0x01 ∧ op ≠ 0xF0 then refuse s 0x14
      else
        let accept (s : State) (key : Option (List Byte)) : State :=
          s.modMbox m fun b =>
            { b with cmd := some { fn := fn, seq := seq, tick := s.dev.tick, op := op, payload := payload, counter := counter, key := key } }
        if i.critical then
          match s.authorise m op counter payload (Mem.readN b.cells 0x10 16) with
          | .error st => refuse (s.refusal m op st) st
          | .ok key => accept (s.modMbox m fun b => { b with lastCtr := counter }) (some key)
        else accept s none

/-- Count a saturating half of HIF_ERR. -/
def State.hifErr (s : State) (owned : Bool) : State :=
  if owned then s.setField .hifErr [] 63 32 (satInc 32 (s.field .hifErr [] 63 32))
  else s.setField .hifErr [] 31 0 (satInc 32 (s.field .hifErr [] 31 0))

/-- MAILBOX_SUBMIT: the host writes the OWN/SEQ word of a mailbox. -/
def State.submit (s : State) (m fn : Nat) (w : BitVec 32) : State :=
  let b := s.mbox m
  if ¬ s.linked then s
  else if b.own then s.hifErr true
  else
    let own := bit w.toNat 31
    let s := s.modMbox m fun b => { b with cells := Mem.writeLE b.cells 0 4 w.toNat, own := own }
    if own then s.checkCommand m fn (bits w.toNat 30 0) else s

/-- A host write to the command half of a mailbox other than OWN/SEQ; writes to the response half are dropped (R250). -/
def State.mailboxWrite (s : State) (m off : Nat) (d : List Byte) : State :=
  if 0x800 ≤ off then s
  else if (s.mbox m).own then s.hifErr true
  else s.modMbox m fun b => { b with cells := Mem.writeN b.cells off d }

/-! ### Serving (R254, R94) -/

/-- The context that an accepted command acts on: the one that a command of mailbox 0 names, or the mailbox's own; information acts
on nothing context-specific. -/
def State.actsOn (s : State) (m : Nat) (a : Accepted) : Option Nat :=
  match a.op with
  | 0x01 | 0x02 => none
  | op =>
    if m ≠ 0 then (s.mbox m).owner
    else match op with
      | 0x20 | 0x33 | 0x41 => some (leNat (a.payload.take 1))
      | 0x21 => some (leNat (a.payload.take 4))
      | _ => none

/-- R254: whether the command of mailbox `m` was accepted before that of `j`: on an earlier tick, or on the same one with the lower
mailbox number. -/
def acceptedFirst (m : Nat) (a : Accepted) (j : Nat) (b : Accepted) : Bool :=
  decide (a.tick < b.tick) || (a.tick == b.tick && decide (m ≤ j))

/-- Commands that occupy only their own mailbox once they have begun. -/
def longOp (op : Nat) : Bool := op == 0x50 || op == 0x51 || op == 0x61 || op == 0x70 || op == 0x71 || op == 0x72

/-- R254: whether no command of the same context that was accepted earlier still has to be served; HALT goes first, and
CONTEXT_DESTROY waits for every earlier command of its context to finish. The management cores serve none while their region's clock is
stopped, until it is given up (R233). -/
def State.mayServe (s : State) (m : Nat) (a : Accepted) : Bool :=
  (!s.regionStopped 18 || s.regionDead 18) && (a.op == 0x33 ||
    match s.actsOn m a with
    | none => true
    | some c => (List.range 64).all fun j =>
        match (s.mbox j).cmd with
        | some b => j == m || s.actsOn j b != some c || acceptedFirst m a j b || (a.op != 0x21 && b.begun && longOp b.op)
        | none => true)

/-- Serve the command that a mailbox has accepted, if it is `op` and its turn has come. -/
def State.serve (s : State) (m op : Nat) (f : Accepted → State → State) : State :=
  match (s.mbox m).cmd with
  | some a => if a.op = op ∧ s.mayServe m a then f a s else s
  | none => s

/-- Serve a context command: a mailbox that no context owns is refused with NO_CONTEXT (R253). -/
def State.serveCtx (s : State) (m op : Nat) (f : Nat → Accepted → State → State) : State :=
  s.serve m op fun a s =>
    match (s.mbox m).owner with
    | some c => f c a s
    | none => s.answer m a 0x20 []

/-- A payload field. -/
def Accepted.at_ (a : Accepted) (o n : Nat) : Nat := leNat ((a.payload.drop o).take n)

/-- Whether payload bytes `[o, o + n)` are zero. -/
def Accepted.zero (a : Accepted) (o n : Nat) : Bool := ((a.payload.drop o).take n).all fun b => b == 0

/-- Mark a long command as begun. -/
def State.begin_ (s : State) (m : Nat) : State := s.modMbox m fun b => { b with cmd := b.cmd.map fun a => { a with begun := true } }

/-- MAILBOX_SUBMIT. -/
def execMailboxSubmit (m : MboxId) (fn : Fin 2) (w : BitVec 32) (s : State) : Host.Outcome State Fault Refusal :=
  .next (s.submit m fn w)

end Sys2Proof.Machine
end

