-- ==== Sys2Proof/Machine/RegView.lean ====
section
/-!
DEFINITION. What each register reads as: the stored word, or, for a field that reports the state of a unit, a word
computed from that unit. The layouts are the register tables of the manual's chapters.
-/
namespace Sys2Proof.Machine

/-! ### Hub, feature and host-interface registers -/

/-- Fuse word. -/
def State.fuse (s : State) (n : Nat) : BitVec 64 := AMap.get s.nv.fuses 0 n

/-- In-service cores of a list (R31). -/
def State.inServ (s : State) (cs : List Nat) : Nat := (cs.filter fun c => (s.core c).inService).length

/-- FEAT_HOOP. -/
def State.featHoop (s : State) : BitVec 64 :=
  let d0 := s.inServ (List.range 32)
  let d1 := s.inServ ((List.range 32).map (32 + ·))
  word [(b2n s.joined, 32), (d0 + d1, 24), (d1, 16), (d0, 8)]

/-- log2 of the BAR2 size in force, less 36. -/
def State.bar2Log (s : State) : Nat := s.field .hifCfg [] 19 16

/-- HIF_WINf.BASE: bits below the BAR2 size read as zero (R248). -/
def State.winBase (s : State) (f : Nat) : Nat :=
  s.field .hifWin [f] 63 36 / 2 ^ s.bar2Log * 2 ^ s.bar2Log * 2 ^ 36

/-- HUB_ARCn with GOOD, the in-service positions of the arc (R31). -/
def State.hubArc (s : State) (c : Nat) : BitVec 64 :=
  let x := s.ctx c
  if x.valid then
    word [(1, 31), (b2n x.folded, 30), (s.field .hubArc [c] 27 19, 19), ((s.positions x.first x.count).length, 12), (x.count, 4), (x.first, 0)]
  else 0

/-- MBX_OWNj. -/
def State.mbxOwn (s : State) (j : Nat) : BitVec 64 :=
  word ((List.range 16).filterMap fun i => (s.mbox (16 * j + i)).owner.map fun c => (8 + c, 4 * i))

/-- CTX_INBOXc. -/
def State.ctxInbox (s : State) (c : Nat) : BitVec 64 :=
  let x := s.ctx c
  if x.valid then BitVec.ofNat 64 (x.inbox * granBytes) else 0

/-- CLK_TICKr: every region's counter runs with the reference from its PLL's first lock; region 18's is the one that records quote,
the others are not aligned with it. Before the first tick all stand at 0. -/
def State.localTick (s : State) (r : Nat) : BitVec 64 :=
  if s.hubTick = 0 then 0 else BitVec.ofNat 64 s.hubTick + if r = 18 then 0 else Config.tickSkew r

/-! ### Security, event and rind registers -/

/-- SEC_STATUS. -/
def State.secStatus (s : State) : BitVec 64 :=
  s.reg .secStatus [] ||| word [(min 7 (s.dev.spdm.sessions.filter (·.up)).length, 9), (b2n s.ownerSet, 8), (wbits (s.fuse 68) 0 0, 7)]

/-- SEC_BIND_ADDR with BOUND. -/
def State.secBindAddr (s : State) : BitVec 64 :=
  wput (s.reg .secBindAddr []) 16 16 (b2n (s.boundSession (s.field .secBindAddr [] 5 0)).isSome)

/-- SEC_BIND_DATA. -/
def State.secBindData (s : State) : BitVec 64 :=
  let b := s.mbox (s.field .secBindAddr [] 5 0)
  if s.field .secBindAddr [] 8 8 = 1 then BitVec.ofNat 64 b.lastCtr else word [(b.epoch, 32), (b.session.getD 0, 0)]

/-- EVT_DATA: the word that EVT_ADDR selects. -/
def State.evtData (s : State) : BitVec 64 :=
  let r := AMap.get (s.log (s.field .evtAddr [] 15 12)).recs 0 (s.field .evtAddr [] 9 2)
  BitVec.ofNat 64 (r.toNat / 2 ^ (64 * s.field .evtAddr [] 1 0))

/-- EVT_PTRl. -/
def State.evtPtr (s : State) (l : Nat) : BitVec 64 :=
  let g := s.log l
  word [(g.lost, 40), (b2n (g.used == 256), 24), (g.head, 16), (g.tail, 0)]

/-- CTX_STATUSc. -/
def State.ctxStatus (s : State) (c : Nat) : BitVec 64 :=
  let x := s.ctx c
  word [(b2n x.tainted, 3), (b2n x.evhalt, 2), (b2n x.faulted, 1), (b2n x.valid, 0)]

/-- CTX_FAULTc. -/
def State.ctxFault (s : State) (c : Nat) : BitVec 64 :=
  let x := s.ctx c
  match x.fault with
  | some (code, k, i) => word [(code, 48), (k, 40), (i, 32), (x.more, 16)]
  | none => 0

/-- RIND_STAT. -/
def State.rindStat (s : State) : BitVec 64 :=
  let r := s.dev.rind
  word [(r.wave, 48), (r.lastSrc, 45), (b2n r.cur.isSome, 44), (b2n r.pending.isSome, 43), (min 2047 r.missing, 32), (r.merged, 16),
    (r.locked, 0)]

/-- RIND_ARMc. -/
def State.rindArmWord (s : State) (c : Nat) : BitVec 64 :=
  match (s.ctx c).arming with
  | some a => word [(1, 11), (b2n a.once, 10), (a.src, 8), (a.cls, 0)]
  | none => 0

/-- RIND_STEPc. -/
def State.rindStepWord (s : State) (c : Nat) : BitVec 64 := match (s.ctx c).arming with | some a => a.step | none => 0

/-! ### Memory registers -/

/-- MEM_XLAT_DATA: the descriptor that MEM_XLAT_ADDR selects. -/
def State.memXlat (s : State) : BitVec 64 :=
  let g := s.field .memXlatAddr [] 63 16
  match s.gran g with
  | none => 0
  | some x =>
    let tier (u : Nat) : Nat := if u = 0 then 2 else if u ≤ 8 then 3 else if u = 9 then 4 else 5
    word [(tier x.at_, 61), (tier x.home, 58), (x.part, 54), (if x.retiring then 3 else 1, 52), (b2n x.pin, 51),
      (b2n (s.bad.any fun b => b / 2048 == g), 50), (x.owner.getD 0, 47), (b2n x.owner.isNone, 46), (x.hits, 32), (x.stamp, 0)]

/-- MEM_UCAPu. -/
def State.memUcap (s : State) (u : Nat) : BitVec 64 := word [(s.cap u, 32), (s.quotaSum u, 0)]

/-- MEM_UFREEu. -/
def State.memUfree (s : State) (u : Nat) : BitVec 64 := word [(s.cap u - s.usedAll u, 0)]

/-- MEM_USEc,u. -/
def State.memUse (s : State) (c u : Nat) : BitVec 64 :=
  let mine := s.dev.memS.grans.filter fun p => p.2.owner == some c && p.2.at_ == u
  word [((mine.filter fun p => p.2.pin).length, 32), (mine.length, 0)]

/-- CAVE_WEAR. -/
def State.caveWear (s : State) : BitVec 64 :=
  let pes := s.nv.flash.blocks.map fun p => p.2.pe
  let avg := pes.foldl (· + ·) 0 / max 1 s.caveBlocks
  word [(pes.foldl max 0, 48), (avg, 32), (3000, 16), (min 255 (avg * 100 / 3000), 0)]

/-! ### Core registers -/

/-- STATE codes of CORE_STATE. -/
def CoreSt.code : CoreSt → Nat
  | .fusedOff => 0
  | .outOfService => 1
  | .idle => 2
  | .loaded => 3
  | .running => 4
  | .frozen => 5
  | .faulted => 6
  | .halted => 7

/-- CORE_ID. -/
def State.coreIdWord (s : State) (c : Nat) : BitVec 64 :=
  let k := s.core c
  let where_ := [(clusterOf c, 10), (c / 32, 5), (c % 32, 0)]
  match k.slot with
  | some n => word ([(1, 23), (k.ctx, 20), (n, 14)] ++ where_)
  | none => word where_

/-- HOOP_POS. -/
def State.hoopPos (s : State) (c : Nat) : BitVec 64 :=
  if ¬ (s.core c).inService then word [(255, 24), (255, 16), (1, 0)]
  else
    let hoop := if s.joined then s.positions 0 16 else s.positions (8 * (c / 32)) 8
    let pos := placeOf hoop c
    match s.clusterCtx (clusterOf c) with
    | none => word [(pos, 24), (255, 16)]
    | some x =>
      let ps := s.positions (s.ctx x).first (s.ctx x).count
      let folded := (s.ctx x).folded
      word [(pos, 24), (placeOf ps c, 16), (b2n (folded && ps.getLastD 64 == c), 9), (b2n (folded && ps.headD 64 == c), 8)]

/-- Flits in the elastic buffer of a position: of tiles that wait there, and what a slower clock has not drained. -/
def State.hopBuf (s : State) (c : Nat) (d : Dir) : Nat :=
  min 16 (((s.dev.air.filter fun a => a.pos == c && a.dir == d && a.stalled).map fun a => a.tile.flits).sum + (s.core c).hoop.held d)

/-- HOOP_STATUS. -/
def State.hoopStatus (s : State) (c : Nat) : BitVec 64 :=
  let h := (s.core c).hoop
  word [(h.fill .ccw, 32), (h.fill .cw, 16), (s.hopBuf c .ccw, 5), (s.hopBuf c .cw, 0)]

/-- FEED_MIN: the fewest entries that any row feeder holds (R39). -/
def ArrayS.feedMin (r : ArrayS) (period : Nat) : Nat := (List.range 128).foldl (fun n f => min n (r.feeder (period - 1) f)) 64

/-- R44: the pressed block has been latched, and a vector of an earlier block still has cells before it in which its end mark
has not passed, so that they have not swapped. -/
def ArrayS.swapPending (r : ArrayS) (sbc period : Nat) : Bool :=
  r.used && beatReached sbc ((r.pressStart + 129) % beatMod) && (r.inCells period).any (· != r.gen)

/-- ARR_STATUS. -/
def State.arrStatusWord (s : State) (c : Nat) (x : Side) : BitVec 64 :=
  let k := s.core c
  let r := k.arr x
  word [(r.done % 256, 40), (r.issued % 256, 32), (b2n r.skip, 31), (b2n (r.pressing k.sbc), 30),
    (b2n (r.swapPending k.sbc s.dev.period), 29), (r.gen % 2, 28), (r.level s.dev.period, 16), (r.feedMin s.dev.period, 0)]

/-- ARR_FUSE with BIST_FAIL. -/
def State.arrFuseWord (s : State) (c : Nat) (x : Side) : BitVec 64 :=
  let k := s.core c
  wput ((AMap.get s.nv.arrFuses 0x01000100 (2 * c + (match x with | .a => 0 | .b => 1))).setWidth 64) 32 32
    (b2n (match x with | .a => k.bistA | .b => k.bistB))

/-- LDL_STATUS. -/
def State.ldlStatusWord (s : State) (c : Nat) : BitVec 64 :=
  let k := s.core c
  let rate := match k.ldl.jobs.find? fun j => beatReached k.sbc j.first && !beatReached k.sbc j.ends with | some j => j.cmd.rate | none => 0
  word [(k.ldl.terms, 17), (b2n (k.ldl.lanes.any (·.ovr)), 16), (b2n (rate != 0), 4), (rate, 0)]

/-- SEQ_STATUS. -/
def State.seqStatusWord (s : State) (c : Nat) : BitVec 64 :=
  let k := s.core c
  let q := k.seqr
  word [(q.fwd.loops.length, 28), (q.bwd.loops.length, 24), (q.frzCause, 20), (b2n (k.st == .frozen), 19),
    (b2n (q.cur == .bwd), 18), (b2n q.decFetch, 17), (b2n q.decQueue, 16)]

/-- SEQ_CFG. -/
def State.seqCfgWord (s : State) (c : Nat) : BitVec 64 :=
  let q := (s.core c).seqr
  word [(q.pickLead, 16), (b2n q.hazHalt, 4), (b2n q.checked, 3), (b2n q.pick, 2), (b2n q.two, 1)]

/-- SEQ_PC. -/
def State.seqPcWord (s : State) (c : Nat) : BitVec 64 :=
  let q := (s.core c).seqr
  word [(q.bwd.bank, 44), (q.bwd.pc, 32), (q.fwd.bank, 12), (q.fwd.pc, 0)]

/-- Bank state codes. -/
def BankSt.code : BankSt → Nat
  | .free => 0
  | .loading => 1
  | .ready => 2
  | .active => 3

/-- SEQ_BANK. -/
def State.seqBankWord (s : State) (c : Nat) : BitVec 64 :=
  let q := (s.core c).seqr
  let b (x : StreamSel) (n : Nat) : Nat := if q.two || x == .fwd then (q.bankOf x n).st.code else 0
  wput (s.reg .seqBank (coreIdx c)) 7 0 (b .bwd 1 * 64 + b .bwd 0 * 16 + b .fwd 1 * 4 + b .fwd 0)

/-- SEQ_PLAN. -/
def State.seqPlanWord (s : State) (c : Nat) : BitVec 64 := word [((s.core c).seqr.ptr, 32), ((s.core c).seqr.left, 0)]

/-- SEQ_QDEPTH, the engines in the order of their numbers from bit 0 but for the gate queue. -/
def State.seqQdepthWord (s : State) (c : Nat) : BitVec 64 :=
  let q := (s.core c).seqr
  let n (e : Nat) : Nat := (q.queue e).length
  word [(n 0, 58), (n 8, 52), (n 7, 46), (n 6, 37), (n 5, 29), (n 4, 22), (n 3, 14), (n 2, 7), (n 1, 0)]

/-- VEC_RNG_STATUS with USED. -/
def State.rngStatus (s : State) (c : Nat) : BitVec 64 :=
  wput (s.reg .vecRngStatus (coreIdx c)) 25 16 (s.core c).vec.rng.length

/-- A signed number as `w` bits. -/
def toBits (w : Nat) (x : Int) : Nat := (x % (2 ^ w : Int)).toNat

/-- Word 0 of a range entry. -/
def RngEntry.word0 (r : RngEntry) : BitVec 64 :=
  word [(1, 63), (b2n r.managed, 62), (if r.owner = .bwd then 1 else 0, 61), (b2n r.hist, 60), (r.window, 56), (r.headroom, 52),
    (r.fmt, 48), (r.tag, 33)]

/-- Word 1 of a range entry. -/
def RngEntry.word1 (r : RngEntry) : BitVec 64 := word [(toBits 8 r.cur, 56), (toBits 8 r.prev, 48), (r.stamp % 2 ^ 48, 0)]

/-- Words 2 to 10 of a range entry, counted from 0. -/
def RngEntry.recWord (r : RngEntry) : Nat → BitVec 64
  | 0 => word ((r.amax.take 8).zipIdx.map fun p => (p.1, 8 * p.2))
  | 1 => word (((r.amax.drop 8).take 8).zipIdx.map fun p => (p.1, 8 * p.2))
  | 2 => r.cstep
  | 3 => word [(r.elems % 2 ^ 48, 0)]
  | 4 => word [(r.sat % 2 ^ 48, 0)]
  | 5 => word [(r.flush % 2 ^ 48, 0)]
  | 6 => word [(r.nan % 2 ^ 48, 0)]
  | 7 => word [(r.inf % 2 ^ 48, 0)]
  | _ => word [(r.camax, 8), (r.cdrop, 0)]

/-- A word of a range entry; an entry not claimed reads as stored. -/
def State.rngWord (s : State) (c e : Nat) (n : RegName) (i : List Nat) (f : RngEntry → BitVec 64) : BitVec 64 :=
  match AMap.find? (s.core c).vec.rng e with
  | some r => f r
  | none => s.reg n i

/-! ### Cluster registers -/

/-- A word of a descriptor-store entry. -/
def State.storeWord (s : State) (k e w : Nat) : BitVec 64 :=
  BitVec.ofNat 64 ((AMap.get (s.cluster k).store 0 e).toNat / 2 ^ (64 * w))

/-- HRP_STATUS. -/
def State.hrpStatusWord (s : State) (k : Nat) : BitVec 64 :=
  let q := s.cluster k
  let n (p : Nat) : Nat := (q.harpQ.filter fun h => h.port == p).length + ((s.core (4 * k + p)).seqr.queue 7).length
  word ([(n 3, 28), (n 2, 22), (n 1, 16), (n 0, 10)] ++
    match q.harpCur with | some (h, _) => [(1, 9), (h.port, 7), (h.cmd.mode, 4), (h.cmd.op, 2)] | none => [])

/-! ### Reading a register -/

/-- The core of an index list. -/
def idxCore : List Nat → Nat
  | d :: c :: _ => 32 * d + c
  | _ => 0

/-- The array of an index list. -/
def idxSide : List Nat → Side
  | [_, _, 1] => .b
  | _ => .a

/-- Views of the hub block. -/
def State.hubView (s : State) (n : RegName) (i : List Nat) : Option (BitVec 64) :=
  let i0 := i.headD 0
  match n with
  | .hubId => some (wput (s.reg n i) 31 16 (wbits (s.fuse 1) 15 0))
  | .featHoop => some s.featHoop
  | .hubHoopCfg => some (wput (s.reg n i) 0 0 (b2n s.joined))
  | .hubArc => some (s.hubArc i0)
  | .hifWin => some (BitVec.ofNat 64 (s.winBase i0))
  | .mbxOwn => some (s.mbxOwn i0)
  | .ctxInbox => some (s.ctxInbox i0)
  | .clkStatus => some s.clkStatus
  | .clkStep => some s.clkStep
  | .clkTick => some (s.localTick i0)
  | .nrgStatus => some s.nrgStatus
  | .nrgWear => some s.nrgWear
  | .nrgTriplog => some s.nv.tripLog
  | .nrgIdle => some (BitVec.ofNat 64 (s.dev.clk.idleE / 1000000))
  | .nrgRail => some (BitVec.ofNat 64 (AMap.get s.dev.clk.rails 0 i0 / 1000))
  | .nrgCtx => some (BitVec.ofNat 64 (AMap.get s.dev.clk.ctxE 0 i0 / 1000000))
  | .nrgShare => some (s.nrgShare i0)
  | .secStatus => some s.secStatus
  | .secBindAddr => some s.secBindAddr
  | .secBindData => some s.secBindData
  | .evtData => some s.evtData
  | .evtPtr => some (s.evtPtr i0)
  | .ctxStatus => some (s.ctxStatus i0)
  | .ctxFault => some (s.ctxFault i0)
  | .taintFirst => some (s.ctx i0).taintFirst
  | .taintLast => some (s.ctx i0).taintLast
  | .rindStat => some s.rindStat
  | .rindArm => some (s.rindArmWord i0)
  | .rindStep => some (s.rindStepWord i0)
  | _ => none

/-- Views of the link, memory and ripener blocks. -/
def State.unitView (s : State) (n : RegName) (i : List Nat) : Option (BitVec 64) :=
  let i0 := i.headD 0
  let i1 := i.getD 1 0
  match n with
  | .lnkStatus => some s.linkStatus
  | .lnkFlowData => some ((s.flow (s.field .lnkFlowAddr [] 13 0)).word (s.field .lnkFlowAddr [] 18 16))
  | .lnkFwdData => some (BitVec.ofNat 64 (AMap.get s.dev.link.fwd 0 (s.field .lnkFwdAddr [] 11 0)).toNat)
  | .lnkPortStatus => some (s.port i0).status
  | .lnkPortPeer => some (s.port i0).peerWord
  | .redStatus => some s.redStatus
  | .redFlowData => some (s.redWord (s.field .redFlowAddr [] 13 0) (s.field .redFlowAddr [] 18 16))
  | .memXlatData => some s.memXlat
  | .memUcap => some (s.memUcap i0)
  | .memUfree => some (s.memUfree i0)
  | .memUse => some (s.memUse i0 i1)
  | .migStatus => some (word [(s.dev.memS.moves.length, 0)])
  | .caveWear => some s.caveWear
  | .ripStatus => some (s.ripStatus i0)
  | .ripCtx => some (s.ripCtx i0 i1)
  | .ripStep => some (s.ripStep i0 i1)
  | .ripProg => some (BitVec.ofNat 64 (s.ctx i1).prog)
  | _ => none

/-- Views of the core blocks. -/
def State.coreView (s : State) (n : RegName) (i : List Nat) : Option (BitVec 64) :=
  let c := idxCore i
  let i2 := i.getD 2 0
  match n with
  | .coreId => some (s.coreIdWord c)
  | .coreState => some (wput (s.reg n i) 3 0 (s.core c).st.code)
  | .coreCtrl => some (word [(b2n (s.core c).inService, 0)])
  | .hoopPos => some (s.hoopPos c)
  | .hoopStatus => some (s.hoopStatus c)
  | .arrStatus => some (s.arrStatusWord c (idxSide i))
  | .arrFuse => some (s.arrFuseWord c (idxSide i))
  | .ldlStatus => some (s.ldlStatusWord c)
  | .seqStatus => some (s.seqStatusWord c)
  | .seqCfg => some (s.seqCfgWord c)
  | .seqSbc => some (BitVec.ofNat 64 (s.core c).sbc)
  | .seqPc => some (s.seqPcWord c)
  | .seqBank => some (s.seqBankWord c)
  | .seqPlan => some (s.seqPlanWord c)
  | .seqStep => some (if i2 = 0 then (s.core c).seqr.fwd.step else (s.core c).seqr.bwd.step)
  | .seqQdepth => some (s.seqQdepthWord c)
  | .vecRngStatus => some (s.rngStatus c)
  | .rngWord0 => some (s.rngWord c i2 n i RngEntry.word0)
  | .rngWord1 => some (s.rngWord c i2 n i RngEntry.word1)
  | .rngRec => some (s.rngWord c i2 n i fun r => r.recWord (i.getD 3 0))
  | _ => none

/-- Views of the cluster blocks. -/
def State.clusterView (s : State) (n : RegName) (i : List Nat) : Option (BitVec 64) :=
  let k := i.headD 0
  let x := i.getD 1 0
  match n with
  | .strStatus => some (s.strStatus k)
  | .strListData => some (s.storeWord k (s.field .strListAddr [k] 15 0) (s.field .strListAddr [k] 19 18))
  | .strCtx => some (s.strCtx k x)
  | .strArm => some (s.strArm k x)
  | .strWait => some (s.strWait k x)
  | .hrpStatus => some (s.hrpStatusWord k)
  | .hrpSideData => some ((s.harpRec k (s.field .hrpSideAddr [k] 16 0)).word (s.field .hrpSideAddr [k] 19 18))
  | _ => none

/-- The value a register reads as. Write-only fields are never stored, so they read 0. -/
def State.read (s : State) (n : RegName) (i : List Nat) : BitVec 64 :=
  ((s.hubView n i).or ((s.unitView n i).or ((s.coreView n i).or (s.clusterView n i)))).getD (s.reg n i)

end Sys2Proof.Machine
end

