-- ==== Sys2Proof/Machine/Rind.lean ====
section
/-!
DEFINITION. Event logs as the host reads them, the firmware's fault halt, and rind waves (R280, R281, R285 to R289).
-/
namespace Sys2Proof.Machine

/-! ### Event logs (R280) -/

/-- Consume records: `k` asked for, of the `used` there are. -/
def Log.consume (g : Log) (t : Nat) : Log :=
  let n := min ((t + 256 - g.tail % 256) % 256) g.used
  { g with tail := (g.tail + n) % 256, used := g.used - n }

/-- EVENT_TAIL_WRITE: the host writes TAIL of log `l`. -/
def State.tailWrite (s : State) (l t : Nat) : State := s.setLog l ((s.log l).consume (t % 256))

/-! ### The fault halt (R281) -/

/-- A fault reaches the hub: the first one is recorded and halts the context, the others are counted. -/
def State.takeFault (s : State) (c : Nat) (f : Nat × Nat × Nat) : State :=
  if (s.ctx c).faulted then s.modCtx c fun x => { x with more := satInc 16 x.more }
  else (s.haltCtx c).modCtx c fun x => { x with faulted := true, fault := some f }

/-- CONTEXT_FAULT_HALT: the firmware takes the faults of context `c` in the order in which they were raised. -/
def State.faultHalt (s : State) (c : Nat) : State :=
  (s.ctx c).faults.foldl (fun s f => s.takeFault c f) (s.modCtx c fun x => { x with faults := [] })

/-! ### Captures (R285, R288) -/

/-- The blocks with a capture area: cores, clusters, hub, link, reduction, memory, stacks, migrator, cave, ripeners. -/
inductive RBlock where
  | core (c : Nat)
  | cluster (k : Nat)
  | hub | link | reduction | memory | stacks | migrator | cave
  | ripener (n : Nat)
  deriving DecidableEq, Repr

/-- The number of a block in the list of capture areas. -/
def RBlock.num : RBlock → Nat
  | .core c => c
  | .cluster k => 64 + k
  | .hub => 80
  | .link => 81
  | .reduction => 82
  | .memory => 83
  | .stacks => 84
  | .migrator => 85
  | .cave => 86
  | .ripener n => 87 + n

/-- The blocks of a clock region. -/
def regionBlocks (r : Nat) : List RBlock :=
  if r < 16 then (List.range 4).map (fun i => RBlock.core (4 * r + i)) ++ [RBlock.cluster r]
  else if r = 16 then [.link, .reduction]
  else if r = 17 then [.memory, .stacks, .migrator, .cave] ++ (List.range 8).map RBlock.ripener
  else [.hub]

/-- `n` registers of one name, by their last index. -/
def regSpan (r : RegName) (i : List Nat) (n : Nat) : List (RegName × List Nat) := (List.range n).map fun k => (r, i ++ [k])

/-- The captured words of a block, in the order of the table of captured words. -/
def RBlock.words : RBlock → List (RegName × List Nat)
  | .core c =>
    let i := coreIdx c
    [(.coreState, i), (.coreFault, i), (.hoopStatus, i), (.hoopCntIn, i), (.hoopCntFwd, i), (.hoopCntRet, i), (.arrStatus, i ++ [0]),
     (.arrStatus, i ++ [1]), (.ldlStatus, i), (.seqStatus, i), (.seqSbc, i), (.seqPc, i), (.seqQdepth, i), (.vecRngStatus, i)] ++
      regSpan .seqFrz i 11
  | .cluster k => [(.strStatus, [k])] ++ regSpan .strCtx [k] 64 ++ [(.hrpStatus, [k])]
  | .hub =>
    [(.clkStatus, []), (.clkStep, []), (.nrgStatus, []), (.hifCfg, [])] ++ regSpan .mbxOwn [] 4 ++ [(.secStatus, [])] ++
      regSpan .paceBound [] 8 ++ regSpan .ctxStatus [] 8 ++ [(.hubState, []), (.hubAlert, [])]
  | .link => [(.lnkStatus, [])] ++ regSpan .lnkPortStatus [] 16
  | .reduction => [(.redStatus, [])]
  | .memory => [(.memFault, []), (.memFaultAddr, [])]
  | .stacks => regSpan .hbmStatus [] 8
  | .migrator => [(.migStatus, [])]
  | .cave => [(.caveStatus, [])]
  | .ripener n => [(.ripStatus, [n])] ++ ((List.range 8).map fun c => [(.ripCtx, [n, c]), (.ripStep, [n, c]), (.ripProg, [n, c])]).flatten

/-- RIND_HDR of a capture. -/
def rindHdr (wave : Nat) (w : WaveSrc) (nwords : Nat) : BitVec 64 :=
  word [(wave, 48), (w.src, 45), (b2n w.ctx.isSome, 44), (w.ctx.getD 0, 41), (1, 8), (nwords, 0)]

/-- The local tick of a region. -/
def State.regionTick (s : State) (r : Nat) : BitVec 64 := s.read .clkTick [r]

/-- What a block of region `r` captures: what reads on this edge would return. -/
def State.captureOf (s : State) (r : Nat) (w : WaveSrc) (b : RBlock) : Capture :=
  let core : Option Nat := match b with | .core c => some c | _ => none
  { hdr := rindHdr s.dev.rind.wave w b.words.length,
    tick := s.regionTick r,
    sbc := match core with | some c => (s.core c).sbc | none => 0,
    step := match core with | some c => (s.core c).seqr.fwd.step | none => 0,
    words := b.words.map fun x => s.read x.1 x.2 }

/-- Change the rind unit. -/
def State.modRind (s : State) (f : Rind → Rind) : State := { s with dev := { s.dev with rind := f s.dev.rind } }

/-- The captures that the blocks of the regions `rs` make of one state. -/
def State.capturesOf (s : State) (rs : List Nat) (w : WaveSrc) : List (Nat × Capture) :=
  rs.flatMap fun r => (regionBlocks r).map fun b => (b.num, s.captureOf r w b)

/-- RIND_CAPTURE: the wave reaches region `r`, and its blocks capture. It sends markers onward, ahead of all that it sends
afterwards. In the model the control network, the stream and memory paths and the die crossings deliver an item in the step
that sends it, and so a marker too: every region whose clock runs captures of the same state, before any later item can
reach it. A region whose clock is stopped then does not capture in this wave (DESIGN CHOICE, log 114: the markers take no
time, so the cut shows no skew). -/
def State.rindCapture (s : State) (r : Nat) : State :=
  match s.dev.rind.cur with
  | none => s
  | some w =>
    if s.dev.rind.todo.contains r ∧ ¬ s.dev.rind.cut ∧ ¬ s.regionStopped r then
      let rs := s.dev.rind.todo.filter fun x => !s.regionStopped x
      let caps := s.capturesOf rs w
      s.modRind fun q =>
        { q with cut := true, todo := q.todo.filter fun x => !rs.contains x, areas := caps.foldl (fun m p => AMap.set m p.1 p.2) q.areas }
    else s

/-- Whether a context's arming with ONCE is over when the wave `w` completes and `p` is pending. -/
def Arming.over (a : Arming) (c : Nat) (w : WaveSrc) (p : Option WaveSrc) : Bool :=
  a.once && a.fired && (p.isNone || (w.ctx == some c && (match p with | some q => q.ctx != some c | none => true)))

/-- RIND_WAVE_COMPLETE: every region whose clock runs has captured, or none runs; the pending trigger starts the next wave (R287, R288). -/
def State.waveComplete (s : State) : State :=
  match s.dev.rind.cur with
  | none => s
  | some w =>
    if s.dev.rind.cut ∨ s.dev.rind.todo.all s.regionStopped then
      let missing := ((s.dev.rind.todo.map fun r => (regionBlocks r).length).foldl (· + ·) 0)
      let p := s.dev.rind.pending
      let s := (List.range 8).foldl (fun s c =>
        match (s.ctx c).arming with
        | some a => if a.over c w p then s.modCtx c fun x => { x with arming := none } else s
        | none => s) s
      s.modRind fun q =>
        let q := { q with cur := none, todo := [], cut := false, missing := missing, pending := none }
        match p with | some v => q.start v s.dev.tick | none => q
    else s

/-! ### Triggers (R286, R287) -/

/-- RIND_TRIG: the host writes RIND_TRIG. -/
def State.rindTrigWrite (s : State) (v : BitVec 64) : State := if bit v.toNat 0 then s.trigger ⟨4, none⟩ else s

/-- TRIG_IN: a rising edge of the pin. -/
def State.trigIn (s : State) : State :=
  let q := s.dev.rind
  if q.started ∧ s.dev.tick < q.startTick + s.field .rindCfg [] 31 0 then s.modRind fun q => { q with locked := satInc 16 q.locked }
  else
    let armed (c : Nat) : Bool := match (s.ctx c).arming with | some a => a.src == 3 && !(a.once && a.fired) | none => false
    match (List.range 8).find? armed with
    | none => s
    | some c => match (s.ctx c).arming with | some a => s.armTrigger c a | none => s

/-! ### Counters (R289) -/

/-- Whether a register has the HOOP counter layout. -/
def isCounter (n : RegName) : Bool := (regRow n).fields == counterFields

/-- COUNTER_SAT_CLEAR: a write of 1 to SAT clears SAT and COUNT; SAT of a counter that has not saturated is cleared as well,
COUNT with it. -/
def State.satClear (s : State) (n : RegName) (i : List Nat) : State := if isCounter n then s.setReg n i 0 else s

/-! ### Rows -/

/-- EVENT_TAIL_WRITE (R280). -/
def execEventTailWrite (l : Fin 10) (t : BitVec 8) (s : State) : Host.Outcome State Fault Refusal :=
  .next (s.hosted fun s => s.tailWrite l t.toNat)
/-- CONTEXT_FAULT_HALT (R281). -/
def execContextFaultHalt (c : CtxId) (s : State) : Host.Outcome State Fault Refusal := .next (s.faultHalt c)
/-- RIND_TRIG (R287). -/
def execRindTrig (v : Word) (s : State) : Host.Outcome State Fault Refusal :=
  .next (s.hosted fun s => s.rindTrigWrite v)
/-- TRIG_IN (R287). -/
def execTrigIn (s : State) : Host.Outcome State Fault Refusal := .next s.trigIn
/-- RIND_CAPTURE (R288). -/
def execRindCapture (r : Fin 19) (s : State) : Host.Outcome State Fault Refusal := .next (s.rindCapture r)
/-- RIND_WAVE_COMPLETE (R287). -/
def execRindWaveComplete (s : State) : Host.Outcome State Fault Refusal := .next s.waveComplete
/-- COUNTER_SAT_CLEAR (R289). -/
def execCounterSatClear (a : Nat) (s : State) : Host.Outcome State Fault Refusal :=
  .next (s.hosted fun s => match regAt a with | some (n, i) => s.satClear n i | none => s)

end Sys2Proof.Machine
end

