-- ==== Sys2Proof/Machine/Contexts.lean ====
section
/-!
DEFINITION. The commands that make, run, halt and end contexts, and the budget, ledger and information commands
(*Host Interface and Command Set*: R256 to R262, R235, R311, R95, R268, R264, R286).
-/
namespace Sys2Proof.Machine

/-! ### Creating a context (R256, R257) -/

/-- Inbox granules on one stack: the most that any stack holds of `n` striped granules (R150). -/
def perStack (n : Nat) : Nat := 2 * (n / 16) + min 2 (n % 16)

/-- The fields of a CONTEXT_CREATE. -/
structure Create where
  ctx : Nat
  flags : Nat
  first : Nat
  count : Nat
  mbox : Nat
  period : Nat
  seed : Nat
  quotas : List Nat
  inbox : Nat
  vollen : Nat
  volbase : Nat
  hostbase : Nat
  hostlen : Nat
  hostfn : Nat
  zero : Bool

/-- Read the payload. -/
def Create.read (a : Accepted) : Create :=
  { ctx := a.at_ 0 1, flags := a.at_ 1 1, first := a.at_ 2 1, count := a.at_ 3 1, mbox := a.at_ 4 8, period := a.at_ 12 4,
    seed := a.at_ 16 8, quotas := [a.at_ 24 4, a.at_ 28 4, a.at_ 32 4, a.at_ 36 4], inbox := a.at_ 40 4, vollen := a.at_ 44 4,
    volbase := a.at_ 48 8, hostbase := a.at_ 56 8, hostlen := a.at_ 64 8, hostfn := a.at_ 72 1, zero := a.zero 73 55 }

/-- R28: the arc lies on the hoop, on one die when split, overlaps no arc, and no cluster of it has stopped for good (R233). -/
def State.arcOk (s : State) (first count : Nat) : Bool :=
  decide (first ≤ 15) && decide (1 ≤ count) && decide (count ≤ 16) && decide (first + count ≤ 16) &&
    (s.joined || decide (first / 8 = (first + count - 1) / 8)) &&
    (List.range count).all fun i => (s.clusterCtx (first + i)).isNone && !s.regionDead (first + i)

/-- The quota of a unit in a list of the four quotas. -/
def quotaIn (q : List Nat) (u : Nat) : Nat := q.getD (if u = 0 then 0 else if u ≤ 8 then 1 else if u = 9 then 2 else 3) 0

/-- The mailboxes of a mask. -/
def maskBits (m : Nat) : List Nat := (List.range 64).filter fun n => bit m n

/-- The first failed check of R256. -/
def State.createRefused (s : State) (q : Create) : Option Nat :=
  if q.ctx > 7 then some 0x19
  else if (s.ctx q.ctx).valid then some 0x21
  else if ¬ s.arcOk q.first q.count then some 0x22
  else if bit q.mbox 0 ∨ bit q.mbox 63 ∨ (maskBits q.mbox).any fun n => (s.mbox n).owner.isSome then some 0x24
  else if (List.range 11).any fun u => decide (s.quotaSum u + quotaIn q.quotas u > s.cap u) then some 0x27
  else if 1 ≤ q.period ∧ q.period ≤ 99 then some 0x26
  else if q.vollen ≠ 0 ∧ ¬ (q.volbase % granBytes = 0 ∧ q.vollen ≤ quotaIn q.quotas 10
      ∧ s.runFree 5 (q.volbase / granBytes) q.vollen) then some 0x25
  else if perStack q.inbox > quotaIn q.quotas 1 then some 0x27
  else if q.inbox = 0 ∨ q.inbox > 65536 ∨ ¬ (q.hostfn = 0 ∨ (q.hostfn = 1 ∧ s.field .hifCfg [] 0 0 = 1)) ∨ q.flags ≥ 16
      ∨ ¬ q.zero then some 0x19
  else none

/-- Attach a cave volume: its granules become the context's, with the contents they hold (R257). -/
def State.attach (s : State) (c base len : Nat) : State :=
  s.modMem fun m =>
    { m with grans := (List.range len).foldl (fun gs i =>
        AMap.set gs (base / granBytes + i) { owner := some c, home := 10, part := 0, at_ := 10, stamp := m.now }) m.grans }

/-- Give the cores of an arc the issue mode of the context (SEQ_CFG). -/
def State.arcCfg (s : State) (first count : Nat) (checked hazHalt : Bool) : State :=
  (List.range (4 * count)).foldl (fun s i =>
    s.modCore (4 * first + i) fun k =>
      { k with seqr := { k.seqr with checked := checked, hazHalt := hazHalt, pick := false, two := false } }) s

/-- Create the context; `hint` is the firmware's place for the inbox. -/
def State.create (s : State) (q : Create) (hint : Option Nat) : Option (State × Nat) :=
  let c := q.ctx
  let s := (List.range 4).foldl (fun s k => s.setReg .memQuota [c, k] (BitVec.ofNat 64 (q.quotas.getD k 0))) s
  match s.alloc { owner := some c, tier := 3, n := q.inbox } hint with
  | (_, none) => none
  | (s, some g) =>
    let ps := s.positions q.first q.count
    let folded := s.foldedFor q.count
    let x : Ctx :=
      { valid := true, first := q.first, count := q.count, folded := folded, rindProg := bit q.flags 3, checked := bit q.flags 0,
        hazHalt := bit q.flags 1, hostOk := bit q.flags 2, seed := BitVec.ofNat 64 q.seed, period := q.period, hostFn := q.hostfn,
        hostBase := q.hostbase, hostLen := q.hostlen, inbox := g, inboxLen := q.inbox, volBase := q.volbase, volLen := q.vollen }
    let s := (s.setCtx c x).arcCfg q.first q.count x.checked x.hazHalt
    let s := s.setReg .hubArc [c] (word [(1, 31), (b2n folded, 30), (ringBeats s.joined folded ps, 19), (ps.length, 12),
      (q.count, 4), (q.first, 0)])
    let s := s.setReg .paceCfg [c] (wput (word [(b2n (q.period != 0), 63), (q.period, 0)]) 62 62 (s.field .paceCfg [c] 62 62))
    let s := (maskBits q.mbox).foldl (fun s n => s.modMbox n fun b => { b with owner := some c }) s
    let s := if q.vollen = 0 then s else s.attach c q.volbase q.vollen
    let s := if s.shareW c = 0 then s else s.modClk fun k => { k with shares := AMap.set k.shares c (s.shareCap (s.shareW c)) }
    some (s, g)

/-- CONTEXT_CREATE on mailbox `m`. -/
def State.contextCreate (s : State) (m : Nat) (hint : Option Nat) : State :=
  s.serve m 0x20 fun a s =>
    let q := Create.read a
    match s.createRefused q with
    | some st => s.answer m a st []
    | none =>
      match s.create q hint with
      | none => s.answer m a 0x27 []
      | some (t, g) => t.answer m a 0 (leBytes 4 (t.hubArc q.ctx).toNat ++ leBytes 4 0 ++ leBytes 8 (g * granBytes))

/-! ### Waiting for a context's units (R131, R146, R186, R210) -/

/-- The clusters of a context whose region has not stopped for good. -/
def State.liveClusters (s : State) (c : Nat) : List Nat :=
  (List.range 16).filter fun k => (s.ctx c).hasCluster k && !s.regionDead k

/-- Every begun entry of the context's streams has completed. -/
def State.streamsQuiet (s : State) (c : Nat) : Bool := (s.liveClusters c).all fun k => (s.cluster k).inFlight == 0

/-- No harp command of the context's clusters is in progress. -/
def State.harpQuiet (s : State) (c : Nat) : Bool := (s.liveClusters c).all fun k => (s.cluster k).harpCur.isNone

/-- Every granule that the context's ripeners have begun is over, its writes performed (R146). -/
def State.ripQuiet (s : State) (c : Nat) : Bool :=
  (List.range 8).all fun n => !s.waits (.ripener n c) && !(match s.rip n c with | some r => r.inGranule | none => false)

/-- The flows of a context that are not CLOSED. -/
def State.ctxFlows (s : State) (c : Nat) : List Nat :=
  (s.dev.link.flows.filter fun p => p.2.st != .closed && !p.2.fw && p.2.ctx == c).map (·.1)

/-- The context's TX flows have handed over every begun run. -/
def State.flowsQuiet (s : State) (c : Nat) : Bool :=
  (s.ctxFlows c).all fun f => (s.flow f).kind != 0 || s.flowDrained f

/-! ### Closing flows (R210, R223) -/

/-- Close a flow; the slabs of a reduction flow are discarded and freed, and norm words that waited for it alone are stored
(R225). Runs that wait for credit go on waiting (assumption log 64). -/
def State.closeFlow (s : State) (f : Nat) : State :=
  let s :=
    match (s.flow f).red with
    | some x => if x.cfg.coll ≤ 1 then s.freeGrans (x.cfg.slab / granBytes) ((slabBytes * x.cfg.slots + granBytes - 1) / granBytes) else s
    | none => s
  (s.endFlow f).normsSettle.settleLandings

/-! ### Destroying a context (R258) -/

/-- Empty the rings and tile buffers of an arc (R26). -/
def State.emptyRings (s : State) (c : Nat) : State :=
  let x := s.ctx c
  let s := (List.range (4 * x.count)).foldl (fun s i =>
    s.modCore (4 * x.first + i) fun k => { k with hoop := { uid := k.hoop.uid } }) s
  { s with dev := { s.dev with air := s.dev.air.filter fun t => t.ctx != c } }

/-- Release the cores of an arc: IDLE, with no slot and CORE_FAULT.CODE cleared; those out of service stay so. -/
def State.freeCores (s : State) (c : Nat) : State :=
  let x := s.ctx c
  (List.range (4 * x.count)).foldl (fun s i =>
    let k := 4 * x.first + i
    (s.setField .coreFault (coreIdx k) 63 48 0).modCore k fun q =>
      { q with st := match q.st with
                     | .fusedOff => .fusedOff
                     | .outOfService => .outOfService
                     | _ => .idle,
               slot := none, bars := [], flagPosts := [], seqr := { q.seqr with frz := none, queues := [] } }) s

/-- Discard the harp commands and the streams of an arc. -/
def State.freeClusters (s : State) (c : Nat) : State :=
  (List.range (s.ctx c).count).foldl (fun s i =>
    let k := (s.ctx c).first + i
    ((s.idleStreams k).clmForget k).modCluster k fun q => { q with harpQ := [], harpCur := none }) s

/-- What the hub keeps of a context besides its descriptor. -/
def State.forget (s : State) (c : Nat) : State :=
  let s := (List.range 4).foldl (fun s k => s.setReg .memQuota [c, k] 0) s
  let s := ((s.setReg .hubArc [c] 0).setReg .paceCfg [c] 0).setReg .taintCnt [c] 0
  let s := (List.range 64).foldl (fun s m =>
    if (s.mbox m).owner = some c then s.modMbox m fun b => { b with owner := none, lastSeq := 0 } else s) s
  let s := s.modClk fun k =>
    { k with segs := k.segs.filter fun x => x.ctx != c, held := k.held.filter fun h => h.1 != c, shares := AMap.erase k.shares c }
  { s with dev := { s.dev with rips := s.dev.rips.filter fun p => p.1.2 != c } }

/-- Forget the runs of a context's streams that wait to be sent. -/
def State.dropSends (s : State) (c : Nat) : State :=
  s.modLink fun l => { l with sends := l.sends.filter fun r => match r.who with | .stream k _ _ => s.clusterCtx k != some c | _ => true }

/-- Destroy a context whose units have stopped. -/
def State.destroy (s : State) (c : Nat) : State :=
  let s := s.dropSends c
  let s := (s.ctxFlows c).foldl State.closeFlow s
  let s := match (s.ctx c).snap with | some q => if q.stage.isSome then s.closeFlow q.flow else s | none => s
  let s := ((s.emptyRings c).freeClusters c).freeCores c
  let s := (s.freeCtx c).forget c
  s.setCtx c {}

/-- Whether a halted context's units have stopped. -/
def State.stopped (s : State) (c : Nat) : Bool := s.streamsQuiet c && s.harpQuiet c && s.ripQuiet c && s.flowsQuiet c

/-- CONTEXT_DESTROY on mailbox `m`: the context halts, its units finish, and it is gone. -/
def State.contextDestroy (s : State) (m : Nat) : State :=
  s.serve m 0x21 fun a s =>
    let c := a.at_ 0 4
    if c > 7 ∨ ¬ (s.ctx c).valid then s.answer m a 0x20 []
    else
      let s := (s.haltCtx c).begin_ m
      if s.stopped c then (s.destroy c).answer m a 0 [] else s

/-! ### HALT and RUN (R260, R261) -/

/-- Whether some core of a context runs. -/
def State.ctxLive (s : State) (c : Nat) : Bool := (s.slotCores c).any fun k => (s.core k).live

/-- HALT on mailbox `m`. -/
def State.halt (s : State) (m : Nat) : State :=
  s.serve m 0x33 fun a s =>
    let who : Option Nat := if m = 0 then (let c := a.at_ 0 1; if c ≤ 7 ∧ (s.ctx c).valid then some c else none) else (s.mbox m).owner
    match who with
    | none => s.answer m a 0x20 []
    | some c =>
      let s := if s.ctxLive c ∨ ((s.ctx c).running ∧ ¬ (s.ctx c).halted) then s.haltCtx c else s
      if s.ripQuiet c ∧ s.streamsQuiet c then s.answer m a 0 [] else s.begin_ m

/-- Start a LOADED core: the SBC at 0, the first block on SBC 64, the step counts at STEP (R81). -/
def Core.start (k : Core) (step : BitVec 64) : Core :=
  { k with st := .running, sbc := 0,
           seqr := { k.seqr with blk := 64, fwd := { k.seqr.fwd with step := step }, bwd := { k.seqr.bwd with step := step } } }

/-- Resume a HALTED core exactly where it stopped (R79). -/
def Core.resume (k : Core) : Core := { k with st := if k.seqr.frz.isSome then .frozen else .running }

/-- Start or resume a core of a running context. -/
def Core.runFrom (k : Core) (step : BitVec 64) : Core :=
  match k.st with
  | .loaded => k.start step
  | .halted => k.resume
  | _ => k

/-- What RUN does to a context that it may run. -/
def State.runCtx (s : State) (c : Nat) (step : BitVec 64) : State :=
  let sts := (s.slotCores c).map fun k => (s.core k).st
  if ¬ (sts.contains .loaded ∨ sts.contains .halted) then s
  else
    let fresh := sts.contains .loaded
    let again := fresh || (s.ctx c).halted
    let s := (s.slotCores c).foldl (fun s k => s.modCore k fun q => q.runFrom step) s
    let s := s.modCtx c fun x =>
      { x with running := true, halted := false, evhalt := false, paceAt := if again then s.dev.tick + x.period else x.paceAt }
    s.ripRun c (if fresh then some step else none)

/-- RUN on mailbox `m`. -/
def State.run (s : State) (m : Nat) : State :=
  s.serveCtx m 0x32 fun c a s =>
    let x := s.ctx c
    if ¬ x.loaded then s.answer m a 0x38 []
    else if x.faulted ∨ (x.slots.any fun k => (s.core k).st == .faulted) then s.answer m a 0x40 []
    else (s.runCtx c (BitVec.ofNat 64 (a.at_ 0 8))).answer m a 0 []

/-- PICK_MODE on mailbox `m` (R77). -/
def State.pickModeCmd (s : State) (m : Nat) : State :=
  s.serveCtx m 0x34 fun c a s =>
    let x := s.ctx c
    if ¬ (x.loaded ∧ (x.slots.any fun k => (s.core k).seqr.two)) then s.answer m a 0x41 []
    else if a.at_ 0 1 > 1 then s.answer m a 0x19 []
    else
      (x.slots.foldl (fun s k => s.modCore k fun q => q.modSeq fun z => { z with pick := a.at_ 0 1 == 1 }) s).answer m a 0 []

/-! ### Budget and ledger (R235, R311, R234) -/

/-- The shares of a SET_BUDGET. -/
def budgetShares (a : Accepted) : List Nat := (List.range 8).map fun c => a.at_ (16 + 4 * c) 4

/-- Whether a budget is in range. -/
def budgetOk (a : Accepted) : Bool :=
  let sust := a.at_ 0 4
  decide (1200 ≤ sust ∧ sust ≤ 3000 ∧ a.at_ 4 4 ≤ 900 ∧ sust ≤ a.at_ 8 4 ∧ a.at_ 8 4 ≤ 3600) && a.zero 12 4 &&
    (budgetShares a).all (fun w => w == 0 || decide (100 ≤ w)) && decide ((budgetShares a).foldl (· + ·) 0 ≤ sust)

/-- Put a new share in force for a context (R311). -/
def State.setShare (s : State) (c w : Nat) : State :=
  let had := s.shareW c
  let s := s.setField .nrgShare [c] 43 32 w
  s.modClk fun k =>
    { k with shares :=
        if w = 0 ∨ ¬ (s.ctx c).valid then AMap.erase k.shares c
        else AMap.set k.shares c (if had = 0 then s.shareCap w else min (AMap.get k.shares 0 c) (s.shareCap w)) }

/-- SET_BUDGET on mailbox `m`: the new budget is in force from the planning point that it makes. -/
def State.setBudget (s : State) (m : Nat) : State :=
  s.serve m 0x40 fun a s =>
    if ¬ budgetOk a then s.answer m a 0x50 []
    else
      let s := s.setReg .nrgCfg [] (word [(a.at_ 8 4, 36), (a.at_ 4 4, 24), (a.at_ 0 4, 12)])
      let s := s.modClk fun k => { k with level := min k.level (a.at_ 4 4 * 1000000 : Nat) }
      let s := (List.range 8).foldl (fun s c => s.setShare c ((budgetShares a).getD c 0)) s
      s.planPoint.answer m a 0 []

/-- GET_LEDGER on mailbox `m`. -/
def State.getLedger (s : State) (m : Nat) : State :=
  s.serve m 0x41 fun a s =>
    let who : Option (Option Nat) :=
      if m = 0 then (let c := a.at_ 0 1; if c = 0xFF then some none else if c ≤ 7 ∧ (s.ctx c).valid then some (some c) else none)
      else (s.mbox m).owner.map some
    match who with
    | none => s.answer m a 0x20 []
    | some c =>
      s.answer m a 0 (leBytes 8 (s.read .nrgRail [0]).toNat ++
        leBytes 8 (match c with | some c => s.read .nrgCtx [c] | none => s.read .nrgIdle []).toNat ++
        leBytes 4 (wbits s.nrgStatus 31 0) ++ leBytes 4 (match c with | some c => wbits (s.nrgShare c) 31 0 | none => 0) ++
        leBytes 8 (wbits s.nrgWear 31 0) ++ leBytes 4 (wbits s.clkStatus 4 0) ++ leBytes 4 (wbits (s.reg .nrgCntEmerg []) 31 0))

/-! ### Information (R252, R95, R268) -/

/-- GET_INFO on mailbox `m`. -/
def State.getInfo (s : State) (m : Nat) : State :=
  s.serve m 0x01 fun a s =>
    s.answer m a 0 (leBytes 8 (s.read .hubId []).toNat ++ leBytes 8 (s.read .featGen []).toNat ++ leBytes 4 (s.read .hubState []).toNat ++
      leBytes 8 (s.fuse 2).toNat ++ leBytes 8 (s.fuse 3).toNat ++ leBytes 12 0)

/-- FEAT_CORES to FEAT_GEN, 64 bytes in register order. -/
def State.featBytes (s : State) : List Byte :=
  ([.featCores, .featHoop, .featArray, .featSram, .featMem, .featFormats, .featLink, .featGen].map
    fun n => leBytes 8 (s.read n []).toNat).flatten

/-- GET_FEATURES on mailbox `m`. -/
def State.getFeatures (s : State) (m : Nat) : State :=
  s.serve m 0x02 fun a s => s.answer m a 0 (s.featBytes ++ leBytes 4 (s.read .hubHoopCfg []).toNat)

/-- FUSE_READ on mailbox `m`: the device secret reads 0. -/
def State.fuseRead (s : State) (m : Nat) : State :=
  s.serve m 0xF0 fun a s =>
    let n := a.at_ 0 4
    if n > 71 then s.answer m a 0x19 []
    else s.answer m a 0 (leBytes 8 (if 32 ≤ n ∧ n ≤ 35 then 0 else (s.fuse n).toNat))

/-- FUSE_PROGRAM on mailbox `m`: bits are only set, and only in words 64 to 71. -/
def State.fuseProgram (s : State) (m : Nat) : State :=
  s.serve m 0xF1 fun a s =>
    let n := a.at_ 0 4
    if n < 64 then s.answer m a 0xF0 []
    else if n > 71 then s.answer m a 0x19 []
    else
      let w := s.fuse n ||| BitVec.ofNat 64 (a.at_ 8 8)
      ({ s with nv := { s.nv with fuses := AMap.set s.nv.fuses n w } }).answer m a 0 (leBytes 8 w.toNat)

/-! ### Rind armings and routes (R286, R264) -/

/-- RIND_ARM on mailbox `m`: a new arming replaces the old; SRC 0 triggers at once. -/
def State.rindArmCmd (s : State) (m : Nat) : State :=
  s.serveCtx m 0x52 fun c a s =>
    let src := a.at_ 0 1
    let cls := a.at_ 1 1
    if src > 3 ∨ (src = 2 ∧ ¬ (1 ≤ cls ∧ cls ≤ 8)) then s.answer m a 0x19 []
    else if src = 0 then ((s.modCtx c fun x => { x with arming := none }).trigger ⟨0, some c⟩).answer m a 0 []
    else
      (s.modCtx c fun x =>
        { x with arming := some { src := src, cls := cls, step := BitVec.ofNat 64 (a.at_ 8 8), once := a.at_ 2 1 != 0 } }).answer m a 0 []

/-- The entries of a ROUTE_SET: DST and the forwarding entry. -/
def routeEntries (a : Accepted) : List (Nat × Nat × Nat) :=
  (List.range (a.at_ 4 2)).map fun i => (a.at_ (24 + 8 * i) 2, a.at_ (26 + 8 * i) 2, a.at_ (28 + 8 * i) 4)

/-- Whether a ROUTE_SET is well formed. -/
def routeOk (a : Accepted) : Bool :=
  let flags := a.at_ 2 1
  decide (flags < 8) && a.zero 6 2 && (!bit flags 0 || decide (a.at_ 0 2 < 0xFFF)) &&
    (!bit flags 2 || decide (1 ≤ a.at_ 3 1 ∧ a.at_ 3 1 ≤ 63)) && ((List.range 16).all fun p => decide (a.at_ (8 + p) 1 < 8)) &&
    (routeEntries a).all fun e => decide (e.1 ≤ 4095) && e.2.1 == 0 && decide (e.2.2 % 2 ^ 22 = 0)

/-- ROUTE_SET on mailbox `m`: everything named changes at once; a new ID repeats the identity exchange. -/
def State.routeSet (s : State) (m : Nat) : State :=
  s.serve m 0x62 fun a s =>
    let flags := a.at_ 2 1
    if ¬ routeOk a then s.answer m a 0x63 []
    else
      let newId := bit flags 0 && (a.at_ 0 2 != s.moduleId || s.field .lnkCfg [] 12 12 == 0)
      let s := if bit flags 0 then (s.setField .lnkCfg [] 11 0 (a.at_ 0 2)).setField .lnkCfg [] 12 12 1 else s
      let s := if bit flags 2 then s.setField .lnkCfg [] 21 16 (a.at_ 3 1) else s
      let s := if bit flags 1 then
          (List.range 16).foldl (fun s p =>
            s.setReg .lnkPortCfg [p] (word [(bits (a.at_ (8 + p) 1) 2 2, 7), (bits (a.at_ (8 + p) 1) 1 0, 4)])) s else s
      let s := s.modLink fun l => { l with fwd := (routeEntries a).foldl (fun f e => AMap.set f e.1 (BitVec.ofNat 32 e.2.2)) l.fwd }
      let s := if newId then s.recheckPeers else s
      s.answer m a 0 []

/-! ### Rows -/

/-- GET_INFO. -/
def execGetInfo (m : MboxId) (s : State) : Host.Outcome State Fault Refusal := .next (s.getInfo m)
/-- GET_FEATURES. -/
def execGetFeatures (m : MboxId) (s : State) : Host.Outcome State Fault Refusal := .next (s.getFeatures m)
/-- CONTEXT_CREATE. -/
def execContextCreate (m : MboxId) (hint : Option Nat) (s : State) : Host.Outcome State Fault Refusal := .next (s.contextCreate m hint)
/-- CONTEXT_DESTROY. -/
def execContextDestroy (m : MboxId) (s : State) : Host.Outcome State Fault Refusal := .next (s.contextDestroy m)
/-- HALT. -/
def execHalt (m : MboxId) (s : State) : Host.Outcome State Fault Refusal := .next (s.halt m)
/-- SET_BUDGET. -/
def execSetBudget (m : MboxId) (s : State) : Host.Outcome State Fault Refusal := .next (s.setBudget m)
/-- GET_LEDGER. -/
def execGetLedger (m : MboxId) (s : State) : Host.Outcome State Fault Refusal := .next (s.getLedger m)
/-- ROUTE_SET. -/
def execRouteSet (m : MboxId) (s : State) : Host.Outcome State Fault Refusal := .next (s.routeSet m)
/-- FUSE_READ. -/
def execFuseRead (m : MboxId) (s : State) : Host.Outcome State Fault Refusal := .next (s.fuseRead m)
/-- FUSE_PROGRAM. -/
def execFuseProgram (m : MboxId) (s : State) : Host.Outcome State Fault Refusal := .next (s.fuseProgram m)
/-- RUN. -/
def execRun (m : MboxId) (s : State) : Host.Outcome State Fault Refusal := .next (s.run m)
/-- PICK_MODE. -/
def execPickMode (m : MboxId) (s : State) : Host.Outcome State Fault Refusal := .next (s.pickModeCmd m)
/-- RIND_ARM. -/
def execRindArm (m : MboxId) (s : State) : Host.Outcome State Fault Refusal := .next (s.rindArmCmd m)

end Sys2Proof.Machine
end

