-- ==== Sys2Proof/Machine/FlowCmds.lean ====
section
/-!
DEFINITION. FLOW_OPEN and FLOW_CLOSE (*Fabric Ports and Forwarding*: R202, R210; *Exact Gradient Reduction*: R213, R219,
R223), and the cave commands of a context (R265).
-/
namespace Sys2Proof.Machine

/-! ### FLOW_OPEN of a TX or RX flow (R202) -/

/-- Whether the fields of a FLOW_OPEN, beyond those of a reduction, are well formed. -/
def flowFieldsOk (a : Accepted) : Bool :=
  let kind := a.at_ 2 1
  let vc := a.at_ 3 1
  decide (a.at_ 0 2 < 16320) && decide (kind ≤ 2) && (if kind = 2 then vc == 1 else vc == 0 || vc == 2) && decide (a.at_ 4 1 ≤ 1) &&
    a.zero 5 1 && a.zero 32 32 &&
    (kind == 2 || (decide (a.at_ 6 2 ≤ 4095) && decide (a.at_ 8 2 < 16384) && decide (1 ≤ a.at_ 10 2) && a.at_ 12 4 % 32 == 0 &&
      (kind == 0 || a.at_ 16 8 % 32 == 0)))

/-- Whether an address is that of an aligned INT32 in the hub cache within a context's reach. -/
def State.hubWord (s : State) (c x : Nat) : Bool :=
  x % 4 == 0 && (match s.space x with | .hub _ => true | _ => false) && (s.reach c x 4).isNone

/-- Open a TX or RX flow. -/
def State.openFlow (s : State) (c : Nat) (a : Accepted) : State × Nat :=
  let kind := a.at_ 2 1
  let slots := a.at_ 10 2
  let size := a.at_ 12 4
  let base := a.at_ 16 8
  let rel := kind == 1 && a.at_ 4 1 == 1
  if kind = 1 ∧ (s.reach c base (slots * size)).isSome then (s, 0x28)
  else if rel ∧ ¬ s.hubWord c (a.at_ 24 8) then (s, if a.at_ 24 8 % 4 = 0 then 0x28 else 0x61)
  else
    let s := if rel then s.put (a.at_ 24 8) (leBytes 4 0) false else s
    ((s.setFlow (a.at_ 0 2)
      { st := .opened, kind := kind, ctx := c, vc := a.at_ 3 1, rel := rel, peer := a.at_ 6 2, pflow := a.at_ 8 2,
        credit := if kind = 0 then slots else 0, base := base, slotSize := size, slots := slots, relword := a.at_ 24 8 }).pump (a.at_ 0 2), 0)

/-! ### FLOW_OPEN of a reduction flow (R213) -/

/-- Read a reduction record, without its members and slab. -/
def RedRec.read (a : Accepted) : RedRec :=
  let p (o n : Nat) : Nat := a.at_ (64 + o) n
  let rec_ := (a.payload.drop 64).take 128
  let zeroed := ((rec_.take 6) ++ leBytes 10 0 ++ ((rec_.drop 16).take 16) ++ leBytes 32 0 ++ rec_.drop 64)
  { coll := p 0 1, tree := p 1 1 == 1, int16 := p 2 1 == 1, fp32 := p 3 1 == 1, g := p 4 2, rank := p 6 2, members := p 8 8,
    tensor := p 16 3, normId := p 19 1, ibase := p 20 5, slots := p 25 1, count := p 26 4, headroom := p 30 1 % 4,
    decay := p 30 1 / 4 % 4, haltPoison := bit (p 30 1) 4, x0 := p 31 1, src := p 32 8, res := p 40 8, scale := p 48 8,
    start := p 56 8, step0 := p 64 8, root := p 72 2, ids := [], parents := [], slab := 0, crc := crc32 zeroed }

/-- The record with its member table read from memory. -/
def State.withMembers (s : State) (r : RedRec) : RedRec :=
  let es := (List.range r.g).map fun k => leNat (s.bytes (r.members + 4 * k) 4)
  { r with ids := es.map fun e => bits e 11 0,
           parents := if r.tree then es.map fun e => if bits e 27 16 = 0xFFF then 0xFFFF else bits e 27 16 else [] }

/-- Whether the reserved bits of the member entries are zero. -/
def State.membersClear (s : State) (r : RedRec) : Bool :=
  (List.range r.g).all fun k => let e := leNat (s.bytes (r.members + 4 * k) 4); bits e 31 28 == 0 && bits e 15 12 == 0

/-- The chain of parents of a rank reaches the root. -/
def RedRec.reachesRoot (r : RedRec) : Nat → Nat → Bool
  | 0, _ => false
  | n + 1, k => r.parent k == 0xFFFF || (decide (r.parent k < r.g) && RedRec.reachesRoot r n (r.parent k))

/-- R213: the tree of the member table. -/
def RedRec.treeOk (r : RedRec) : Bool :=
  ((List.range r.g).filter fun k => r.parent k == 0xFFFF).length == 1 &&
    ((List.range r.g).all fun k => r.reachesRoot r.g k && decide ((r.children k).length ≤ 7))

/-- R213: the fields of a reduction record, before its member table is read. -/
def redFieldsOk (a : Accepted) (r : RedRec) : Bool :=
  decide (r.coll ≤ 3) && decide (a.at_ 65 1 ≤ 1) && decide (a.at_ 66 1 ≤ 1) && decide (a.at_ 67 1 ≤ 1) &&
    decide (2 ≤ r.g) && decide (r.g ≤ if r.int16 then 4096 else 256) && decide (r.rank < r.g) && decide (r.root < r.g) &&
    (!r.tree || r.coll == 0 || r.coll == 3) && decide (1 ≤ r.count) && decide (r.ibase + r.count ≤ 2 ^ 40) &&
    decide (1 ≤ r.slots) && decide (r.slots ≤ 16) && (decide (r.normId < 64) || r.normId == 0xFF) && decide (a.at_ 94 1 < 32) &&
    a.zero 138 54

/-- Bytes at SRC, RES and SCALE; ALLGATHER and BROADCAST use no scale, whose address is held to the reach all the same. -/
def RedRec.areas (r : RedRec) : List (Nat × Nat) :=
  if r.coll > 1 then [(r.src, r.count), (r.res, if r.coll = 2 then r.g * r.count else r.count), (r.scale, 4)]
  else
    [(r.src, 4 * r.count),
     (r.res, if r.fp32 then 4 * r.count else if r.int16 then 64 + 4 * r.count else (2 * r.count + 63) / 64 * 64 + (r.count + 31) / 32),
     (r.scale, if r.int16 then 4 else 4 * ((r.count + 31) / 32))]

/-- R213: the addresses of a reduction record. -/
def State.redAddrOk (s : State) (c : Nat) (r : RedRec) : Bool :=
  r.src % 64 == 0 && r.res % 64 == 0 && r.scale % 64 == 0 && s.hubWord c r.start && r.areas.all fun p => (s.reach c p.1 p.2).isNone

/-- FLOW_OPEN writes every scale entry with X = X0 and M = 0; one in the cave is programmed (R167). -/
def State.initScale (s : State) (r : RedRec) : State :=
  s.farPut r.scale ((List.range r.scaleEntries).flatMap fun _ => [0, 0, 0, BitVec.ofNat 8 r.x0]) []

/-- Whether the scale table lies in a cave that has stopped accepting writes (R171). -/
def State.scaleHeld (s : State) (r : RedRec) : Bool :=
  !s.caveOpen && (gransOf r.scale (4 * r.scaleEntries)).any fun g => s.inCave (g * granBytes)

/-- Open a reduction flow; `hint` is the firmware's place for the slabs. No status: a stopping cave holds the command back. -/
def State.openRed (s : State) (c : Nat) (a : Accepted) (hint : Option Nat) : State × Option Nat :=
  let r := RedRec.read a
  if ¬ redFieldsOk a r then (s, some 0x61)
  else if (s.reach c r.members (4 * r.g)).isSome then (s, some 0x28)
  else
    let r := s.withMembers r
    if ¬ s.membersClear r ∨ r.ids.getD r.rank 0xFFF ≠ s.moduleId ∨ ¬ r.ids.Nodup ∨ (r.tree ∧ ¬ r.treeOk) then (s, some 0x61)
    else if ¬ s.redAddrOk c r then (s, some 0x28)
    else match s.roRefuses r.scale (4 * r.scaleEntries) with
    | some x => (s.roRefused 5 c 0 x { kind := 10, index := 0, ctx := some c }, some 0x27)
    | none =>
      if s.scaleHeld r then (s, none)
      else
      let n := (slabBytes * r.slots + granBytes - 1) / granBytes
      let (s, got) : State × Option Nat :=
        if r.coll ≤ 1 then s.alloc { owner := some c, tier := 2, n := n, slab := true } hint else (s, some 0)
      match got with
      | none => (s, some 0x27)
      | some g =>
        let r := { r with slab := g * granBytes }
        let nbrs : AMap Nat Nbr := r.neighbours.map fun q => (q, { credit := r.slots })
        ((s.initScale r).setFlow (a.at_ 0 2)
          { st := .opened, kind := 2, ctx := c, vc := 1, slots := r.slots, red := some { cfg := r, nbrs := nbrs } }, some 0)

/-- FLOW_OPEN on mailbox `m`. -/
def State.flowOpen (s : State) (m : Nat) (hint : Option Nat) : State :=
  s.serveCtx m 0x60 fun c a s =>
    if ¬ flowFieldsOk a then s.answer m a 0x61 []
    else if (s.flow (a.at_ 0 2)).st ≠ .closed then s.answer m a 0x60 []
    else
      let (t, st) := if a.at_ 2 1 = 2 then s.openRed c a hint else let r := s.openFlow c a; (r.1, some r.2)
      match st with
      | some st => t.answer m a st []
      | none => s

/-- FLOW_CLOSE on mailbox `m`: a TX flow is CLOSING until its begun runs have been handed to the ports. -/
def State.flowClose (s : State) (m : Nat) : State :=
  s.serveCtx m 0x61 fun c a s =>
    let f := a.at_ 0 4
    let w := s.flow f
    if f ≥ 16384 ∨ w.st = .closed ∨ w.fw ∨ w.ctx ≠ c then s.answer m a 0x61 []
    else if w.kind = 0 then
      let s := (s.modFlow f fun w => { w with st := .closing }).begin_ m
      if s.flowDrained f then (s.closeFlow f).answer m a 0 [] else s
    else (s.closeFlow f).answer m a 0 []

/-! ### Cave commands (R265) -/

/-- The status of a cave range: a misaligned field, then the context's reach. -/
def State.caveRange (s : State) (c x n align : Nat) : Option Nat :=
  if x % align ≠ 0 ∨ n % align ≠ 0 then some 0x19
  else if x < caveBase ∨ caveBase + s.caveFrames * granBytes < x + n ∨ (s.reach c x n).isSome then some 0x28
  else none

/-- A cave command outside the context's reach or the cave: ADDR_RANGE as a record, in MEM_FAULT, and as the status (R2, R148, R283). -/
def State.caveRefused (s : State) (m : Nat) (a : Accepted) (c x n st : Nat) : State :=
  if st ≠ 0x28 then s.answer m a st []
  else
    let (q, cause) := (s.reach c x n).getD (x, 0)
    ((s.memFault 0x0104 5 c 0 cause q).raise 0x0104
      { kind := 10, index := 0, ctx := some c, detail := BitVec.ofNat 64 q }).answer m a 0x28 []

/-- A write or an erase of a read-only cave by a command (R170). -/
def State.caveDenied (s : State) (m : Nat) (a : Accepted) (c x : Nat) : State :=
  (s.roRefused 5 c 0 x { kind := 10, index := 0, ctx := some c, detail := BitVec.ofNat 64 x }).answer m a 0x27 []

/-- Whether function `fn` has a link. -/
def State.fnOk (s : State) (fn : Nat) : Bool := fn == 0 || (fn == 1 && s.field .hifCfg [] 0 0 == 1)

/-- CAVE_READ on mailbox `m`: poisoned sectors travel as they are stored. -/
def State.caveReadCmd (s : State) (m : Nat) : State :=
  s.serveCtx m 0x70 fun c a s =>
    let x := a.at_ 0 8
    let n := a.at_ 16 8
    match s.caveRange c x n 32 with
    | some st => s.caveRefused m a c x n st
    | none =>
      if ¬ s.fnOk (a.at_ 24 1) then s.answer m a 0x19 []
      else
        let h := hostKey (a.at_ 24 1) (a.at_ 8 8)
        ({ s with host := { s.host with mem := Mem.copyInto s.host.mem s.mem h x n } }).answer m a 0 []

/-- CAVE_WRITE on mailbox `m`: it answers once every page is acknowledged. -/
def State.caveWriteCmd (s : State) (m : Nat) : State :=
  s.serveCtx m 0x71 fun c a s =>
    let x := a.at_ 0 8
    let n := a.at_ 16 8
    if a.begun then (if s.waits (.mailbox m) then s else s.answer m a 0 [])
    else
      match s.caveRange c x n 32 with
      | some st => s.caveRefused m a c x n st
      | none =>
        if ¬ s.fnOk (a.at_ 24 1) then s.answer m a 0x19 []
        else if s.caveRo then s.caveDenied m a c x
        else (s.farWrite x (Mem.readN s.host.mem (hostKey (a.at_ 24 1) (a.at_ 8 8)) n) [] (.mailbox m)).begin_ m

/-- CAVE_ERASE on mailbox `m`: the granules read zero and their pages are released, while the cave takes writes (R171). -/
def State.caveEraseCmd (s : State) (m : Nat) : State :=
  s.serveCtx m 0x72 fun c a s =>
    let x := a.at_ 0 8
    let n := a.at_ 8 8
    match s.caveRange c x n granBytes with
    | some st => s.caveRefused m a c x n st
    | none =>
      if s.caveRo then s.caveDenied m a c x
      else if ¬ s.caveOpen then s
      else ((s.clear x n).modFlash fun f => f.unmap x n).answer m a 0 []

/-! ### Rows -/

/-- FLOW_OPEN. -/
def execFlowOpen (m : MboxId) (hint : Option Nat) (s : State) : Host.Outcome State Fault Refusal := .next (s.flowOpen m hint)
/-- FLOW_CLOSE. -/
def execFlowClose (m : MboxId) (s : State) : Host.Outcome State Fault Refusal := .next (s.flowClose m)
/-- CAVE_READ. -/
def execCaveRead (m : MboxId) (s : State) : Host.Outcome State Fault Refusal := .next (s.caveReadCmd m)
/-- CAVE_WRITE. -/
def execCaveWrite (m : MboxId) (s : State) : Host.Outcome State Fault Refusal := .next (s.caveWriteCmd m)
/-- CAVE_ERASE. -/
def execCaveErase (m : MboxId) (s : State) : Host.Outcome State Fault Refusal := .next (s.caveEraseCmd m)

end Sys2Proof.Machine
end

