-- ==== Sys2Proof/Machine/Loader.lean ====
section
/-!
DEFINITION. The loader (*Program Image, Loader and the Toolchain Contract*: R84 to R97, R172, R303, R309, R310; R81, R66,
R131, R154, R156) and STREAM_APPEND (R259).
-/
namespace Sys2Proof.Machine

/-! ### The image -/

/-- A directory entry. -/
structure Sec where
  ty : Nat
  arg : Nat
  off : Nat
  size : Nat
  deriving DecidableEq, Repr

/-- The header and directory of an image. -/
structure Image where
  two : Bool
  needFull : Bool
  v : Nat
  length : Nat
  featrec : Nat
  pickLead : Nat
  secs : List Sec
  deriving DecidableEq, Repr

/-- Read the header and directory. -/
def Image.read (rd : Rd) : Image :=
  { two := bit (rd 7 1) 0, needFull := bit (rd 7 1) 1, v := rd 8 2, length := rd 12 4, featrec := rd 16 4, pickLead := rd 20 2,
    secs := (List.range (min 64 (rd 10 2))).map fun i =>
      let o := 64 + 16 * i
      ⟨rd o 1, rd (o + 1) 1, rd (o + 4) 4, rd (o + 8) 4⟩ }

/-- The sections of a type. -/
def Image.ofType (i : Image) (t : Nat) : List Sec := i.secs.filter fun x => x.ty == t

/-- The section of a single-instance type; an empty one where the image has none. -/
def Image.sec (i : Image) (t : Nat) : Sec := (i.ofType t).headD ⟨t, 0, 0, 0⟩

/-- Whether two sections overlap. -/
def Sec.overlaps (a b : Sec) : Bool := decide (a.off < b.off + b.size ∧ b.off < a.off + a.size)

/-- No section of a list overlaps a later one. -/
def noOverlap : List Sec → Bool
  | [] => true
  | a :: r => (r.all fun b => !a.overlaps b) && noOverlap r

/-- R84: the header and the directory, but for CHECK. -/
def Image.formatOk (i : Image) (rd : Rd) : Bool :=
  rd 0 4 == 0x4E32494D && rd 4 2 == 1 && decide (rd 7 1 < 4) && decide (1 ≤ i.v ∧ i.v ≤ 64) && decide (1 ≤ rd 10 2 ∧ rd 10 2 ≤ 64) &&
    (i.featrec == 0xFFFFFFFF || i.featrec % 512 == 0) && rd 22 2 == 0 && rd 28 36 == 0 &&
    (i.secs.all fun x => decide (1 ≤ x.ty ∧ x.ty ≤ 10) && x.off % 64 == 0 && decide (64 + 16 * i.secs.length ≤ x.off) &&
      decide (x.off + x.size ≤ i.length)) && noOverlap i.secs &&
    ([1, 2, 3, 4].all fun t => (i.ofType t).length == 1) && ([5, 6, 7, 8].all fun t => decide ((i.ofType t).length ≤ 1)) &&
    decide ((i.ofType 9).length ≤ 8) && (i.two == !(i.ofType 5).isEmpty)

/-- CHECK: the CRC-32 over LENGTH bytes with its own four taken as zero. -/
def checkOk (bs : List Byte) : Bool := (crc32 (bs.take 24 ++ leBytes 4 0 ++ bs.drop 28)) == leNat ((bs.drop 24).take 4)

/-! ### Grid, segments, queues, plan, energy (R85, R87, R88, R75, R309) -/

/-- SRAM_BYTES of a slot. -/
def Image.sram (i : Image) (rd : Rd) (k : Nat) : Nat := rd ((i.sec 1).off + 16 * k) 4

/-- The cluster profile: CLM_BYTES, STREAMS, FLAGS, HARP_BYTES. -/
def Image.clm (i : Image) (rd : Rd) : Nat := rd ((i.sec 1).off + 16 * i.v) 4
def Image.streams (i : Image) (rd : Rd) : Nat := rd ((i.sec 1).off + 16 * i.v + 4) 1
def Image.flags (i : Image) (rd : Rd) : Nat := rd ((i.sec 1).off + 16 * i.v + 5) 1
def Image.harp (i : Image) (rd : Rd) : Nat := rd ((i.sec 1).off + 16 * i.v + 8) 4

/-- R85, but for SRAM_BYTES above 24 MiB. -/
def Image.gridOk (i : Image) (rd : Rd) : Bool :=
  decide (16 * (i.v + 1) ≤ (i.sec 1).size) && decide (i.clm rd ≤ 0x8000000) && decide (1 ≤ i.streams rd ∧ i.streams rd ≤ 64) &&
    decide (i.flags rd ≤ 64) && decide (i.harp rd ≤ 0x400000) &&
    (i.featrec == 0xFFFFFFFF || (List.range i.v).all fun k => decide (i.featrec + 512 ≤ i.sram rd k))

/-- A segment record. -/
structure SegRec where
  off : Nat
  slot : Nat
  seg : Seg
  stream : Nat
  deriving DecidableEq, Repr

/-- Decode a segment record of 32 bytes. -/
def SegRec.ofWord (w : Nat) : SegRec :=
  { off := bits w 255 224, slot := bits w 223 216, stream := bits w 164 164,
    seg := { addr := 0, segId := bits w 215 200, first := bits w 199 188, ninstr := bits w 187 175, ndesc := bits w 174 166,
             bank := bits w 165 165, last := bit w 163 } }

/-- R309: a segment record of a layout, its data in the first `size` bytes after `base`. -/
def SegRec.ok (r : SegRec) (two : Bool) (v size : Nat) : Bool :=
  let n := if two then 2048 else 4096
  decide (r.slot < v) && r.off % 64 == 0 && decide (r.off + 16 * r.seg.ndesc + 8 * r.seg.ninstr ≤ size) &&
    decide (r.seg.ninstr ≤ n ∧ r.seg.first + r.seg.ninstr ≤ n) && decide (r.seg.ndesc ≤ if two then 128 else 256) &&
    (two || r.stream == 0)

/-- The segment records of an image. -/
def Image.segs (i : Image) (rd : Rd) : List SegRec :=
  (List.range ((i.sec 2).size / 32)).map fun k => SegRec.ofWord (rd ((i.sec 2).off + 32 * k) 32)

/-- A queue record. -/
structure QueueRec where
  slot : Nat
  stream : Nat
  first : Nat
  count : Nat
  cycle : Nat
  deriving DecidableEq, Repr

/-- The queue records of an image. -/
def Image.queues (i : Image) (rd : Rd) : List QueueRec :=
  (List.range ((i.sec 4).size / 8)).map fun k =>
    let w := rd ((i.sec 4).off + 8 * k) 8
    ⟨bits w 63 56, bits w 55 55, bits w 47 32, bits w 31 16, bits w 15 0⟩

/-- R87: one queue for every slot and stream of the layout, of records that name its slot and stream. -/
def Image.queuesOk (i : Image) (rd : Rd) : Bool :=
  let qs := i.queues rd
  let ss := i.segs rd
  (List.range i.v).all (fun k =>
    (qs.filter fun q => q.slot == k && q.stream == 0).length == 1 &&
      (qs.filter fun q => q.slot == k && q.stream == 1).length == b2n i.two) &&
    qs.all fun q => decide (q.slot < i.v) && decide (q.first + q.count ≤ ss.length) &&
      (q.cycle == 0xFFFF || decide (q.cycle < q.count)) &&
      ((ss.drop q.first).take q.count).all fun r => r.slot == q.slot && r.stream == q.stream

/-- The interleave plan. -/
def Image.plan (i : Image) (rd : Rd) : List Nat :=
  (List.range ((i.sec 5).size / 2)).map fun k => rd ((i.sec 5).off + 2 * k) 2

/-- R75: up to 1,024 entries, and none of zero blocks. A section of no entry, or of more, is refused as one of zero blocks is (DESIGN
CHOICE, assumption log 120). -/
def Image.planOk (i : Image) (rd : Rd) : Bool :=
  !i.two || (decide (1 ≤ (i.plan rd).length ∧ (i.plan rd).length ≤ 1024) && (i.plan rd).all fun e => bits e 14 0 != 0)

/-- The energy records: SEG_ID, BEATS, ENERGY_MJ, PEAK_W. -/
def Image.energies (i : Image) (rd : Rd) : List (Nat × Nat × Nat × Nat) :=
  (List.range ((i.sec 6).size / 16)).map fun k =>
    let w := rd ((i.sec 6).off + 16 * k) 16
    (bits w 127 112, bits w 111 72, bits w 71 40, bits w 39 24)

/-- R88: every energy record names a SEG_ID of a queue of slot S0. -/
def Image.energyOk (i : Image) (rd : Rd) : Bool :=
  let ids := (((i.queues rd).filter fun q => q.slot == 0).map fun q =>
    (((i.segs rd).drop q.first).take q.count).map fun r => r.seg.segId).flatten
  (i.energies rd).all fun e => ids.contains e.1

/-- R89 and R134: the UPDATE sections. -/
def Image.updatesOk (i : Image) (rd : Rd) : Bool :=
  ((i.ofType 9).map (·.arg)).Nodup && (i.ofType 9).all fun x => decide (x.arg ≤ 7) && sectionOk (fun o n => rd (x.off + o) n) x.size

/-! ### Regions and DATA sections (R310, R150, R172) -/

/-- A region record. -/
structure Region where
  tier : Nat
  pin : Bool
  res : Nat
  place : Nat
  size : Nat
  init : Nat
  low : Nat
  deriving DecidableEq, Repr

/-- The region records of an image. -/
def Image.regions (i : Image) (rd : Rd) : List Region :=
  (List.range ((i.sec 7).size / 16)).map fun k =>
    let w := rd ((i.sec 7).off + 16 * k) 16
    ⟨bits w 127 120, bit w 119, bits w 118 116, bits w 115 112, bits w 111 64, bits w 63 56, bits w 55 0⟩

/-- R310. -/
def Image.regionsOk (i : Image) (rd : Rd) : Bool :=
  (i.regions rd).all fun r =>
    decide (2 ≤ r.tier ∧ r.tier ≤ 5) && decide (1 ≤ r.size) && r.res == 0 && r.low == 0 && decide (r.tier ≠ 3 ∨ r.place ≤ 8) &&
      (r.init == 0xFF ||
        match i.secs[r.init]? with
        | some x => x.ty == 10 && x.arg == 0 && decide (x.size ≤ r.size)
        | none => false)

/-- R172: DATA sections carry ARG 0, or 0x40 + j for one descriptor store each. -/
def Image.dataOk (i : Image) (count : Nat) : Bool :=
  let lists := (i.ofType 10).filter fun x => x.arg != 0
  (lists.map (·.arg)).Nodup &&
    lists.all fun x => decide (0x40 ≤ x.arg ∧ x.arg < 0x40 + count) && x.size % 32 == 0 && decide (x.size ≤ 0x200000)

/-! ### Mapping and patches (R30, R91) -/

/-- What the patches read: the context's positions by slot, and the addresses of the loader's copy, its sections and its
regions. -/
structure Mapping where
  ps : List Nat
  v : Nat
  first : Nat
  copy : Nat
  secs : List Nat
  regions : List Nat
  deriving DecidableEq, Repr

/-- The core of a slot. -/
def Mapping.coreOf (m : Mapping) (k : Nat) : Nat := m.ps.getD k 0

/-- The slots of a slot's cluster. -/
def Mapping.peers (m : Mapping) (k : Nat) : List Nat :=
  (List.range m.v).filter fun j => clusterOf (m.coreOf j) == clusterOf (m.coreOf k)

/-- Positions from one slot to another on a direction, the last included (R21). -/
def Mapping.hops (m : Mapping) (a b : Nat) (ccw : Bool) : Nat :=
  let n := m.ps.length
  let d := if ccw then (a + n - b) % n else (b + n - a) % n
  if d = 0 then n else d

/-- The computed value of a patch kind; `none` when the kind or its ARG names nothing. -/
def Mapping.value (m : Mapping) (kind slot arg : Nat) (ccw : Bool) : Option Nat :=
  match kind with
  | 0 => m.secs[arg]?
  | 1 => m.regions[arg]?
  | 2 => some (localAddr (m.coreOf slot) 0)
  | 3 => some (clusterAddr (clusterOf (m.coreOf slot)) 0)
  | 4 => if arg < m.v then some (m.hops slot arg ccw) else none
  | 5 => if arg < m.v then some arg else none
  | 6 => if arg < m.v then some (m.coreOf arg % 4) else none
  | 7 => some ((m.peers slot).headD 0)
  | 8 => some (m.peers slot).length
  | 9 => some (clusterOf (m.coreOf slot) - m.first)
  | _ => none

/-- A signed number of `n` bits. -/
def signed (n v : Nat) : Int := if v < 2 ^ (n - 1) then v else (v : Int) - 2 ^ n

/-- Apply one patch record (R91); `none` when it fails. `base` finds the target word: the copy plus the section's offset. -/
def State.patchOne (s : State) (m : Mapping) (w : Nat) (target : Nat → Option (Nat × Nat)) : Option State :=
  let kind := bits w 127 122
  let shift := bits w 121 116
  let width := bits w 115 110 + 1
  let toff := bits w 95 64
  let slot := bits w 63 56
  match target (bits w 103 96), m.value kind slot (bits w 55 48) (bit w 109) with
  | some (base, size), some x =>
    let v : Int := (x : Int) + signed 48 (bits w 47 0)
    if toff % 8 = 0 ∧ toff + 8 ≤ size ∧ shift + width ≤ 64 ∧ slot < m.v ∧ 0 ≤ v ∧ v < 2 ^ width ∧ (kind ≠ 4 ∨ (1 ≤ v ∧ v ≤ 254)) then
      some (s.put (base + toff) (leBytes 8 (wput (BitVec.ofNat 64 (leNat (s.bytes (base + toff) 8))) (shift + width - 1) shift v.toNat).toNat) false)
    else none
  | _, _ => none

/-- Apply patch records in order: the patched state, or the index of the first that fails. -/
def State.patchAll (m : Mapping) (target : Nat → Option (Nat × Nat)) : List Nat → Nat → State → Except Nat State
  | [], _, s => .ok s
  | w :: ws, i, s =>
    match s.patchOne m w target with
    | some t => State.patchAll m target ws (i + 1) t
    | none => .error i

/-- The patch records of an image. -/
def Image.patches (i : Image) (rd : Rd) : List Nat :=
  (List.range ((i.sec 8).size / 16)).map fun k => rd ((i.sec 8).off + 16 * k) 16

/-! ### Allocation for a load (R90, R154, R156) -/

/-- Granules of a byte count. -/
def gransFor (n : Nat) : Nat := (n + granBytes - 1) / granBytes

/-- The allocations of a load: the image copy, then the regions. -/
def Image.wants (i : Image) (rd : Rd) (c : Nat) : List AllocReq :=
  { owner := some c, tier := 3, n := gransFor i.length } ::
    (i.regions rd).map fun r => { owner := some c, tier := r.tier, place := r.place, n := gransFor r.size, pin := r.pin }

/-- R154: pinning `r` keeps the context's pinned granules within its quota in every unit. -/
def State.pinOk (s : State) (c : Nat) (r : AllocReq) : Bool :=
  !r.pin || (List.range 11).all fun u =>
    r.inUnit u == 0 ||
      decide ((s.dev.memS.grans.filter fun p => p.2.owner == some c && p.2.at_ == u && p.2.pin).length + r.inUnit u ≤ s.quota c u)

/-- Make allocations in order: the first granules, with whether all succeeded; `hints` are the firmware's places. -/
def State.allocAll (c : Nat) : List AllocReq → List Nat → State → List (Nat × Nat) → State × List (Nat × Nat) × Bool
  | [], _, s, got => (s, got, true)
  | r :: rs, hints, s, got =>
    if ¬ s.pinOk c r then (s, got, false)
    else
      match s.alloc r hints.head? with
      | (s, some g) => State.allocAll c rs hints.tail s (got ++ [(g, r.n)])
      | (s, none) => (s, got, false)

/-- Free a list of runs. -/
def State.freeRuns (s : State) (runs : List (Nat × Nat)) : State := runs.foldl (fun s p => s.freeGrans p.1 p.2) s

/-- Copy bytes of tier space with their poison marks. -/
def State.copyBytes (s : State) (a b n : Nat) : State :=
  let marks := (s.badIn a n).map fun x => (b + 32 * x - a) / 32
  let t := { s with mem := Mem.copyInto s.mem s.mem b a n, bad := markSectors s.bad b n false }
  { t with bad := marks.foldl insertNat t.bad }

/-! ### Commit -/

/-- The counters that R303 clears, of a core. -/
def loadCounters : List RegName :=
  [.hoopCntIn, .hoopCntFwd, .hoopCntRet, .hoopFwdStall, .ldlCntUnits, .ldlCntSlots, .ldlCntWindow, .vecRngMiss, .vecRngStale,
   .vecCntSr, .vecCntSat, .vecCntNan]

/-- Those of an array. -/
def loadArrayCounters : List RegName := [.arrCntVec, .arrCntNull, .arrCntPress, .arrDry, .arrDrainFull, .arrCntWindow]

/-- Clear the counters of R303 on a core. -/
def State.clearCounters (s : State) (c : Nat) : State :=
  let i := coreIdx c
  let s := loadCounters.foldl (fun s n => s.setReg n i 0) s
  let s := loadArrayCounters.foldl (fun s n => (s.setReg n (i ++ [0]) 0).setReg n (i ++ [1]) 0) s
  let s := (List.range 11).foldl (fun s k => s.setReg .seqFrz (i ++ [k]) 0) s
  let s := (List.range 5).foldl (fun s k => s.setReg .seqOrg (i ++ [k]) 0) s
  (List.range 2).foldl (fun s k => s.setReg .seqPicks (i ++ [k]) 0) s

/-- A stream with its queue, before its first fetch (R308). -/
def Strm.loaded (segs : List Seg) (cycle : Option Nat) : Strm :=
  match segs with
  | g :: _ => { segs := segs, cycle := cycle, bank := g.bank, pc := g.first, initFill := true }
  | [] => { cycle := cycle }

/-- Make a stream's initial bank ACTIVE. -/
def SeqS.openBank (q : SeqS) (x : StreamSel) : SeqS :=
  if (q.strm x).segs.isEmpty then q else q.setBank x (q.strm x).bank { st := .active }

/-- The queue of a slot and stream, with the segments' addresses in the loader's copy. -/
def Image.queueOf (i : Image) (rd : Rd) (copy slot stream : Nat) : Strm :=
  match (i.queues rd).find? fun q => q.slot == slot && q.stream == stream with
  | none => {}
  | some q =>
    Strm.loaded ((((i.segs rd).drop q.first).take q.count).map fun r => { r.seg with addr := copy + (i.sec 3).off + r.off })
      (if q.cycle = 0xFFFF then none else some q.cycle)

/-- The sequencer of a slot after the commit. -/
def Image.sequencer (i : Image) (rd : Rd) (copy slot : Nat) (checked hazHalt : Bool) : SeqS :=
  let plan := if i.two then i.plan rd else []
  let q : SeqS :=
    { two := i.two, checked := checked, hazHalt := hazHalt, pickLead := if i.pickLead = 0 then 32 else i.pickLead,
      fwd := i.queueOf rd copy slot 0, bwd := i.queueOf rd copy slot 1, plan := plan, streams := i.streams rd,
      harpBytes := i.harp rd, clmBytes := i.clm rd, sramBytes := i.sram rd slot }
  let q := (q.openBank .fwd).openBank .bwd
  if i.two then let (x, n) := q.planEntry 0; { q with cur := x, left := n } else q

/-- A core of the arc after the commit: everything of the previous program is gone (R81, R303), the histories and records of its range
monitors too (DESIGN CHOICE, assumption log 121). -/
def Core.loaded (k : Core) (c : Nat) (slot : Option Nat) (q : SeqS) : Core :=
  { st := if slot.isSome then .loaded else .idle, ctx := c, slot := slot, seqr := q, hoop := { uid := k.hoop.uid },
    bistA := k.bistA, bistB := k.bistB }

/-- The feature record of a slot (R96). -/
def State.featureRecord (s : State) (m : Mapping) (c slot : Nat) : List Byte :=
  s.featBytes ++ leBytes 8 m.v ++ leBytes 8 slot ++ leBytes 8 slot ++ leBytes 8 ((m.peers slot).headD 0) ++
    leBytes 8 (m.peers slot).length ++ leBytes 8 c ++ leBytes 8 (s.hubArc c).toNat ++ leBytes 392 0

/-- The descriptor store of the arc's cluster `j` (R172), from the loader's copy. -/
def State.loadStore (s : State) (i : Image) (m : Mapping) (j : Nat) : AMap Nat (BitVec 256) :=
  match (i.ofType 10).find? fun x => x.arg == 0x40 + j with
  | none => []
  | some x => (List.range (x.size / 32)).map fun e => (e, BitVec.ofNat 256 (leNat (s.bytes (m.copy + x.off + 32 * e) 32)))

/-- The entries of that store that come from a poisoned sector of the copy (R182). -/
def State.loadStoreBad (s : State) (i : Image) (m : Mapping) (j : Nat) : List Nat :=
  match (i.ofType 10).find? fun x => x.arg == 0x40 + j with
  | none => []
  | some x => (List.range (x.size / 32)).filter fun e => !(s.badIn (m.copy + x.off + 32 * e) 32).isEmpty

/-- A cluster of the arc after the commit: flags and streams cleared, harp commands discarded, records within HARP_BYTES
cleared (R66, R131, R172, R186). -/
def Cluster.loaded (q : Cluster) (harp : Nat) (store : AMap Nat (BitVec 256)) (bad : List Nat) : Cluster :=
  { store := store, storeBad := bad, records := (q.records.filter fun p => decide (harp / 32 ≤ p.1)) ++
      (List.range (harp / 32)).map fun n => (n, HarpRec.cleared) }

/-- The commit of a load. The queues, the plan and the profile are the image's as the host wrote it; UPDATE headers and the lists of
streams are read from the patched copy (DESIGN CHOICE, assumption log 119). -/
def State.commit (s : State) (c : Nat) (i : Image) (rd : Rd) (m : Mapping) (runs : List (Nat × Nat)) (digest : List Byte) : State :=
  let x := s.ctx c
  let s := s.emptyRings c
  let s := (List.range (4 * x.count)).foldl (fun s j =>
    let k := 4 * x.first + j
    if ¬ (s.core k).inService then s
    else
      let slot := placeOf m.ps k
      let q : SeqS := if slot < m.v then i.sequencer rd m.copy slot x.checked x.hazHalt else { checked := x.checked, hazHalt := x.hazHalt }
      (s.modCore k fun z => z.loaded c (if slot < m.v then some slot else none) q).clearCounters k) s
  let s := (List.range x.count).foldl (fun s j => (s.clmForget (x.first + j)).modCluster (x.first + j) fun q => q.loaded (i.harp rd) (s.loadStore i m j)
    (s.loadStoreBad i m j)) s
  let s := if i.featrec = 0xFFFFFFFF then s
    else (List.range m.v).foldl (fun s k => s.put (localAddr (m.coreOf k) i.featrec) (s.featureRecord m c k) false) s
  let rips := (i.ofType 9).map fun u => ((u.arg, c), RipS.ofHeader (s.rd (m.copy + u.off)) (m.copy + u.off))
  let s := { s with dev := { s.dev with rips := (s.dev.rips.filter fun (p : (Nat × Nat) × RipS) => p.1.2 != c) ++ rips } }
  let s := s.freeRuns x.progGrans
  let s := s.modClk fun k => { k with segs := k.segs.filter fun y => y.ctx != c, held := k.held.filter fun h => h.1 != c }
  let s := (s.setReg .paceBound [c] 0).setReg .taintCnt [c] 0
  let s := (List.range 64).foldl (fun s n => s.setField .redNstep [n] 63 63 0) s
  s.modCtx c fun x =>
    { x with loaded := true, running := false, halted := false, slots := m.ps.take m.v, ps := m.ps, energy := (i.energies rd).map fun (e : Nat × Nat × Nat × Nat) => (e.1, e.2),
             secs := m.secs, regions := m.regions, image := digest, progGrans := runs, prog := 0, faults := [], faulted := false, evhalt := false, fault := none, more := 0,
             tainted := false, taintFirst := 0, taintLast := 0, arming := none }

/-! ### PROGRAM_LOAD -/

/-- An image lies in granules allocated to the context. -/
def State.imageReach (s : State) (c a n : Nat) : Bool :=
  (match s.space a with | .hub _ | .far _ => true | _ => false) && (s.reach c a n).isNone

/-- The checks of a load that need no allocation, in the loader's order. -/
def State.loadRefused (s : State) (c : Nat) (i : Image) (rd : Rd) (bs : List Byte) : Option Nat :=
  let x := s.ctx c
  if ¬ i.formatOk rd then some 0x30
  else if ¬ checkOk bs then some 0x31
  else if rd 6 1 ≠ 2 then some 0x33
  else if i.needFull ∧ x.folded then some 0x23
  else if i.v > (s.positions x.first x.count).length ∨ (List.range i.v).any fun k => decide (i.sram rd k > 0x1800000) then some 0x34
  else if ¬ i.gridOk rd ∨ ¬ (i.segs rd).all (fun r => r.ok i.two i.v (i.sec 3).size) ∨ ¬ i.queuesOk rd then some 0x30
  else if ¬ i.planOk rd then some 0x35
  else if ¬ i.energyOk rd ∨ ¬ i.updatesOk rd ∨ ¬ i.regionsOk rd ∨ ¬ i.dataOk x.count then some 0x30
  else none

/-- Fill a region at `b` from `n` bytes of the image at `a`; pages of the cave are programmed (R167). -/
def State.fillRegion (s : State) (r : Region) (a b n : Nat) : State :=
  if r.tier = 5 then s.farPut b (s.bytes a n) ((s.badIn a n).map (· - a / 32)) else s.copyBytes a b n

/-- The base of the first region of the cave that a load would fill, the cave taking no writes (R170, R171). -/
def State.fillRefused (s : State) (rs : List (Region × Nat)) : Option Nat :=
  if s.caveOpen then none else (rs.find? fun p => p.1.tier == 5 && p.1.init != 0xFF).map (·.2)

/-- Allocate, copy, fill, patch and commit: the new state, or the status and the index of a failing patch. -/
def State.load (s : State) (c a : Nat) (i : Image) (rd : Rd) (bs : List Byte) (hints : List Nat) : State × Nat × Nat :=
  let x := s.ctx c
  match State.allocAll c (i.wants rd c) hints s [] with
  | (s, got, false) => (s.freeRuns got, 0x27, 0xFFFFFFFF)
  | (s, got, true) =>
    let copy := (got.headD (0, 0)).1 * granBytes
    let bases := got.tail.map fun p => p.1 * granBytes
    let m : Mapping := { ps := s.positions x.first x.count, v := i.v, first := x.first, copy := copy,
                         secs := (i.secs.map fun z => copy + z.off), regions := bases }
    match s.fillRefused ((i.regions rd).zip bases) with
    | some x => ((s.freeRuns got).roRefused 5 c 0 x { kind := 10, index := 0, ctx := some c, detail := BitVec.ofNat 64 x }, 0x27, 0xFFFFFFFF)
    | none =>
    let t := s.copyBytes a copy i.length
    let t := ((i.regions rd).zip bases).foldl (fun t p =>
      match i.secs[p.1.init]? with
      | some sec => if p.1.init = 0xFF then t else t.fillRegion p.1 (a + sec.off) p.2 sec.size
      | none => t) t
    match State.patchAll m (fun k => (i.secs[k]?).map fun sec => (copy + sec.off, sec.size)) (i.patches rd) 0 t with
    | .error n => (s.freeRuns got, 0x32, n)
    | .ok t => (t.commit c i rd m got (sha256 bs), 0, 0xFFFFFFFF)

/-- PROGRAM_LOAD on mailbox `m`. An image whose header is bad and whose LENGTH passes the context's granules is refused for its range
(DESIGN CHOICE, assumption log 120). -/
def State.programLoad (s : State) (m : Nat) (hints : List Nat) : State :=
  s.serveCtx m 0x30 fun c a s =>
    let x := s.ctx c
    let at_ := a.at_ 0 8
    let reply (s : State) (st n v : Nat) : State := s.answer m a st (leBytes 4 n ++ leBytes 2 v ++ leBytes 2 0)
    if (List.range (4 * x.count)).any fun j => (s.core (4 * x.first + j)).live then reply s 0x21 0xFFFFFFFF 0
    else if ¬ (s.streamsQuiet c ∧ s.harpQuiet c ∧ s.ripQuiet c) then s.begin_ m
    else if ¬ s.imageReach c at_ 64 then reply s 0x28 0xFFFFFFFF 0
    else
      let i := Image.read (s.rd at_)
      if ¬ s.imageReach c at_ (max 64 i.length) then reply s 0x28 0xFFFFFFFF 0
      else
        let bs := s.bytes at_ i.length
        let rd : Rd := fun o n => leNat ((bs.drop o).take n)
        match s.loadRefused c i rd bs with
        | some st => reply s st 0xFFFFFFFF i.v
        | none =>
          let (t, st, n) := s.load c at_ i rd bs hints
          reply t st n i.v

/-! ### STREAM_APPEND (R259) -/

/-- The stream of a number. -/
def streamOf (n : Nat) : StreamSel := if n = 0 then .fwd else .bwd

/-- Append a segment to a stream's queue; a queue that had none begins with it (R308). -/
def SeqS.append (q : SeqS) (x : StreamSel) (g : Seg) : SeqS :=
  let t := q.strm x
  if t.segs.isEmpty then (q.setStrm x { Strm.loaded [g] none with step := t.step }).openBank x
  else q.setStrm x { t with segs := t.segs ++ [g] }

/-- The mapping in force for a context: the one that its load fixed (R92). -/
def State.mappingOf (s : State) (c : Nat) : Mapping :=
  let x := s.ctx c
  { ps := x.ps, v := x.slots.length, first := x.first, copy := 0, secs := x.secs, regions := x.regions }

/-- Entries of a slot's queue that have not been fetched. -/
def State.unfetched (s : State) (c slot : Nat) (x : StreamSel) : Nat :=
  let t := (s.core ((s.ctx c).slots.getD slot 0)).seqr.strm x
  t.segs.length - t.nextSeg

/-- STREAM_APPEND on mailbox `m`; `hint` is the firmware's place for the copy. A patch's SEC 0 is the block. -/
def State.streamAppend (s : State) (m : Nat) (hint : Option Nat) : State :=
  s.serveCtx m 0x31 fun c a s =>
    let x := s.ctx c
    let at_ := a.at_ 0 8
    let nrec := a.at_ 8 4
    let npatch := a.at_ 12 4
    if ¬ x.loaded then s.answer m a 0x38 []
    else if ¬ s.imageReach c at_ (max 1 (32 * nrec + 16 * npatch)) then s.answer m a 0x28 []
    else
      let two := x.slots.any fun k => (s.core k).seqr.two
      let recs := (List.range nrec).map fun k => SegRec.ofWord (leNat (s.bytes (at_ + 32 * k) 32))
      let size := recs.foldl (fun n r => max n (r.off + 16 * r.seg.ndesc + 8 * r.seg.ninstr)) (32 * nrec + 16 * npatch)
      if ¬ recs.all (fun r => r.ok two x.slots.length size) then s.answer m a 0x30 []
      else if ¬ s.imageReach c at_ (max 1 size) then s.answer m a 0x28 []
      else if recs.any fun r => ((s.core (x.slots.getD r.slot 0)).seqr.strm (streamOf r.stream)).cycle.isSome then s.answer m a 0x36 []
      else if recs.any fun r =>
          decide (s.unfetched c r.slot (streamOf r.stream) + (recs.filter fun q => q.slot == r.slot && q.stream == r.stream).length > 4096) then
        s.answer m a 0x37 []
      else
        match s.alloc { owner := some c, tier := 3, n := gransFor (max 1 size) } hint with
        | (s, none) => s.answer m a 0x27 []
        | (s, some g) =>
          let copy := g * granBytes
          let run := (g, gransFor (max 1 size))
          let t := s.copyBytes at_ copy size
          let map := s.mappingOf c
          let ws := (List.range npatch).map fun k => leNat (s.bytes (at_ + 32 * nrec + 16 * k) 16)
          match State.patchAll map (fun k => if k = 0 then some (copy, size) else none) ws 0 t with
          | .error _ => (s.freeRuns [run]).answer m a 0x32 []
          | .ok t =>
            let t := recs.foldl (fun t r =>
              t.modCore (x.slots.getD r.slot 0) fun k => k.modSeq fun q =>
                q.append (streamOf r.stream) { r.seg with addr := copy + r.off }) t
            (t.modCtx c fun x => { x with progGrans := x.progGrans ++ [run] }).answer m a 0 []

/-! ### Rows -/

/-- PROGRAM_LOAD. -/
def execProgramLoad (m : MboxId) (hints : List Nat) (s : State) : Host.Outcome State Fault Refusal := .next (s.programLoad m hints)
/-- STREAM_APPEND. -/
def execStreamAppend (m : MboxId) (hint : Option Nat) (s : State) : Host.Outcome State Fault Refusal := .next (s.streamAppend m hint)

end Sys2Proof.Machine
end

