-- ==== Sys2Proof/Machine/Security.lean ====
section
/-!
DEFINITION. Identity, attestation and command authentication (R269 to R278): measurements and the ATTEST report, the SPDM
responder and its sessions, binding of mailboxes, patch bundles and the debug unlock. Signatures are opaque (`Config`).
-/
namespace Sys2Proof.Machine

/-! ### Bytes and signatures -/

/-- Bytes as a big-endian number of `8 n` bits. -/
def beBits (n : Nat) (d : List Byte) : BitVec n := BitVec.ofNat n (d.foldl (fun x b => 256 * x + b.toNat) 0)

/-- A 512-bit signature or key as its 64 bytes, big-endian. -/
def sigBytes (x : BitVec 512) : List Byte := beBytes 64 x.toNat

/-- The digest of the patch bundle that runs, as the opaque functions take it. -/
def State.patchId (s : State) : BitVec 256 := beBits 256 s.dev.patchDigest

/-- The Alias key's signature of SHA-256 of a message. -/
def State.aliasSig (s : State) (m : List Byte) : List Byte := sigBytes (Config.aliasSign s.patchId (beBits 256 (sha256 m)))

/-- `n` bytes of a digest that may be absent: zero for none. -/
def orZero (d : List Byte) : List Byte := if d.isEmpty then leBytes 32 0 else d

/-! ### Measurements (R272) -/

/-- Measurement index 3: SHA-256 of fuse words 0 to 31 and 36 to 71. -/
def State.fuseMeasure (s : State) : List Byte :=
  sha256 ((((List.range 32) ++ (List.range 36).map (· + 36)).map fun n => leBytes 8 (s.fuse n).toNat).flatten)

/-- The value of a measurement index. -/
def State.measure (s : State) (i : Nat) : List Byte :=
  if i = 1 then beBytes 32 Config.romDigest.toNat
  else if i = 2 then orZero s.dev.patchDigest
  else if i = 3 then orZero s.dev.fuseDigest
  else if i = 4 then leBytes 8 (s.read .hubId []).toNat ++ leBytes 8 (s.read .featGen []).toNat ++ leBytes 16 0
  else if i = 5 then leBytes 1 (s.field .secStatus [] 6 5) ++ leBytes 31 0
  else orZero (s.ctx (i - 16)).image

/-- The indices that are reported. -/
def measureIndices : List Nat := [1, 2, 3, 4, 5] ++ (List.range 8).map (· + 16)

/-- Bytes 0 to 523 of the ATTEST report. -/
def State.reportBody (s : State) (nonce : List Byte) : List Byte :=
  nonce ++ leBytes 8 (s.read .hubId []).toNat ++ leBytes 8 (s.read .featGen []).toNat ++ leBytes 4 13 ++ leBytes 4 0 ++
    (measureIndices.map fun i => leBytes 1 i ++ leBytes 3 0 ++ s.measure i).flatten

/-- ATTEST on mailbox `m`. -/
def State.attest (s : State) (m : Nat) : State :=
  s.serve m 0x11 fun a s =>
    let body := s.reportBody (a.payload.take 32)
    s.answer m a 0 (body ++ s.aliasSig body)

/-! ### Binding mailboxes (R273) -/

/-- Bind one mailbox: re-keying. -/
def State.bind (s : State) (id n : Nat) : State :=
  s.modMbox n fun b => { b with session := some id, epoch := (b.epoch + 1) % 2 ^ 32, lastCtr := 0, spent := false }

/-- Whether a mailbox is bound to a live session other than `id`. -/
def State.boundElsewhere (s : State) (id n : Nat) : Bool :=
  match s.boundSession n with
  | some x => x.id != id
  | none => false

/-- SESSION_OPEN on mailbox `m`. -/
def State.sessionOpen (s : State) (m : Nat) : State :=
  s.serve m 0x10 fun a s =>
    let id := a.at_ 0 4
    let no := a.at_ 4 4
    let boxes := maskBits (a.at_ 8 8)
    match s.dev.spdm.sessions.find? fun x => x.id == id && x.up with
    | none => s.answer m a 0x15 []
    | some x =>
      let key := hkdfExpand x.ems (asciiBytes "N2MB-BND") 32
      if no ≤ x.bindNo ∨ (hmac key (a.payload.take 16)).take 16 ≠ (a.payload.drop 16).take 16 then
        ((s.bump .secCntAuthfail [] 1 none 11 m).secRaise 0x0601 { kind := 11, index := m, ctx := none }).answer m a 0x16 []
      else if boxes.any (s.boundElsewhere id) then s.answer m a 0x24 []
      else
        let s := boxes.foldl (fun s n => s.bind id n) s
        let up (y : Sess) : Sess := if y.id = id then { y with bindNo := no } else y
        ({ s with dev := { s.dev with spdm := { s.dev.spdm with sessions := s.dev.spdm.sessions.map up } } }).answer m a 0 []

/-! ### SPDM (R270, R271) -/

/-- Change the responder. -/
def State.modSpdm (s : State) (f : SpdmS → SpdmS) : State := { s with dev := { s.dev with spdm := f s.dev.spdm } }

/-- Answer a request on a transport (`bus`: MCTP over SMBus, else DOE). -/
def State.spdmSay (s : State) (bus : Bool) (r : SpdmRsp) : State := s.modSpdm fun p => { p with out := p.out ++ [(bus, r)] }

/-- How far the connection of a transport has got. -/
def State.spdmAt (s : State) (bus : Bool) : Nat := if bus then s.dev.spdm.smbus else s.dev.spdm.doe

/-- Set it. -/
def State.spdmGo (s : State) (bus : Bool) (n : Nat) : State := s.modSpdm fun p => if bus then { p with smbus := n } else { p with doe := n }

/-- SPDM error codes of DSP0274. -/
def spdmInvalid : Nat := 0x01
/-- InvalidSession. -/
def spdmNoSession : Nat := 0x02
/-- Busy. -/
def spdmBusy : Nat := 0x03
/-- UnexpectedRequest. -/
def spdmUnexpected : Nat := 0x04

/-- Whether the responder runs: rails up and past BOOT. -/
def State.spdmUp (s : State) : Bool := s.nv.power.rails && s.hubState != 1

/-- A request that the responder answers once the connection has got to `n`; over PCI Express DOE it comes with a trained link. -/
def State.spdmReq (s : State) (bus : Bool) (n : Nat) (f : State → State) : State :=
  if ¬ s.spdmUp ∨ (¬ bus ∧ ¬ s.linked) then s
  else if s.spdmAt bus < n then s.spdmSay bus (.error spdmUnexpected)
  else f s

/-- GET_VERSION starts the connection of its transport anew. -/
def State.getVersion (s : State) (bus : Bool) : State := s.spdmReq bus 0 fun s => (s.spdmGo bus 1).spdmSay bus .version

/-- GET_CAPABILITIES. -/
def State.getCapabilities (s : State) (bus : Bool) : State :=
  s.spdmReq bus 1 fun s => (s.spdmGo bus (max 2 (s.spdmAt bus))).spdmSay bus .capabilities

/-- NEGOTIATE_ALGORITHMS: `ok` says that the requester offers the supported set. -/
def State.negotiate (s : State) (bus ok : Bool) : State :=
  s.spdmReq bus 2 fun s => if ok then (s.spdmGo bus 3).spdmSay bus .algorithms else s.spdmSay bus (.error spdmInvalid)

/-- The certificate chain of slot 0. -/
def State.chain (s : State) : List Byte := Config.chain s.patchId

/-- GET_DIGESTS. -/
def State.getDigests (s : State) (bus : Bool) : State := s.spdmReq bus 3 fun s => s.spdmSay bus (.digests (sha256 s.chain))

/-- GET_CERTIFICATE: slot 0 only. -/
def State.getCertificate (s : State) (bus : Bool) (slot off len : Nat) : State :=
  s.spdmReq bus 3 fun s =>
    s.spdmSay bus (if slot = 0 then .certificate ((s.chain.drop off).take len) else .error spdmInvalid)

/-- CHALLENGE: the Alias key signs the transcript, of which the requester's part is `transcript`. -/
def State.challenge (s : State) (bus : Bool) (slot : Nat) (transcript : List Byte) : State :=
  s.spdmReq bus 3 fun s =>
    s.spdmSay bus (if slot = 0 then .challenge (s.aliasSig transcript) else .error spdmInvalid)

/-- GET_MEASUREMENTS: one index, or all of them (0xFF). -/
def State.getMeasurements (s : State) (bus : Bool) (index : Nat) (transcript : List Byte) : State :=
  s.spdmReq bus 3 fun s =>
    let which := if index = 0xFF then measureIndices else [index]
    if which.all fun i => measureIndices.contains i then
      s.spdmSay bus (.measurements (which.map fun i => (i, s.measure i)) (s.aliasSig transcript))
    else s.spdmSay bus (.error spdmInvalid)

/-- A session id that has not been used since reset: the asked one, else the one after the highest. -/
def freshId (used : List Nat) (want : Nat) : Nat := if used.contains want then used.foldl max 0 + 1 else want

/-- KEY_EXCHANGE: `mutAuth` asks for mutual authentication, `want` is the id that the two halves make, `ems` the export
master secret of the exchange. -/
def State.keyExchange (s : State) (bus mutAuth : Bool) (want : Nat) (ems : List Byte) : State :=
  s.spdmReq bus 3 fun s =>
    if (s.dev.spdm.sessions.filter (·.up)).length ≥ 4 then s.spdmSay bus (.error spdmBusy)
    else if s.ownerSet ∧ ¬ mutAuth then s.spdmSay bus (.error spdmInvalid)
    else
      let id := freshId s.dev.spdm.used want
      (s.modSpdm fun p =>
        { p with sessions := p.sessions ++ [{ id := id, bus := bus, ems := ems }], used := insertNat p.used id }).spdmSay bus
        (.keyExchange id mutAuth)

/-- End a session: every mailbox bound to it is unbound (R270). -/
def State.endSession (s : State) (id : Nat) : State :=
  (List.range 64).foldl (fun s n => if (s.mbox n).session = some id then s.modMbox n fun b => { b with session := none } else s)
    (s.modSpdm fun p => { p with sessions := p.sessions.filter fun x => x.id != id })

/-- Every session ends, and every mailbox is unbound (R267, R270). -/
def State.endSessions (s : State) : State :=
  (List.range 64).foldl (fun s n => s.modMbox n fun b => { b with session := none }) (s.modSpdm fun p => { p with sessions := [] })

/-- FINISH: `verified` says that the requester's proof verifies, `root` is the digest of its chain's root public key. Four sessions at
most live at once: a FINISH that would make a fifth is answered Busy, and the exchange stays begun (DESIGN CHOICE, assumption log
125). -/
def State.spdmFinish (s : State) (bus : Bool) (id : Nat) (verified : Bool) (root : List Byte) : State :=
  s.spdmReq bus 3 fun s =>
    match s.dev.spdm.sessions.find? fun x => x.id == id && x.bus == bus && !x.up with
    | none => s.spdmSay bus (.error spdmNoSession)
    | some _ =>
      if (s.dev.spdm.sessions.filter (·.up)).length ≥ 4 then s.spdmSay bus (.error spdmBusy)
      else if verified ∧ (¬ s.ownerSet ∨ root = s.ownerHash) then
        (s.modSpdm fun p => { p with sessions := p.sessions.map fun x => if x.id = id then { x with up := true } else x }).spdmSay
          bus (.finish id)
      else (s.endSession id).spdmSay bus (.error Config.finishError)

/-- A request within a live session. -/
def State.inSession (s : State) (bus : Bool) (id : Nat) (f : State → State) : State :=
  s.spdmReq bus 3 fun s =>
    if s.dev.spdm.sessions.any fun x => x.id == id && x.bus == bus && x.up then f s else s.spdmSay bus (.error spdmNoSession)

/-! ### Patch bundles (R266, R276) -/

/-- PATCH_FLOOR: fuse word 12, bits [7:0]. -/
def State.patchFloor (s : State) : Nat := wbits (s.fuse 12) 7 0

/-- Whether bytes `[o, o + n)` of a bundle are zero. -/
def zeroAt (d : List Byte) (o n : Nat) : Bool := ((d.drop o).take n).all fun b => b == 0

/-- The length that a bundle gives itself. -/
def bundleLen (d : List Byte) : Nat := leNat ((d.drop 8).drop 4 |>.take 4)

/-- The version of a bundle. -/
def bundleVersion (d : List Byte) : Nat := (d.getD 4 0).toNat

/-- Whether a bundle is valid (R276). -/
def State.bundleOk (s : State) (d : List Byte) : Bool :=
  let n := bundleLen d
  let body := d.take (n - 64)
  leNat (d.take 4) == 0x4E325042 && decide (128 ≤ n) && decide (n ≤ 65536) && decide (n ≤ d.length) && zeroAt d 6 2 &&
    zeroAt d 16 48 && decide ((d.getD 5 0).toNat ≤ 1) && decide (1 ≤ bundleVersion d) &&
    leNat ((d.drop 8).take 4) == s.field .featGen [] 63 32 && decide (s.patchFloor ≤ bundleVersion d) &&
    Config.patchVerify (beBits 256 (sha256 body)) (beBits 512 ((d.drop (n - 64)).take 64))

/-- PATCH_INSTALL on mailbox `m`. -/
def State.patchInstall (s : State) (m : Nat) : State :=
  s.serve m 0x80 fun a s =>
    let n := a.at_ 8 4
    if ¬ a.zero 13 3 ∨ ¬ s.fnOk (a.at_ 12 1) then s.answer m a 0x19 []
    else if n > 65536 then s.answer m a 0x80 []
    else
      let d := Mem.readN s.host.mem (hostKey (a.at_ 12 1) (a.at_ 0 8)) n
      if ¬ s.bundleOk d ∨ bundleLen d ≠ n then s.answer m a 0x80 []
      else if bundleVersion d ≤ s.field .featGen [] 23 16 then s.answer m a 0x81 []
      else ({ s with nv := { s.nv with patch := d } }).answer m a 0 []

/-! ### Debug unlock (R277, R278) -/

/-- The nonce as bytes. -/
def State.nonceBytes (s : State) : List Byte :=
  ((List.range 4).map fun i => leBytes 8 (s.reg .secDbgNonce [i]).toNat).flatten

/-- The module serial number, 16 bytes (fuse words 2 and 3). -/
def State.serial (s : State) : List Byte := leBytes 8 (s.fuse 2).toNat ++ leBytes 8 (s.fuse 3).toNat

/-- Whether a debug token grants its scope. -/
def State.tokenOk (s : State) (t : List Byte) : Bool :=
  let part (o n : Nat) : List Byte := (t.drop o).take n
  let digest := beBits 256 (sha256 (t.take 56))
  wbits (s.fuse 68) 0 0 == 0 && part 0 32 == s.nonceBytes && part 32 16 == s.serial && decide ((t.getD 48 0).toNat ≤ 3) &&
    zeroAt t 49 7 && Config.debugVerify digest (beBits 512 (part 56 64)) &&
    (!s.ownerSet || (sha256 (part 184 64) == s.ownerHash &&
      Config.keyVerify (beBits 512 (part 184 64)) digest (beBits 512 (part 120 64))))

/-- DEBUG_UNLOCK on mailbox `m`: a fresh nonce is drawn whether it succeeds or not. -/
def State.debugUnlock (s : State) (m : Nat) : State :=
  s.serve m 0x90 fun a s =>
    if s.tokenOk a.payload then
      (((s.setField .secStatus [] 4 4 1).setField .secStatus [] 6 5 (a.at_ 48 1)).drawNonce).answer m a 0 []
    else s.drawNonce.answer m a 0x90 []

/-! ### Rows -/

/-- SESSION_OPEN (R273). -/
def execSessionOpen (m : MboxId) (s : State) : Host.Outcome State Fault Refusal := .next (s.sessionOpen m)
/-- ATTEST (R272). -/
def execAttest (m : MboxId) (s : State) : Host.Outcome State Fault Refusal := .next (s.attest m)
/-- PATCH_INSTALL (R266, R276). -/
def execPatchInstall (m : MboxId) (s : State) : Host.Outcome State Fault Refusal := .next (s.patchInstall m)
/-- DEBUG_UNLOCK (R277, R278). -/
def execDebugUnlock (m : MboxId) (s : State) : Host.Outcome State Fault Refusal := .next (s.debugUnlock m)
/-- GET_VERSION (R270). -/
def execGetVersion (bus : Bool) (s : State) : Host.Outcome State Fault Refusal := .next (s.getVersion bus)
/-- GET_CAPABILITIES (R270). -/
def execGetCapabilities (bus : Bool) (s : State) : Host.Outcome State Fault Refusal := .next (s.getCapabilities bus)
/-- NEGOTIATE_ALGORITHMS (R270). -/
def execNegotiateAlgorithms (bus ok : Bool) (s : State) : Host.Outcome State Fault Refusal := .next (s.negotiate bus ok)
/-- GET_DIGESTS (R270). -/
def execGetDigests (bus : Bool) (s : State) : Host.Outcome State Fault Refusal := .next (s.getDigests bus)
/-- GET_CERTIFICATE (R270). -/
def execGetCertificate (bus : Bool) (slot off len : Nat) (s : State) : Host.Outcome State Fault Refusal :=
  .next (s.getCertificate bus slot off len)
/-- CHALLENGE (R270). -/
def execChallenge (bus : Bool) (slot : Nat) (transcript : List Byte) (s : State) : Host.Outcome State Fault Refusal :=
  .next (s.challenge bus slot transcript)
/-- GET_MEASUREMENTS (R272). -/
def execGetMeasurements (bus : Bool) (index : Nat) (transcript : List Byte) (s : State) : Host.Outcome State Fault Refusal :=
  .next (s.getMeasurements bus index transcript)
/-- KEY_EXCHANGE (R270, R271). -/
def execKeyExchange (bus mutAuth : Bool) (want : Nat) (ems : List Byte) (s : State) : Host.Outcome State Fault Refusal :=
  .next (s.keyExchange bus mutAuth want ems)
/-- FINISH (R270, R271). -/
def execFinish (bus : Bool) (id : Nat) (verified : Bool) (root : List Byte) (s : State) : Host.Outcome State Fault Refusal :=
  .next (s.spdmFinish bus id verified root)
/-- HEARTBEAT (R270). -/
def execHeartbeat (bus : Bool) (id : Nat) (s : State) : Host.Outcome State Fault Refusal :=
  .next (s.inSession bus id fun s => s.spdmSay bus (.heartbeat id))
/-- KEY_UPDATE (R270): the session's traffic keys change; the export master secret, which binds mailboxes, does not. -/
def execKeyUpdate (bus : Bool) (id : Nat) (s : State) : Host.Outcome State Fault Refusal :=
  .next (s.inSession bus id fun s => s.spdmSay bus (.keyUpdate id))
/-- END_SESSION (R270). -/
def execEndSession (bus : Bool) (id : Nat) (s : State) : Host.Outcome State Fault Refusal :=
  .next (s.inSession bus id fun s => (s.endSession id).spdmSay bus (.endSession id))
/-- SESSION_HEARTBEAT_TIMEOUT (R270). -/
def execSessionHeartbeatTimeout (id : Nat) (s : State) : Host.Outcome State Fault Refusal :=
  .next (if s.dev.spdm.sessions.any fun x => x.id == id && x.up then s.endSession id else s)

end Sys2Proof.Machine
end

