-- ==== Sys2Proof/Machine/Transfers.lean ====
section
/-!
DEFINITION. Snapshots and checkpoints (R11, R211, R262, R263, R279): the two commands, and what the firmware does at the
steps that they name. A snapshot or a checkpoint is staged in one piece, sent or written piece by piece.
-/
namespace Sys2Proof.Machine

/-! ### Shared parts -/

/-- Whether every update stream of a context has completed the pass of step `n`. -/
def State.updated (s : State) (c n : Nat) : Bool :=
  s.dev.rips.all fun (p : (Nat × Nat) × RipS) => p.1.2 != c || p.2.ncmd == 0 || decide (n < p.2.step.toNat)

/-- Post the outcome of a standing request on the context's vector: a record of the context's log. -/
def State.postOutcome (s : State) (c status : Nat) (step : Nat) : State :=
  let o : Origin := { kind := 10, index := 0, ctx := some c, step := BitVec.ofNat 64 step, detail := Config.outcomeDetail status }
  let g := s.log c
  if g.used < 256 then
    (s.setLog c (g.write (eventRecord (Config.outcomeCode status).toNat o s.hubTick g.num))).vector (64 + c)
  else s.setLog c (g.write 0)

/-- Copy the extents one after another to a staging area, with their poison marks. -/
def State.stageCopy (s : State) : List (Nat × Nat) → Nat → State
  | [], _ => s
  | (a, n) :: es, d =>
    let bad := (s.badIn a n).map fun x => [(d + max (32 * x) a - a) / 32, (d + min (32 * x + 32) (a + n) - a - 1) / 32]
    State.stageCopy { s with mem := Mem.copyInto s.mem s.mem d a n,
                             bad := bad.flatten.foldl insertNat (removeNats s.bad ((d + 31) / 32) ((d + n) / 32)) } es (d + n)

/-- Answer the command that mailbox `m` has begun, if it still has one. -/
def State.answerBegun (s : State) (m status : Nat) (payload : List Byte) : State :=
  match (s.mbox m).cmd with
  | some a => s.answer m a status payload
  | none => s

/-! ### Snapshots -/

/-- Bytes of a shipped snapshot as the digest takes them: a poisoned sector is 32 bytes of 0xFF (R279). -/
def State.digestBytes (s : State) (a n : Nat) : List Byte :=
  let bad := s.badIn a n
  ((s.bytes a n).zip (List.range n)).map fun p => if bad.contains ((a + p.2) / 32) then 0xFF else p.1

/-- The manifest of a staged snapshot (the table of the snapshot manifest). -/
def State.manifest (s : State) (c step stage len : Nat) : List Byte :=
  let body := leBytes 4 0x4E32534D ++ s.serial ++ leBytes 1 c ++ leBytes 3 0 ++ leBytes 8 step ++ leBytes 8 len ++
    sha256 (s.digestBytes stage len) ++ s.measure (16 + c) ++ List.replicate 88 0
  body ++ s.aliasSig body

/-- The lowest firmware flow that is CLOSED (R211). -/
def State.freeShipFlow (s : State) : Option Nat := ((List.range 64).map (· + 16320)).find? fun f => (s.flow f).st == .closed

/-- Change a context's snapshot request. -/
def State.modSnap (s : State) (c : Nat) (f : Snap → Snap) : State := s.modCtx c fun x => { x with snap := x.snap.map f }

/-- Give up the staging area and the flow of a shipment. -/
def State.endShipment (s : State) (q : Snap) : State :=
  match q.stage with
  | none => s
  | some a => (s.freeGrans (a / granBytes) (gransFor q.len)).closeFlow q.flow

/-- The end of a shipment, or of an attempt at one: its outcome is answered or posted, and the next one is due EVERY
steps later. -/
def State.shipped (s : State) (c : Nat) (q : Snap) (status : Nat) (post : Bool) : State :=
  let s := s.endShipment q
  match q.mbox with
  | some m => (s.modCtx c fun x => { x with snap := none }).answerBegun m status []
  | none =>
    (if post then s.postOutcome c status q.next else s).modSnap c fun q =>
      { q with stage := none, sent := 0, manifest := [], next := q.next + q.every }

/-- Stage a snapshot that is due and open its flow. -/
def State.stageSnap (s : State) (c : Nat) (q : Snap) (hint : Option Nat) : State :=
  match s.freeShipFlow with
  | none => s
  | some f =>
    match s.alloc { owner := some c, tier := 4, n := gransFor q.len } hint with
    | (s, none) => s.shipped c q 0x27 false
    | (s, some g) =>
      let a := g * granBytes
      let s := s.stageCopy [(q.src, q.len)] a
      let man := s.manifest c q.next a q.len
      (s.setFlow f { st := .opened, kind := 0, ctx := c, fw := true, vc := 2, peer := q.peer, pflow := q.pflow, credit := 1, slots := 1 }).modSnap
        c fun q => { q with stage := some a, flow := f, sent := 0, manifest := man }

/-- Send the next message of a shipment: 16 KiB of the snapshot, or the manifest; it is over when the peer has released
the manifest's slot. -/
def State.sendSnap (s : State) (c : Nat) (q : Snap) (a : Nat) : State :=
  if (s.flow q.flow).st ≠ .opened then s.shipped c q 0x62 true
  else if (s.flow q.flow).credit = 0 then s
  else if q.sent < q.len then
    let n := min 16384 (q.len - q.sent)
    let bad := (s.badIn (a + q.sent) n).map (· - (a + q.sent) / 32)
    (s.sendMessage q.flow (s.bytes (a + q.sent) n) bad (some .firmware)).modSnap c fun q => { q with sent := q.sent + n }
  else if q.sent = q.len then
    (s.sendMessage q.flow q.manifest [] (some .firmware)).modSnap c fun q => { q with sent := q.len + 256 }
  else s.shipped c q 0 true

/-- SNAPSHOT_SHIPMENT of context `c`: the firmware's next piece of work for the request. -/
def State.shipment (s : State) (c : Nat) (hint : Option Nat) : State :=
  match (s.ctx c).snap with
  | none => s
  | some q =>
    match q.stage with
    | some a => s.sendSnap c q a
    | none => if s.updated c q.next then s.stageSnap c q hint else s

/-- SNAPSHOT_SHIP on mailbox `m`. -/
def State.snapshotShip (s : State) (m : Nat) : State :=
  s.serveCtx m 0x50 fun c a s =>
    let old := (s.ctx c).snap
    if a.begun || (match old with | some q => q.mbox.isSome | none => false) then s
    else
      let drop (s : State) : State := (match old with | some q => s.endShipment q | none => s).modCtx c fun x => { x with snap := none }
      let len := a.at_ 8 8
      if len = 0 then (drop s).answer m a 0 []
      else if (s.reach c (a.at_ 0 8) len).isSome then s.answer m a 0x28 []
      else
        let every := a.at_ 20 4
        let s := (drop s).modCtx c fun x =>
          { x with snap := some { src := a.at_ 0 8, len := len, peer := a.at_ 16 2, pflow := a.at_ 18 2, every := every, next := a.at_ 24 8,
                                  mbox := if every = 0 then some m else none } }
        if every = 0 then s.begin_ m else s.answer m a 1 []

/-! ### Checkpoints -/

/-- Bytes of a checkpoint's data. -/
def extentBytes (es : List (Nat × Nat)) : Nat := es.foldl (fun n e => n + e.2) 0

/-- The extents of a CHECKPOINT. -/
def readExtents (a : Accepted) : List (Nat × Nat) := (List.range (a.at_ 28 2)).map fun i => (a.at_ (32 + 16 * i) 8, a.at_ (40 + 16 * i) 8)

/-- Whether a destination lies in the context's volume: the header page and the data. -/
def State.destOk (s : State) (c d n : Nat) : Bool :=
  let x := s.ctx c
  decide (x.volBase ≤ d ∧ d + 16384 + n ≤ x.volBase + granBytes * x.volLen)

/-- The header page (the table of the checkpoint header). -/
def chkHeader (q : Chk) (step : Nat) (data : List Byte) : List Byte :=
  let es := (q.extents.map fun e => leBytes 8 e.1 ++ leBytes 8 e.2).flatten
  let head := leBytes 4 0x4E32434B ++ leBytes 4 q.extents.length ++ leBytes 8 step ++ es ++ List.replicate (1984 - es.length) 0 ++ leBytes 4 0
  head ++ leBytes 4 (crc32 (head ++ data)) ++ List.replicate (16384 - 2008) 0

/-- Change a context's checkpoint request. -/
def State.modChk (s : State) (c : Nat) (f : Chk → Chk) : State := s.modCtx c fun x => { x with chk := x.chk.map f }

/-- Give up the staging area of a checkpoint. -/
def State.endStaging (s : State) (q : Chk) : State :=
  match q.stage with
  | none => s
  | some a => s.freeGrans (a / granBytes) (gransFor (extentBytes q.extents))

/-- The end of a checkpoint, or of an attempt at one: its outcome is answered or posted, and the next one is due EVERY steps
later at the other destination. -/
def State.checkpointed (s : State) (c : Nat) (q : Chk) (status : Nat) (post : Bool) : State :=
  let s := s.endStaging q
  match q.mbox with
  | some m =>
    (s.modCtx c fun x => { x with chk := none }).answerBegun m status
      (if status = 0 then leBytes 8 (extentBytes q.extents) ++ leBytes 8 q.next else [])
  | none =>
    (if post then s.postOutcome c status q.next else s).modChk c fun q =>
      { q with stage := none, phase := 0, next := q.next + q.every, useB := !q.useB && q.destB != 0 }

/-- A cave that has become read-only ends a checkpoint with QUOTA_DENIED and a record in MEM_FAULT (R170). -/
def State.chkDenied (s : State) (c : Nat) (q : Chk) : State :=
  (s.roRefused 5 c 0 (if q.useB then q.destB else q.destA)
    { kind := 10, index := 0, ctx := some c, step := BitVec.ofNat 64 q.next }).checkpointed c q 0x27 false

/-- Stage the extents of a checkpoint that is due, and write the zero header. -/
def State.stageChk (s : State) (c : Nat) (q : Chk) (hint : Option Nat) : State :=
  if s.caveRo then s.chkDenied c q
  else
    match s.alloc { owner := some c, tier := 4, n := gransFor (extentBytes q.extents) } hint with
    | (s, none) => s.checkpointed c q 0x27 false
    | (s, some g) =>
      let a := g * granBytes
      let dest := if q.useB then q.destB else q.destA
      ((s.stageCopy q.extents a).farWrite dest (List.replicate 16384 0) [] (.checkpoint c)).modChk c fun q =>
        { q with stage := some a, dest := dest, phase := 1 }

/-- The next write of a staged checkpoint, once the writes before it are acknowledged (R167). -/
def State.writeChk (s : State) (c : Nat) (q : Chk) (a : Nat) : State :=
  if s.waits (.checkpoint c) then s
  else if s.caveRo then s.chkDenied c q
  else
    let n := extentBytes q.extents
    let bad := (s.badIn a n).map (· - a / 32)
    if q.phase = 1 then
      (s.farWrite (q.dest + 16384) (s.bytes a n) bad (.checkpoint c)).modChk c fun q => { q with phase := 2 }
    else if q.phase = 2 then
      (s.farWrite q.dest (chkHeader q q.next (s.bytes a n)) [] (.checkpoint c)).modChk c fun q => { q with phase := 3 }
    else s.checkpointed c q 0 true

/-- CHECKPOINT_WRITE of context `c`: the firmware's next piece of work for the request. -/
def State.checkpointWrite (s : State) (c : Nat) (hint : Option Nat) : State :=
  match (s.ctx c).chk with
  | none => s
  | some q =>
    match q.stage with
    | some a => s.writeChk c q a
    | none => if s.updated c q.next then s.stageChk c q hint else s

/-- CHECKPOINT on mailbox `m`. -/
def State.checkpoint (s : State) (m : Nat) : State :=
  s.serveCtx m 0x51 fun c a s =>
    let old := (s.ctx c).chk
    if a.begun || (match old with | some q => q.mbox.isSome | none => false) then s
    else
      let es := readExtents a
      let destA := a.at_ 0 8
      let destB := a.at_ 8 8
      let every := a.at_ 24 4
      if ¬ a.zero 30 2 then s.answer m a 0x19 []
      else if ¬ s.destOk c destA (extentBytes es) ∨ (destB ≠ 0 ∧ ¬ s.destOk c destB (extentBytes es)) ∨
          es.any (fun e => (s.reach c e.1 e.2).isSome) then s.answer m a 0x28 []
      else
        let s := (match old with | some q => s.endStaging q | none => s).modCtx c fun x =>
          { x with chk := some { destA := destA, destB := destB, every := every, next := a.at_ 16 8, extents := es,
                                 mbox := if every = 0 then some m else none } }
        if every = 0 then s.begin_ m else s.answer m a 1 []

/-! ### Rows -/

/-- SNAPSHOT_SHIP (R262). -/
def execSnapshotShip (m : MboxId) (s : State) : Host.Outcome State Fault Refusal := .next (s.snapshotShip m)
/-- SNAPSHOT_SHIPMENT (R11, R211, R279). -/
def execSnapshotShipment (c : CtxId) (hint : Option Nat) (s : State) : Host.Outcome State Fault Refusal := .next (s.shipment c hint)
/-- CHECKPOINT (R263). -/
def execCheckpoint (m : MboxId) (s : State) : Host.Outcome State Fault Refusal := .next (s.checkpoint m)
/-- CHECKPOINT_WRITE (R263). -/
def execCheckpointWrite (c : CtxId) (hint : Option Nat) (s : State) : Host.Outcome State Fault Refusal :=
  .next (s.checkpointWrite c hint)

end Sys2Proof.Machine
end

