-- ==== Sys2Proof/Machine/Startup.lean ====
section
/-!
DEFINITION. Start-up, resets and stopping (R246, R248, R267, R290 to R298, R12, R95, R191, R232, R276, R277).
-/
namespace Sys2Proof.Machine

/-! ### Pins that the module drives -/

/-- PWR_GOOD is released high. -/
def State.pwrGood (s : State) : Bool := s.nv.power.rails

/-- ALERT# is low: a pending bit of HUB_ALERT with its MASK bit is set. -/
def State.alertLow (s : State) : Bool :=
  s.nv.power.rails && (List.range 6).any fun n => s.field .hubAlert [] n n == 1 && s.field .hubAlert [] (32 + n) (32 + n) == 1

/-- THERMTRIP# is low (R298). -/
def State.thermtripLow (s : State) : Bool := s.nv.power.trip

/-- TRIG_OUT is high (R287); with the rails off the module drives no pin but THERMTRIP# (R299). -/
def State.trigOutHigh (s : State) : Bool := s.nv.power.rails && decide (0 < s.dev.rind.trigOut)

/-! ### Power-up (R290, R297, R298) -/

/-- Ticks of 100 ms. -/
def ticks100ms : Nat := 10000000

/-- Set HUB_STATE.STATE. -/
def State.goHub (s : State) (n : Nat) : State := s.setField .hubState [] 2 0 n

/-- The hub starts at BOOT with the rails up: CAUSE, and the wear ledger as it was saved. -/
def State.startHub (s : State) (cause : Nat) : State :=
  ({ s with dev := { clk := { wear := s.nv.wear } } }).setField .hubReset [] 3 0 cause

/-- The rails come up; a thermal trip stays latched, and THERMTRIP# low, while the input is present (R298). -/
def State.railsOn (s : State) : State := (s.modPower fun p => { p with rails := true, good := 0 }).startHub s.nv.power.cause

/-- POWER_UP_SEQUENCE: the input is valid on both pairs, the bulk charged; `raised` says that PWR_EN has just been raised. After a thermal
trip only the raise of a PWR_EN that has been low for 100 ms starts anything (R298). -/
def State.powerUp (s : State) (raised : Bool) : State :=
  let p := s.nv.power
  let s := if raised then s.modPower fun p => { p with pwrEn := true, low := 0 } else s
  if ¬ p.rails ∧ p.input ∧ (p.pwrEn ∨ raised) ∧ (¬ p.trip ∨ (raised ∧ ticks100ms ≤ p.low)) then s.railsOn else s

/-! ### The PCI Express links (R246, R291) -/

/-- WIDTHf for a width: 16 does not fit in the field. -/
def widthCode (n : Nat) : Nat := if n = 16 then Config.width16.toNat else n % 16

/-- The width that a link trains to: at most ×8 when bifurcated. -/
def State.linkWidth (s : State) (n : Nat) : Nat := if s.field .hifCfg [] 0 0 = 1 then min n 8 else n

/-- The links train once PERST# is deasserted, 100 ms after PWR_GOOD at the earliest (R291); and once BOOT is over, which loads the
bifurcation that they train to (R246, R294; DEDUCED, assumption log 126). -/
def State.trainLinks (s : State) : State :=
  let p := s.nv.power
  if p.rails ∧ ¬ p.perst ∧ ¬ p.trained ∧ ticks100ms ≤ p.good ∧ s.hubState ≠ 1 then
    ((((s.modPower fun p => { p with trained := true }).setField .hifCfg [] 11 8 (widthCode (s.linkWidth p.hostLink.1))).setField .hifCfg []
      15 12 (if s.field .hifCfg [] 0 0 = 1 then widthCode (s.linkWidth p.hostLink.2.1) else 0)).setField .hifCfg [] 7 4 (p.hostLink.2.2 % 16))
  else s

/-- PERST_DEASSERT: the links train, now or later, to the widths and rate that the host's side gives. -/
def State.perstDeassert (s : State) (width0 width1 speed : Nat) : State :=
  (s.modPower fun p => { p with perst := false, hostLink := (width0, width1, speed) }).trainLinks

/-! ### BOOT (R292, R294, R276, R12) -/

/-- Enabled cores by the fuses. -/
def State.enabledCores (s : State) : List Nat := (List.range 64).filter fun c => bit (s.fuse 0).toNat c

/-- The core count of an order code, by subsystem ID. -/
def orderCores (n : Nat) : Option Nat :=
  match n with
  | 1 | 4 => some 64
  | 2 | 5 => some 60
  | 3 | 6 => some 56
  | _ => none

/-- R292, R12: the fuse map. -/
def State.fuseMapOk (s : State) : Bool :=
  orderCores (wbits (s.fuse 1) 15 0) == some s.enabledCores.length &&
    (List.range 16).all fun k => decide (3 ≤ (s.enabledCores.filter fun c => clusterOf c == k).length)

/-- What the ROM loads from the fuses: HUB_ID, FEAT_*, the cores, the cave's size. -/
def State.loadFuses (s : State) : State :=
  let d0 := (s.enabledCores.filter (· < 32)).length
  let d1 := (s.enabledCores.filter (32 ≤ ·)).length
  let a := wbits (s.fuse 1) 15 0 ≤ 3
  let blocks := if a then 476800 else 119200
  let bad := (s.nv.flash.blocks.filter fun (p : Nat × CaveBlk) => p.2.bad).length
  let s := s.setField .hubId [] 31 16 (wbits (s.fuse 1) 15 0)
  let s := s.setReg .featCores [] (word [(d0 + d1, 16), (d1, 8), (d0, 0)])
  let s := s.setField .featMem [] 63 48 (if a then 12800 else 3200)
  let s := s.setReg .featFormats [] (word [(0x01FF, 16), (0x01FE, 0)])
  let s := s.setReg .caveBlocks [] (word [(blocks, 40), (bad, 20), (blocks / 5 - bad, 0)])
  let s := s.setField .caveStatus [] 5 5 (b2n (decide (100 * (blocks / 5 - bad) < blocks)))
  (List.range 64).foldl (fun s c => if s.enabledCores.contains c then s else s.modCore c fun k => { k with st := .fusedOff }) s

/-- The port table at 0x1000 of the EEPROM. -/
def State.portTable (s : State) : List Byte := Mem.readN s.nv.eeprom 0x1000 28

/-- Whether a port table is valid. -/
def tableOk (t : List Byte) : Bool :=
  leNat (t.take 4) == 0x4E325054 && (t.getD 4 0) == 1 && decide ((t.getD 5 0).toNat ≤ 1) && zeroAt t 6 2 &&
    (((t.drop 8).take 16).all fun b => decide (b.toNat ≤ 7)) && leNat ((t.drop 24).take 4) == crc32 (t.take 24)

/-- R294: the port table, or the defaults with their record. -/
def State.loadPorts (s : State) : State :=
  let t := s.portTable
  if tableOk t then
    let s := s.setField .hifCfg [] 0 0 ((t.getD 5 0).toNat % 2)
    (List.range 16).foldl (fun s p =>
      let b := (t.getD (8 + p) 0).toNat
      let s := ((s.setField .lnkPortCtrl [p] 0 0 (b % 2)).setField .lnkPortCtrl [p] 5 5 (bits b 1 1)).setField .lnkPortCtrl [p] 3 3 (bits b 2 2)
      if b % 2 = 0 then s.modPort p fun k => { k with st := .disabled, cause := 6 } else s) s
  else
    let s := (List.range 16).foldl (fun s p =>
      ((s.setField .lnkPortCtrl [p] 0 0 1).setField .lnkPortCtrl [p] 5 5 0).setField .lnkPortCtrl [p] 3 3 1) s
    ((s.setField .hubState [] 17 17 1).setField .hifCfg [] 0 0 0).raise 0 { kind := 10, index := 0, ctx := none }

/-- R276: run a valid bundle, or the bare ROM; with FLOOR set the bits of VERSION are programmed into PATCH_FLOOR, of which none returns
to 0 (R268). -/
def State.loadPatch (s : State) : State :=
  let d := s.nv.patch
  if d.isEmpty then s
  else if s.bundleOk d then
    let v := bundleVersion d
    let s := { s with dev := { s.dev with patchDigest := sha256 (d.take (bundleLen d)) } }
    let s := (s.setField .featGen [] 23 16 v).setField .secStatus [] 2 2 1
    if bit (d.getD 5 0).toNat 0 then { s with nv := { s.nv with fuses := AMap.set s.nv.fuses 12 (s.fuse 12 ||| BitVec.ofNat 64 (v % 256)) } } else s
  else s.setField .secStatus [] 3 3 1

/-- R243: a trip that was logged before this start-up is recorded. -/
def State.recordTrip (s : State) : State :=
  if s.field .hubReset [] 3 0 = 3 ∧ wbits s.nv.tripLog 63 63 = 1 then s.raise 0x0502 { kind := 9, index := wbits s.nv.tripLog 62 58, ctx := none }
  else s

/-- BOOT_COMPLETE: `mref` says that MREF is present and within ±100 ppm, `slot` is what the SLOT_ID pins read. -/
def State.boot (s : State) (mref : Bool) (slot : Nat) : State :=
  if ¬ s.nv.power.rails ∨ s.hubState ≠ 1 then s
  else
    let s := (regions.foldl (fun s r => s.setField .clkRegion [r] 0 0 1) s).modClk fun c => { c with lockAt := some s.dev.tick }
    let s := (s.setField .clkStatus [] 14 14 (b2n !mref)).setField .hubState [] 37 32 slot
    let s := { s with dev := { s.dev with fuseDigest := s.fuseMeasure } }
    let s := s.loadFuses.loadPorts.loadPatch.recordTrip.drawNonce
    (if s.fuseMapOk then s.goHub 2 else s.fail 1).trainLinks

/-! ### TEST, TRAIN and READY (R293, R191, R27, R50, R171) -/

/-- Take cores that fail their self-test out of service. -/
def State.failCores (s : State) (cs : List Nat) (f : Core → Core) : State :=
  cs.foldl (fun s c => s.modCore c fun k => if k.st = .fusedOff then k else f { k with st := .outOfService }) s

/-- Every port whose ENABLE is 1 begins to train (R191). -/
def State.startTraining (s : State) : State :=
  (List.range 16).foldl (fun s p =>
    if s.field .lnkPortCtrl [p] 0 0 = 1 then s.modPort p fun k => { k with st := .training, cause := 0, fresh := true, lanes := [], peer := none }
    else s) s

/-- SELF_TEST_COMPLETE: the cores whose array A, array B or local SRAM fails, the failure routed to FAILED (0 none, 2 to 7),
and whether the die crossings trained. -/
def State.selfTest (s : State) (badA badB badSram : List Nat) (fault : Nat) (x0 x1 : Bool) : State :=
  if ¬ s.nv.power.rails ∨ s.hubState ≠ 2 then s
  else
    let s := s.failCores badA fun k => { k with bistA := true }
    let s := s.failCores badB fun k => { k with bistB := true }
    let s := s.failCores badSram id
    let s := s.setField .hubHoopCfg [] 1 1 (b2n (x0 && x1))
    let s := if x0 && x1 then s else s.setField .hubHoopCfg [] 0 0 0
    if 2 ≤ fault ∧ fault ≤ 7 then s.fail fault
    else ((s.setField .caveStatus [] 4 4 1).setField .caveStatus [] 7 6 s.nv.power.shutdown).startTraining.goHub 3

/-- START_UP_READY: port training ends; a port that is enabled and not UP is DOWN, and its FEAT_LINK bits read 0 (R191). -/
def State.ready4 (s : State) : State :=
  if ¬ s.nv.power.rails ∨ s.hubState ≠ 3 then s
  else
    let s := (List.range 16).foldl (fun s p =>
      if (s.port p).st = .up then s
      else if s.field .lnkPortCtrl [p] 0 0 = 1 then s.trainFails p 1
      else s.featTrained p false false) s
    (s.setField .hubReset [] 47 16 (s.dev.tick / 100000)).goHub 4

/-! ### Resets (R295, R267) -/

/-- What a module reset keeps of a mailbox that has just answered: its bytes. -/
def keptBoxes (m : AMap Nat Mbox) : AMap Nat Mbox := m.map fun (p : Nat × Mbox) => (p.1, { cells := p.2.cells })

/-- A module reset: the wear ledger is saved, the journal flushed, and the hub restarts at BOOT. -/
def State.moduleReset (s : State) (cause : Nat) : State :=
  (s.wearSave.wipe.modPower fun p => { p with shutdown := 0 }).startHub cause

/-- PERST_ASSERT: a module reset in any state after BOOT; the link and what is configured over it start anew. -/
def State.perstAssert (s : State) : State :=
  let s := s.modPower fun p => { p with perst := true, trained := false }
  if ¬ s.nv.power.rails ∨ s.hubState = 1 then s
  else { s.moduleReset 1 with host := { s.host with unmasked := [], pending := [] } }

/-- RESET KIND 0: the link stays up. -/
def State.resetModule (s : State) : State :=
  let kept := (s.reg .hifCfg [], keptBoxes s.dev.mbox)
  let s := s.moduleReset 2
  ({ s with dev := { s.dev with mbox := kept.2 } }).setReg .hifCfg [] kept.1

/-- RESET KIND 1 begins: every context halts, accepted commands are lost, and HUB_STATE reads RESETTING. -/
def State.resetContexts (s : State) : State :=
  let s := (List.range 64).foldl (fun s m => s.modMbox m fun b => { b with cmd := none, own := false }) s
  ((List.range 8).foldl (fun s c => if (s.ctx c).valid then s.haltCtx c else s) s).goHub 6

/-- RESET on mailbox `m`: it answers first. -/
def State.resetCmd (s : State) (m : Nat) : State :=
  s.serve m 0xA0 fun a s =>
    match a.at_ 0 1 with
    | 0 => (s.answer m a 0 []).resetModule
    | 1 => (s.answer m a 0 []).resetContexts
    | _ => s.answer m a 0x19 []

/-! ### Stopping (R296, R297, R298) -/

/-- PWR_EN_DEASSERT: an orderly stop begins (R296): HUB_STATE enters STOPPING, every context halts, the cave's acknowledged writes are
complete, and the wear ledger is saved. With the rails off, only the low time of PWR_EN begins (R298). A stop or a loss of input that is
under way goes on as such. -/
def State.pwrEnDeassert (s : State) : State :=
  let s := s.modPower fun p => { p with pwrEn := false, low := if p.pwrEn then 0 else p.low }
  if ¬ s.nv.power.rails ∨ s.nv.power.lost ∨ s.nv.power.stopAt.isSome then s
  else
    let s := ((List.range 8).foldl (fun s c => if (s.ctx c).valid then s.haltCtx c else s) (s.goHub 7))
    s.wearSave.modPower fun p => { p with stopAt := some s.dev.tick }

/-- LOSS_OF_INPUT: the clock steps to 24 without a record, HUB_STATE enters STOPPING, every session ends (R270), and the cave accepts no more writes
while its journal is flushed. -/
def State.lossOfInput (s : State) : State :=
  let s := s.modPower fun p => { p with input := false }
  if ¬ s.nv.power.rails ∨ s.nv.power.lost then s
  else
    let s := (s.modClk fun c => { c with target := none }).setField .clkStatus [] 13 13 0
    let s := regions.foldl (fun s r => s.setField .clkRegion [r] 10 6 24) (s.setField .clkStatus [] 4 0 24)
    let s := (s.setField .caveStatus [] 4 4 0).setField .caveStatus [] 3 3 1
    (s.endSessions.modPower fun p => { p with lost := true, stopAt := none }).goHub 7

/-- RAILS_LEAVE_REGULATION: the bulk has run down; `flushed` says that the journal flush completed. At the end of an orderly stop the
firmware has turned the rails off, the journal flushed (R296). -/
def State.railsLeave (s : State) (flushed : Bool) : State :=
  if ¬ s.nv.power.rails then s
  else if s.nv.power.lost then s.railsOff 4 (if flushed then 1 else 2)
  else if s.nv.power.stopAt.isSome then s.railsOff 0 0
  else s

/-- One tick of the supply: PWR_GOOD and a low PWR_EN grow older, links that wait train, and the rails are off at the latest 200 ms after
an orderly stop has begun (R291, R296, R298). -/
def State.powerTick (s : State) : State :=
  let s := (s.modPower fun p =>
    { p with good := if p.rails then min ticks100ms (p.good + 1) else 0, low := if p.pwrEn then 0 else min ticks100ms (p.low + 1) }).trainLinks
  match s.nv.power.stopAt with
  | some t => if t + 2 * ticks100ms ≤ s.dev.tick then s.railsOff 0 0 else s
  | none => s

/-- INPUT_RESTORE: the input has been in range for 100 ms; with PWR_EN high, the rails off and no trip a new sequence
begins on its own. -/
def State.inputRestore (s : State) : State := (s.modPower fun p => { p with input := true }).powerUp false

/-- INPUT_REMOVE: the trip latch is cleared; a module that runs loses its input. -/
def State.inputRemove (s : State) : State := (s.modPower fun p => { p with trip := false }).lossOfInput

/-! ### Configuration from outside (R248, R294) -/

/-- RESIZABLE_BAR_WRITE: 0 for 64 GiB up to 4 for 1 TiB. -/
def State.barSize (s : State) (n : Nat) : State := if s.linked ∧ n ≤ 4 then s.setField .hifCfg [] 19 16 n else s

/-- Write bytes of the integrator area; the other bytes are write-protected. -/
def fruWrite : Mem → Nat → List Byte → Mem
  | m, _, [] => m
  | m, a, b :: bs => fruWrite (if 0x1000 ≤ a ∧ a < 0x2000 then Mem.write m a b else m) (a + 1) bs

/-- PORT_TABLE_WRITE: bytes of the FRU EEPROM over the FRU bus. -/
def State.eepromWrite (s : State) (a : Nat) (d : List Byte) : State :=
  { s with nv := { s.nv with eeprom := fruWrite s.nv.eeprom a d } }

/-! ### Rows -/

/-- POWER_UP_SEQUENCE (R290). -/
def execPowerUpSequence (raised : Bool) (s : State) : Host.Outcome State Fault Refusal := .next (s.powerUp raised)
/-- BOOT_COMPLETE (R292). -/
def execBootComplete (mref : Bool) (slot : Fin 64) (s : State) : Host.Outcome State Fault Refusal := .next (s.boot mref slot)
/-- SELF_TEST_COMPLETE (R293). -/
def execSelfTestComplete (badA badB badSram : List CoreId) (fault : Nat) (x0 x1 : Bool) (s : State) : Host.Outcome State Fault Refusal :=
  .next (s.selfTest (badA.map (·.val)) (badB.map (·.val)) (badSram.map (·.val)) fault x0 x1)
/-- START_UP_READY (R191). -/
def execStartUpReady (s : State) : Host.Outcome State Fault Refusal := .next s.ready4
/-- PERST_DEASSERT (R291). -/
def execPerstDeassert (width0 width1 speed : Nat) (s : State) : Host.Outcome State Fault Refusal := .next (s.perstDeassert width0 width1 speed)
/-- PERST_ASSERT (R295). -/
def execPerstAssert (s : State) : Host.Outcome State Fault Refusal := .next s.perstAssert
/-- RESET (R295, R267). -/
def execReset (m : MboxId) (s : State) : Host.Outcome State Fault Refusal := .next (s.resetCmd m)
/-- PWR_EN_DEASSERT (R296). -/
def execPwrEnDeassert (s : State) : Host.Outcome State Fault Refusal := .next s.pwrEnDeassert
/-- LOSS_OF_INPUT (R297). -/
def execLossOfInput (s : State) : Host.Outcome State Fault Refusal := .next s.lossOfInput
/-- INPUT_RESTORE (R297). -/
def execInputRestore (s : State) : Host.Outcome State Fault Refusal := .next s.inputRestore
/-- INPUT_REMOVE (R298). -/
def execInputRemove (s : State) : Host.Outcome State Fault Refusal := .next s.inputRemove
/-- RAILS_LEAVE_REGULATION (R297). -/
def execRailsLeaveRegulation (flushed : Bool) (s : State) : Host.Outcome State Fault Refusal := .next (s.railsLeave flushed)
/-- RESIZABLE_BAR_WRITE (R248). -/
def execResizableBarWrite (n : Nat) (s : State) : Host.Outcome State Fault Refusal := .next (s.barSize n)
/-- PORT_TABLE_WRITE (R294). -/
def execPortTableWrite (a : Nat) (d : List Byte) (s : State) : Host.Outcome State Fault Refusal := .next (s.eepromWrite a d)

end Sys2Proof.Machine
end

