-- ==== Sys2Proof/Machine/RegAccess.lean ====
section
/-!
DEFINITION. What the host reads and writes over the link: BAR0 by the access codes of R8 and the sizes of R247, the writes
with rules of their own, BAR2, and MSI-X unmasking (R27, R31, R72, R116, R132, R148, R158, R187, R212, R245, R248, R249,
R280, R289).
-/
namespace Sys2Proof.Machine

/-! ### Writes with a rule of their own -/

/-- HOOP_JOIN_WRITE: the mode changes only while no context exists, and only to what the crossings allow (R27). -/
def State.joinWrite (s : State) (on : Bool) : State :=
  if on = s.joined then s
  else if (List.range 8).any (fun c => (s.ctx c).valid) ∨ (on ∧ s.field .hubHoopCfg [] 1 1 = 0) then s.setField .hubHoopCfg [] 2 2 1
  else s.setField .hubHoopCfg [] 0 0 (b2n on)

/-- IN_SERVICE_WRITE: core `c` leaves service or comes back (R31); the bit is RO for a core that is fused off. -/
def State.serviceWrite (s : State) (c : Nat) (on : Bool) : State :=
  let k := s.core c
  if k.st = .fusedOff then s
  else if (k.st = .idle ∨ k.st = .outOfService) ∧ s.clusterCtx (clusterOf c) = none then
    s.modCore c fun k => { k with st := if on then .idle else .outOfService }
  else s.setField .coreState (coreIdx c) 4 4 1

/-- A 64-bit word of a bank: word `m` of its code, or of its descriptors, entry `e` holding words `2 e` and `2 e + 1`. -/
def Bank.dbgWord (b : Bank) (desc : Bool) (m : Nat) : BitVec 64 :=
  if desc then (AMap.get b.desc 0 (m / 2)).extractLsb' (64 * (m % 2)) 64 else AMap.get b.code 0 m

/-- Change that word. -/
def Bank.setDbg (b : Bank) (desc : Bool) (m : Nat) (v : BitVec 64) : Bank :=
  if desc then
    let e := (AMap.get b.desc 0 (m / 2)).toNat
    let lo := if m % 2 = 0 then v.toNat else e % 2 ^ 64
    let hi := if m % 2 = 0 then e / 2 ^ 64 else v.toNat
    { b with desc := AMap.set b.desc (m / 2) (BitVec.ofNat 128 (hi * 2 ^ 64 + lo)) }
  else { b with code := AMap.set b.code m v }

/-- What SEQ_DBG_ADDR selects of core `c`: the stream, whether a descriptor word, and the word's index in the stream's half. -/
def State.dbgSel (s : State) (c : Nat) : StreamSel × Bool × Nat :=
  let i := coreIdx c
  let desc := s.field .seqDbgAddr i 12 12 == 1
  let n := s.field .seqDbgAddr i 11 0
  let half := if desc then 256 else 2048
  if (s.core c).seqr.two ∧ half ≤ n then (.bwd, desc, n - half) else (.fwd, desc, n)

/-- The bank that SEQ_DBG_ADDR selects. -/
def State.dbgBank (s : State) (c : Nat) : Bank := (s.core c).seqr.bankOf (s.dbgSel c).1 (s.field .seqDbgAddr (coreIdx c) 13 13)

/-- DEBUG_DATA_WRITE: the bits of `mask` of the word that SEQ_DBG_ADDR selects, in a bank or half that is not ACTIVE (R72);
without debug scope bit 0 the write does nothing (R278), nor does one past the 512 descriptor words. -/
def State.debugWrite (s : State) (c : Nat) (v mask : BitVec 64) : State :=
  if ¬ bit (s.field .secStatus [] 6 5) 0 then s
  else
    let i := coreIdx c
    let (x, desc, m) := s.dbgSel c
    let b := s.dbgBank c
    if b.st = .active then
      (s.setField .seqDbgAddr i 15 15 1).raise 0x010D { kind := 0, index := c, ctx := none, detail := BitVec.ofNat 64 ((s.core c).sbc % 2 ^ 48) }
    else if desc ∧ 512 ≤ s.field .seqDbgAddr i 11 0 then s
    else
      let w := (b.dbgWord desc m &&& ~~~mask) ||| (v &&& mask)
      s.setCore c ((s.core c).modSeq fun q => q.setBank x (s.field .seqDbgAddr i 13 13) (b.setDbg desc m w))

/-- Whether the host may write range entries of a core (R116). -/
def Core.rangeOpen (k : Core) : Bool := k.st == .idle || k.st == .loaded || k.st == .halted

/-- What a RANGE_ENTRY_WRITE names: VEC_RNG_DEF, or word 0 or 1 of an entry. -/
def rangeTarget (c : Nat) (t : Option (Nat × Bool)) : RegName × List Nat :=
  match t with
  | none => (.vecRngDef, coreIdx c)
  | some (e, false) => (.rngWord0, coreIdx c ++ [e])
  | some (e, true) => (.rngWord1, coreIdx c ++ [e])

/-- RANGE_ENTRY_WRITE (R116): CUR, MANAGED, WINDOW_M1 and HEADROOM of an entry, or VEC_RNG_DEF. -/
def State.rangeWrite (s : State) (c : Nat) (t : Option (Nat × Bool)) (v : BitVec 64) : State :=
  if ¬ (s.core c).rangeOpen then s.setField .vecRngStatus (coreIdx c) 32 32 1
  else
    let r := rangeTarget c t
    let s := s.setReg r.1 r.2 (v &&& accMask (· == .rw) (regRow r.1).fields)
    match t with
    | none => s
    | some (e, w) =>
      s.modCore c fun k =>
        match AMap.find? k.vec.rng e with
        | none => k
        | some x =>
          let x := if w then { x with cur := sint 8 (wbits v 63 56) }
            else { x with managed := wbits v 62 62 == 1, window := wbits v 59 56, headroom := wbits v 55 52 }
          { k with vec := { k.vec with rng := AMap.set k.vec.rng e x } }

/-- Whether some core of a cluster is RUNNING or FROZEN. -/
def State.clusterRuns (s : State) (k : Nat) : Bool := (List.range 4).any fun i => (s.core (4 * k + i)).live

/-- HARP_SIDE_WRITE: the word of the record that HRP_SIDE_ADDR selects (R132). -/
def State.sideWrite (s : State) (k : Nat) (v : BitVec 64) : State :=
  if s.clusterRuns k then s.setField .hrpSideAddr [k] 20 20 1
  else
    let n := s.field .hrpSideAddr [k] 16 0
    s.modCluster k fun q => { q with records := AMap.set q.records n ((AMap.get q.records {} n).setWord (s.field .hrpSideAddr [k] 19 18) v) }

/-- STREAM_LIST_WRITE: the word of the store entry that STR_LIST_ADDR selects (R187). -/
def State.listWrite (s : State) (k : Nat) (v : BitVec 64) : State :=
  if s.clusterRuns k then s.setField .strListAddr [k] 20 20 1
  else
    let n := s.field .strListAddr [k] 15 0
    let w := s.field .strListAddr [k] 19 18
    s.modCluster k fun q =>
      let old := (AMap.get q.store 0 n).toNat
      let new := old % 2 ^ (64 * w) + v.toNat * 2 ^ (64 * w) + old / 2 ^ (64 * w + 64) * 2 ^ (64 * w + 64)
      { q with store := AMap.set q.store n (BitVec.ofNat 256 new) }

/-- BWR_CFG_WRITE: the new value applies from the next tick, which also clips the level (R158). -/
def State.bwrWrite (s : State) (c p : Nat) (v : BitVec 64) : State :=
  s.setReg .bwrCfg [c, p] (v &&& accMask (· == .rw) (regRow .bwrCfg).fields)

/-- A write of LNK_PORT_CTRL: CHAN and SPARE_EN, ENABLE, and RETRAIN. -/
def State.portCtrlWrite (s : State) (p : Nat) (eff w1 : BitVec 64) : State :=
  let s := (s.setField .lnkPortCtrl [p] 5 5 (wbits eff 5 5)).setField .lnkPortCtrl [p] 3 3 (wbits eff 3 3)
  let s := if wbits w1 4 4 = 1 then s.setField .lnkPortCtrl [p] 4 4 0 else s
  let s := s.portEnable p (wbits eff 0 0 == 1)
  if wbits w1 2 2 = 1 then s.hostRetrain p else s

/-! ### Writes by the access codes (R8) -/

/-- A write of the bits of `mask` by the access codes alone: RW bits take the value, W1C bits written 1 clear. -/
def State.plainWrite (s : State) (n : RegName) (i : List Nat) (v mask : BitVec 64) : State :=
  let fs := (regRow n).fields
  let rw := accMask (· == .rw) fs &&& mask
  let clear := accMask (· == .w1c) fs &&& v &&& mask
  s.setReg n i (((s.reg n i &&& ~~~rw) ||| (v &&& rw)) &&& ~~~clear)

/-- A write of the bits of `mask` of a register. -/
def State.regWrite (s : State) (n : RegName) (i : List Nat) (v mask : BitVec 64) : State :=
  let w1 := v &&& mask
  let eff := (s.read n i &&& ~~~mask) ||| w1
  let i0 := i.headD 0
  let whole := mask != 0
  if isCounter n then (if wbits w1 63 63 = 1 then s.satClear n i else s)
  else
    match n with
    | .hubHoopCfg =>
      let s := if wbits w1 2 2 = 1 then s.setField .hubHoopCfg [] 2 2 0 else s
      if wbits mask 0 0 = 1 then s.joinWrite (wbits v 0 0 == 1) else s
    | .coreCtrl => if wbits mask 0 0 = 1 then s.serviceWrite (idxCore i) (wbits v 0 0 == 1) else s
    | .seqDbgData => s.debugWrite (idxCore i) v mask
    | .vecRngDef => s.rangeWrite (idxCore i) none eff
    | .rngWord0 => s.rangeWrite (idxCore i) (some (i.getD 2 0, false)) eff
    | .rngWord1 => s.rangeWrite (idxCore i) (some (i.getD 2 0, true)) eff
    | .hrpSideData => s.sideWrite i0 eff
    | .strListData => s.listWrite i0 eff
    | .bwrCfg => s.bwrWrite i0 (i.getD 1 0) eff
    | .lnkPortCtrl => s.portCtrlWrite i0 eff w1
    | .lnkPortCred0 => s.creditSplit i0 false eff
    | .lnkPortCred1 => s.creditSplit i0 true eff
    | .nrgModel => s.modelWrite eff
    | .clkStep => s.capWrite eff
    | .evtPtr => if wbits mask 0 0 = 1 then s.tailWrite i0 (wbits v 7 0) else s
    | .rindTrig => s.rindTrigWrite w1
    | .nrgTriplog => if wbits w1 63 63 = 1 then { s with nv := { s.nv with tripLog := wput s.nv.tripLog 63 63 0 } } else s
    | _ => if whole then s.plainWrite n i v mask else s

/-! ### BAR0 (R247) -/

/-- Whether an access has one of the two sizes and is naturally aligned. -/
def sizeOk (a size : Nat) : Bool := (size == 4 || size == 8) && a % size == 0

/-- The low or high half of a 64-bit register. -/
def halfMask (hi : Bool) : BitVec 64 := if hi then 0xFFFFFFFF00000000 else 0x00000000FFFFFFFF

/-- A 32-bit access at `a`: the register, and whether it is the high half. -/
def reg32At (a : Nat) : Option (RegName × List Nat × Bool) :=
  match regAt a with
  | some (n, i) => some (n, i, false)
  | none =>
    if a % 8 = 4 then
      match regAt (a - 4) with
      | some (n, i) => if (regRow n).size = 8 then some (n, i, true) else none
      | none => none
    else none

/-- A 32-bit write. -/
def State.write32 (s : State) (a : Nat) (v : Nat) : State :=
  match reg32At a with
  | some (n, i, hi) =>
    s.regWrite n i (BitVec.ofNat 64 (if hi then v % 2 ^ 32 * 2 ^ 32 else v % 2 ^ 32)) (halfMask hi)
  | none => s

/-- A register write of 4 or 8 bytes; a 64-bit access to a pair of 32-bit registers reaches both. -/
def State.write64 (s : State) (a : Nat) (v : BitVec 64) : State :=
  match regAt a with
  | some (n, i) => if (regRow n).size = 8 then s.regWrite n i v (BitVec.allOnes 64) else (s.write32 a v.toNat).write32 (a + 4) (v.toNat / 2 ^ 32)
  | none => s.write32 (a + 4) (v.toNat / 2 ^ 32)

/-- The mailboxes of BAR0. -/
def mailboxBase : Nat := 0x100000

/-- A write into a mailbox; one that covers OWN/SEQ writes that word last (R250). -/
def State.boxWrite (s : State) (fn m off size : Nat) (v : BitVec 64) : State :=
  let d := leBytes size v.toNat
  if off = 0 then
    if (s.mbox m).own then s.hifErr true
    else
    let s := if size = 8 then s.mailboxWrite m 4 (d.drop 4) else s
    s.submit m fn (BitVec.ofNat 32 v.toNat)
  else s.mailboxWrite m off d

/-- REGISTER_WRITE: a BAR0 write by function `fn`. -/
def State.barWrite (s : State) (fn a size : Nat) (v : BitVec 64) : State :=
  if ¬ s.linked then s
  else if ¬ sizeOk a size then s.hifErr false
  else if mailboxBase ≤ a ∧ a < mailboxBase + 0x40000 then
    s.boxWrite fn ((a - mailboxBase) / 4096) ((a - mailboxBase) % 4096) size v
  else if size = 8 then s.write64 a v
  else s.write32 a v.toNat

/-! ### Reads -/

/-- The block that a capture-area address lies in, with the offset in the block. -/
def blockAt (a : Nat) : Option (RBlock × Nat) :=
  if a < 0x10000 then some (.hub, a)
  else if 0x200000 ≤ a ∧ a < 0x210000 then some (.link, a - 0x200000)
  else if 0x240000 ≤ a ∧ a < 0x250000 then some (.reduction, a - 0x240000)
  else if 0x400000 ≤ a ∧ a < 0x410000 then some (.memory, a - 0x400000)
  else if 0x410000 ≤ a ∧ a < 0x420000 then some (.stacks, a - 0x410000)
  else if 0x420000 ≤ a ∧ a < 0x430000 then some (.migrator, a - 0x420000)
  else if 0x440000 ≤ a ∧ a < 0x450000 then some (.cave, a - 0x440000)
  else if 0x580000 ≤ a ∧ a < 0x600000 then some (.ripener ((a - 0x580000) / 0x10000), (a - 0x580000) % 0x10000)
  else if 0x1000000 ≤ a ∧ a < 0x2000000 then
    let o := (a - 0x1000000) % 0x800000
    if o / 0x20000 < 32 then some (.core (32 * ((a - 0x1000000) / 0x800000) + o / 0x20000), o % 0x20000) else none
  else if 0x3000000 ≤ a ∧ a < 0x3100000 then some (.cluster ((a - 0x3000000) / 0x10000), (a - 0x3000000) % 0x10000)
  else none

/-- A word of a capture area (the table of the capture area of a block). -/
def Capture.word (q : Capture) (o : Nat) : BitVec 64 :=
  if o = 0 then q.hdr
  else if o = 8 then q.tick
  else if o = 0x10 then BitVec.ofNat 64 q.sbc
  else if o = 0x18 then q.step
  else if 0x40 ≤ o then q.words.getD ((o - 0x40) / 8) 0
  else 0

/-- A 64-bit word of a capture area; `none` for an address outside every area. -/
def State.captureAt (s : State) (a : Nat) : Option (BitVec 64) :=
  match blockAt a with
  | some (b, o) =>
    if 0xF000 ≤ o ∧ o < 0x10000 then
      some ((match AMap.find? s.dev.rind.areas b.num with
        | some q => q
        | none => {}).word (o - 0xF000))
    else none
  | none => none

/-- The 32 bits at an address. -/
def State.read32 (s : State) (a : Nat) : Nat :=
  match reg32At a with
  | some (n, i, hi) => let v := s.read n i; if hi then wbits v 63 32 else wbits v 31 0
  | none =>
    match s.captureAt (a / 8 * 8) with
    | some v => if a % 8 = 4 then wbits v 63 32 else wbits v 31 0
    | none => 0

/-- What a read clears: the RC fields of the half it reaches (R8). -/
def State.clearRc (s : State) (a : Nat) : State :=
  match reg32At a with
  | some (n, i, hi) =>
    let m := accMask (· == .rc) (regRow n).fields &&& halfMask hi
    if m = 0 then s else s.setReg n i (s.reg n i &&& ~~~m)
  | none => s

/-- The bytes of a mailbox. -/
def State.boxRead (s : State) (m off n : Nat) : List Byte :=
  let b := s.mbox m
  let d := Mem.readN b.cells off n
  if off = 0 ∧ b.own = false then leBytes 4 (leNat (d.take 4) % 2 ^ 31) ++ d.drop 4 else d

/-- REGISTER_READ_CLEAR: a BAR0 read returns its value, and clears what it reads of RC fields. -/
def State.barRead (s : State) (a size : Nat) : State :=
  let reply (s : State) (d : List Byte) : State := { s with host := { s.host with reply := d } }
  if ¬ s.linked then s
  else if ¬ sizeOk a size then reply (s.hifErr false) (List.replicate size 0xFF)
  else if mailboxBase ≤ a ∧ a < mailboxBase + 0x40000 then
    reply s (s.boxRead ((a - mailboxBase) / 4096) ((a - mailboxBase) % 4096) size)
  else if size = 8 then
    ((reply s (leBytes 4 (s.read32 a) ++ leBytes 4 (s.read32 (a + 4)))).clearRc a).clearRc (a + 4)
  else (reply s (leBytes 4 (s.read32 a))).clearRc a

/-! ### BAR2 (R148, R248, R278) -/

/-- Whether the host reaches an address: a fixed range (core-local SRAM, cluster memory, the hub cache), or an allocated granule; a
granule of the firmware, in the hub cache too, only with debug scope bit 1; nothing before READY (R291). -/
def State.hostReach (s : State) (a : Nat) : Bool :=
  s.hubState == 4 &&
    match s.space a with
    | .hole => false
    | .local_ _ _ => true
    | .cluster _ _ => true
    | sp =>
      match s.gran (a / granBytes) with
      | none => (match sp with | .hub _ => true | _ => false)
      | some g => g.owner.isSome || bit (s.field .secStatus [] 6 5) 1

/-- A range of one access. -/
def State.hostReachAll (s : State) (a n : Nat) : Bool := (gransOf a n).all fun g => s.hostReach (max a (g * granBytes))

/-- A host access that reaches nothing (R148). -/
def State.hostMiss (s : State) (cause a : Nat) : State := s.memFault 0 4 0 0 cause a

/-- A BAR2 access of function `fn` at offset `o`: a write of bytes, or a read of `n`. -/
def State.bar2 (s : State) (fn o : Nat) (w : Option (List Byte)) (n : Nat) : State :=
  let reply (s : State) (d : List Byte) : State := { s with host := { s.host with reply := d } }
  if ¬ s.linked then s
  else
    let a := s.winBase fn + o
    match w with
    | some d =>
      if ¬ s.hostReachAll a d.length then s.hostMiss 1 a
      else if s.caveRo ∧ (gransOf a d.length).any (fun g => match s.gran g with | some x => x.at_ == 10 | none => false) then s.hostMiss 4 a
      else s.farWrite a d [] .firmware
    | none => if s.hostReachAll a n then reply s (s.bytes a n) else reply (s.hostMiss 1 a) (List.replicate n 0xFF)

/-! ### MSI-X (R249) -/

/-- MSIX_UNMASK: a vector whose pending bit is set sends its message once. -/
def State.unmask (s : State) (v : Nat) : State :=
  let h := s.host
  let h := { h with unmasked := insertNat h.unmasked v }
  { s with host := if h.pending.contains v ∧ h.msixOn then { h with pending := removeNat h.pending v, sent := h.sent ++ [v] } else h }

/-! ### Rows -/

/-- BAR2_ACCESS (R248, R148). -/
def execBar2Access (fn : Fin 2) (o : Nat) (w : Option (List Byte)) (n : Nat) (s : State) : Host.Outcome State Fault Refusal :=
  .next (s.bar2 fn o w n)
/-- REGISTER_WRITE (R8, R247). -/
def execRegisterWrite (fn : Fin 2) (a size : Nat) (v : Word) (s : State) : Host.Outcome State Fault Refusal := .next (s.barWrite fn a size v)
/-- REGISTER_READ_CLEAR (R8, R247). -/
def execRegisterReadClear (a size : Nat) (s : State) : Host.Outcome State Fault Refusal := .next (s.barRead a size)
/-- HOOP_JOIN_WRITE (R27). -/
def execHoopJoinWrite (on : Bool) (s : State) : Host.Outcome State Fault Refusal :=
  .next (s.hosted fun s => s.joinWrite on)
/-- IN_SERVICE_WRITE (R31). -/
def execInServiceWrite (c : CoreId) (on : Bool) (s : State) : Host.Outcome State Fault Refusal :=
  .next (s.hosted fun s => s.serviceWrite c on)
/-- DEBUG_DATA_WRITE (R72). -/
def execDebugDataWrite (c : CoreId) (v : Word) (s : State) : Host.Outcome State Fault Refusal :=
  .next (s.hosted fun s => s.debugWrite c v (BitVec.allOnes 64))
/-- RANGE_ENTRY_WRITE (R116). -/
def execRangeEntryWrite (c : CoreId) (t : Option (Fin 512 × Bool)) (v : Word) (s : State) : Host.Outcome State Fault Refusal :=
  .next (s.hosted fun s => s.rangeWrite c (t.map fun p => (p.1.val, p.2)) v)
/-- HARP_SIDE_WRITE (R132). -/
def execHarpSideWrite (k : ClusterId) (v : Word) (s : State) : Host.Outcome State Fault Refusal :=
  .next (s.hosted fun s => s.sideWrite k v)
/-- STREAM_LIST_WRITE (R187). -/
def execStreamListWrite (k : ClusterId) (v : Word) (s : State) : Host.Outcome State Fault Refusal :=
  .next (s.hosted fun s => s.listWrite k v)
/-- BWR_CFG_WRITE (R158). -/
def execBwrCfgWrite (c : CtxId) (p : Fin 16) (v : Word) (s : State) : Host.Outcome State Fault Refusal :=
  .next (s.hosted fun s => s.bwrWrite c p v)
/-- MSIX_UNMASK (R249). -/
def execMsixUnmask (fn : Fin 2) (v : Fin 2048) (s : State) : Host.Outcome State Fault Refusal :=
  .next (s.hosted fun s => s.unmask (v + 2048 * fn))

end Sys2Proof.Machine
end

