-- ==== Sys2Proof/Machine/Clock.lean ====
section
/-!
DEFINITION. What the clock does when no command waits: what is due on the present period comes first, one thing at a time
(the boundaries of paced contexts, the cores in ascending order); with nothing due the module goes on by one ACLK period
(R58, R60, R61, R82, R188, R234, R295).
-/
namespace Sys2Proof.Machine

/-! ### What is due on the present period -/

/-- Start what is at the head of queue `e` of core `c`, whatever command it is. -/
def State.startHead (s : State) (c e : Nat) : State :=
  match s.ready c e with
  | none => s
  | some q =>
    match e, q.cmd with
    | 0, .mark => s.markBeat c q
    | 0, .halt => s.haltBeat c
    | 0, .gateArrive _ _ _ _ | 0, .gateStream _ _ | 0, .gateArray _ _ _ | 0, .gateBarrier _ _ _ | 0, .gateTime => s.gate c q
    | 0, _ => s.popHead c 0
    | 1, _ => s.arrayStart c .a fun _ => true
    | 2, _ => s.arrayStart c .b fun _ => true
    | 3, _ => s.vectorStart c fun _ => true
    | 4, .ladle l => s.ladleStart c l.acc
    | 5, _ => s.hoopStart c fun _ => true
    | 6, _ => s.streamStart c fun _ => true
    | 7, .harp h => s.harpHand c h.op
    | 8, .bar id arc => s.syncBar c id arc
    | 8, .flag _ => s.flagStart c
    | 9, _ =>
      match (s.core c).owner with
      | some x => if (s.ctx x).rindProg then (s.popHead c 9).trigger ⟨5, none⟩ else s.popHead c 9
      | none => s.popHead c 9
    | _, _ => s

/-- Try queue `e` of a running core: something happens if its head starts, or freezes or faults the core. -/
def State.tryQueue (s : State) (c e : Nat) : Option State :=
  match s.ready c e with
  | none => none
  | some _ =>
    let t := s.startHead c e
    if (t.core c).st = .running ∧ (t.core c).seqr.queue e = (s.core c).seqr.queue e then none else some t

/-- Bring a core to the next thing that is due in it on the present period, or `none`. -/
def State.coreDue (s : State) (c : Nat) : Option State :=
  let k := s.core c
  match k.st with
  | .running =>
    match (List.range 10).findSome? (s.tryQueue c) with
    | some t => some t
    | none => if k.picking then some (s.blockPick c) else none
  | .frozen =>
    let t := s.recheck c
    if (t.core c).st ≠ .frozen then some t
    else if k.picking ∧ s.pickMet c then some (s.blockPick c)
    else none
  | _ => none

/-- A core's region runs. -/
def State.clocked (s : State) (c : Nat) : Bool := !s.regionStopped (clusterOf c)

/-- The next thing that is due on the present period: the planned end of a segment (R237), a boundary of a paced context, then a
core. -/
def State.due (s : State) : Option State :=
  if s.planDue then some s.planPoint
  else
  match (List.range 8).find? s.paceDue with
  | some c => some (s.paceBoundary c)
  | none => (List.range 64).findSome? fun c => if s.clocked c then s.coreDue c else none

/-! ### One period of a core (R58, R61) -/

/-- The counters of an array for one period. A feeder's dry period is counted two periods later, when the fill that ends its MCLK is
known. -/
def State.arrCounts (s : State) (c : Nat) (x : Side) : State :=
  let k := s.core c
  let r := k.arr x
  (s.bumpSide .arrDry c x (b2n (dryFrom s.dev.period [] 128 r.outs))).bumpSide .arrDrainFull c x (b2n (r.level s.dev.period == 64))

/-- The REPLAY origin of R61: a port replays or retrains and the context has an open flow that receives or reduces (R208). -/
def State.replayOrigin (s : State) (x : Nat) : Bool :=
  ((List.range 16).any fun p => (s.port p).st == .retraining || (s.port p).replayTo.isSome) &&
    s.dev.link.flows.any fun (p : Nat × Flow) => p.2.st == .opened && p.2.ctx == x && p.2.kind != 0

/-- The REGULATOR origin of R61: a request of a stream that the core awaits waits at a regulator. -/
def State.regOrigin (s : State) (c : Nat) : Bool :=
  s.dev.memS.regQ.any fun r =>
    match r.who with | .stream k y _ => k == clusterOf c && (s.awaitedStreams c).contains y | _ => false

/-- The origin that is reported for a frozen core, whose period is counted under a cause. -/
def State.originOf (s : State) (c cause : Nat) (f : Frz) : Option Nat :=
  match f.origin with
  | some o => some o
  | none =>
    if cause = 3 ∧ s.regOrigin c then some 3
    else if (cause = 3 ∨ cause = 5) ∧ (match (s.core c).owner with | some x => s.replayOrigin x | none => false : Bool) then some 1
    else none

/-- A period on which the SBC of a core does not advance, under a cause (R61). -/
def State.stay (s : State) (c cause : Nat) : State :=
  (s.bumpCore .seqFrz (coreIdx c ++ [cause]) 1 c).modCore c fun k => k.modSeq fun q => { q with frzCause := cause }

/-- A core that waits for decoding, for an array that is full, or for a bank, freezes (R58, R39, R51). -/
def State.freezeNow (s : State) (c cause : Nat) : State :=
  (s.modCore c fun k => { k with st := .frozen, seqr := { k.seqr with frz := some ⟨cause, none, none⟩ } }).stay c cause

/-- The SBC of a core goes on by one beat: what the drain units, the injectors and the ladle do on the present one, the feeder fills of an
MCLK that it ends, and what has landed by the next. -/
def State.advance (s : State) (c : Nat) : State :=
  let s := s.land c
  if (s.core c).st ≠ .running then s
  else
    let s := ((s.injectBeat c).ladleBeat c).modCore c fun k =>
      let k := if k.sbc % 2 = 1 then k.fill s.dev.period (k.banksTaken k.mclksLost) else k
      { k with sbc := (k.sbc + 1) % beatMod, seqr := { k.seqr with frzCause := 15 } }
    let s := s.modCore c fun k => { k with hoop := k.hoop.purge k.sbc, sram := k.sram.purge k.sbc }
    (s.landDue c).settleFlags c

/-- One period of a running core. -/
def State.runPeriod (s : State) (c : Nat) : State :=
  let k := s.core c
  if k.seqr.checkHold then s.stay c 0
  else if k.fetchBound then s.freezeNow c 1
  else if k.tileLate s.dev.period then s.freezeNow c 2
  else if k.arraysBlocked s.dev.period then s.freezeNow c 9
  else if 0 < k.sram.lost then s.freezeNow c 10
  else s.advance c

/-- The cause under which the head of a queue would hold a core if nothing else did. -/
def State.headCause (s : State) (c e : Nat) : Option Nat :=
  let s := s.thaw c
  match s.ready c e with
  | none => none
  | some _ => let k := (s.startHead c e).core c; if k.st = .frozen then k.seqr.frz.map (·.cause) else none

/-- The causes that hold in a frozen core: the one that froze it, what holds it whatever its queues hold, and the heads of its
queues. -/
def State.holding (s : State) (c : Nat) (f : Frz) : List Nat :=
  let k := s.core c
  let own (b : Bool) (n : Nat) : List Nat := if b then [n] else []
  f.cause :: (own k.seqr.checkHold 0 ++ own (k.picking && !s.pickMet c) 7 ++ own k.fetchBound 1 ++ own (k.tileLate s.dev.period) 2 ++
    own (k.arraysBlocked s.dev.period) 9 ++ own (decide (0 < k.sram.lost)) 10 ++ (List.range 10).filterMap (s.headCause c))

/-- One period of a frozen core: the lowest of the causes that hold, and the origin that its unit reports (R61). The
period that decodes the awaited instruction still counts under FETCH (DESIGN CHOICE, assumption log 110). -/
def State.frozenPeriod (s : State) (c : Nat) (f : Frz) : State :=
  let cause := (s.holding c f).foldl min f.cause
  let s := s.stay c cause
  let s := match s.originOf c cause f with
    | some o => s.bumpCore .seqOrg (coreIdx c ++ [o]) 1 c
    | none => s
  s.modCore c fun k => k.modSeq fun q => { q with frz := some { f with origin := none } }

/-- What goes on in the arrays of a core in every period: the vectors in flight, and, on a period in which the SBC stays, the
feeder fills at the end of an MCLK: in one that the core loses, the accesses that lost before it take their banks (R40, R51). -/
def State.flowPeriod (s : State) (c : Nat) (stays : Bool) : State :=
  s.modCore c fun k =>
    let used := if 0 < k.sram.lost then k.banksTaken k.mclksLost else []
    let k := (if stays ∧ s.dev.period % 2 = 1 then k.fill s.dev.period used else k).flow s.dev.period
    { k with sram := { k.sram with lost := k.sram.lost - 1 } }

/-- One period of a core that is RUNNING or FROZEN. -/
def State.livePeriod (s : State) (c : Nat) : State :=
    let s := s.decodeStep c fun _ => true
    let s := (s.arrCounts c .a).arrCounts c .b
    let s := if (s.core c).st = .running then (s.jobStarved c .a).jobStarved c .b else s
    let s := ((s.wheyFault c .a).wheyFault c .b).sramCharge c
    let k := s.core c
    let s := match k.st, k.seqr.frz with
      | .running, _ => s.runPeriod c
      | .frozen, some f => s.frozenPeriod c f
      | _, _ => s
    s.modCore c fun k => k.modSeq fun q => { q with phase := (q.phase + 1) % 10, decoded := false }

/-- One period of a core. -/
def State.corePeriod (s : State) (c : Nat) : State :=
  if ¬ s.clocked c then s
  else
    let t := if (s.core c).live then s.livePeriod c else s
    t.flowPeriod c ((t.core c).sbc == (s.core c).sbc)

/-! ### One period of the module -/

/-- The forwarding directions of a core in which a tile waits. -/
def State.stalledDirs (s : State) (c : Nat) : Nat :=
  ([Dir.cw, Dir.ccw].filter fun d => match s.airHead c d with | some a => a.stalled | none => false).length

/-- The harp's own accesses in an MCLK: with a core or the stream engine at the port of the cluster's memory too, it may lose the
MCLK, the manual giving no order (*The harp*). -/
def State.harpPort (s : State) (k : Nat) : State :=
  let rivals := (s.cluster k).streams.any (fun p => !p.2.begun.isEmpty) || (List.range 4).any fun i => (s.core (4 * k + i)).clmWords ≠ []
  if (s.cluster k).harpCur.isSome ∧ s.dev.period % 2 = 0 ∧ rivals then
    let lost := Config.clmLost s.dev.clm.lots
    let s := s.modClm fun m => { m with lots := m.lots + 1 }
    if lost then (s.harpDelay k 2).bump .hrpWait [k] 2 (s.clusterCtx k) 2 k else s
  else s

/-- One period of a cluster: waiting hoop forwarding, the runs that wait for an injection port, and the harp in use. -/
def State.clusterPeriod (s : State) (k : Nat) : State :=
  if s.regionStopped k then s.harpDelay k 1
  else
    let s := s.harpPort k
    let s := (List.range 4).foldl (fun s i => s.bumpCore .hoopFwdStall (coreIdx (4 * k + i)) (s.stalledDirs (4 * k + i)) (4 * k + i)) s
    let s := s.pumpPorts k
    s.bump .hrpBusy [k] (b2n (s.cluster k).harpCur.isSome) (s.clusterCtx k) 2 k

/-- The reference clock: at step `k` an ACLK period is 32 / (32 − k) of 0.4 ns, and a tick is 10 ns (R228). -/
def State.tickPeriod (s : State) : State :=
  let f := s.dev.clk.frac + 32
  let n := 25 * (32 - s.curStep)
  if f < n then s.modClk fun c => { c with frac := f }
  else
    let s := s.modClk fun c => { c with frac := f - n }
    ({ s with dev := { s.dev with tick := s.dev.tick + 1, rind := { s.dev.rind with trigOut := s.dev.rind.trigOut - 1 } } }).linkTick.powerTick

/-- The planned remaining beats of the segments in progress. -/
def ClkS.beat (c : ClkS) : ClkS :=
  { c with segs := c.segs.map fun x => { x with left := x.left - 1 } }

/-- The deadlock scan of every cluster whose region runs, on the last of each 4,096 periods (R185). -/
def State.scanPeriod (s : State) : State :=
  if (s.dev.period + 1) % 4096 = 0 then (List.range 16).foldl State.deadlockScan s else s

/-- One period of all cores: the ports of cluster memory first, then each core in order. -/
def State.corePeriods (s : State) : State :=
  (List.range 64).foldl State.corePeriod ((List.range 64).reverse.foldl (fun s c => if s.clocked c then s.clmPort c else s) s)

/-- One ACLK period of the module. -/
def State.onePeriod (s : State) : State :=
  let s := s.corePeriods
  let s := (List.range 16).foldl State.clusterPeriod s
  let s := if s.dev.period % 2 = 1 then s.ripTick else s
  let s := s.scanPeriod
  let s := s.modClk ClkS.beat
  ({ s with dev := { s.dev with period := s.dev.period + 1 } }).tickPeriod

/-! ### RESET KIND 1 goes on (R295) -/

/-- The lowest context that exists. -/
def State.lowestCtx (s : State) : Option Nat := (List.range 8).find? fun c => (s.ctx c).valid

/-- RESETTING: the contexts are destroyed in ascending order, each once its units have stopped; then the sessions and a debug grant
end (R267, R278), the mailboxes start anew and the module is READY. -/
def State.resetting (s : State) : Option State :=
  if s.hubState ≠ 6 then none
  else
    match s.lowestCtx with
    | some c => if s.stopped c then some (s.destroy c) else none
    | none =>
      let s := (List.range 64).foldl (fun s m => s.modMbox m fun b => { b with lastSeq := 0 }) s.endSessions
      some (((s.setField .secStatus [] 4 4 0).setField .secStatus [] 6 5 0).goHub 4)

/-- What an empty queue lets the module do. With the rails off only time passes, a tick at a step (assumption log 127). -/
def State.clock (s : State) : State :=
  if ¬ s.nv.power.rails then s.powerTick
  else
    match s.resetting with
    | some t => t
    | none =>
      match s.due with
      | some t => t
      | none => s.onePeriod

end Sys2Proof.Machine
end

