-- ==== Sys2Proof/Machine/Dispatch.lean ====
section
/-!
DEFINITION. One arm for each command: what it does to everything but the queue.
-/
namespace Sys2Proof.Machine

def exec (i : Instr) (s : State) : Host.Outcome State Fault Refusal :=
  match i with
  | .instructionDecode c => Sys2Proof.Machine.execInstructionDecode c s
  | .segmentFetch c x => Sys2Proof.Machine.execSegmentFetch c x s
  | .nop c => Sys2Proof.Machine.execNop c s
  | .gateArrive c => Sys2Proof.Machine.execGateArrive c s
  | .gateStream c => Sys2Proof.Machine.execGateStream c s
  | .gateArray c => Sys2Proof.Machine.execGateArray c s
  | .gateBarrier c => Sys2Proof.Machine.execGateBarrier c s
  | .gateTime c => Sys2Proof.Machine.execGateTime c s
  | .gateConditionMet c => Sys2Proof.Machine.execGateConditionMet c s
  | .loop c => Sys2Proof.Machine.execLoop c s
  | .lend c => Sys2Proof.Machine.execLend c s
  | .lbreak c => Sys2Proof.Machine.execLbreak c s
  | .bank c => Sys2Proof.Machine.execBank c s
  | .mark c => Sys2Proof.Machine.execMark c s
  | .haltInstruction c => Sys2Proof.Machine.execHaltInstruction c s
  | .blockPick c => Sys2Proof.Machine.execBlockPick c s
  | .cnt c => Sys2Proof.Machine.execCnt c s
  | .press c x => Sys2Proof.Machine.execPress c x s
  | .mul c x => Sys2Proof.Machine.execMul c x s
  | .mulx c x => Sys2Proof.Machine.execMulx c x s
  | .arrayOpComplete c x => Sys2Proof.Machine.execArrayOpComplete c x s
  | .drain c x => Sys2Proof.Machine.execDrain c x s
  | .skipdw c x => Sys2Proof.Machine.execSkipdw c x s
  | .vadd c => Sys2Proof.Machine.execVadd c s
  | .vsub c => Sys2Proof.Machine.execVsub c s
  | .vmul c => Sys2Proof.Machine.execVmul c s
  | .vfma c => Sys2Proof.Machine.execVfma c s
  | .vmax c => Sys2Proof.Machine.execVmax c s
  | .vmin c => Sys2Proof.Machine.execVmin c s
  | .vexp2 c => Sys2Proof.Machine.execVexp2 c s
  | .vlog2 c => Sys2Proof.Machine.execVlog2 c s
  | .vrcp c => Sys2Proof.Machine.execVrcp c s
  | .vrsq c => Sys2Proof.Machine.execVrsq c s
  | .vsel c => Sys2Proof.Machine.execVsel c s
  | .vcvt c => Sys2Proof.Machine.execVcvt c s
  | .vreds c => Sys2Proof.Machine.execVreds c s
  | .vredm c => Sys2Proof.Machine.execVredm c s
  | .vld c => Sys2Proof.Machine.execVld c s
  | .vst c => Sys2Proof.Machine.execVst c s
  | .vectorResultLand c => Sys2Proof.Machine.execVectorResultLand c s
  | .mv c => Sys2Proof.Machine.execMv c s
  | .mvacc c => Sys2Proof.Machine.execMvacc c s
  | .ladleEmit c => Sys2Proof.Machine.execLadleEmit c s
  | .inject c => Sys2Proof.Machine.execInject c s
  | .recv c => Sys2Proof.Machine.execRecv c s
  | .pass c => Sys2Proof.Machine.execPass c s
  | .retire c => Sys2Proof.Machine.execRetire c s
  | .turn c => Sys2Proof.Machine.execTurn c s
  | .tileArrive c d flips ce ue => Sys2Proof.Machine.execTileArrive c d flips ce ue s
  | .tileBufferAdmit c d => Sys2Proof.Machine.execTileBufferAdmit c d s
  | .syncBar c => Sys2Proof.Machine.execSyncBar c s
  | .barrierComplete c id => Sys2Proof.Machine.execBarrierComplete c id s
  | .syncFlag c => Sys2Proof.Machine.execSyncFlag c s
  | .rind c => Sys2Proof.Machine.execRind c s
  | .arm c => Sys2Proof.Machine.execArm c s
  | .waitst c => Sys2Proof.Machine.execWaitst c s
  | .rowstat c => Sys2Proof.Machine.execRowstat c s
  | .rowapply c => Sys2Proof.Machine.execRowapply c s
  | .rowgrad c => Sys2Proof.Machine.execRowgrad c s
  | .ortho c => Sys2Proof.Machine.execOrtho c s
  | .harpCommandBegin k => Sys2Proof.Machine.execHarpCommandBegin k s
  | .harpCommandComplete k => Sys2Proof.Machine.execHarpCommandComplete k s
  | .streamEntryBegin k x => Sys2Proof.Machine.execStreamEntryBegin k x s
  | .streamEntryComplete k x => Sys2Proof.Machine.execStreamEntryComplete k x s
  | .hubAtomic => Sys2Proof.Machine.execHubAtomic s
  | .deadlockScan k => Sys2Proof.Machine.execDeadlockScan k s
  | .paceBoundary c => Sys2Proof.Machine.execPaceBoundary c s
  | .upd n c => Sys2Proof.Machine.execUpd n c s
  | .ripGranuleUpdate n => Sys2Proof.Machine.execRipGranuleUpdate n s
  | .updComplete n c => Sys2Proof.Machine.execUpdComplete n c s
  | .passEnd n c => Sys2Proof.Machine.execPassEnd n c s
  | .updateNop n c => Sys2Proof.Machine.execUpdateNop n c s
  | .granuleMove g => Sys2Proof.Machine.execGranuleMove g s
  | .lastUseStampAdvance => Sys2Proof.Machine.execLastUseStampAdvance s
  | .bwrTokenTick => Sys2Proof.Machine.execBwrTokenTick s
  | .regulatorGrant c p => Sys2Proof.Machine.execRegulatorGrant c p s
  | .stackedMemoryAccess n a l e miss => Sys2Proof.Machine.execStackedMemoryAccess n a l e miss s
  | .sramAccess a e => Sys2Proof.Machine.execSramAccess a e s
  | .cellarAccess a ue => Sys2Proof.Machine.execCellarAccess a ue s
  | .hbmRefresh n => Sys2Proof.Machine.execHbmRefresh n s
  | .patrolScrubRead n a l e last => Sys2Proof.Machine.execPatrolScrubRead n a l e last s
  | .granuleRetire g => Sys2Proof.Machine.execGranuleRetire g s
  | .cavePageWrite => Sys2Proof.Machine.execCavePageWrite s
  | .cavePageRead page retries ue => Sys2Proof.Machine.execCavePageRead page retries ue s
  | .caveReadScrub b => Sys2Proof.Machine.execCaveReadScrub b s
  | .caveStaticLevel => Sys2Proof.Machine.execCaveStaticLevel s
  | .caveBlockFail b => Sys2Proof.Machine.execCaveBlockFail b s
  | .portTrainingComplete p good q => Sys2Proof.Machine.execPortTrainingComplete p good q s
  | .laneFail p l => Sys2Proof.Machine.execLaneFail p l s
  | .portRetrain p good q => Sys2Proof.Machine.execPortRetrain p good q s
  | .frameReceive p f lseq crc ce ue => Sys2Proof.Machine.execFrameReceive p f lseq crc ce ue s
  | .frameSend p => Sys2Proof.Machine.execFrameSend p s
  | .linkAck p lseq => Sys2Proof.Machine.execLinkAck p lseq s
  | .linkNak p lseq => Sys2Proof.Machine.execLinkNak p lseq s
  | .ackSend p => Sys2Proof.Machine.execAckSend p s
  | .replayTimeout p => Sys2Proof.Machine.execReplayTimeout p s
  | .lcredit p cls units => Sys2Proof.Machine.execLcredit p cls units s
  | .creditFrameSend f => Sys2Proof.Machine.execCreditFrameSend f s
  | .linkDown p => Sys2Proof.Machine.execLinkDown p s
  | .roundBegin f => Sys2Proof.Machine.execRoundBegin f s
  | .chunkContribute f => Sys2Proof.Machine.execChunkContribute f s
  | .chunkComplete f => Sys2Proof.Machine.execChunkComplete f s
  | .roundComplete f => Sys2Proof.Machine.execRoundComplete f s
  | .planningPoint => Sys2Proof.Machine.execPlanningPoint s
  | .segmentHoldRelease c => Sys2Proof.Machine.execSegmentHoldRelease c s
  | .stepChange => Sys2Proof.Machine.execStepChange s
  | .droopStretch r => Sys2Proof.Machine.execDroopStretch r s
  | .refLoss => Sys2Proof.Machine.execRefLoss s
  | .pllUnlock r => Sys2Proof.Machine.execPllUnlock r s
  | .pllRelock r => Sys2Proof.Machine.execPllRelock r s
  | .pllRelockTimeout r => Sys2Proof.Machine.execPllRelockTimeout r s
  | .meterInterval rails regs v => Sys2Proof.Machine.execMeterInterval rails regs v s
  | .wearLedgerSave => Sys2Proof.Machine.execWearLedgerSave s
  | .overburstCheck mw => Sys2Proof.Machine.execOverburstCheck mw s
  | .currentLimit => Sys2Proof.Machine.execCurrentLimit s
  | .thermalSample temps => Sys2Proof.Machine.execThermalSample temps s
  | .thermtrip r t => Sys2Proof.Machine.execThermtrip r t s
  | .mailboxSubmit m fn w => Sys2Proof.Machine.execMailboxSubmit m fn w s
  | .getInfo m => Sys2Proof.Machine.execGetInfo m s
  | .getFeatures m => Sys2Proof.Machine.execGetFeatures m s
  | .contextCreate m hint => Sys2Proof.Machine.execContextCreate m hint s
  | .contextDestroy m => Sys2Proof.Machine.execContextDestroy m s
  | .halt m => Sys2Proof.Machine.execHalt m s
  | .setBudget m => Sys2Proof.Machine.execSetBudget m s
  | .getLedger m => Sys2Proof.Machine.execGetLedger m s
  | .routeSet m => Sys2Proof.Machine.execRouteSet m s
  | .patchInstall m => Sys2Proof.Machine.execPatchInstall m s
  | .reset m => Sys2Proof.Machine.execReset m s
  | .fuseRead m => Sys2Proof.Machine.execFuseRead m s
  | .fuseProgram m => Sys2Proof.Machine.execFuseProgram m s
  | .programLoad m hints => Sys2Proof.Machine.execProgramLoad m hints s
  | .streamAppend m hint => Sys2Proof.Machine.execStreamAppend m hint s
  | .run m => Sys2Proof.Machine.execRun m s
  | .pickMode m => Sys2Proof.Machine.execPickMode m s
  | .snapshotShip m => Sys2Proof.Machine.execSnapshotShip m s
  | .snapshotShipment c hint => Sys2Proof.Machine.execSnapshotShipment c hint s
  | .checkpoint m => Sys2Proof.Machine.execCheckpoint m s
  | .checkpointWrite c hint => Sys2Proof.Machine.execCheckpointWrite c hint s
  | .rindArm m => Sys2Proof.Machine.execRindArm m s
  | .flowOpen m hint => Sys2Proof.Machine.execFlowOpen m hint s
  | .flowClose m => Sys2Proof.Machine.execFlowClose m s
  | .caveRead m => Sys2Proof.Machine.execCaveRead m s
  | .caveWrite m => Sys2Proof.Machine.execCaveWrite m s
  | .caveErase m => Sys2Proof.Machine.execCaveErase m s
  | .sessionOpen m => Sys2Proof.Machine.execSessionOpen m s
  | .attest m => Sys2Proof.Machine.execAttest m s
  | .debugUnlock m => Sys2Proof.Machine.execDebugUnlock m s
  | .getVersion bus => Sys2Proof.Machine.execGetVersion bus s
  | .getCapabilities bus => Sys2Proof.Machine.execGetCapabilities bus s
  | .negotiateAlgorithms bus ok => Sys2Proof.Machine.execNegotiateAlgorithms bus ok s
  | .getDigests bus => Sys2Proof.Machine.execGetDigests bus s
  | .getCertificate bus slot off len => Sys2Proof.Machine.execGetCertificate bus slot off len s
  | .challenge bus slot transcript => Sys2Proof.Machine.execChallenge bus slot transcript s
  | .getMeasurements bus index transcript => Sys2Proof.Machine.execGetMeasurements bus index transcript s
  | .keyExchange bus mutAuth want ems => Sys2Proof.Machine.execKeyExchange bus mutAuth want ems s
  | .finish bus id verified root => Sys2Proof.Machine.execFinish bus id verified root s
  | .heartbeat bus id => Sys2Proof.Machine.execHeartbeat bus id s
  | .keyUpdate bus id => Sys2Proof.Machine.execKeyUpdate bus id s
  | .endSession bus id => Sys2Proof.Machine.execEndSession bus id s
  | .sessionHeartbeatTimeout id => Sys2Proof.Machine.execSessionHeartbeatTimeout id s
  | .bar2Access fn o w n => Sys2Proof.Machine.execBar2Access fn o w n s
  | .registerWrite fn a size v => Sys2Proof.Machine.execRegisterWrite fn a size v s
  | .registerReadClear a size => Sys2Proof.Machine.execRegisterReadClear a size s
  | .counterSatClear a => Sys2Proof.Machine.execCounterSatClear a s
  | .hoopJoinWrite on => Sys2Proof.Machine.execHoopJoinWrite on s
  | .inServiceWrite c on => Sys2Proof.Machine.execInServiceWrite c on s
  | .debugDataWrite c v => Sys2Proof.Machine.execDebugDataWrite c v s
  | .rangeEntryWrite c t v => Sys2Proof.Machine.execRangeEntryWrite c t v s
  | .harpSideWrite k v => Sys2Proof.Machine.execHarpSideWrite k v s
  | .streamListWrite k v => Sys2Proof.Machine.execStreamListWrite k v s
  | .bwrCfgWrite c p v => Sys2Proof.Machine.execBwrCfgWrite c p v s
  | .creditSplitWrite p hi v => Sys2Proof.Machine.execCreditSplitWrite p hi v s
  | .retrain p => Sys2Proof.Machine.execRetrain p s
  | .nrgModelWrite v => Sys2Proof.Machine.execNrgModelWrite v s
  | .stepCapWrite v => Sys2Proof.Machine.execStepCapWrite v s
  | .msixUnmask fn v => Sys2Proof.Machine.execMsixUnmask fn v s
  | .eventTailWrite l t => Sys2Proof.Machine.execEventTailWrite l t s
  | .contextFaultHalt c => Sys2Proof.Machine.execContextFaultHalt c s
  | .rindTrig v => Sys2Proof.Machine.execRindTrig v s
  | .trigIn => Sys2Proof.Machine.execTrigIn s
  | .rindCapture r => Sys2Proof.Machine.execRindCapture r s
  | .rindWaveComplete => Sys2Proof.Machine.execRindWaveComplete s
  | .powerUpSequence raised => Sys2Proof.Machine.execPowerUpSequence raised s
  | .bootComplete mref slot => Sys2Proof.Machine.execBootComplete mref slot s
  | .selfTestComplete badA badB badSram fault x0 x1 => Sys2Proof.Machine.execSelfTestComplete badA badB badSram fault x0 x1 s
  | .startUpReady => Sys2Proof.Machine.execStartUpReady s
  | .perstDeassert width0 width1 speed => Sys2Proof.Machine.execPerstDeassert width0 width1 speed s
  | .perstAssert => Sys2Proof.Machine.execPerstAssert s
  | .pwrEnDeassert => Sys2Proof.Machine.execPwrEnDeassert s
  | .lossOfInput => Sys2Proof.Machine.execLossOfInput s
  | .inputRestore => Sys2Proof.Machine.execInputRestore s
  | .inputRemove => Sys2Proof.Machine.execInputRemove s
  | .currentLimitRelease => Sys2Proof.Machine.execCurrentLimitRelease s
  | .railsLeaveRegulation flushed => Sys2Proof.Machine.execRailsLeaveRegulation flushed s
  | .resizableBarWrite n => Sys2Proof.Machine.execResizableBarWrite n s
  | .portEnableWrite p on => Sys2Proof.Machine.execPortEnableWrite p on s
  | .portTableWrite a d => Sys2Proof.Machine.execPortTableWrite a d s

end Sys2Proof.Machine
end

