-- ==== Sys2Proof/Safety.lean ====
section
/-!
DEFINITION. What counts as a safe state and a safe step, in the terms that claims use, and the words in which the claims say
what a command leaves as it was.
-/
namespace Sys2Proof.Machine

/-- Every store of bytes is canonical: tier space, the host's memory, the FRU EEPROM and the mailboxes' bytes. -/
def State.canonical (s : State) : Prop :=
  s.mem.wf = true ∧ s.host.mem.wf = true ∧ s.nv.eeprom.wf = true ∧ ∀ p ∈ s.dev.mbox, p.2.cells.wf = true

/-- A step that neither faults nor refuses. -/
def stepsOn (s : State) : Prop := ∃ t, step s = .next t

/-- The core with the head of queue `q` taken. -/
def Core.taken (k : Core) (q : Nat) : Core := { k with seqr := k.seqr.setQueue q (k.seqr.queue q).tail }

/-- The core frozen under a cause, its waiting command left at the head of queue `q`. -/
def Core.frozenOn (k : Core) (cause q : Nat) : Core :=
  { k with st := .frozen, seqr := { k.seqr with frz := some ⟨cause, some q, none⟩ } }

/-- No write of a core is due on its present beat: no write waits for it, neither drain unit is at work, and no RECV writes its tile to memory. -/
def State.quiet (s : State) (c : Nat) : Prop :=
  (∀ e d t m, s.ready c 5 = some e → e.cmd ≠ .recv d t 3 (some m)) ∧ (s.core c).duePend = [] ∧ (∀ p ∈ (s.core c).ldl.emits, beatReached (s.core c).sbc p.1 = false) ∧
    ∀ x, ((s.core c).arr x).drain = none

/-- The state in which a command of a core acts: the writes of its beat have landed, and its own accesses are noted (R82). -/
def State.onBeat (s : State) (c : Nat) (e : QEntry) : State := (s.land c).hazards c e

/-- The command at the head of queue `q` comes to act on this beat: it starts now, and the beat's writes leave its core running. -/
def State.acts (s : State) (c q : Nat) (e : QEntry) : Prop := s.ready c q = some e ∧ (s.land c).ready c q = some e

/-- The bytes of `[a, a + n)` pass no regulator of a context. -/
def State.unregulated (s : State) (c a n : Nat) : Prop := ∀ x, a ≤ x → x < a + n → s.regulator c x = none

/-- A write of `[a, a + n)` by a context is performed at once: no regulator is passed, and no granule of it resides in the cave. -/
def State.direct (s : State) (c a n : Nat) : Prop := ∀ x, a ≤ x → x < a + n → s.regulator c x = none ∧ s.inCave x = false

/-- Nothing but core `c` differs. -/
def State.onlyCore (s t : State) (c : Nat) : Prop := t = s.setCore c (t.core c)

/-- Nothing but cluster `k` differs. -/
def State.onlyCluster (s t : State) (k : Nat) : Prop := t = s.setCluster k (t.cluster k)

/-- Nothing but context `c` differs. -/
def State.onlyCtx (s t : State) (c : Nat) : Prop := t = s.setCtx c (t.ctx c)

/-- Nothing but the stored register words differs. -/
def State.onlyRegs (s t : State) : Prop := t = { s with dev := { s.dev with regs := t.dev.regs } }

/-- Nothing but core `c` and the stored register words differs. -/
def State.onlyCoreRegs (s t : State) (c : Nat) : Prop :=
  t = { s.setCore c (t.core c) with dev := { (s.setCore c (t.core c)).dev with regs := t.dev.regs } }

/-- Core `c` is about to decode the word `w` of its present stream, no gate: it runs or is frozen, decoding has neither
stopped nor decoded in this period, no bank switch waits, queue 0 has room, the word is there, its opcode and engine form a
pair, and its reserved bits are 0. -/
def State.decodesNext (s : State) (c w : Nat) : Prop :=
  let k := s.core c
  let q := k.seqr
  k.live = true ∧ q.decStop = false ∧ q.decoded = false ∧ (q.strm q.cur).bankWait = none ∧ (q.queue 0).length < 16 ∧
    (q.strm q.cur).pc ≤ q.lastIndex ∧ q.fetchWord q.cur = some w ∧ isGate w = false ∧
    engineOf w ∈ enginesOf (opcodeOf w) ∧ reservedClear w = true

/-- The sequencer after an instruction has been decoded. -/
def SeqS.hasDecoded (q : SeqS) : SeqS := { q with decoded := true, decFetch := false, decQueue := false }

/-- The row of a vector operation. -/
def VOp.row (o : VOp) (c : CoreId) : Instr :=
  match o with
  | .add => .vadd c | .sub => .vsub c | .mul => .vmul c | .fma => .vfma c | .max => .vmax c | .min => .vmin c
  | .exp2 => .vexp2 c | .log2 => .vlog2 c | .rcp => .vrcp c | .rsq => .vrsq c | .sel => .vsel c
  | .reds => .vreds c | .redm => .vredm c

/-- The latency of a vector operation by the table. -/
def VOp.beats (o : VOp) : Nat :=
  match o with
  | .add | .sub | .mul | .max | .min | .sel => 4
  | .fma => 6
  | .redm => 8
  | .reds => 10
  | .exp2 | .log2 | .rcp | .rsq => 12

/-- The row of a harp operation. -/
def harpRow (op : Nat) (c : CoreId) : Instr :=
  match op with
  | 0 => .rowstat c
  | 1 => .rowapply c
  | 2 => .rowgrad c
  | _ => .ortho c

/-- Mailbox `m` holds the accepted command `a` with opcode `op`, and its turn has come. -/
def State.serves (s : State) (m op : Nat) (a : Accepted) : Prop :=
  (s.mbox m).cmd = some a ∧ a.op = op ∧ s.mayServe m a = true

/-- The row that serves each opcode of a mailbox. -/
def hostRows (m : MboxId) (hint : Option Nat) (hints : List Nat) : List (Nat × Instr) :=
  [(0x01, .getInfo m), (0x02, .getFeatures m), (0x10, .sessionOpen m), (0x11, .attest m), (0x20, .contextCreate m hint),
   (0x21, .contextDestroy m), (0x30, .programLoad m hints), (0x31, .streamAppend m hint), (0x32, .run m), (0x33, .halt m),
   (0x34, .pickMode m), (0x40, .setBudget m), (0x41, .getLedger m), (0x50, .snapshotShip m), (0x51, .checkpoint m),
   (0x52, .rindArm m), (0x60, .flowOpen m hint), (0x61, .flowClose m), (0x62, .routeSet m), (0x70, .caveRead m),
   (0x71, .caveWrite m), (0x72, .caveErase m), (0x80, .patchInstall m), (0x90, .debugUnlock m), (0xA0, .reset m),
   (0xF0, .fuseRead m), (0xF1, .fuseProgram m)]

end Sys2Proof.Machine
end

