-- ==== Sys2Proof/Certificates/Slice0/Obligations.lean ====
section
/-!
DEFINITION. The statements about the model: what each command does, where it completes, what it leaves as it was, and what
every step keeps. A statement whose clauses rest on a choice of the model says so and names its log entry.
-/
open Sys2Proof Sys2Proof.Machine

/-- A command at the front of the queue: one step runs exactly that command on the state with the queue's rest. -/
def Obligations.StepRunsTheFrontCommand : Prop :=
  ∀ (i : Instr) (q : List Instr) (s : State), s.pending = i :: q → step s = exec i { s with pending := q }

/-- An empty queue (the model's choice, assumption log 3): without power only the time of the supply passes, that of a low PWR_EN
(assumption log 127); with nothing due and no stop under way, one period of the clock passes, whose bytes the cores write. The table of commands gives no row any bits (assumption log 4): no word spells a command, and putting a word
in front leaves the state as it is. -/
def Obligations.IdleStepsAndWords : Prop :=
  (∀ s : State, s.pending = [] →
      s.nv.power.stopAt = none →
      (s.nv.power.rails = false → step s = .next (s.modPower fun p =>
        { p with good := 0, low := if p.pwrEn then 0 else min ticks100ms (p.low + 1) })) ∧
      (s.nv.power.rails = true → s.hubState ≠ 6 → s.due = none →
        ∃ t, step s = .next t ∧ t.dev.period = s.dev.period + 1 ∧ t.mem = s.corePeriods.mem)) ∧
  (∀ (n w : Nat) (s : State), decodeTableWord n w = none ∧ s.withFetchWord n w = s)

/-- What the manual says of the registers right after power-up: HUB_STATE is BOOT with no cause, HUB_RESET's cause is power-up,
CLK_STEP's CAP, PLAN and FLOOR are 0 (their reset values in the table of CLK_STEP), every context invalid, every core without a slot; and no command waits (the rest of
State.reset is assumption log 1 and 2). -/
def Obligations.ResetIsBoot : Prop :=
  State.reset.pending = [] ∧ State.reset.hubState = 1 ∧ State.reset.field .hubState [] 15 8 = 0 ∧
  State.reset.field .hubReset [] 3 0 = 0 ∧ State.reset.field .clkStep [] 4 0 = 0 ∧
  State.reset.field .clkStep [] 12 8 = 0 ∧ State.reset.field .clkStep [] 20 16 = 0 ∧ State.reset.clkStep = 0 ∧
  (∀ c : CtxId, (State.reset.ctx c).valid = false) ∧
  (∀ c : CoreId, (State.reset.core c).slot = none ∧ (State.reset.core c).st = .idle) ∧
  (∀ p : PortId, (State.reset.port p).replay = []) ∧ State.reset.mem = []

/-- Every command answers a next state, and leaves the queue of the commands that wait as it was. -/
def Obligations.CommandsCompleteAndKeepTheQueue : Prop :=
  ∀ (i : Instr) (s : State), ∃ t, exec i s = .next t ∧ t.pending = s.pending

/-- Every step keeps every store of bytes in its canonical form. -/
def Obligations.StepsKeepMemoryCanonical : Prop :=
  ∀ s t : State, s.canonical → step s = .next t → t.canonical

/-- The machine right after reset is canonical. -/
def Obligations.ResetIsCanonical : Prop := State.reset.canonical

/-! ### Gates (R60 to R64, R20, R10) -/

/-- GATE.STREAM on its beat: passed when the stream is armed, not in FAULTED, and its count of completed entries has reached the
target modulo 2 ^ 16; else the core freezes under cause 3. Nothing else changes. GATE.ARRAY, GATE.BARRIER and GATE.TIME on
their beats: a drain level or a count of completed operations modulo 2 ^ 8; a flag's count modulo 2 ^ 16 or a barrier
without an arrival of this core under way; a boundary received and not consumed. Met, the gate leaves its queue (GATE.TIME
consumes one boundary, a flag's gate makes the writes visible that its posts carry); unmet, the core freezes under cause 4,
5 or 6. GATE_CONDITION_MET: a core frozen on a gate of its own goes on, its gate taken, once the gate's condition holds, for each of
the five gates; while it does not hold nothing changes; a GATE.ARRIVE that finds another tag faults the core as on its beat. -/
def Obligations.GatesOpenOrFreeze : Prop :=
  ((∀ (c : CoreId) (s : State) (e : QEntry) (x tgt : Nat), s.ready c 0 = some e → e.cmd = .gateStream x tgt → tgt < 65536 →
        let t := s.stream (clusterOf c) x
        let k := s.core c
        exec (.gateStream c) s =
          .next (s.setCore c (if t.st ≠ .idle ∧ t.st ≠ .faulted ∧ (t.doneCnt % 65536 + (65536 - tgt)) % 65536 < 32768 then k.taken 0
            else k.frozenOn 3 0))) ∧
    (∀ (c : CoreId) (s : State) (e : QEntry), s.ready c 0 = some e →
        let k := s.core c
        (∀ side val, e.cmd = .gateArray side true val →
          exec (.gateArray c) s = .next (s.setCore c (if val ≤ (k.arr side).level s.dev.period then k.taken 0 else k.frozenOn 4 0))) ∧
        (∀ side val, e.cmd = .gateArray side false val → val < 256 →
          exec (.gateArray c) s =
            .next (s.setCore c (if ((k.arr side).done + (256 - val)) % 256 < 128 then k.taken 0 else k.frozenOn 4 0))) ∧
        (∀ id tgt, e.cmd = .gateBarrier true id tgt → tgt < 65536 →
          exec (.gateBarrier c) s =
            .next (if (AMap.get (s.cluster (clusterOf c)).flags 0 id % 65536 + (65536 - tgt)) % 65536 < 32768 then
                (s.setCore c (k.taken 0)).clmFlag c id
              else s.setCore c (k.frozenOn 5 0))) ∧
        (∀ id tgt, e.cmd = .gateBarrier false id tgt →
          exec (.gateBarrier c) s = .next (s.setCore c (if AMap.find? k.bars id = none then k.taken 0 else k.frozenOn 5 0))) ∧
        (e.cmd = .gateTime →
          exec (.gateTime c) s =
            .next (s.setCore c (if k.seqr.received ≠ k.seqr.consumed then
                (k.taken 0).modSeq fun q => { q with consumed := k.seqr.consumed + 1 }
              else k.frozenOn 6 0))))) ∧
  (∀ (c : CoreId) (s : State) (e : QEntry) (q : List QEntry) (f : Frz),
      let k := s.core c
      k.st = .frozen → k.seqr.frz = some f → f.engine = some 0 → k.seqr.queue 0 = e :: q → e.start = k.sbc → f.cause ≠ 7 →
      let on : Core := { k with st := .running, seqr := { k.seqr.setQueue 0 q with frz := none } }
      (∀ x tgt, e.cmd = .gateStream x tgt →
        exec (.gateConditionMet c) s = .next (if s.streamMet c x tgt then s.setCore c on else s)) ∧
      (∀ side val, e.cmd = .gateArray side true val →
        exec (.gateConditionMet c) s = .next (if val ≤ (k.arr side).level s.dev.period then s.setCore c on else s)) ∧
      (∀ side val, e.cmd = .gateArray side false val → val < 256 →
        exec (.gateConditionMet c) s = .next (if ((k.arr side).done + (256 - val)) % 256 < 128 then s.setCore c on else s)) ∧
      (∀ id tgt, e.cmd = .gateBarrier true id tgt → tgt < 65536 →
        exec (.gateConditionMet c) s =
          .next (if (AMap.get (s.cluster (clusterOf c)).flags 0 id % 65536 + (65536 - tgt)) % 65536 < 32768 then
            (s.setCore c on).clmFlag c id else s)) ∧
      (∀ id tgt, e.cmd = .gateBarrier false id tgt →
        exec (.gateConditionMet c) s = .next (if AMap.find? k.bars id = none then s.setCore c on else s)) ∧
      (∀ d turn early r, e.cmd = .gateArrive d turn early r →
        let met (b : TBuf) : Prop := early = true ∨ b.since + b.tile.flits ≤ s.dev.period
        ((∀ b, k.hoop.awaited d turn = some b → ¬ met b) → exec (.gateConditionMet c) s = .next s) ∧
        (∀ b, k.hoop.awaited d turn = some b → met b →
          (b.tile.tag.compare r e.step = .pass → exec (.gateConditionMet c) s = .next (s.setCore c on)) ∧
          (b.tile.tag.compare r e.step ≠ .pass → ∃ t, exec (.gateConditionMet c) s = .next t ∧ (t.core c).st = .faulted ∧
            t.mem = s.mem ∧ t.field .coreFault (coreIdx c) 63 48 = (if b.tile.tag.compare r e.step = .format then 0x0109 else 0x0101)))) ∧
      (e.cmd = .gateTime →
        exec (.gateConditionMet c) s = .next (if k.seqr.received ≠ k.seqr.consumed then
          s.setCore c { k with st := .running, seqr := { k.seqr.setQueue 0 q with frz := none, consumed := k.seqr.consumed + 1 } }
          else s)))

/-- GATE.ARRIVE on its beat: it awaits the oldest unnamed tile of its direction, from its first flit on with EARLY and from its
last flit on otherwise; an unmet gate freezes the core under cause 2. A met gate leaves its queue and compares the tag: with
the descriptor's tensor, row, column, format and, when asked, parity right, nothing else changes; with another the core is
FAULTED with TAG_MISMATCH, or FORMAT_MISMATCH for the format alone, in CORE_FAULT. -/
def Obligations.GateArriveComparesTheTag : Prop :=
  ∀ (c : CoreId) (s : State) (e : QEntry) (d : Dir) (turn early : Bool) (r : TagRef),
    s.ready c 0 = some e → e.cmd = .gateArrive d turn early r →
    let k := s.core c
    let met (b : TBuf) : Prop := early = true ∨ b.since + b.tile.flits ≤ s.dev.period
    ((∀ b, k.hoop.awaited d turn = some b → ¬ met b) → exec (.gateArrive c) s = .next (s.setCore c (k.frozenOn 2 0))) ∧
    (∀ b, k.hoop.awaited d turn = some b → met b →
      let g := b.tile.tag
      let same : Prop := g.tensor = r.tensor ∧ g.row = r.row ∧ g.col = r.col ∧
        (r.pchk = true → g.frozen = false → g.parity = (e.step.toNat % 2 == 1))
      (same → g.fmt = r.fmt → exec (.gateArrive c) s = .next (s.setCore c (k.taken 0))) ∧
      (¬ (same ∧ g.fmt = r.fmt) → ∃ t, exec (.gateArrive c) s = .next t ∧ (t.core c).st = .faulted ∧
        (t.core c).seqr.queue 0 = (k.seqr.queue 0).tail ∧ t.mem = s.mem ∧ t.bad = s.bad ∧
        t.field .coreFault (coreIdx c) 63 48 = (if same then 0x0109 else 0x0101) ∧
        t.field .coreFault (coreIdx c) 47 0 = k.sbc % 2 ^ 48))


/-! ### Decoding (R56, R59, R67 to R71, R78, R79, R308, R312) -/

/-- CNT acts at decode: it writes Q[QD] modulo 2 ^ 32 with the sign-extended immediate (OP 0), the low 23 bits of Q[QD] under 9
bits of the immediate (1), Q[QA] plus the immediate (2), Q[QA] + Q[QB] (3), Q[QA] − Q[QB] (4), Q[QA] shifted left (5) or
Q[QA] times a 16-bit immediate (6); Q0 stays 0. The stream goes on to its next instruction and nothing else changes; the row
INSTRUCTION_DECODE does the same. LBREAK acts at decode: when its condition on Q[QB] holds (always, not zero, zero), the
innermost loop will exit at its LEND; NOP with OFFSET 0 does nothing. Both go on to the next instruction and change nothing
else. -/
def Obligations.CntLbreakAndNopActAtDecode : Prop :=
  (∀ (c : CoreId) (s : State) (w : Nat), s.decodesNext c w → opcodeOf w = 0x90 → offsetOf w = 0 → bits w 35 33 ≠ 7 →
      let k := s.core c
      let x := k.seqr.cur
      let t := k.seqr.strm x
      let a := BitVec.ofNat 32 (t.qreg (bits w 27 23))
      let b := BitVec.ofNat 32 (t.qreg (bits w 4 0))
      let imm := (BitVec.ofNat 23 w).signExtend 32
      let v : BitVec 32 := match bits w 35 33 with
        | 0 => imm
        | 1 => (BitVec.ofNat 9 w) ++ (BitVec.ofNat 23 (t.qreg (bits w 32 28)))
        | 2 => a + imm
        | 3 => a + b
        | 4 => a - b
        | 5 => a <<< bits w 4 0
        | _ => a * (BitVec.ofNat 16 w).zeroExtend 32
      ∃ u : Strm, u.pc = t.pc + 1 ∧ u.loops = t.loops ∧ u.step = t.step ∧ u.bank = t.bank ∧
        (∀ n, u.qreg n = if n = bits w 32 28 ∧ n ≠ 0 then v.toNat else t.qreg n) ∧
        exec (.cnt c) s = .next (s.setCore c { k with seqr := (k.seqr.setStrm x u).hasDecoded }) ∧
        exec (.instructionDecode c) s = exec (.cnt c) s) ∧
  (∀ (c : CoreId) (s : State) (w : Nat), s.decodesNext c w → offsetOf w = 0 →
      let k := s.core c
      let x := k.seqr.cur
      let t := k.seqr.strm x
      (∀ l ls, opcodeOf w = 0x0A → bits w 35 34 ≠ 3 → t.loops = l :: ls →
        let hit : Prop := bits w 35 34 = 0 ∨ (bits w 35 34 = 1 ∧ t.qreg (bits w 33 29) ≠ 0) ∨
          (bits w 35 34 = 2 ∧ t.qreg (bits w 33 29) = 0)
        exec (.lbreak c) s = .next (s.setCore c { k with
          seqr := (k.seqr.setStrm x { t with pc := t.pc + 1, loops := { l with brk := if hit then true else l.brk } :: ls }).hasDecoded })) ∧
      (opcodeOf w = 0 → (s.ready c 0).isNone → exec (.nop c) s = .next (s.setCore c { k with
        seqr := (k.seqr.setStrm x { t with pc := t.pc + 1 }).hasDecoded })))

/-- LOOP and LEND, decoded with the deposit rule met (R59): LOOP opens a level with its count, immediate or Q[QC], and a count
of 0 goes on behind the LEND; LEND goes back to the first instruction of the body while iterations are left and no LBREAK
was taken, and else closes the level. Each leaves one boundary in the gate queue (where boundaries wait is assumption log 28), ends
its block on the next beat, and changes nothing outside the core. R69: a LOOP with 8 loops open is refused with LOOP_NEST: it is not
entered, and the core is FAULTED. R59: whatever the engine, an instruction that the other checks of decoding pass and whose start beat
does not lead the SBC by 2 to 2 ^ 47 − 1 beats is refused with LATE_ISSUE: the core is FAULTED, CORE_FAULT holds the code and the beat,
and the queues stay as they were. -/
def Obligations.LoopsAndLateIssue : Prop :=
  (∀ (c : CoreId) (s : State) (w : Nat), s.decodesNext c w →
      let k := s.core c
      let q := k.seqr
      let t := q.strm q.cur
      (∀ cmd, q.late k.sbc (q.entryOf q.cur w cmd) = none) → (s.ready c 0).isNone →
      (opcodeOf w = 0x08 → t.loops.length < 8 → 1 ≤ bits w 11 0 → bits w 11 0 ≤ 4094 → t.pc + bits w 11 0 + 1 ≤ q.lastIndex →
        (∃ l, AMap.find? (q.bankOf q.cur t.bank).code (t.pc + bits w 11 0 + 1) = some l ∧ opcodeOf l.toNat = 0x09 ∧ engineOf l.toNat = 0) →
        let n := if bit w 35 then t.qreg (bits w 16 12) else bits w 34 12
        ∃ u, exec (.loop c) s = .next u ∧ s.onlyCore u c ∧
          (u.core c).seqr.queue 0 = q.queue 0 ++ [q.entryOf q.cur w .loop] ∧ (u.core c).seqr.blk = (q.blk + offsetOf w + 1) % 2 ^ 48 ∧
          ((u.core c).seqr.strm q.cur).loops = (if n = 0 then t.loops else ⟨n, t.pc + 1, false⟩ :: t.loops) ∧
          ((u.core c).seqr.strm q.cur).pc = (if n = 0 then t.pc + bits w 11 0 + 2 else t.pc + 1)) ∧
      (∀ l ls, opcodeOf w = 0x09 → t.loops = l :: ls →
        ∃ u, exec (.lend c) s = .next u ∧ s.onlyCore u c ∧
          (u.core c).seqr.queue 0 = q.queue 0 ++ [q.entryOf q.cur w .lend] ∧ (u.core c).seqr.blk = (q.blk + offsetOf w + 1) % 2 ^ 48 ∧
          ((u.core c).seqr.strm q.cur).loops = (if l.brk = false ∧ 1 < l.count then { l with count := l.count - 1 } :: ls else ls) ∧
          ((u.core c).seqr.strm q.cur).pc = (if l.brk = false ∧ 1 < l.count then l.top else t.pc + 1))) ∧
  (∀ (c : CoreId) (s : State) (w : Nat), s.decodesNext c w → opcodeOf w = 0x08 → (s.ready c 0).isNone →
      let q := (s.core c).seqr
      8 ≤ (q.strm q.cur).loops.length →
      ∃ u, exec (.loop c) s = .next u ∧ (u.core c).st = .faulted ∧ (u.core c).seqr.queues = q.queues ∧
        ((u.core c).seqr.strm q.cur).loops = (q.strm q.cur).loops ∧ u.field .coreFault (coreIdx c) 63 48 = 0x0107 ∧ u.mem = s.mem) ∧
  (∀ (c : CoreId) (s : State) (w : Nat), s.decodesNext c w → isDecodeTime w = false →
      let k := s.core c
      let q := k.seqr
      let lead := ((q.blk + offsetOf w) % 2 ^ 48 + 2 ^ 48 - k.sbc % 2 ^ 48) % 2 ^ 48
      (q.queue (engineOf w)).length + s.handedTo c (engineOf w) < queueDepth (engineOf w) →
      (∃ v, q.boundaryCheck q.cur w = some (.ok v)) → (∃ cmd, (s.decEnv c q.cur).resolve w = .ok cmd) → (lead < 2 ∨ 2 ^ 47 ≤ lead) →
      ∃ u, exec (.instructionDecode c) s = .next u ∧ (u.core c).st = .faulted ∧ (u.core c).seqr.queues = q.queues ∧
        u.field .coreFault (coreIdx c) 63 48 = 0x0106 ∧ u.field .coreFault (coreIdx c) 47 0 = k.sbc % 2 ^ 48 ∧ u.mem = s.mem)

/-- BANK (R70): once its target is READY, the stream's old bank is FREE and empty (empty: assumption log 93), the target ACTIVE, and decoding goes on at
ENTRY in it; no other bank, stream, register or queue changes. -/
def Obligations.BankSwitchesOnceReady : Prop :=
  ∀ (c : CoreId) (s : State) (entry : Nat),
    let k := s.core c
    let q := k.seqr
    let x := q.cur
    let t := q.strm x
    t.bank < 2 → t.bankWait = some entry → (q.bankOf x (1 - t.bank)).st = .ready →
    ∃ u, exec (.bank c) s = .next u ∧ s.onlyCore u c ∧
      (u.core c).seqr.strm x = { t with bank := 1 - t.bank, pc := entry, bankWait := none, initFill := false, waitBank := false } ∧
      (u.core c).seqr.strm x.other = q.strm x.other ∧
      (u.core c).seqr.bankOf x (1 - t.bank) = { q.bankOf x (1 - t.bank) with st := .active } ∧
      (u.core c).seqr.bankOf x t.bank = {} ∧ (u.core c).seqr.queues = q.queues ∧ (u.core c).sbc = k.sbc ∧ (u.core c).st = k.st

/-- LOOP, LEND, BANK and NOP are boundaries whose condition is always met: on its beat each leaves its queue, the gate queue
(assumption log 28), and changes nothing else. MARK closes the open range records of its stream's entries with its step, and is the
trigger of an arming of its context for that step (R286); HALT_INSTRUCTION stops its core with its SBC
held, and halts the context when all its cores are HALTED. -/
def Obligations.BoundariesMarkersAndHalt : Prop :=
  ∀ (c : CoreId) (s : State) (e : QEntry), s.ready c 0 = some e →
    let k := s.core c
    (e.cmd = .loop → exec (.loop c) s = .next (s.setCore c (k.taken 0))) ∧
    (e.cmd = .lend → exec (.lend c) s = .next (s.setCore c (k.taken 0))) ∧
    (e.cmd = .bank → (k.seqr.strm k.seqr.cur).bankWait = none → exec (.bank c) s = .next (s.setCore c (k.taken 0))) ∧
    (e.cmd = .nop → exec (.nop c) s = .next (s.setCore c (k.taken 0))) ∧
    (e.cmd = .mark →
      let v := s.setCore c { k.taken 0 with vec := k.vec.closeStep e.stream e.step }
      let armed (x : Nat) (a : Arming) : Prop := k.owner = some x ∧ (s.ctx x).arming = some a ∧ a.src = 1 ∧ a.fired = false ∧
        a.step = e.step ∧ e.stream = .fwd ∧ k.slot = some 0
      ((∀ x a, ¬ armed x a) → exec (.mark c) s = .next v) ∧
      (∀ x a, armed x a → exec (.mark c) s = .next (v.armTrigger x a))) ∧
    (e.cmd = .halt → ∃ u, exec (.haltInstruction c) s = .next u ∧ (u.core c).st = .halted ∧ (u.core c).sbc = k.sbc ∧
      (u.core c).seqr.queue 0 = (k.seqr.queue 0).tail ∧ (∀ d, d ≠ c.val → u.core d = s.core d) ∧ u.mem = s.mem ∧
      (∀ x, k.owner = some x → (∀ d ∈ (s.ctx x).slots, d ≠ c.val → (s.core d).st = .halted) → (u.ctx x).halted = true) ∧
      (∀ x, k.owner = some x → (∃ d ∈ (s.ctx x).slots, d ≠ c.val ∧ (s.core d).st ≠ .halted) → u.ctx x = s.ctx x))

/-- BLOCK_PICK (R76) of a core whose decoding stands at a held gate. The head gate of the plan's stream is taken when it is met,
else that of the other stream when it is: its block starts PICK_LEAD beats after the present beat, a core that runs or that is frozen
under PICK runs on (one that is frozen for another cause stays so), the pick is counted for its stream, and the gate is passed as R60 has it, the comparison of a GATE.ARRIVE (R20) with it. A gate whose
checks refuse it faults the core. With neither stream's gate met a core that runs freezes under cause 7, and nothing else changes. -/
def Obligations.PickTakesTheFirstMetGate : Prop :=
  ∀ (c : CoreId) (s : State), (s.core c).picking = true →
    let k := s.core c
    let x := (k.seqr.planEntry k.seqr.ptr).1
    let resumes : Bool := k.st == .running || k.seqr.frz.any (·.cause == 7)
    (∀ y w, (y = x ∨ (s.headMet c x = false ∧ y = x.other)) →
      let t := k.seqr.strm y
      let n : Nat := match y with | .fwd => 0 | .bwd => 1
      (∀ cmd, s.headGate c y = some (w, .ok cmd) → s.gateMet c cmd = true →
        ∃ v : State, exec (.blockPick c) s = .next (v.passGate c cmd t.step) ∧ v.mem = s.mem ∧ (∀ d, d ≠ c.val → v.core d = s.core d) ∧
          v.core c = { k with st := if resumes then .running else k.st, seqr := (v.core c).seqr } ∧
          (v.core c).seqr.frz = (if resumes then none else k.seqr.frz) ∧
          (v.core c).seqr.cur = y ∧ (v.core c).seqr.blk = (k.sbc + k.seqr.pickLead) % 2 ^ 48 ∧
          (v.core c).seqr.strm y = { t with pc := t.pc + 1, atGate := false } ∧
          (v.core c).seqr.queues = k.seqr.queues ∧
          v.field .seqPicks (coreIdx c ++ [n]) 47 0 = min (2 ^ 48 - 1) (s.field .seqPicks (coreIdx c ++ [n]) 47 0 + 1) ∧
          (s.gateTag c cmd = none → resumes = true → ((v.passGate c cmd t.step).core c).st = .running)) ∧
      (∀ f, s.headGate c y = some (w, .error f) →
        ∃ u, exec (.blockPick c) s = .next u ∧ (u.core c).st = .faulted ∧ u.mem = s.mem ∧ (u.core c).seqr.queues = k.seqr.queues ∧
          u.field .coreFault (coreIdx c) 63 48 = f.1 % 65536)) ∧
    (s.headMet c x = false → s.headMet c x.other = false →
      exec (.blockPick c) s = .next (if k.st = .running then
        s.setCore c { k with st := .frozen, seqr := { k.seqr with frz := some ⟨7, none, none⟩ } } else s))

/-- SEGMENT_FETCH (R71, R308). With no segment left it waits, and so it does behind a bank that is READY; a segment for the
stream's ACTIVE bank is rejected, SEQ_BANK naming it. A segment whose bank is FREE or LOADING, for a core whose context has no
energy share and no held segment, is fetched: the bank holds its descriptors and, from FIRST on, its instructions, 8
little-endian bytes each; it is READY with LAST, else LOADING; the stream's queue goes on by one. No byte of memory, no other
stream, queue or unit of the core changes. -/
def Obligations.SegmentFetchFillsItsBank : Prop :=
  ∀ (c : CoreId) (s : State) (x : StreamSel),
    let k := s.core c
    let q := k.seqr
    let t := q.strm x
    (t.segAt = none → exec (.segmentFetch c x) s = .next s) ∧
    ∀ g : Seg, k.slot.isSome → (x = .bwd → q.two = true) → t.waitBank = false → t.segAt = some g →
      ((q.bankOf x g.bank).st = .ready → exec (.segmentFetch c x) s = .next s) ∧
      ((q.bankOf x g.bank).st = .active → t.initFill = false → g.segId < 65536 →
        ∃ u, exec (.segmentFetch c x) s = .next u ∧ u.mem = s.mem ∧ (∀ b, (u.core c).seqr.bankOf x b = q.bankOf x b) ∧
          ((u.core c).seqr.strm x).nextSeg = t.segNext ∧ u.field .seqBank (coreIdx c) 8 8 = 1 ∧
          u.field .seqBank (coreIdx c) 31 16 = g.segId) ∧
      ((q.bankOf x g.bank).st = .free ∨ (q.bankOf x g.bank).st = .loading → t.initFill = false →
        s.shareW k.ctx = 0 → (∀ h ∈ s.dev.clk.held, h.1 ≠ k.ctx) →
        ∃ u, exec (.segmentFetch c x) s = .next u ∧ u.mem = s.mem ∧ (∀ d, d ≠ c.val → u.core d = s.core d) ∧
          u.core c = { k with seqr := (u.core c).seqr } ∧ (u.core c).seqr.queues = q.queues ∧
          (u.core c).seqr.strm x.other = q.strm x.other ∧
          (u.core c).seqr.strm x = { t with nextSeg := t.segNext, initFill := false, waitBank := g.last } ∧
          (let b := (u.core c).seqr.bankOf x g.bank
           b.st = (if g.last then .ready else .loading) ∧
           (∀ i, i < g.ninstr → AMap.find? b.code (g.first + i) =
             some (BitVec.ofNat 64 (Mem.readLE s.mem (g.addr + 16 * g.ndesc + 8 * i) 8))) ∧
           (∀ i, i < g.ndesc → AMap.find? b.desc i = some (BitVec.ofNat 128 (Mem.readLE s.mem (g.addr + 16 * i) 16)))))


/-! ### Arrays (R34 to R49, R305) -/

/-- PRESS on its beat, the injector free and the format accepted: the block is the array's stationary one from here on (from the start
beat: assumption log 97), the generation goes on, and the injector is busy for 130 beats; rows from local SRAM come in one on each beat, tiles are taken at
once and leave the list of those handed over. Nothing else changes but, for poison that is consumed, its record. While the
injector is busy the core is FAULTED with PRESS_EARLY and the block most recently pressed stays. A press from memory then
reads row n of its source on its beat n (the model's choice, assumption logs 35 and 39). -/
def Obligations.PressLatchesItsBlock : Prop :=
  (∀ (c : CoreId) (x : Side) (s : State) (e : QEntry) (src : Src) (t fr : Bool) (f : Fmt),
    s.acts c x.engine e → e.cmd = .press src t f fr →
    let v := s.onBeat c e
    let k := v.core c
    let r := k.arr x
    let latched (st : Stat) (j : PressJob) : ArrayS :=
      { r with stat := some st, gen := r.gen + 1, pressStart := k.sbc, injEnd := (k.sbc + 130) % 2 ^ 48, injIsPress := true,
               used := true, press := some j }
    (r.injBusy k.sbc = false → f.pair ≠ 0 → (f.mx = true → t = true) →
      (∀ m, src = .mem m → exec (.press c x) s =
        .next (v.setCore c ((k.taken x.engine).setArr x (latched ⟨f, [], t, fr, false⟩ ⟨e, some m⟩)))) ∧
      (src = .special → r.tileNeed f.tiles f true k.sbc s.dev.period = .ok →
        let hs := r.handed.take f.tiles
        let g := tilesFmt f hs
        let st : Stat := ⟨g, (List.range 128).map (tilesRow g (hs.map fun h => h.tile.data)), t, hs.any (·.tile.tag.frozen),
          hs.any (·.poison)⟩
        ∃ u, exec (.press c x) s = .next u ∧ u.mem = v.mem ∧ (∀ d, d ≠ c.val → u.core d = v.core d) ∧
          (u.core c).arr x = { latched st ⟨e, none⟩ with handed := r.handed.drop f.tiles } ∧
          (u.core c).arr x.other = k.arr x.other ∧ (u.core c).seqr = (k.taken x.engine).seqr ∧ (u.core c).vec.regs = k.vec.regs ∧
          (u.core c).ldl = k.ldl)) ∧
    (r.injBusy k.sbc = true →
      ∃ u, exec (.press c x) s = .next u ∧ (u.core c).st = .faulted ∧ ((u.core c).arr x).gen = r.gen ∧
        ((u.core c).arr x).pressStart = r.pressStart ∧ u.mem = (s.land c).mem ∧ u.field .coreFault (coreIdx c) 63 48 = 0x0102)) ∧
  (∀ (c : CoreId) (x : Side) (s : State) (j : PressJob) (m : MemRef) (st : Stat),
    let k := s.core c
    let r := k.arr x
    let n := beatSub k.sbc r.pressStart
    r.press = some j → j.mem = some m → r.stat = some st → n < 128 →
    let u := s.pressBeat c x
    u.mem = s.mem ∧ (u.core c).arr x.other = k.arr x.other ∧ (u.core c).arr x = { r with
      stat := some { st with rows := st.rows ++ [s.bytes (m.addr c n) st.fmt.vecBytes],
                             poison := st.poison || !(s.badIn (m.addr c n) st.fmt.vecBytes).isEmpty } })

/-- MUL on its beat, the injector free, the formats agreeing and the tiles it needs first in hand: OPS_ISSUED goes on by one modulo
256, and the operation, null as a whole or not (R49; looked at once, at the start: assumption log 97), begins; nothing else changes.
On the beat of each of its vectors, one interval apart, no row feeder full (as the entries are counted: assumption log 31) and, from
tiles, the tile in hand, one output vector joins those under way with the sums of its products with the stationary block; the moving
vector is read on that beat (assumption log 39). Memory and the other array stay as they were. -/
def Obligations.MulInjectsEveryVector : Prop :=
  (∀ (c : CoreId) (x : Side) (s : State) (e : QEntry) (src : Src) (n : Nat) (f : Fmt) (cols : Bool) (a : Int),
    s.acts c x.engine e → e.cmd = .mul src n f cols a →
    let v := s.onBeat c e
    let k := v.core c
    let r := k.arr x
    let op := (r.issued + 1) % 256
    r.injBusy k.sbc = false → r.formatOk ⟨src, n, f, cols, a, none⟩ = true → r.foreign ⟨src, n, f, cols, a, none⟩ = false →
    (src = .special → r.tileNeed f.tiles f cols k.sbc s.dev.period = .ok) →
    exec (.mul c x) s = .next (v.setCore c ((k.taken x.engine).setArr x { r with
      issued := op, used := true, injIsPress := false, injEnd := (e.start + (n - 1) * f.interval + 1) % 2 ^ 48,
      ops := r.ops ++ [⟨op, false⟩], job := some ⟨e, op, 0, k.nullOps x⟩ }))) ∧
  (∀ (c : CoreId) (x : Side) (s : State) (j : ArrJob) (src : Src) (n : Nat) (f : Fmt) (cols : Bool) (a : Int),
    let k := s.core c
    let r := k.arr x
    j.entry.cmd = .mul src n f cols a → r.job = some j → (j.entry.start + j.next * f.interval) % 2 ^ 48 = k.sbc →
    r.feedFull s.dev.period = false →
    (src = .special → j.next % 128 = 0 → r.tileNeed f.tiles f cols k.sbc s.dev.period = .ok) →
    let u := s.injectSide c x
    let w := s.movingVector c x j ⟨src, n, f, cols, a, none⟩
    u.mem = s.mem ∧ (u.core c).arr x.other = k.arr x.other ∧ (∀ d, d ≠ c.val → u.core d = s.core d) ∧
      ((u.core c).arr x).job = (if j.next + 1 = n then none else some { j with next := j.next + 1 }) ∧
      ((u.core c).arr x).whey = r.whey ∧ ((u.core c).arr x).stat = r.stat ∧
      ∃ o, ((u.core c).arr x).outs = r.outs ++ [o] ∧ o.op = j.opnum ∧ o.out = true ∧ o.null = j.null ∧ o.lat = f.fill ∧
        o.fp = f.fpKind ∧ o.since = s.dev.period ∧ o.lanes = (if j.null then [] else (outLanes w.fmt a r.stat w.vec).1) ∧
        (∀ m, src = .mem m → w.fmt = f ∧ w.vec = f.opVec (s.bytes (m.addr c j.next) f.vecBytes)))

/-- MULX on its beat, as MUL (R45, R47, R305), with the choices that it names: the start and the null state (assumption log 97), the
beat of the read (log 39), the entries of the feeders (log 31). A vector of a START becomes a fresh whey entry, WBASE and its place, with as many
terms as the format's depth, and does not leave for the drains. Combining: an entry of the other accumulation kind is a
FORMAT_MISMATCH fault, a sum of more than 2 ^ 20 terms an EXACT_LIMIT fault, and else ADD keeps the lane-wise sums and ADD
with EMIT sends them on and frees the entry; an entry that both would refuse is refused for its kind (assumption log 116). -/
def Obligations.MulxKeepsSumsInWhey : Prop :=
  (∀ (c : CoreId) (x : Side) (s : State) (e : QEntry) (src : Src) (n : Nat) (f : Fmt) (cols : Bool) (a : Int) (wb : Nat)
      (mode : MulMode), s.acts c x.engine e → e.cmd = .mulx src n f cols a wb mode →
    let v := s.onBeat c e
    let k := v.core c
    let r := k.arr x
    let op := (r.issued + 1) % 256
    let args : MulArgs := ⟨src, n, f, cols, a, some (wb, mode)⟩
    r.injBusy k.sbc = false → r.formatOk args = true → r.foreign args = false →
    (src = .special → r.tileNeed f.tiles f cols k.sbc s.dev.period = .ok) →
    exec (.mulx c x) s = .next (v.setCore c ((k.taken x.engine).setArr x { r with
      issued := op, used := true, injIsPress := false, injEnd := (e.start + (n - 1) * f.interval + 1) % 2 ^ 48,
      ops := r.ops ++ [⟨op, false⟩], job := some ⟨e, op, 0, k.nullOps x⟩ }))) ∧
  (∀ (c : CoreId) (x : Side) (s : State) (j : ArrJob) (src : Src) (n : Nat) (f : Fmt) (cols : Bool) (a : Int) (wb : Nat),
    let k := s.core c
    let r := k.arr x
    let args : MulArgs := ⟨src, n, f, cols, a, some (wb, .start)⟩
    j.entry.cmd = .mulx src n f cols a wb .start → r.job = some j → j.null = false →
    (j.entry.start + j.next * f.interval) % 2 ^ 48 = k.sbc → r.feedFull s.dev.period = false →
    (src = .special → j.next % 128 = 0 → r.tileNeed f.tiles f cols k.sbc s.dev.period = .ok) →
    let u := s.injectSide c x
    let w := s.movingVector c x j args
    u.mem = s.mem ∧ (u.core c).arr x.other = k.arr x.other ∧
      (∃ o, ((u.core c).arr x).outs = r.outs ++ [o] ∧ o.out = false ∧ o.op = j.opnum) ∧
      (∃ p, AMap.find? ((u.core c).arr x).whey (wb + j.next) = some ⟨f.fpKind, f.depth, (outLanes w.fmt a r.stat w.vec).1, p⟩) ∧
      ∀ i, i ≠ wb + j.next → AMap.find? ((u.core c).arr x).whey i = AMap.find? r.whey i) ∧
  (∀ (w : Whey) (fp : Bool) (depth : Nat) (ls : List Lane) (p : Bool),
    (w.fp ≠ fp → wheyCombine (some w) .add fp depth ls p = .format ∧ wheyCombine (some w) .addEmit fp depth ls p = .format) ∧
    (w.fp = fp → 2 ^ 20 < w.terms + depth →
      wheyCombine (some w) .add fp depth ls p = .limit ∧ wheyCombine (some w) .addEmit fp depth ls p = .limit) ∧
    (w.fp = fp → w.terms + depth ≤ 2 ^ 20 →
      let z := (w.lanes.zip ls).map fun q => q.1.plus fp q.2
      wheyCombine (some w) .add fp depth ls p = .ok (some ⟨fp, w.terms + depth, z, w.poison || p⟩) none ∧
      wheyCombine (some w) .addEmit fp depth ls p = .ok none (some (z, fp, w.poison || p))))

/-- ARRAY_OP_COMPLETE: OPS_DONE takes the number of the oldest operation once it has completed and the operation leaves the
list; before that nothing changes. SKIPDW on its beat, the injector free, sets the array's null mode. Nothing else changes.
DRAIN on its beat (R38): with fewer complete vectors in the drains than it takes, the core is FAULTED with DRAIN_UNDERRUN, the
drain unit not at work; else the unit is busy for as many beats as it takes vectors, and reads the first at once: a null
vector is written nowhere, a real one of an unfrozen tensor is one write of this beat, one of a frozen tensor faults the core
with FROZEN_WRITE (R111). The other array and memory do not change on this beat but by the beat's own writes. -/
def Obligations.OpsDoneSkipAndDrain : Prop :=
  (∀ (c : CoreId) (x : Side) (s : State),
      let k := s.core c
      let r := k.arr x
      (∀ o os, r.ops = o :: os →
        exec (.arrayOpComplete c x) s = .next (if r.opComplete s.dev.period then s.setCore c (k.setArr x { r with done := o.num, ops := os })
          else s))) ∧
  (∀ (c : CoreId) (x : Side) (s : State) (e : QEntry) (on : Bool), s.acts c x.engine e → e.cmd = .skipdw on →
      let v := s.onBeat c e
      let k := v.core c
      (k.arr x).injBusy k.sbc = false →
      exec (.skipdw c x) s = .next (v.setCore c ((k.taken x.engine).setArr x { k.arr x with skip := on }))) ∧
  (∀ (c : CoreId) (x : Side) (s : State) (e : QEntry) (dst : DrainDst) (n : Nat) (f : Fmt) (os : Int) (sr : Bool) (key : KeyRef),
      s.acts c x.engine e → e.cmd = .drain dst n f os sr key →
      let v := s.onBeat c e
      let k := v.core c
      let r := k.arr x
      (r.used = false ∨ beatReached k.sbc r.drainEnd = true) →
      (r.level s.dev.period < n → ∃ u, exec (.drain c x) s = .next u ∧ (u.core c).st = .faulted ∧ ((u.core c).arr x).drain = r.drain ∧
        u.field .coreFault (coreIdx c) 63 48 = 0x010A ∧ u.mem = (s.land c).mem) ∧
      (∀ o, 1 ≤ n → n ≤ r.level s.dev.period → k.st = .running → k.sbc < 2 ^ 48 → r.outs.find? (·.out) = some o →
        ∃ u, exec (.drain c x) s = .next u ∧ u.mem = v.mem ∧ (u.core c).arr x.other = k.arr x.other ∧
          ((u.core c).arr x).drainEnd = (k.sbc + n) % 2 ^ 48 ∧ (u.core c).seqr.queue x.engine = (k.seqr.queue x.engine).tail ∧
          (o.null = true ∨ bit key.tensor 22 = false → (u.core c).st = .running ∧ ((u.core c).arr x).outs = popOut r.outs ∧
            (((u.core c).arr x).drain.map (·.next)) = (if n = 1 then none else some 1) ∧
            (o.null = true → (u.core c).vec.pend = k.vec.pend) ∧
            (o.null = false → ∃ p, (u.core c).vec.pend = k.vec.pend ++ [p] ∧ p.due = k.sbc)) ∧
          (o.null = false → bit key.tensor 22 = true → (u.core c).st = .faulted ∧ ((u.core c).arr x).drain = none ∧
            ((u.core c).arr x).outs = r.outs ∧ u.field .coreFault (coreIdx c) 63 48 = 0x010B)))

/-- INT8 products are summed exactly: a lane of an output vector holds the integer dot product of the moving vector with its
column of the stationary block; the model holds a lane in units of 2 ^ -160 (assumption log 34). -/
def Obligations.IntegerDotProductIsExact : Prop :=
  ∀ (vs cs : List (BitVec 8)), vs.length = cs.length →
    (dotExact (vs.map fun b => Fmt.int8.operand b.toNat) (cs.map fun b => Fmt.int8.operand b.toNat)).sum =
      ((vs.zip cs).map fun p => p.1.toInt * p.2.toInt).sum * 2 ^ 160

/-! ### The ladle (R51 to R53) -/

/-- MV and MVACC on their start beat: operands out of range are an ILLEGAL_OP fault, a weight format that is none a
FORMAT_MISMATCH fault, and a sum of more than 2 ^ 20 terms, with what the operations before it leave, an EXACT_LIMIT fault, each with
its cause in LDL_FAULT and the ladle as it was. Else the operation joins those of the ladle, to begin on this beat or when the one
before it owns no MCLK any more (R53); nothing else changes. Each of its units is read on one beat of it: two in each MCLK that it
owns, the first RATE of every four (the model's choice, assumption logs 35 and 39). A weight unit of INT8 adds its 16 rows' exact sums
of 128 products to their entries, in units of 2 ^ -160 (assumption log 34), and no other; one of an MX format is kept with the elements
of x that it meets until the scale unit of its group is read. After the last unit the operation's term count stands, and with EMIT the
accumulator, converted to FP32, waits for its register, to be written 16 beats after the last beat that the operation owns (assumption
log 40). No byte of memory, no array and no vector register changes on these beats. LADLE_EMIT: each result that is due reaches its
register with its poison and waits no more; those that are not due wait on, and nothing outside the core changes. -/
def Obligations.LadleAccumulatesAndLands : Prop :=
  (∀ (c : CoreId) (s : State) (e : QEntry) (l : LdlCmd), s.acts c 4 e → e.cmd = .ladle l →
      let row : Instr := if l.acc then .mvacc c else .mv c
      let t := s.land c
      let q := (t.core c).ldl
      let terms := (if l.acc then q.lastTerms else 0) + l.chunks * l.depth
      let refused (code cause : Nat) : Prop := ∃ u, exec row s = .next u ∧ (u.core c).st = .faulted ∧ (u.core c).ldl = q ∧
        u.field .coreFault (coreIdx c) 63 48 = code ∧ u.field .ldlFault (coreIdx c) 8 8 = 1 ∧
        u.field .ldlFault (coreIdx c) 7 0 = cause ∧ u.mem = t.mem
      (l.rangeOk = false → refused 0x0105 0) ∧
      (l.rangeOk = true → 4 < l.lfmt → refused 0x0109 1) ∧
      (l.rangeOk = true → l.lfmt ≤ 4 → 2 ^ 20 < terms → refused 0x010C 2) ∧
      (l.rangeOk = true → l.lfmt ≤ 4 → terms ≤ 2 ^ 20 →
        let v := s.onBeat c e
        let first := match q.jobs.getLast? with
          | some j => if beatReached e.start j.ends then e.start else j.ends
          | none => e.start
        exec row s = .next (v.setCore c { (v.core c).taken 4 with
          ldl := { q with jobs := q.jobs ++ [{ entry := e, cmd := l, first := first, terms := terms }] } }))) ∧
  (∀ (l : LdlCmd) (p n : Nat), 1 ≤ l.rate → l.rate ≤ 4 →
      (p ∈ l.due n ↔ p < l.units ∧ n = 8 * (p / (2 * l.rate)) + 2 * (p / 2 % l.rate))) ∧
  (∀ (c : CoreId) (s : State) (j : LdlJob) (p : Nat) (f : Fmt),
      let k := s.core c
      let l := j.cmd
      let a := l.w.addr c 0 + 2048 * p
      let u := s.ladleUnit c j f p
      k.ldl.jobs.head? = some j → ladleFmt l.lfmt = some f → 1 ≤ l.chunks →
      u.mem = s.mem ∧ (∀ d, d ≠ c.val → u.core d = s.core d) ∧ (u.core c).arrA = k.arrA ∧ (u.core c).arrB = k.arrB ∧
      (u.core c).vec.regs = k.vec.regs ∧ (u.core c).ldl.terms = k.ldl.terms ∧ (u.core c).ldl.emits = k.ldl.emits ∧
      (l.lfmt = 4 → (u.core c).ldl.jobs = k.ldl.jobs ∧ ∀ i, i < 128 →
        let row := p / l.chunks * 16
        let old := k.ldl.lanes.getD i {}
        let w (n : Nat) : Byte := (s.bytes a 2048).getD (128 * (i - row) + n) 0
        let x (n : Nat) : Byte :=
          let m := 128 * (p % l.chunks) + n
          BitVec.ofNat 8 ((k.vec.reg (l.x + m / 512)).toNat / 2 ^ (8 * (m % 512)))
        (u.core c).ldl.lanes.getD i {} = if row ≤ i ∧ i < row + 16 then
          { old with sum := old.sum + ((List.range 128).map fun n => (w n).toInt * (x n).toInt).sum * 2 ^ 160 } else old) ∧
      (l.lfmt ≤ 1 →
        (∀ n, l.weightUnit p = some n → (∀ i, i < 128 → (u.core c).ldl.lanes.getD i {} = k.ldl.lanes.getD i {}) ∧
          (u.core c).ldl.jobs = { j with held := j.held ++ [(n, s.bytes a 2048, l.xChunk k.vec n)] } :: k.ldl.jobs.tail) ∧
        (l.weightUnit p = none → (u.core c).ldl.jobs = { j with held := [] } :: k.ldl.jobs.tail ∧
          (u.core c).ldl.lanes = (j.held.foldl (fun q h => l.unitSum f (s.bytes a 2048) h q) (k.ldl.lanes, 0)).1))) ∧
  (∀ (c : CoreId) (s : State) (j : LdlJob),
      let k := s.core c
      let u := s.ladleLast c j
      u.mem = s.mem ∧ (∀ d, d ≠ c.val → u.core d = s.core d) ∧ (u.core c).vec.regs = k.vec.regs ∧
      (u.core c).ldl = { k.ldl with terms := j.terms, emits := k.ldl.emits ++ (if j.cmd.emit then
        [((j.ends + 15) % 2 ^ 48, j.cmd.vd, regOfBytes (convertVec .fp32 0 0 (fun _ => .rne) (k.ldl.lanes.map (·.present false))).1,
          k.ldl.poison)] else []) }) ∧
  (∀ (c : CoreId) (s : State),
      let k := s.core c
      let u := s.ladleBeat c
      u.mem = s.mem ∧ (∀ d, d ≠ c.val → u.core d = s.core d) ∧ (u.core c).arrA = k.arrA ∧ (u.core c).arrB = k.arrB ∧
      (u.core c).vec.regs = k.vec.regs ∧ (k.ldl.jobs = [] → u = s.setCore c k)) ∧
  (∀ (c : CoreId) (s : State),
      let k := s.core c
      ∃ u, exec (.ladleEmit c) s = .next u ∧ s.onlyCore u c ∧
        (u.core c).ldl = { k.ldl with emits := k.ldl.emits.filter fun p => !beatReached k.sbc p.1 } ∧
        (∀ n, (∀ p ∈ k.ldl.emits, beatReached k.sbc p.1 = true → p.2.1 ≠ n) → (u.core c).vec.reg n = k.vec.reg n) ∧
        ∀ pre post b vd v p, k.ldl.emits = pre ++ (b, vd, v, p) :: post → beatReached k.sbc b = true →
          (∀ q ∈ post, beatReached k.sbc q.1 = true → q.2.1 ≠ vd) →
          (u.core c).vec.reg vd = v ∧ (vd ∈ (u.core c).vec.poisoned ↔ p = true))

/-! ### The vector unit (R82, R83, R105, R106) -/

/-- Every lane-wise and tree operation (VADD, VSUB, VMUL, VFMA, VMAX, VMIN, VEXP2, VLOG2, VRCP, VRSQ, VSEL, VREDS, VREDM) on its
start beat: the source registers are read on that beat, and one write of the destination, poisoned when a source is, waits
for the start beat plus the latency of the table. Without poison nothing else changes. VLD and VST on their start beat: VLD reads its 512 bytes on that beat and its register is written 8 beats later (24
from cluster memory), poisoned when a sector read is; of cluster memory, a 64-byte word that another core has written and
that is not yet synchronised reads as its old or its new value, and every other word as it stands (R14). VST reads its
register on that beat and its 512 bytes are written 4 beats later (24). On which beat each reads and writes is assumption log 35. VCVT
on its start beat: its one result, the source's 128 values converted to the format or, in direction 1, back to FP32, with the correction
of its range entry (R114, R307), waits for 6 beats, for the destination register; no memory, array or ladle changes, and no register of
the vector unit yet. -/
def Obligations.VectorOperationsScheduleTheirResult : Prop :=
  (∀ (c : CoreId) (s : State) (e : QEntry) (o : VOp) (vd va vb vc : Nat) (ty : Lanes),
      s.acts c 3 e → e.cmd = .vec o vd va vb vc ty →
      let v := s.onBeat c e
      let k := v.core c
      let w (p : Bool) : Pend := .reg ((e.start + o.beats) % 2 ^ 48) e.start vd
        (o.apply ty (k.vec.reg va) (k.vec.reg vb) (k.vec.reg vc)) p
      ((∀ x ∈ o.sources va vb vc, x ∉ k.vec.poisoned) →
        exec (o.row c) s = .next (v.setCore c { k.taken 3 with vec := { k.vec with pend := k.vec.pend ++ [w false] } })) ∧
      ((∃ x ∈ o.sources va vb vc, x ∈ k.vec.poisoned) →
        ∃ u, exec (o.row c) s = .next u ∧ u.mem = v.mem ∧ (∀ d, d ≠ c.val → u.core d = v.core d) ∧
          (u.core c).vec.pend = k.vec.pend ++ [w true] ∧ (u.core c).vec.regs = k.vec.regs ∧
          e.step ∈ (u.core c).vec.consumed ∧
          (u.core c).seqr = (k.taken 3).seqr ∧ (u.core c).arrA = k.arrA ∧ (u.core c).arrB = k.arrB ∧ (u.core c).ldl = k.ldl)) ∧
  (∀ (c : CoreId) (s : State) (e : QEntry) (n : Nat) (m : MemRef), s.acts c 3 e →
      let v := s.onBeat c e
      let k := v.core c
      let poison := !(v.badIn (m.addr c 0) 512).isEmpty
      let late (d : List Byte) : Pend := .reg ((e.start + if m.clm then 24 else 8) % 2 ^ 48) e.start n (regOfBytes d) poison
      (e.cmd = .vld n m → (m.clm = true → ∀ w ∈ words64 (m.addr c 0) 512, v.clmOpen c w = false) →
        exec (.vld c) s = .next (v.setCore c { k.taken 3 with
          vec := { k.vec with pend := k.vec.pend ++ [late (v.bytes (m.addr c 0) 512)] } })) ∧
      (e.cmd = .vld n m → m.clm = true → m.addr c 0 % 64 = 0 →
        (∀ w x, AMap.find? v.dev.clm.words w = some x → x.old.length = 64) →
        ∃ u d, exec (.vld c) s = .next u ∧ u.mem = v.mem ∧ (u.core c).vec.pend = k.vec.pend ++ [late d] ∧
          (u.core c).vec.regs = k.vec.regs ∧
          ∀ i, i < 8 → (d.drop (64 * i)).take 64 = v.bytes (m.addr c 0 + 64 * i) 64 ∨
            (v.clmOpen c (m.addr c 0 / 64 + i) = true ∧
              ∃ x, AMap.find? v.dev.clm.words (m.addr c 0 / 64 + i) = some x ∧ (d.drop (64 * i)).take 64 = x.old)) ∧
      (e.cmd = .vst n m → exec (.vst c) s = .next (v.setCore c { k.taken 3 with
        vec := { k.vec with pend := k.vec.pend ++ [.mem ((e.start + if m.clm then 24 else 4) % 2 ^ 48) e.start (m.addr c 0)
          (bytesOfReg (k.vec.reg n)) (decide (n ∈ k.vec.poisoned)) m.clm] } }))) ∧
  (∀ (c : CoreId) (s : State) (e : QEntry) (vd va : Nat) (f : Fmt) (back sr : Bool) (os : Int) (key : KeyRef),
      s.acts c 3 e → e.cmd = .vcvt vd va f back sr os key →
      let v := s.onBeat c e
      let k := v.core c
      let cor := (v.rangeLookup c e.stream e.step key.tensor (if back then none else some f)).2.2
      let x := if back then regOfLanes 32 ((unpackReg f (k.vec.reg va)).map fun y => fp32Clamped (y.shift (-(os + cor))))
        else regOfBytes (convertVec f (os + cor) os (keyRnd (v.ctx k.ctx).seed e.step key sr 0)
          ((regLanes 32 128 (k.vec.reg va)).map fun y => { v := fp32.decode y })).1
      ∃ u, exec (.vcvt c) s = .next u ∧ u.mem = v.mem ∧ (∀ d, d ≠ c.val → u.core d = v.core d) ∧
        (u.core c).vec.pend = k.vec.pend ++ [.reg ((e.start + 6) % 2 ^ 48) e.start vd x (decide (va ∈ k.vec.poisoned))] ∧
        (u.core c).vec.regs = k.vec.regs ∧ (u.core c).seqr.queue 3 = (k.seqr.queue 3).tail ∧
        (u.core c).arrA = k.arrA ∧ (u.core c).arrB = k.arrB ∧ (u.core c).ldl = k.ldl)

/-- The INT32 lanes of a result: sums, differences and products modulo 2 ^ 32, signed maximum and minimum (that they are signed is
assumption log 41), and VSEL by the sign of the third operand; each lane reads only its own lanes. -/
def Obligations.Int32LanesAreModular : Prop :=
  ∀ (a b c : BitVec 4096) (i : Nat), i < 128 →
    let x := a.extractLsb' (32 * i) 32
    let y := b.extractLsb' (32 * i) 32
    let z := c.extractLsb' (32 * i) 32
    (VOp.add.apply .int32 a b c).extractLsb' (32 * i) 32 = x + y ∧
    (VOp.sub.apply .int32 a b c).extractLsb' (32 * i) 32 = x - y ∧
    (VOp.mul.apply .int32 a b c).extractLsb' (32 * i) 32 = x * y ∧
    (VOp.max.apply .int32 a b c).extractLsb' (32 * i) 32 = (if x.toInt ≤ y.toInt then y else x) ∧
    (VOp.min.apply .int32 a b c).extractLsb' (32 * i) 32 = (if x.toInt ≤ y.toInt then x else y) ∧
    (VOp.sel.apply .int32 a b c).extractLsb' (32 * i) 32 = (if z.toInt < 0 then y else x)

/-- VECTOR_RESULT_LAND (R82), no drain unit at work and no RECV about to write its tile: a register write that is due reaches its register with its poison mark, a
memory write that is due stores its bytes at its address and nowhere else, and writes that are not due wait on. A store to
cluster memory is stored like that unless a higher core has written one of its 64-byte words in the same MCLK; a store to such
a word alone leaves memory as it was (R14; that the whole of it is dropped is assumption log 108). With a drain unit at work on its
beat, its next real vector leaves the drains, and the converted bytes, and no others, are stored at its row, of local SRAM or of cluster
memory, or are the whole of its vector register, poisoned as the vector is. -/
def Obligations.VectorResultsLand : Prop :=
  (∀ (c : CoreId) (s : State) (rest : List Pend),
    let k := s.core c
    (∀ x, (k.arr x).drain = none) → (∀ e d t m, s.ready c 5 = some e → e.cmd ≠ .recv d t 3 (some m)) →
    (∀ p ∈ rest, beatReached k.sbc p.due = false) → (∀ q ∈ k.ldl.emits, beatReached k.sbc q.1 = false) →
    (∀ due st v val p, k.vec.pend = .reg due st v val p :: rest → beatReached k.sbc due = true →
      ∃ u, exec (.vectorResultLand c) s = .next u ∧ s.onlyCore u c ∧ (u.core c).vec.reg v = val ∧
        (u.core c).vec.pend = rest ∧ (v ∈ (u.core c).vec.poisoned ↔ p = true) ∧ (∀ n, n ≠ v → (u.core c).vec.reg n = k.vec.reg n)) ∧
    (∀ due st a d p clm, s.mem.wf = true → k.vec.pend = .mem due st a d p clm :: rest → beatReached k.sbc due = true →
      (clm = true → ∀ w ∈ words64 a d.length, s.clmLoses c w = false) →
      ∃ u, exec (.vectorResultLand c) s = .next u ∧ Mem.readN u.mem a d.length = d ∧
        (∀ b, b < a ∨ a + d.length ≤ b → Mem.read u.mem b = Mem.read s.mem b) ∧ (u.core c).vec.pend = rest ∧
        (u.core c).vec.regs = k.vec.regs) ∧
    (∀ due st w d p, k.vec.pend = .mem due st (64 * w) d p true :: rest → d.length = 64 → beatReached k.sbc due = true →
      s.clmLoses c w = true → ∃ u, exec (.vectorResultLand c) s = .next u ∧ u.mem = s.mem ∧ (u.core c).vec.pend = rest)) ∧
  (∀ (c : CoreId) (x : Side) (s : State) (j : DrainJob) (o : OutVec),
    let k := s.core c
    let r := k.arr x
    k.st = .running → k.vec.pend = [] → k.ldl.emits = [] → (k.arr x.other).drain = none → s.mem.wf = true →
    (∀ e d t m, s.ready c 5 = some e → e.cmd ≠ .recv d t 3 (some m)) →
    r.drain = some j → (j.entry.start + j.next) % 2 ^ 48 = k.sbc →
    r.outs.find? (·.out) = some o → o.null = false → bit j.key.tensor 22 = false →
    let d := (convertVec j.fmt (j.oscale + j.cor) j.oscale (keyRnd (s.ctx k.ctx).seed j.entry.step j.key j.sr j.next)
      (o.lanes.map (·.present o.fp))).1
    ∃ u, exec (.vectorResultLand c) s = .next u ∧ ((u.core c).arr x).outs = popOut r.outs ∧ (u.core c).vec.pend = [] ∧
      (∀ m, j.dst = .mem m → (m.clm = true → ∀ w ∈ words64 (m.addr c j.next) d.length, s.clmLoses c w = false) →
        Mem.readN u.mem (m.addr c j.next) d.length = d ∧
        (∀ b, b < m.addr c j.next ∨ m.addr c j.next + d.length ≤ b → Mem.read u.mem b = Mem.read s.mem b) ∧
        (u.core c).vec.regs = k.vec.regs) ∧
      (∀ n, j.dst = .vreg n → u.mem = s.mem ∧ (u.core c).vec.reg (n + j.next) = regOfBytes d ∧
        (n + j.next ∈ (u.core c).vec.poisoned ↔ o.poison = true) ∧
        ∀ i, i ≠ n + j.next → (u.core c).vec.reg i = k.vec.reg i))

/-! ### The hoop (R16, R18, R21 to R23, R32, R33, R184, R313) -/

/-- INJECT and TURN on their beat (R21, R23, R184). A TURN that would put more turning flits on the ring than 32 for each cluster
is refused with ILLEGAL_OP (R32). From an empty injection port the core freezes under cause 3; with the outgoing hop busy or
without credit, or a tile about to be forwarded on it, under cause 8. Else one tile leaves for the next position of the ring,
behind every tile under way: its payload the bytes of the source, its tag the descriptor's with the step's parity, or that of
the run's granule, and its own CHECK; the hop is busy for as many periods as the tile has flits, and a run taken from the port
leaves it. A run of another length than the format's is a FORMAT_MISMATCH fault. Memory does not change. That the tile arrives after
the nominal latency is the model's choice (assumption log 37), and that its source is read on the start beat is assumption log 39. -/
def Obligations.InjectSendsItsTile : Prop :=
  ∀ (c : CoreId) (s : State) (e : QEntry) (i : InjCmd) (f : Fmt),
    s.acts c 5 e → e.cmd = .inject i → Fmt.ofCode i.tag.fmt = some f →
    let row : Instr := if i.turn then .turn c else .inject c
    let v := s.land c
    let k := v.core c
    let cl := clusterOf c
    let port := AMap.get (v.cluster cl).ports [] (c.val % 4)
    let overfull : Prop := i.turn = true ∧ 32 * (v.ctx k.ctx).count < v.turningFlits k.ctx i.dir + f.flits
    let empty : Prop := i.src = .special ∧ port = []
    let blocked : Prop := v.hopFree k.ctx c i.dir = false ∨ v.forwardWaits c i.dir = true
    let refused (code : Nat) : Prop := ∃ u, exec row s = .next u ∧ (u.core c).st = .faulted ∧ u.dev.air = v.dev.air ∧ u.mem = v.mem ∧
      u.field .coreFault (coreIdx c) 63 48 = code
    let sent (u : State) (t : Tile) : Prop := u.mem = v.mem ∧ (∃ n lat, v.ringNext k.ctx c i.dir = some (n, lat) ∧
      u.dev.air = v.dev.air ++ [⟨n, i.dir, t, k.ctx, c, s.dev.period + lat, false, false⟩]) ∧
      t.tag.tensor = i.tag.tensor ∧ t.tag.row = i.tag.row ∧ t.tag.col = i.tag.col ∧ t.tag.fmt = i.tag.fmt ∧ t.tag.hops = i.hops ∧
      t.tag.frozen = i.frozen ∧ t.tag.check = t.tag.crc ∧ t.tag.rsv = 0
    (overfull → refused 0x0105) ∧
    (¬ overfull → empty → exec row s = .next (v.setCore c (k.frozenOn 3 5))) ∧
    (¬ overfull → ¬ empty → blocked → exec row s = .next (v.setCore c (k.frozenOn 8 5))) ∧
    (¬ overfull → ¬ blocked →
      (∀ m, i.src = .mem m → ∃ u t, exec row s = .next u ∧ sent u t ∧ t.data = v.bytes (m.addr c 0) (f.payload + f.scales) ∧
        t.tag.parity = (xor (e.step.toNat % 2 == 1) i.par) ∧
        ∃ h, u.core c = { (s.onBeat c e).core c |>.taken 5 with
          hoop := (k.hoop.setHeld i.dir h).setBusy i.dir (s.dev.period + f.flits) }) ∧
      (∀ r rs, i.src = .special → port = r :: rs →
        (r.data.length ≠ f.payload + f.scales → refused 0x0109) ∧
        (r.data.length = f.payload + f.scales → ∃ u t, exec row s = .next u ∧ sent u t ∧ t.data = r.data ∧ t.bad = r.bad ∧
          t.tag.parity = (match r.gpar with | some p => p | none => (xor (e.step.toNat % 2 == 1) i.par)) ∧
          AMap.get (u.cluster cl).ports [] (c.val % 4) = rs ∧
          ∃ h, u.core c = { k.taken 5 with hoop := (k.hoop.setHeld i.dir h).setBusy i.dir (s.dev.period + f.flits) })))

/-- RECV on its beat (R16, R36, R120): with no unnamed tile, or with one that is not complete and has to be, the core freezes
under cause 2; which RECV needs the whole tile is assumption log 27. RECV to an array, or to both, hands the tile over and names it;
RECV to memory, no other write of the core being due, writes the tile's bytes, and no others, and the tile has left the buffer (R313),
or, past the 24 MiB, writes nothing and faults with ADDR_RANGE. PASS adds to the tiles to pass; RETIRE names the turning tiles of its
set that this position has turned (R32). Neither does anything else. -/
def Obligations.RecvPassRetire : Prop :=
  (∀ (c : CoreId) (s : State) (e : QEntry) (d : Dir), s.acts c 5 e →
    let v := s.land c
    let k := v.core c
    (∀ turn dest m, e.cmd = .recv d turn dest m → dest ≤ 2 →
      (k.hoop.awaited d turn = none → exec (.recv c) s = .next (v.setCore c (k.frozenOn 2 5))) ∧
      (∀ b, k.hoop.awaited d turn = some b → k.wholeTile dest = true → b.complete s.dev.period = false →
        exec (.recv c) s = .next (v.setCore c (k.frozenOn 2 5))) ∧
      (∀ b, k.hoop.awaited d turn = some b → (k.wholeTile dest = false ∨ b.complete s.dev.period = true) →
        let h : Handed := ⟨b.uid, d, turn, b.tile, b.since, k.sbc⟩
        ∃ u, exec (.recv c) s = .next u ∧ v.onlyCore u c ∧
          (u.core c).arrA.handed = k.arrA.handed ++ (if dest = 1 then [] else [h]) ∧
          (u.core c).arrB.handed = k.arrB.handed ++ (if dest = 0 then [] else [h]) ∧
          (u.core c).arrA.outs = k.arrA.outs ∧ (u.core c).arrB.outs = k.arrB.outs ∧
          (u.core c).seqr = (k.taken 5).seqr ∧ (u.core c).st = .running)) ∧
    (∀ n, e.cmd = .pass d n → exec (.pass c) s = .next (v.setCore c { k.taken 5 with hoop := k.hoop.setPass d (k.hoop.pass d + n) })) ∧
    (∀ t, e.cmd = .retire d t → ∃ u, exec (.retire c) s = .next u ∧ u.core c = k.taken 5 ∧ u.mem = v.mem ∧
      u.dev.air = v.dev.air.map fun a =>
        if a.origin = c.val ∧ a.dir = d ∧ a.tile.tag.hops = 255 ∧ a.tile.tag.tensor = t then { a with retire := true } else a)) ∧
  (∀ (c : CoreId) (s : State) (e : QEntry) (d : Dir) (turn : Bool) (r : MemRef),
    let k := s.core c
    s.ready c 5 = some e → e.cmd = .recv d turn 3 (some r) → (∀ x, (k.arr x).drain = none) → k.vec.pend = [] → k.ldl.emits = [] →
    ((∀ b, k.hoop.awaited d turn = some b → b.complete s.dev.period = false) →
      ∃ u, exec (.recv c) s = .next u ∧ u.core c = k.frozenOn 2 5 ∧ u.mem = s.mem) ∧
    (∀ b, k.hoop.awaited d turn = some b → b.complete s.dev.period = true →
      (s.mem.wf = true → r.base + b.tile.data.length ≤ 0x01800000 → ∃ u, exec (.recv c) s = .next u ∧
        u.bytes (r.addr c 0) b.tile.data.length = b.tile.data ∧
        (∀ a, a < r.addr c 0 ∨ r.addr c 0 + b.tile.data.length ≤ a → Mem.read u.mem a = Mem.read s.mem a) ∧
        (∀ z ∈ (if turn then (u.core c).hoop.turnBuf d else (u.core c).hoop.buf d), z.uid ≠ b.uid) ∧
        (u.core c).seqr.queue 5 = (k.seqr.queue 5).tail ∧ (u.core c).st = .running) ∧
      (0x01800000 < r.base + b.tile.data.length → ∃ u, exec (.recv c) s = .next u ∧
        u.mem = s.mem ∧ (u.core c).hoop = k.hoop ∧ (u.core c).st = .faulted ∧ u.field .coreFault (coreIdx c) 63 48 = 0x0104)))

/-- TILE_ARRIVE of the oldest tile on the way, its tag bits flipped as given, and TILE_BUFFER_ADMIT of one that waits. Before the
tile has come, or while the cluster's clock has stopped (R233), nothing happens (assumption log 5). A tag whose CHECK fails or whose reserved bits are set stops there: the tile is gone, and an
assigned core is FAULTED with TAG_MISMATCH (R18). An intact tile is copied, forwarded, or taken off the ring as R21, R22, R32
and R33 say; while the copy finds no room, or the outgoing hop is not free, it waits in the elastic buffer. No byte of memory
and no other core changes but for the fill of the next position's elastic buffer. That a forwarded tile arrives after the nominal latency
is the model's choice (assumption log 37), and when a turning tile is copied is assumption log 38. What a position does: one that holds no slot forwards until HOPS is used up; one that does keeps
the tile on its last hop, passes it on while a PASS is left, and else copies and forwards it; a turning tile goes on, copied
when a RECV wants it, until it comes back to the position that turned it and a RETIRE has named it. -/
def Obligations.TilesArriveOnTheirLastHop : Prop :=
  (∀ (c : CoreId) (d : Dir) (s : State),
    let k := s.core c
    let done (b : Air) (u : State) : Prop :=
      let act := s.actOn c b
      let t := b.tile.hopped
      let waits : Prop := (act.copy = true ∧ k.hoop.room d t = false) ∨ (act.forward = true ∧ s.hopFree b.ctx c d = false)
      u.mem = s.mem ∧ (∀ j, j ≠ c.val → ∃ h, u.core j = { s.core j with hoop := (s.core j).hoop.setHeld d h }) ∧
      (waits → u.dev.air = airReplace c d (some { b with stalled := true }) s.dev.air ∧ u.core c = k) ∧
      (¬ waits → u.core c = { k with hoop := (u.core c).hoop } ∧
        (u.core c).hoop.pass d = k.hoop.pass d - (if act.pass then 1 else 0) ∧
        (let new : List TBuf := if act.copy then [⟨k.hoop.uid, t, s.dev.period, false, 0, 0⟩] else []
         if t.tag.hops = 255 then (u.core c).hoop.turnBuf d = k.hoop.turnBuf d ++ new ∧ (u.core c).hoop.buf d = k.hoop.buf d
         else (u.core c).hoop.buf d = k.hoop.buf d ++ new ∧ (u.core c).hoop.turnBuf d = k.hoop.turnBuf d) ∧
        (act.forward = false → u.dev.air = airReplace c d none s.dev.air) ∧
        (act.forward = true → ∃ n lat, s.ringNext b.ctx c d = some (n, lat) ∧
          u.dev.air = airReplace c d none s.dev.air ++ [⟨n, d, t, b.ctx, b.origin, s.dev.period + lat, false, b.retire⟩]))
    (s.airHead c d = none → ∀ flips ce ue, exec (.tileArrive c d flips ce ue) s = .next s ∧ exec (.tileBufferAdmit c d) s = .next s) ∧
    (∀ a, s.airHead c d = some a →
      (∀ flips ce ue,
        let tag := a.tile.tag.flip flips
        let w := (ue.filter fun w => decide (w < a.tile.data.length / 8)).foldl insertNat []
        (a.stalled = true ∨ s.dev.period < a.readyAt ∨ s.regionStopped (clusterOf c) = true →
          exec (.tileArrive c d flips ce ue) s = .next s) ∧
        (a.stalled = false → a.readyAt ≤ s.dev.period → s.regionStopped (clusterOf c) = false →
          (tag.crc ≠ tag.check ∨ tag.rsv ≠ 0 → ∃ u, exec (.tileArrive c d flips ce ue) s = .next u ∧ u.mem = s.mem ∧
            u.dev.air = airReplace c d none s.dev.air ∧ (u.core c).hoop = k.hoop ∧
            (k.slot.isSome → k.live = true → (u.core c).st = .faulted ∧ u.field .coreFault (coreIdx c) 63 48 = 0x0101)) ∧
          (tag.crc = tag.check → tag.rsv = 0 → ∃ u, exec (.tileArrive c d flips ce ue) s = .next u ∧
            done { a with tile := ({ a.tile with tag := tag } : Tile).spoil w } u))) ∧
      (a.stalled = false ∨ s.regionStopped (clusterOf c) = true → exec (.tileBufferAdmit c d) s = .next s) ∧
      (a.stalled = true → s.regionStopped (clusterOf c) = false → ∃ u, exec (.tileBufferAdmit c d) s = .next u ∧ done { a with stalled := false } u))) ∧
  (∀ (c : CoreId) (s : State) (a : Air),
    let k := s.core c
    let h := a.tile.tag.hops
    (h = 255 → a.origin = c.val → a.retire = true → s.actOn c a = ⟨false, false, true, false⟩) ∧
    (h = 255 → a.origin ≠ c.val ∨ a.retire = false → s.actOn c a = ⟨k.slot.isSome && k.turnWanted a.dir, true, false, false⟩) ∧
    (1 ≤ h → h < 255 → k.slot = none → s.actOn c a = ⟨false, h != 1, h == 1, false⟩) ∧
    (h = 1 → k.slot.isSome → s.actOn c a = ⟨true, false, true, false⟩) ∧
    (2 ≤ h → h < 255 → k.slot.isSome → 0 < k.hoop.pass a.dir → s.actOn c a = ⟨false, true, false, true⟩) ∧
    (2 ≤ h → h < 255 → k.slot.isSome → k.hoop.pass a.dir = 0 → s.actOn c a = ⟨true, true, false, false⟩))

/-! ### Barriers, flags, the rind instruction (R65, R66, R286) -/

/-- SYNC_BAR on its beat: an arrival at its ID, or, while the core's earlier arrival there is incomplete, a freeze under cause
5. BARRIER_COMPLETE: once every core that takes part has arrived with the same scope, all of them leave the barrier, and
each sees every write of cluster memory that any of them has made by then (R14); else nothing happens (assumption log 5). That only
arrivals of the same scope complete a barrier is the model's choice (assumption log 111); what an arrival makes visible is assumption
log 25. SYNC_FLAG adds one to
its flag modulo 2 ^ 16, at once with no earlier store to cluster memory under way, and else when it has been performed. RIND
leaves its queue, and starts or joins a wave only if its context allows it. -/
def Obligations.SynchronisationOfCores : Prop :=
  ∀ (c : CoreId) (s : State),
    let k := s.core c
    (∀ e id arc, s.ready c 8 = some e → e.cmd = .bar id arc →
      exec (.syncBar c) s = .next (s.setCore c (if AMap.find? k.bars id = none then
        { k.taken 8 with bars := AMap.set k.bars id (if arc then 1 else 0) } else k.frozenOn 5 8))) ∧
    (∀ (id : Fin 16), AMap.find? k.bars id = none → exec (.barrierComplete c id) s = .next s) ∧
    (∀ (id : Fin 16) sc, AMap.find? k.bars id = some sc →
      let ps := s.barCores c (sc == 1)
      ((∃ d ∈ ps, AMap.find? (s.core d).bars id ≠ some sc) → exec (.barrierComplete c id) s = .next s) ∧
      ((∀ d ∈ ps, AMap.find? (s.core d).bars id = some sc) → ∃ u, exec (.barrierComplete c id) s = .next u ∧
        (∀ d ∈ ps, AMap.find? (u.core d).bars id = none) ∧ (∀ d, d ∉ ps → u.core d = s.core d) ∧ u.mem = s.mem ∧
        ∀ d ∈ ps, ∀ w x, AMap.find? s.dev.clm.words w = some x → x.writer ∈ ps →
          s.dev.clm.seq ≤ u.dev.clm.visible d x.writer)) ∧
    (∀ e f, s.acts c 8 e → e.cmd = .flag f →
      let v := s.land c
      let k := v.core c
      let flag (t : State) (g : Nat) : Nat := AMap.get (t.cluster (clusterOf c)).flags 0 g
      k.flagPosts = [] → ∃ u, exec (.syncFlag c) s = .next u ∧ u.mem = v.mem ∧ (u.core c).seqr.queue 8 = (k.seqr.queue 8).tail ∧
        (∀ d, d ≠ c.val → u.core d = v.core d) ∧
        (k.clmStores e.start = false → (u.core c).flagPosts = [] ∧
          ∀ g, flag u g = if g = f then (flag v g + 1) % 65536 else flag v g) ∧
        (k.clmStores e.start = true → (u.core c).flagPosts = [(f, e.start)] ∧ ∀ g, flag u g = flag v g)) ∧
    (∀ e, s.ready c 9 = some e →
      ∃ u, exec (.rind c) s = .next u ∧ u.core c = k.taken 9 ∧ u.mem = s.mem ∧
        ((∃ x, k.owner = some x ∧ (s.ctx x).rindProg = true) → s.dev.rind.cur = none → u.dev.rind.wave = (s.dev.rind.wave + 1) % 65536) ∧
        ((∀ x, k.owner = some x → (s.ctx x).rindProg = false) → u.dev.rind = s.dev.rind))

/-! ### Streams (R159, R173 to R180, R185, R188, R162) -/

/-- ARM and WAITST on their beat (R175 to R177): a stream that is IDLE or DONE is ARMED at the entry; one that is at work keeps
one pending arm and refuses a second with ARM_OVERRUN; one in FAULTED ignores it. WAITST leaves one arm wait, and a second is
refused. -/
def Obligations.ArmsAndArmWaits : Prop :=
  ∀ (c : CoreId) (s : State) (e : QEntry) (x : Nat),
    let k := clusterOf c
    let v := s.land c
    let t := v.stream k x
    s.acts c 6 e →
    (∀ n0 n, e.cmd = .arm x n0 n → ∃ u, exec (.arm c) s = .next u ∧ u.core c = (v.core c).taken 6 ∧ u.mem = v.mem ∧
      (t.st = .idle ∨ t.st = .done → u.stream k x = { t with
        st := .armed, next := n0, left := n, firstOfArm := true, armedAt := s.dev.period, pend := none,
        takenWait := t.armWait, armWait := none, met := false }) ∧
      (t.st = .faulted → u.stream k x = t) ∧
      (t.st = .armed ∨ t.st = .running ∨ t.st = .draining → u.stream k x = (if t.pend = none then { t with pend := some (n0, n) } else t) ∧
        (t.pend ≠ none → v.field .strFault [k] 8 8 = 0 → u.field .strFault [k] 63 48 = 0x0201))) ∧
    (∀ y tgt, e.cmd = .waitst x y tgt → ∃ u, exec (.waitst c) s = .next u ∧ u.core c = (v.core c).taken 6 ∧ u.mem = v.mem ∧
      u.stream k x = (if t.armWait = none then { t with armWait := some (y, tgt) } else t) ∧
      (t.armWait ≠ none → v.field .strFault [k] 8 8 = 0 → u.field .strFault [k] 63 48 = 0x0201))

/-- STREAM_ENTRY_BEGIN (R173, R174, R178, R180), the cluster's clock running and no later stream's entry begun in the period (assumption
log 124). An entry whose own wait does not hold, of a stream that is armed, does not begin; a wait that has held stays satisfied, and
nothing else changes. An entry that breaks the form of R173 puts the stream in FAULTED, and one that R174 refuses too, with its code.
An entry whose waits hold, its form and reach right and room in flight, begins: the stream goes on by one entry. Its COUNT runs, where
no regulator holds them and nothing waits before them at the hub cache or the cave, move at once (assumption log 53): a GATHER's far bytes, and
no others, are at the near ends, a SCATTER's near bytes at the far ends, or wait to be programmed where those lie in the cave, HOSTRD
and HOSTWR copy from and to host memory, a run for an injection port with room enters it with its poisoned sectors and its granule's
parity, and LISTLD fills the descriptor store. Where regulators hold every part, they wait there and no byte changes yet. ATOMIC runs
queue for the hub cache; SEND runs wait for the flow's credit, or leave as one message each; an entry without a transfer is complete
and counted. -/
def Obligations.StreamEntriesBegin : Prop :=
  ∀ (k : ClusterId) (x : Fin 64) (s : State) (c : Nat),
    let t := s.stream k x
    let e := (s.cluster k).entry t.next
    let runs := List.range e.count
    let near := e.nearAddr k
    let who : Waiter := .stream k x t.seq
    let free : Prop := s.regionStopped 17 = false ∧ s.dev.hubQ = [] ∧ s.dev.caveQ = [] ∧
      ∀ i ∈ runs, ∀ g ∈ granParts (e.far i) e.len, s.regulator c g.1 = none
    let apart (p q : Nat → Nat) : Prop := ∀ i ∈ runs, ∀ j ∈ runs, p i + e.len ≤ q j ∨ q j + e.len ≤ p i
    let disjoint (p : Nat → Nat) : Prop := ∀ i ∈ runs, ∀ j ∈ runs, i ≠ j → p i + e.len ≤ p j ∨ p j + e.len ≤ p i
    let caved (p : Nat → Nat) (b : Bool) : Prop := ∀ i ∈ runs, ∀ a, p i ≤ a → a < p i + e.len → s.inCave a = b
    let moved (u : State) (src dst : Nat → Nat) : Prop := (∀ i ∈ runs, u.bytes (dst i) e.len = s.bytes (src i) e.len) ∧
      ∀ a, (∀ i ∈ runs, a < dst i ∨ dst i + e.len ≤ a) → Mem.read u.mem a = Mem.read s.mem a
    s.clusterCtx k = some c → s.regionStopped k = false → (s.ctx c).halted = false → t.pending = true → t.armedAt < s.dev.period →
    s.laterBegan k x = false →
    (s.waitHolds k e = false → t.met = false → ∃ u, exec (.streamEntryBegin k x) s = .next u ∧ s.onlyCluster u k ∧
      u.stream k x = { t with takenWait := if s.armHolds k t then none else t.takenWait }) ∧
    (t.met = true ∨ s.waitHolds k e = true → s.armHolds k t = true → (e.fence = true → ∀ b ∈ t.begun, b.complete = true) →
      t.inFlight < 8 → (s.cluster k).inFlight < 256 → (∀ r ∈ s.dev.link.sends, ∀ q, r.who ≠ .stream k x q) →
      (e.formatOk = false → ∃ u, exec (.streamEntryBegin k x) s = .next u ∧ (u.stream k x).st = .faulted ∧ u.mem = s.mem ∧
        (s.field .strFault [k] 8 8 = 0 → u.field .strFault [k] 63 48 = 0x0203)) ∧
      (∀ code cause m, e.formatOk = true → s.entryRefused k c e = some (code, cause, m) → ∃ u, exec (.streamEntryBegin k x) s = .next u ∧
        (u.stream k x).st = .faulted ∧ u.mem = s.mem ∧
        (s.field .strFault [k] 8 8 = 0 → u.field .strFault [k] 63 48 = code % 65536)) ∧
      (e.formatOk = true → s.entryRefused k c e = none → s.mem.wf = true → s.host.mem.wf = true →
        ∃ u, exec (.streamEntryBegin k x) s = .next u ∧
          (e.op ≠ 6 ∨ t.pend = none → (u.stream k x).next = t.next + 1 ∧ (u.stream k x).left = t.left - 1) ∧
          (e.op ≠ 6 → (u.stream k x).st = (if t.left ≤ 1 then .draining else .running) ∧
            (u.stream k x).begun = t.begun ++ [⟨t.next, t.seq, false⟩]) ∧
          (e.op = 0 → e.nhoop = false → free → apart e.far near → caved near false → moved u e.far near) ∧
          (e.op = 1 → free → apart near e.far → disjoint e.far → caved e.far false → moved u near e.far) ∧
          (e.op = 1 → free → caved e.far true → u.mem = s.mem ∧ (0 < e.count → u.waits who = true)) ∧
          (e.op = 0 ∨ e.op = 1 ∨ e.op = 7 → (∀ i ∈ runs, ∀ g ∈ granParts (e.far i) e.len, (s.regulator c g.1).isSome) →
            u.mem = s.mem ∧ (0 < e.count → u.waits who = true)) ∧
          (e.op = 0 → e.nhoop = true → free → AMap.get (s.cluster k).portWait [] e.port = [] →
            (∀ i ∈ runs, s.actWaits (.port k x t.seq i) = false) →
            (((AMap.get (s.cluster k).ports [] e.port).map (·.data.length)).foldl (· + ·) 0) + e.count * e.len ≤ 131072 →
            u.mem = s.mem ∧ AMap.get (u.cluster k).ports [] e.port = AMap.get (s.cluster k).ports [] e.port ++ runs.map fun i =>
              ⟨s.bytes (e.far i) e.len, (s.badIn (e.far i) e.len).map (· - e.far i / 32),
                if e.gpar then some (match s.gran (e.far i / granBytes) with | some g => g.parity | none => false) else none⟩) ∧
          (e.op = 2 → u.mem = s.mem ∧
            u.dev.hubQ = s.dev.hubQ ++ runs.map fun i => .atomic ⟨k, x, t.seq, e.far i, near i, e.aop, e.atype⟩) ∧
          (e.op = 3 → (∀ r ∈ s.dev.link.sends, r.flow ≠ e.flow) →
            ((s.flow e.flow).credit = 0 → u.mem = s.mem ∧
              u.dev.link.sends = s.dev.link.sends ++ runs.map fun i => ⟨e.flow, near i, e.len, who⟩) ∧
            (e.count ≤ (s.flow e.flow).credit → (s.flow e.flow).peer ≠ s.moduleId → u.mem = s.mem ∧ u.dev.link.sends = s.dev.link.sends ∧
              (u.flow e.flow).credit = (s.flow e.flow).credit - e.count ∧
              (u.flow e.flow).msgs % 2 ^ 32 = ((s.flow e.flow).msgs + e.count) % 2 ^ 32)) ∧
          (e.op = 4 → (∀ i ∈ runs, u.bytes (near i) e.len = Mem.readN s.host.mem (hostKey (s.ctx c).hostFn (e.far i)) e.len) ∧
            ∀ a, (∀ i ∈ runs, a < near i ∨ near i + e.len ≤ a) → Mem.read u.mem a = Mem.read s.mem a) ∧
          (e.op = 5 → disjoint e.far → u.mem = s.mem ∧
            ∀ i ∈ runs, Mem.readN u.host.mem (hostKey (s.ctx c).hostFn (e.far i)) e.len = s.bytes (near i) e.len) ∧
          (e.op = 6 → t.begun = [] → s.entryDone k x t.seq = true → u.mem = s.mem ∧ (u.stream k x).doneCnt = (t.doneCnt + 1) % 65536) ∧
          (e.op = 7 → free → u.mem = s.mem ∧ ∀ i ∈ runs, ∀ j, j < e.len / 32 →
            AMap.get (u.cluster k).store 0 (e.near + e.len / 32 * i + j) = BitVec.ofNat 256 (leNat (s.bytes (e.far i + 32 * j) 32)))))

/-- STREAM_ENTRY_COMPLETE (R176, R179), the cluster's clock running and no run waiting at a port of the cluster: of the entries that a
stream has begun, those whose work is done are complete, the complete ones at the front of their order leave it and are counted modulo
2 ^ 16, and an entry with work left, and those behind it, are not. After the last one of an arm the stream is DONE, or its pending arm
takes effect. -/
def Obligations.StreamEntriesComplete : Prop :=
  ∀ (k : ClusterId) (x : Fin 64) (s : State),
    let t := s.stream k x
    let done (b : Begun) : Bool := b.complete || s.entryDone k x b.seq
    let n := (t.begun.takeWhile done).length
    s.regionStopped k = false → (∀ p, AMap.get (s.cluster k).portWait [] p = []) →
    ∃ u, exec (.streamEntryComplete k x) s = .next u ∧ u.mem = s.mem ∧ (u.stream k x).doneCnt = (t.doneCnt + n) % 65536 ∧
      (u.stream k x).begun = (t.begun.drop n).map (fun b => { b with complete := done b }) ∧
      (t.st = .draining → n = t.begun.length → t.pend = none → (u.stream k x).st = .done) ∧
      (t.st = .draining → n = t.begun.length → ∀ n0 m, t.pend = some (n0, m) →
        (u.stream k x).st = .armed ∧ (u.stream k x).next = n0 ∧ (u.stream k x).left = m) ∧
      (t.st ≠ .draining ∨ n < t.begun.length → (u.stream k x).st = t.st)

/-- HUB_ATOMIC (R159, R160) of the oldest atomic, its record apart from its target, and no run waiting right behind it, landing writes
that may now be performed following: the record's
bytes 16 to 23 take the old value and the target what the operation makes of it, and no other byte changes; an ACC48 changes its target
alone. On 32-bit integers that is the sum modulo 2 ^ 32, the signed minimum or maximum, the bitwise and or or, the operand, or on
equality the operand. -/
def Obligations.AtomicsUpdateTheirWord : Prop :=
  (∀ (s : State) (a : AtomicReq) (rest : List HubReq), s.dev.hubQ = .atomic a :: rest → (∀ w f l, rest ≠ .run w f :: l) →
    s.regionStopped 17 = false → s.mem.wf = true →
    let n := if a.atype = 1 then 8 else 4
    let old := Mem.readLE s.mem a.target n
    let x := Mem.readLE s.mem a.rcd n
    (a.aop ≠ 7 → a.target + n ≤ a.rcd ∨ a.rcd + 24 ≤ a.target →
      ∃ u : State, exec .hubAtomic s = .next u.settleLandings ∧ u.dev.hubQ = rest ∧
        Mem.readLE u.mem a.target n = atomicValue a.aop a.atype old x (Mem.readLE s.mem (a.rcd + 8) n) % 2 ^ (8 * n) ∧
        Mem.readLE u.mem (a.rcd + 16) 8 = old ∧
        ∀ b, (b < a.target ∨ a.target + n ≤ b) → (b < a.rcd + 16 ∨ a.rcd + 24 ≤ b) → Mem.read u.mem b = Mem.read s.mem b) ∧
    (a.aop = 7 → ∃ u : State, exec .hubAtomic s = .next u.settleLandings ∧ u.dev.hubQ = rest ∧
      ∀ b, (b < a.target ∨ a.target + 8 ≤ b) → Mem.read u.mem b = Mem.read s.mem b)) ∧
  (∀ s : State, (∀ f ∈ s.dev.link.flows, f.2.landings = []) → s.dev.link.held = [] → s.settleLandings = s) ∧
  (∀ (aop old x cmp : Nat), old < 2 ^ 32 → x < 2 ^ 32 → cmp < 2 ^ 32 →
    let o := BitVec.ofNat 32 old
    let y := BitVec.ofNat 32 x
    BitVec.ofNat 32 (atomicValue aop 0 old x cmp) = (match aop with
      | 0 => o + y
      | 1 => if y.toInt < o.toInt then y else o
      | 2 => if o.toInt < y.toInt then y else o
      | 3 => o &&& y
      | 4 => o ||| y
      | 5 => y
      | 6 => if o = BitVec.ofNat 32 cmp then y else o
      | _ => o))

/-- DEADLOCK_SCAN (R185), the cluster's clock running: without a cycle of waiting streams in the cluster, every stream stays as it
is; each stream of a cycle is FAULTED, and the context is halted with its event-halt mark. Memory does not change.
PACE_BOUNDARY (R188): when the period of a paced, running context is over, its boundary count goes on by one, the next
boundary is due one period later, and every core of the context receives one boundary; before that nothing happens (assumption log 5).
HBM_REFRESH (R162), the rails on: no data, no beat and no state of a core changes; that the stack shows then the temperature it reports
and, above 85 °C, its doubled refresh rate is the model's choice (assumption log 99). -/
def Obligations.DeadlocksBoundariesAndRefresh : Prop :=
  (∀ (k : ClusterId) (s : State), s.regionStopped k = false → ∃ u, exec (.deadlockScan k) s = .next u ∧ u.mem = s.mem ∧
      ((∀ x, x < 64 → s.cycle k x = []) → u.cluster k = s.cluster k) ∧
      (∀ x, x < 64 → s.cycle k x ≠ [] → (∀ y ∈ s.cycle k x, x ≤ y) →
        (∀ y ∈ s.cycle k x, (u.stream k y).st = .faulted) ∧
        ∀ c, s.clusterCtx k = some c → (u.ctx c).evhalt = true ∧ (u.ctx c).halted = true)) ∧
  (∀ (c : CtxId) (s : State), s.paceDue c = false → exec (.paceBoundary c) s = .next s) ∧
  (∀ (c : CtxId) (s : State), s.paceDue c = true → (s.ctx c).slots.Nodup →
      ∃ u, exec (.paceBoundary c) s = .next u ∧ u.mem = s.mem ∧ (u.ctx c).paceAt = (s.ctx c).paceAt + (s.ctx c).period ∧
        u.field .paceBound [c] 47 0 = (s.field .paceBound [c] 47 0 + 1) % 2 ^ 48 ∧
        (∀ d ∈ (s.ctx c).slots, (u.core d).seqr.received = (s.core d).seqr.received + 1 ∧ (u.core d).sbc = (s.core d).sbc) ∧
        (∀ d, d ∉ (s.ctx c).slots → u.core d = s.core d)) ∧
  (∀ (n : StackId) (temp : Nat) (s : State), s.nv.power.rails = true → ∃ u, exec (.hbmRefresh ⟨n, temp⟩) s = .next u ∧ u.mem = s.mem ∧ u.bad = s.bad ∧ u.nv = s.nv ∧
      (temp < 256 → u.field .hbmStatus [n] 11 4 = temp) ∧ u.field .hbmStatus [n] 3 3 = (if 85 < temp then 1 else 0) ∧
      ∀ d, (u.core d).sbc = (s.core d).sbc ∧ (u.core d).st = (s.core d).st ∧ (u.core d).vec = (s.core d).vec ∧
        (u.core d).seqr.queues = (s.core d).seqr.queues)

/-! ### Harp (R123, R124) -/

/-- ROWSTAT, ROWAPPLY, ROWGRAD and ORTHO on their start beat (R123): the command leaves the core's queue and waits at its
cluster's harp with the core as its port; nothing else changes. HARP_COMMAND_BEGIN: a free harp takes the waiting command that
became ready first, the lower port on a tie, for as many beats as it needs; a busy harp, one with nothing waiting, one in a
region without its clock, or one whose waiting commands a load or the end of its context is about to discard (R131), takes none
(assumption log 5). HARP_COMMAND_COMPLETE: before its last beat nothing happens; then the harp is free, the
command's flag has gone on by one modulo 2 ^ 16 and no other flag has changed; a ROWSTAT that clears has cleared the records of
its rows; and no byte of memory outside the rows of the command's output vectors, or outside the columns of an ORTHO, has
changed. -/
def Obligations.HarpCommandsRunInOrder : Prop :=
  ((∀ (c : CoreId) (s : State) (e : QEntry) (h : HarpCmd), s.acts c 7 e → e.cmd = .harp h → h.op < 4 →
      let v := s.land c
      exec (harpRow h.op c) s = .next ((v.setCore c ((v.core c).taken 7)).setCluster (clusterOf c) { v.cluster (clusterOf c) with
        harpQ := (v.cluster (clusterOf c)).harpQ ++ [⟨c.val % 4, c, e.start, some v.dev.period, e.step, h⟩] })) ∧
    (∀ (k : ClusterId) (s : State),
      let q := s.cluster k
      (∀ h : HarpQ, h ∈ q.harpQ → q.harpCur = none → s.regionStopped k = false → s.harpHeld k = false →
        (∀ g ∈ q.harpQ, g ≠ h → h.ready.getD 0 < g.ready.getD 0 ∨ (h.ready.getD 0 = g.ready.getD 0 ∧ h.port < g.port)) →
        exec (.harpCommandBegin k) s =
          .next (s.setCluster k { q with harpCur := some (h, s.dev.period + h.cmd.beats), harpQ := q.harpQ.erase h })) ∧
      (q.harpQ = [] ∨ q.harpCur ≠ none ∨ s.regionStopped k = true ∨ s.harpHeld k = true → exec (.harpCommandBegin k) s = .next s))) ∧
  (∀ (k : ClusterId) (s : State) (h : HarpQ) (till : Nat),
      let q := s.cluster k
      let d := h.cmd.d1
      q.harpCur = some (h, till) →
      (s.dev.period < till ∨ s.regionStopped k = true → exec (.harpCommandComplete k) s = .next s) ∧
      (till ≤ s.dev.period → s.regionStopped k = false → ∃ u, exec (.harpCommandComplete k) s = .next u ∧ (u.cluster k).harpCur = none ∧
        (u.cluster k).harpQ = q.harpQ ∧
        (∀ f, AMap.get (u.cluster k).flags 0 f = if f = h.cmd.flag then (AMap.get q.flags 0 f + 1) % 65536 else AMap.get q.flags 0 f) ∧
        (h.cmd.op = 0 → h.cmd.mode = 0 → ∀ r, r < d.rows → AMap.get (u.cluster k).records {} (d.stat + r) = .cleared) ∧
        (h.cmd.op ≠ 3 → (h.cmd.d2.getD d).len = d.len → s.mem.wf = true →
          ∀ a, (∀ o ∈ h.cmd.outputs, a < clusterAddr k o.1 ∨ clusterAddr k o.1 + d.rows * o.2 ≤ a) →
            Mem.read u.mem a = Mem.read s.mem a) ∧
        (h.cmd.op = 3 → s.mem.wf = true →
          ∀ a, (∀ i, i < h.cmd.r → a < clusterAddr k (d.base + d.estride * i) ∨ clusterAddr k (d.base + d.estride * i) + 4 * d.len ≤ a) →
            Mem.read u.mem a = Mem.read s.mem a)))

/-! ### Ripeners (R134 to R145) -/

/-- UPD at its start (R134, R136, R137, R139), for a stream that runs and whose records have been read, or pass no regulator: with a
record that is not well formed, an extent out of reach or a frozen tensor it is FAULTED; while its reduction or its norm word
is missing it waits; else it starts, and the first UPD of its group in a pass has stepped the group: T has gone on by one
modulo 2 ^ 64, and no byte outside the group's first 24 has changed. Where a read has to pass a regulator, the stream has only
asked for its reads, and waits for their tokens. -/
def Obligations.UpdStartsItsGroup : Prop :=
  ∀ (n : RipId) (c : CtxId) (s : State) (r : RipS),
    let rd := s.rd r.base
    let u := Upd.read rd r.at_
    let go := r.groupOff + 128 * u.group
    let refused : Prop := s.updOk r u = false ∨ bit u.tensor 22 = true ∨
      ∃ e ∈ u.extents (s.ruleOf r u).1 (s.ruleOf r u).2, s.reach c e.1 e.2 ≠ none
    s.rip n c = some r → s.ripRuns c r = true → r.started = none → s.ripOp r ≠ 0 → s.ripOp r ≠ 2 → s.waits (.ripener n c) = false →
    ((r.asked = true ∨ ∀ e ∈ s.startReads r, s.unregulated c e.1 e.2) →
      (refused → ∃ t, exec (.upd n c) s = .next t ∧ t.mem = s.mem ∧ t.rip n c = some { r with asked := true, st := .faulted }) ∧
      (¬ refused → s.updWaits r u = true →
        ∃ t, exec (.upd n c) s = .next t ∧ t.mem = s.mem ∧ t.rip n c = some { r with asked := true, st := .waiting }) ∧
      (¬ refused → s.updWaits r u = false → (AMap.find? r.begun u.group).isSome →
        ∃ t, exec (.upd n c) s = .next t ∧ t.mem = s.mem ∧
          t.rip n c = some { r with started := some u, done := 0, asked := false, st := .running }) ∧
      (¬ refused → s.updWaits r u = false → AMap.find? r.begun u.group = none → s.heldBack c r (r.base + go) 128 = false →
        s.mem.wf = true → s.direct c (r.base + go) 24 →
        ∃ t k, exec (.upd n c) s = .next t ∧
          t.rip n c = some { r with begun := AMap.set r.begun u.group k, started := some u, done := 0, asked := false, st := .running } ∧
          leNat (t.bytes (r.base + go) 8) = (rd go 8 + 1) % 2 ^ 64 ∧
          (∀ a, a < r.base + go ∨ r.base + go + 24 ≤ a → Mem.read t.mem a = Mem.read s.mem a))) ∧
    (r.asked = false → (∃ e ∈ s.startReads r, ∃ a, e.1 ≤ a ∧ a < e.1 + e.2 ∧ s.regulator c a ≠ none) →
      ∃ t, exec (.upd n c) s = .next t ∧ t.mem = s.mem ∧ t.rip n c = some { r with asked := true } ∧ t.waits (.ripener n c) = true)

/-- RIP_GRANULE_UPDATE (R135, R140 to R143) with one stream ready, what it reads having passed the regulators: one granule of its
parameters is updated; the stream has done that many more, the master weights and the averages hold what R141 gives, the working copy
the weights converted (R143), and no byte outside them has changed. Where a read has to pass a regulator, the stream has only asked for
its reads; that it asks for all of them first and then computes is assumption log 56. -/
def Obligations.RipenerUpdatesOneGranule : Prop :=
  ∀ (n : RipId) (c : CtxId) (s : State) (r : RipS) (u : Upd) (k : GroupC),
    s.ripReady n c = some (r, u, k) → s.waits (.ripener n c) = false → (∀ d : CtxId, d ≠ c → s.ripReady n d = none) →
    let m := u.granule r.done
    let reads := u.reads k r.done m
    let wa := u.master + 4 * r.done
    let aa := u.avg + avgBytes k.rule * r.done
    let ca := u.wcopy + wfmtBytes k.wfmt * r.done
    ((r.asked = true ∨ (s.snapWaits c r u k = false ∧ ∀ e ∈ reads, s.unregulated c e.1 e.2)) →
      s.direct c wa (4 * m) → s.direct c aa (avgBytes k.rule * m) → s.direct c ca (wfmtBytes k.wfmt * m) → s.mem.wf = true →
      (wa + 4 * m ≤ aa ∨ aa + avgBytes k.rule * m ≤ wa) → (wa + 4 * m ≤ ca ∨ ca + wfmtBytes k.wfmt * m ≤ wa) →
      (aa + avgBytes k.rule * m ≤ ca ∨ ca + wfmtBytes k.wfmt * m ≤ aa) →
      ∃ t x, exec (.ripGranuleUpdate n) s = .next t ∧ t.rip n c = some x ∧ x.done = r.done + m ∧ x.cmd = r.cmd ∧ x.asked = false ∧
        (∀ j, j < m →
          let p := s.paramOut c r u k (r.done + j)
          leNat (t.bytes (wa + 4 * j) 4) = p.w % 2 ^ 32 ∧
          leNat (t.bytes (aa + avgBytes k.rule * j) 4) = p.m % 2 ^ 32 ∧
          (k.rule ≠ 2 → leNat (t.bytes (aa + avgBytes k.rule * j + 4) 4) = p.v % 2 ^ 32) ∧
          leNat (t.bytes (ca + wfmtBytes k.wfmt * j) (wfmtBytes k.wfmt)) = p.copy.code % 2 ^ (8 * wfmtBytes k.wfmt)) ∧
        (∀ a, (a < wa ∨ wa + 4 * m ≤ a) → (a < aa ∨ aa + avgBytes k.rule * m ≤ a) → (a < ca ∨ ca + wfmtBytes k.wfmt * m ≤ a) →
          Mem.read t.mem a = Mem.read s.mem a)) ∧
    (r.asked = false → s.snapWaits c r u k = false → (∃ e ∈ reads, ∃ a, e.1 ≤ a ∧ a < e.1 + e.2 ∧ s.regulator c a ≠ none) →
      ∃ t, exec (.ripGranuleUpdate n) s = .next t ∧ t.mem = s.mem ∧ t.rip n c = some { r with asked := true } ∧
        t.waits (.ripener n c) = true)

/-- UPD_COMPLETE, PASS_END and UPDATE_NOP (R144): an UPD whose parameters are all done and whose traffic waits for nothing makes
way for the stream's next command, and POST adds one to the context's progress modulo 2 ^ 32; at the end of a pass the step
goes on by one and no group is begun; a NOP makes way. An UPD that has started is not looked up again (R135): neither PASS_END nor
UPDATE_NOP does anything then (assumption log 5). After the last command the stream goes on at CYCLE, or stops. Nothing else changes in
memory. -/
def Obligations.UpdateStreamsMoveOn : Prop :=
  ∀ (n : RipId) (c : CtxId) (s : State) (r : RipS), s.rip n c = some r →
    let last : Bool := decide (r.ncmd ≤ r.cmd + 1)
    let ends : Bool := last && r.cycle == 0xFFFFFFFF
    let next : RipS :=
      { r with
        started := none
        done := 0
        remote := []
        raised := false
        st := if ends then .stopped else .running
        cmd := if last && !ends then r.cycle else r.cmd + 1 }
    (∀ u, s.ripRuns c r = true → r.started = some u → r.done = u.count → s.waits (.ripener n c) = false →
      ∃ t, exec (.updComplete n c) s = .next t ∧ t.mem = s.mem ∧ t.rip n c = some next ∧
        (t.ctx c).prog = (if u.post then ((s.ctx c).prog + 1) % 2 ^ 32 else (s.ctx c).prog)) ∧
    (r.started.isSome → exec (.passEnd n c) s = .next s ∧ exec (.updateNop n c) s = .next s) ∧
    (s.ripRuns c r = true → r.started = none → r.cmd < r.ncmd → s.waits (.ripener n c) = false →
      (s.ripOp r = 2 → ∃ t, exec (.passEnd n c) s = .next t ∧ t.mem = s.mem ∧
        t.rip n c = some { next with step := r.step + 1, begun := [] }) ∧
      (s.ripOp r = 0 → ∃ t, exec (.updateNop n c) s = .next t ∧ t.mem = s.mem ∧ t.rip n c = some next)) ∧
    (s.ripRuns c r = false ∨ s.waits (.ripener n c) = true ∨ (∀ u, r.started = some u → r.done ≠ u.count) →
      exec (.updComplete n c) s = .next s)

/-! ### Memory tiers (R149, R155, R157, R161 to R166, R304) -/

/-- GRANULE_MOVE (R149, R155): a queued promotion, still enabled and with a free home frame, moves the granule's residence, leaves
the queue, and changes no byte and no poison mark; one that is no longer to be had only leaves the queue: that a move is one step, and
what becomes of a promotion that is no longer to be had, are the model's choices (assumption log 44). Without a queued move, or with the
clock of the memory's region stopped (R233), nothing happens (assumption log 5). GRANULE_RETIRE (R164): no byte changes; a granule of a
stack with a spare granule keeps its residence, its errors are forgotten, it waits no more, and one spare is used up; a granule that
does not wait for it is left alone. -/
def Obligations.MovesAndRetirementsKeepData : Prop :=
  (∀ (g : Nat) (s : State), g ∉ s.dev.memS.moves ∨ s.regionStopped 17 = true → exec (.granuleMove g) s = .next s) ∧
  (∀ (g : Nat) (s : State) (x : Gran), g ∈ s.dev.memS.moves → s.regionStopped 17 = false → s.gran g = some x →
    let go : Prop := x.at_ ≠ x.home ∧ x.retiring = false ∧ s.field .migCfg [] 4 4 = 1 ∧ 1 ≤ s.available x.owner x.home
    ∃ u, exec (.granuleMove g) s = .next u ∧ u.mem = s.mem ∧ u.bad = s.bad ∧ g ∉ u.dev.memS.moves ∧
      (go → u.gran g = some { x with at_ := x.home, hits := 0, errs := 0 } ∧ ∀ h, h ≠ g → u.gran h = s.gran h) ∧
      (¬ go → ∀ h, u.gran h = s.gran h)) ∧
  (∀ (g : Nat) (s : State), (g ∉ s.dev.memS.retire ∨ s.regionStopped 17 = true → exec (.granuleRetire g) s = .next s) ∧
    ∃ u, exec (.granuleRetire g) s = .next u ∧ u.mem = s.mem ∧ u.bad = s.bad) ∧
  (∀ (g : Nat) (s : State) (x : Gran), g ∈ s.dev.memS.retire → s.regionStopped 17 = false → s.gran g = some x → 1 ≤ x.at_ → x.at_ ≤ 8 →
    0 < s.field .hbmSpare [x.at_ - 1] 63 32 → ∃ u, exec (.granuleRetire g) s = .next u ∧
      u.gran g = some { x with retiring := false, errs := 0 } ∧ g ∉ u.dev.memS.retire ∧
      u.field .hbmSpare [x.at_ - 1] 63 32 = s.field .hbmSpare [x.at_ - 1] 63 32 - 1)

/-- BWR_TOKEN_TICK (R157, R158), the rails on and the memory's region running: BWR_CFG as written comes into force, every bucket gains
its rate, up to 64 sixty-fourths for each sector of a burst of at least 64, and with no request waiting no byte changes.
LAST_USE_STAMP_ADVANCE: the stamp that accesses leave goes on by one modulo 2 ^ 32, and nothing else changes. REGULATOR_GRANT (R157):
the oldest request of the regulator proceeds once its bucket holds 64 sixty-fourths for each of its sectors, which leave the bucket, or
at once where the regulator is bypassed; with fewer tokens, without a request, or with the region's clock stopped, nothing happens
(assumption log 5). What proceeds is the request's own effect: none, bytes written, or bytes copied; that a request's bytes move when
its regulator grants it is the model's choice (assumption log 45). Landing writes, and frames that wait behind them, that may now be
performed follow. -/
def Obligations.BucketsFillAndGrantInOrder : Prop :=
  (∀ s : State, s.nv.power.rails = true →
      (s.regionStopped 17 = false → ∃ v : State, exec .bwrTokenTick s = .next v.settleLandings ∧
        (s.dev.memS.regQ = [] → v.mem = s.mem ∧ v.dev.memS = { s.dev.memS with bwr := v.dev.memS.bwr }) ∧
        ∀ (c : CtxId) (p : Fin 16), v.bwrNow c p = s.reg .bwrCfg [c, p] ∧ v.field .bwrLevel [c, p] 29 0 =
          min (s.field .bwrLevel [c, p] 29 0 + s.field .bwrCfg [c, p] 15 0) (64 * max 64 (s.field .bwrCfg [c, p] 55 32))) ∧
      exec .lastUseStampAdvance s =
        .next { s with dev := { s.dev with memS := { s.dev.memS with now := (s.dev.memS.now + 1) % 2 ^ 32 } } }) ∧
  (∀ (c : CtxId) (p : Fin 16) (s : State), ∃ v, exec (.regulatorGrant c p) s = .next v.settleLandings ∧
      ((∀ f ∈ v.dev.link.flows, f.2.landings = []) → v.dev.link.held = [] → v.settleLandings = v) ∧
      (s.regionStopped 17 = true ∨ (∀ q ∈ s.dev.memS.regQ, ¬ (q.ctx = c.val ∧ q.part = p.val)) → v = s) ∧
      (∀ (pre post : List RegReq) (r : RegReq), s.dev.memS.regQ = pre ++ r :: post → r.ctx = c.val → r.part = p.val →
        (∀ q ∈ pre, ¬ (q.ctx = c.val ∧ q.part = p.val)) → s.regionStopped 17 = false →
        (s.unreg c p = false → s.field .bwrLevel [c, p] 29 0 < 64 * r.sectors → v = s) ∧
        (s.unreg c p = true ∨ 64 * r.sectors ≤ s.field .bwrLevel [c, p] 29 0 →
          v.dev.memS.regQ = pre ++ post ∧
          v.field .bwrLevel [c, p] 29 0 = s.field .bwrLevel [c, p] 29 0 - (if s.unreg c p then 0 else 64 * r.sectors) ∧
          (r.act = .pass → v.mem = s.mem) ∧
          (∀ a d bad par, r.act = .put a d bad par → s.mem.wf = true → (∀ x, a ≤ x → x < a + d.length → s.inCave x = false) →
            v.bytes a d.length = d ∧ ∀ x, x < a ∨ a + d.length ≤ x → Mem.read v.mem x = Mem.read s.mem x) ∧
          (∀ src dst n k, r.act = .copy src dst n k → s.mem.wf = true → (∀ x, dst ≤ x → x < dst + n → s.inCave x = false) →
            v.bytes dst n = s.bytes src n ∧ ∀ x, x < dst ∨ dst + n ≤ x → Mem.read v.mem x = Mem.read s.mem x))))

/-- STACKED_MEMORY_ACCESS, PATROL_SCRUB_READ, SRAM_ACCESS and CELLAR_ACCESS (R161 to R163, R166, R304), the rails on: no byte changes; a word
that reads clean or corrected marks nothing; an uncorrectable word marks its sectors poisoned, both 32-byte sectors of a
64-byte word of a stack or of the cellar and the one sector of a 64-bit word of SRAM, and no other. The patrol reads the words
of free frames too, while its clock runs. An access of the cellar without an error does nothing, and a third error of a granule queues it for
retirement. -/
def Obligations.MemoryErrorsMarkTheirSectors : Prop :=
  (∀ (n : StackId) (a : Nat) (l : RowLoc) (e : Ecc) (m : Bool) (s : State), s.nv.power.rails = true →
    ∃ u, exec (.stackedMemoryAccess n a l e m) s = .next u ∧ u.mem = s.mem ∧
      ∀ x, x ∈ u.bad ↔ x ∈ s.bad ∨ (s.inStack n a = true ∧ e = .uncorrectable ∧ (x = 2 * (a / 64) ∨ x = 2 * (a / 64) + 1))) ∧
  (∀ (n : StackId) (a : Nat) (l : RowLoc) (e : Ecc) (last : Bool) (s : State),
    s.nv.power.rails = true → s.regionStopped 17 = false → ∃ u, exec (.patrolScrubRead n a l e last) s = .next u ∧ u.mem = s.mem ∧
      ∀ x, x ∈ u.bad ↔ x ∈ s.bad ∨ (s.patrolled n a = true ∧ e = .uncorrectable ∧ (x = 2 * (a / 64) ∨ x = 2 * (a / 64) + 1))) ∧
  (∀ (a : Nat) (e : Ecc) (s : State),
    let onChip : Prop := (∃ c o, s.space a = .local_ c o) ∨ (∃ k o, s.space a = .cluster k o) ∨ ∃ o, s.space a = .hub o
    (onChip → s.nv.power.rails = true → ∃ u, exec (.sramAccess a e) s = .next u ∧ u.mem = s.mem ∧
      ∀ x, x ∈ u.bad ↔ x ∈ s.bad ∨ (e = .uncorrectable ∧ x = a / 32)) ∧
    (¬ onChip → exec (.sramAccess a e) s = .next s)) ∧
  (∀ (a : Nat) (s : State) (g : Gran), s.gran (a / granBytes) = some g → g.at_ = 9 →
    exec (.cellarAccess a false) s = .next s ∧ (s.nv.power.rails = true →
    ∃ u, exec (.cellarAccess a true) s = .next u ∧ u.mem = s.mem ∧
      (∀ x, x ∈ u.bad ↔ x ∈ s.bad ∨ x = 2 * (a / 64) ∨ x = 2 * (a / 64) + 1) ∧
      u.gran (a / granBytes) = some { g with errs := g.errs + 1 } ∧ (3 ≤ g.errs + 1 → a / granBytes ∈ u.dev.memS.retire)))

/-! ### The cave (R167 to R171) -/

/-- CAVE_PAGE_WRITE (R167), CAVE_STATUS.READY set, the region's clock running and a block being filled: the oldest page's bytes, and no
others, are written, and the page waits no more; a page whose granule is in the cave is mapped to the block. That a page accepted
before the cave turned read-only is still written is assumption log 94. Runs and landing writes that may now be performed follow.
Without a waiting page, not READY, or with the clock stopped, nothing happens (assumption log 5). The rails on, CAVE_PAGE_READ (R169):
the read is counted at the page's
block; a page that no retry decodes is poisoned whole, and its block is bad. CAVE_READ_SCRUB, CAVE_STATIC_LEVEL and
CAVE_BLOCK_FAIL (R168 to R170): a block below its read limit, or a bad one, stays, one at the limit is erased once more and its
reads begin anew; with the spread of erase counts within its limit nothing moves, else the least-erased block that holds data
is erased; a block that fails joins the bad blocks, and below 1 % of spare blocks the cave is read-only. No byte of tier space
changes. -/
def Obligations.CavePagesAndBlocks : Prop :=
  ((∀ s : State, ∃ v, exec .cavePageWrite s = .next v.settleLandings ∧
      ((∀ f ∈ v.dev.link.flows, f.2.landings = []) → v.dev.link.held = [] → v.settleLandings = v) ∧
      ((∀ q ∈ s.dev.caveQ, q.pageOf = none) ∨ s.field .caveStatus [] 4 4 = 0 ∨ s.regionStopped 17 = true → v = s) ∧
      (∀ (p : CaveW) (ps : List CaveW) (b : Nat), s.dev.caveQ = (p :: ps).map CaveReq.page → s.field .caveStatus [] 4 4 = 1 →
        s.regionStopped 17 = false → s.nv.flash.fill = some b → s.mem.wf = true →
        v.dev.caveQ = ps.map CaveReq.page ∧ v.bytes p.addr p.data.length = p.data ∧
        (∀ a, a < p.addr ∨ p.addr + p.data.length ≤ a → Mem.read v.mem a = Mem.read s.mem a) ∧
        (s.inCave p.addr = false → v.nv.flash = s.nv.flash) ∧
        (s.inCave p.addr = true → (s.nv.flash.block b).next < 2048 → (s.nv.flash.block b).bad = false →
          AMap.find? v.nv.flash.map (p.addr / 16384) = some b ∧ (v.nv.flash.block b).next = (s.nv.flash.block b).next + 1))) ∧
    (∀ (page tries b : Nat) (ue : Bool) (s : State), s.nv.power.rails = true → AMap.find? s.nv.flash.map page = some b →
      ∃ u, exec (.cavePageRead page tries ue) s = .next u ∧ u.mem = s.mem ∧
        (ue = false → u.bad = s.bad ∧ (u.nv.flash.block b).reads = (s.nv.flash.block b).reads + 1) ∧
        (ue = true → (∀ x, x ∈ u.bad ↔ x ∈ s.bad ∨ (512 * page ≤ x ∧ x < 512 * page + 512)) ∧ (u.nv.flash.block b).bad = true))) ∧
  ((∀ (b : Nat) (s : State),
      (s.nv.flash.block b).reads < s.field .caveCfg [] 31 16 ∨ (s.nv.flash.block b).bad = true → exec (.caveReadScrub b) s = .next s) ∧
    (∀ (b : Nat) (s : State), s.nv.power.rails = true → s.field .caveCfg [] 31 16 ≤ (s.nv.flash.block b).reads → (s.nv.flash.block b).bad = false →
      ∃ u, exec (.caveReadScrub b) s = .next u ∧ u.mem = s.mem ∧ (u.nv.flash.block b).reads = 0 ∧
        (u.nv.flash.block b).next = 0 ∧ (s.nv.flash.block b).pe < (u.nv.flash.block b).pe) ∧
    (∀ (s : State) (b lo hi : Nat), s.nv.flash.spread s.caveBlocks = some (lo, hi) → s.nv.flash.coldest = some b →
      (hi - lo ≤ s.field .caveCfg [] 15 0 → exec .caveStaticLevel s = .next s) ∧
      (s.nv.power.rails = true → s.field .caveCfg [] 15 0 < hi - lo → ∃ u, exec .caveStaticLevel s = .next u ∧ u.mem = s.mem ∧
        (u.nv.flash.block b).reads = 0 ∧ (u.nv.flash.block b).next = 0 ∧ (s.nv.flash.block b).pe < (u.nv.flash.block b).pe)) ∧
    (∀ (b : Nat) (s : State), (s.nv.flash.block b).bad = true → exec (.caveBlockFail b) s = .next s) ∧
    (∀ (b : Nat) (s : State), s.nv.power.rails = true → (s.nv.flash.block b).bad = false → ∃ u, exec (.caveBlockFail b) s = .next u ∧ u.mem = s.mem ∧
      (u.nv.flash.block b).bad = true ∧
      u.field .caveBlocks [] 19 0 = s.field .caveBlocks [] 19 0 - 1 ∧
      (100 * (s.field .caveBlocks [] 19 0 - 1) < s.caveBlocks → u.caveRo = true)))

/-! ### Fabric ports (R191 to R193, R208, R212) -/

/-- Training, sparing and the state of a port. PORT_TRAINING_COMPLETE of an enabled port in TRAINING, and PORT_RETRAIN of one
that the host retrains: UP on the four lowest good lanes it may use (else two, else one) with the partner's credit, or DOWN
with the cause: no lane (5), another generation (2), the module's own id (3). On a port that is UP the identity exchange alone
is repeated. PORT_RETRAIN in service: UP again on the same lanes when every lane locks, else not UP yet. LANE_FAIL: a lane not in
use only leaves the good ones; one in use is replaced by the spare, in service, or the port narrows to two or one of the lanes
left; with no good lane left the port is DOWN. LINK_DOWN, RETRAIN, PORT_ENABLE_WRITE and CREDIT_SPLIT_WRITE as the registers'
notes say, the host's link being up. With the link engine's clock stopped no training and no retraining ends (R233, assumption log 5).
No byte of memory changes. That the exchange is repeated on an UP port by the training row is assumption log 102; what a training and
a retraining find is given, and their details are assumption log 62. -/
def Obligations.PortsTrainRetrainAndSpare : Prop :=
  ∀ (p : PortId) (s : State),
    let k := s.port p
    let on := s.field .lnkPortCtrl [p] 0 0
    let own (q : Peer) : Prop := q.id = s.moduleId ∧ q.id ≠ 0xFFF
    let usable (l : Nat) : Bool := decide (l < 4) || s.field .lnkPortCtrl [p] 3 3 == 1
    (∀ (good : BitVec 5) (q : Peer) (row : Instr),
      (row = .portTrainingComplete p good q ∧ k.st = .training ∧ on = 1) ∨ (row = .portRetrain p good q ∧ k.st = .retraining ∧ k.fresh = true) →
      s.regionStopped 16 = false →
      let us := (List.range 5).filter fun l => bit good.toNat l && usable l
      ∃ u, exec row s = .next u ∧ u.mem = s.mem ∧ (∀ r : PortId, r ≠ p → (u.port r).st = (s.port r).st) ∧
        (us ≠ [] → q.gen = 2 → ¬ own q → (u.port p).st = .up ∧ (u.port p).cause = 0 ∧
          (u.port p).lanes = us.take (if 4 ≤ us.length then 4 else if 2 ≤ us.length then 2 else 1) ∧
          (u.port p).credits = q.credits ∧ (u.port p).lseq = 0 ∧ (u.port p).expect = 0 ∧ (u.port p).peer = some q ∧
          u.field .featLink [] p p = 1) ∧
        (us = [] ∨ q.gen ≠ 2 ∨ own q → (u.port p).st = .down ∧ (u.port p).replay = [] ∧ u.field .featLink [] p p = 0 ∧
          (u.port p).cause = (if us = [] then 5 else if q.gen ≠ 2 then 2 else 3))) ∧
    (∀ (good : BitVec 5) (q : Peer),
      (on = 0 ∨ (k.st ≠ .training ∧ k.st ≠ .up) ∨ s.regionStopped 16 = true → exec (.portTrainingComplete p good q) s = .next s) ∧
      (on = 1 → k.st = .up → s.regionStopped 16 = false → q.gen = 2 → ¬ own q → exec (.portTrainingComplete p good q) s =
        .next (s.modPort p fun k => { k with peer := some q })) ∧
      (on = 1 → k.st = .up → s.regionStopped 16 = false → q.gen ≠ 2 ∨ own q → ∃ u, exec (.portTrainingComplete p good q) s = .next u ∧ u.mem = s.mem ∧
        (u.port p).st = .down ∧ (u.port p).replay = [] ∧ (u.port p).cause = (if q.gen ≠ 2 then 2 else 3)) ∧
      (k.st ≠ .retraining ∨ s.regionStopped 16 = true → exec (.portRetrain p good q) s = .next s) ∧
      (k.st = .retraining → k.fresh = false → s.regionStopped 16 = false →
        ((∀ l, l ∈ k.good ∨ l ∈ k.lanes → l < 5 ∧ bit good.toNat l = true) →
          ∃ u, exec (.portRetrain p good q) s = .next u ∧ u.mem = s.mem ∧
            (q.gen = 2 → ¬ own q → u.port p = { k with st := .up, peer := some q }) ∧
            (q.gen ≠ 2 ∨ own q → (u.port p).st = .down ∧ (u.port p).replay = [] ∧ (u.port p).cause = (if q.gen ≠ 2 then 2 else 3))) ∧
        ((∃ l, l ∈ k.lanes ∧ ¬ (l < 5 ∧ bit good.toNat l = true)) → ∃ u, exec (.portRetrain p good q) s = .next u ∧ u.mem = s.mem ∧
          (u.port p).st ≠ .up))) ∧
    (∀ l : Fin 5,
      ((k.st ≠ .up ∧ k.st ≠ .retraining) ∨ l.val ∉ k.good → exec (.laneFail p l) s = .next s) ∧
      (k.st = .up ∨ k.st = .retraining → l.val ∈ k.good →
        let us := (List.range 5).filter fun j => k.good.contains j && usable j && j != l.val
        (l.val ∉ k.lanes → exec (.laneFail p l) s = .next (s.modPort p fun k => { k with good := k.good.filter (· ≠ l.val) })) ∧
        (l.val ∈ k.lanes → us = [] →
          ∃ u, exec (.laneFail p l) s = .next u ∧ u.mem = s.mem ∧ (u.port p).st = .down ∧ (u.port p).cause = 5 ∧ (u.port p).replay = []) ∧
        (l.val ∈ k.lanes → us ≠ [] → ∃ u, exec (.laneFail p l) s = .next u ∧ u.mem = s.mem ∧ (u.port p).st = .retraining ∧
          (k.fresh = false → (u.port p).replay = k.replay) ∧
          (u.port p).lanes = if 4 ∈ us ∧ 4 ∉ k.lanes then k.lanes.filter (· ≠ l.val) ++ [4]
            else us.take (if 2 < k.lanes.length then 2 else 1)))) ∧
    (k.st = .up ∨ k.st = .retraining → ∃ u, exec (.linkDown p) s = .next u ∧ u.mem = s.mem ∧ (u.port p).st = .down ∧
      (u.port p).cause = 5 ∧ (u.port p).replay = []) ∧
    (k.st = .training → s.field .hubState [] 2 0 = 4 → ∃ u, exec (.linkDown p) s = .next u ∧ u.mem = s.mem ∧ (u.port p).st = .down ∧
      (u.port p).cause = 1 ∧ (u.port p).replay = []) ∧
    (on = 0 → exec (.retrain p) s = .next s) ∧
    (on = 1 → s.linked = true → ∃ u, exec (.retrain p) s = .next u ∧ u.mem = s.mem ∧ (u.port p).st = .retraining ∧ (u.port p).fresh = true ∧
      (u.port p).replay = []) ∧
    (on = 1 → s.linked = true → ∃ u, exec (.portEnableWrite p false) s = .next u ∧ u.mem = s.mem ∧ (u.port p).st = .disabled ∧ (u.port p).cause = 6 ∧
      (u.port p).replay = [] ∧ u.field .lnkPortCtrl [p] 0 0 = 0) ∧
    (on = 0 → s.linked = true → ∃ u, exec (.portEnableWrite p true) s = .next u ∧ u.mem = s.mem ∧ (u.port p).st = .training ∧ (u.port p).cause = 0 ∧
      u.field .lnkPortCtrl [p] 0 0 = 1) ∧
    (∀ b : Bool, on = b2n b → s.linked = true → exec (.portEnableWrite p b) s = .next (s.setField .lnkPortCtrl [p] 0 0 on)) ∧
    (∀ (hi : Bool) (v : Word),
      let a := if hi then s.reg .lnkPortCred0 [p] else v
      let b := if hi then v else s.reg .lnkPortCred1 [p]
      let n (i : Nat) : Nat := if i < 4 then wbits a (16 * i + 15) (16 * i) else wbits b (16 * (i - 4) + 15) (16 * (i - 4))
      let fits : Prop := (∀ i, i < 8 → 129 ≤ n i) ∧ n 0 + n 1 + n 2 + n 3 + n 4 + n 5 + n 6 + n 7 ≤ 12288
      (on = 0 → fits → s.linked = true → exec (.creditSplitWrite p hi v) s = .next (s.setReg (if hi then .lnkPortCred1 else .lnkPortCred0) [p] v)) ∧
      (on = 1 ∨ ¬ fits → s.linked = true → exec (.creditSplitWrite p hi v) s = .next (s.setField .lnkPortCtrl [p] 4 4 1)))

/-- The link layer (R194 to R197, R204). FRAME_SEND: the frame that the arbiter picks leaves with the next LSEQ and its CRC, takes
its class's credit, and stays in the replay buffer. FRAME_RECEIVE on a port that is UP: a frame with a bad CRC, or with another
LSEQ than the next one, is discarded and asked for again once; one sent with the complemented CRC is dropped in silence; a
good one in order stands behind a landing that holds its class (R204); else, for another module, it joins the frames that wait for its
port, and as a DATA frame in sequence for an RX flow of this module lands in its slot, and its credit goes back. LINK_ACK frees what it acknowledges; LINK_NAK and REPLAY_TIMEOUT resend from
a frame on, and at the eighth resend of one LSEQ the port retrains, or goes DOWN; ACK_SEND and LCREDIT as their names say.
CREDIT_FRAME_SEND (R206): an open RX flow whose RELEASED has not risen since the last one sends nothing; else the peer gets
one CREDIT frame on VC 3 with RELEASED modulo 2 ^ 16, queued for the port that routes it. With the port not UP, or the engine's clock
stopped, nothing leaves and nothing is taken (assumption log 5); what passes a whole frame at a time, and the fields of a CREDIT frame, are
assumption log 60, and when a NAK is sent is assumption log 61. -/
def Obligations.FramesAreAcknowledgedInOrder : Prop :=
  (∀ (p : PortId) (s : State), s.nv.power.rails = true →
      let k := s.port p
      let off : Prop := k.st ≠ .up ∨ s.regionStopped 16 = true
      (off ∨ s.pick p = none → exec (.frameSend p) s = .next s) ∧
      (∀ inp t vc d, ¬ off → s.pick p = some ((inp, t), vc, d) →
        let f := if t.inp.isSome then { t.frame with ttl := t.frame.ttl - 1 } else t.frame
        ∃ u, exec (.frameSend p) s = .next u ∧ u.mem = s.mem ∧ u.dev.link.tx = dropFirst (fun x => x == t) s.dev.link.tx ∧
          (u.port p).lseq = (k.lseq + 1) % 65536 ∧ (u.port p).replay = k.replay ++ [⟨k.lseq, f, t.ctx, 0⟩] ∧
          (u.port p).credits = k.credits.set t.cls (k.credits.getD t.cls 0 - f.units) ∧
          ((∀ q c, t.inp = some (q, c) → q ≠ p.val) → (u.port p).wire = k.wire ++ [.frame f k.lseq (f.crc k.lseq)])) ∧
      (∀ (f : Frame) (lseq : BitVec 16) (crc : BitVec 32) (ce ue : Nat),
        let g := f.norm
        let good : Prop := crc.toNat = g.crc lseq.toNat
        let clear : Prop := s.classHeld p g.cls = false ∧ ∀ h ∈ s.dev.link.held, ¬ (h.1 = p.val ∧ h.2.cls = g.cls)
        let asked : PortS := { k with discarding := true, wire := k.wire ++ [.nak k.expect] }
        let took : PortS := { k with expect := (k.expect + 1) % 65536, discarding := false, unacked := k.unacked + 1 }
        ∃ u, exec (.frameReceive p f lseq crc ce ue) s = .next u ∧
          (off ∨ (¬ good ∧ crc.toNat = 0xFFFFFFFF - g.crc lseq.toNat) → u.port p = k ∧ u.mem = s.mem ∧ u.dev.link.flows = s.dev.link.flows) ∧
          (¬ off → ¬ good → crc.toNat ≠ 0xFFFFFFFF - g.crc lseq.toNat →
            (u.port p).discarding = true ∧ (u.port p).expect = k.expect ∧ u.mem = s.mem ∧ u.dev.link.flows = s.dev.link.flows ∧
            ((k.discarding = true ∨ ∀ out, s.route g true = .ok out → out ≠ p.val) → u.port p = asked)) ∧
          (¬ off → good → lseq.toNat ≠ k.expect → u.port p = (if k.discarding then k else asked) ∧ u.mem = s.mem ∧
            u.dev.link.flows = s.dev.link.flows) ∧
          (¬ off → good → lseq.toNat = k.expect → g.valid = true → ¬ clear →
            u.port p = took ∧ u.mem = s.mem ∧ u.dev.link.flows = s.dev.link.flows ∧ u.dev.link.held = s.dev.link.held ++ [(p.val, g)]) ∧
          (¬ off → good → lseq.toNat = k.expect → g.valid = true → clear → s.moduleId ≠ 0xFFF → g.dst ≠ s.moduleId → ∀ out, s.route g true = .ok out →
            u.port p = took ∧ u.mem = s.mem ∧
            u.dev.link.tx = s.dev.link.tx ++ [⟨out, some (p.val, g.cls), ({ g with esc := s.escOut (some p.val) out g.esc } : Frame).cls,
              { g with esc := s.escOut (some p.val) out g.esc }, none, none⟩]) ∧
          (¬ off → good → lseq.toNat = k.expect → g.valid = true → clear → s.moduleId ≠ 0xFFF → g.dst = s.moduleId →
            let w := s.flow g.flow
            let a := w.base + g.msg % w.slots * w.slotSize + 4096 * g.fidx
            w.st = .opened → w.kind = 1 → w.landings = [] → g.src = w.peer → g.kind = 0 → g.seq = w.seq →
            4096 * g.fidx + g.data.length ≤ w.slotSize → s.landRefused w a g.data.length = none → s.direct w.ctx a g.data.length →
            s.waits (.flow g.flow w.landed) = false → s.regionStopped 17 = false → s.mem.wf = true →
            u.bytes a g.data.length = g.data ∧
            (∀ x, x < a ∨ a + g.data.length ≤ x → Mem.read u.mem x = Mem.read s.mem x) ∧
            u.port p = { took with wire := k.wire ++ [.lcredit g.cls g.units] } ∧
            (u.flow g.flow).seq = (g.seq + 1) % 2 ^ 24 ∧ (u.flow g.flow).landings = [] ∧
            (u.flow g.flow).msg = (if g.last then (g.msg + 1) % 65536 else g.msg) ∧
            (u.flow g.flow).msgs = (if g.last then (w.msgs + 1) % 2 ^ 32 else w.msgs))) ∧
      (∀ lseq : BitVec 16, s.regionStopped 16 = false → ∃ u, exec (.linkAck p lseq) s = .next u ∧ u.mem = s.mem ∧ u.dev.link.tx = s.dev.link.tx ∧
        (u.port p).replay = k.replay.filter (fun f => decide (32768 ≤ (lseq.toNat + 65536 - f.lseq % 65536) % 65536)) ∧
        (u.port p).wire = k.wire ∧ (u.port p).credits = k.credits ∧ (u.port p).st = k.st) ∧
      (∀ lseq : BitVec 16,
        let from_ (f : Sent) : Bool := decide ((f.lseq + 65536 - lseq.toNat % 65536) % 65536 < 32768)
        let again := k.replay.filter from_
        let recent := k.limitTicks.filter fun t => decide (s.dev.tick < t + 1000000)
        (off ∨ again = [] → exec (.linkNak p lseq) s = .next s) ∧
        (¬ off → again ≠ [] → (∀ f ∈ again, f.tries < 7) →
          ∃ u, exec (.linkNak p lseq) s = .next u ∧ u.mem = s.mem ∧ (u.port p).st = .up ∧
            (u.port p).replay = (k.replay.map fun f => { f with tries := if from_ f then f.tries + 1 else 0 }) ∧
            (u.port p).wire = k.wire ++ again.map fun f => .frame f.frame f.lseq (f.frame.crc f.lseq)) ∧
        (¬ off → (∃ f ∈ again, 7 ≤ f.tries) → ∃ u, exec (.linkNak p lseq) s = .next u ∧ u.mem = s.mem ∧
          (u.port p).st = (if 2 ≤ recent.length then .down else .retraining))) ∧
      (k.replay = [] → exec (.replayTimeout p) s = .next s) ∧
      (∀ f r, k.replay = f :: r → f.lseq < 65536 → exec (.replayTimeout p) s = exec (.linkNak p (BitVec.ofNat 16 f.lseq)) s) ∧
      (¬ off → 0 < k.unacked → exec (.ackSend p) s =
        .next (s.modPort p fun k => { k with unacked := 0, wire := k.wire ++ [.ack ((k.expect + 65535) % 65536)] })) ∧
      (off ∨ k.unacked = 0 → exec (.ackSend p) s = .next s) ∧
      (∀ (cls : Fin 8) (units : Nat), s.regionStopped 16 = false → exec (.lcredit p cls units) s =
        .next (s.modPort p fun k => { k with credits := k.credits.set cls (k.credits.getD cls 0 + units) }))) ∧
  (∀ (f : FlowId) (s : State),
      let w := s.flow f
      w.st = .opened → w.kind = 1 → w.red = none →
      (w.released = w.told ∨ s.regionStopped 16 = true → exec (.creditFrameSend f) s = .next s) ∧
      (∀ out, w.released ≠ w.told → s.regionStopped 16 = false → (∀ r ∈ s.dev.link.sends, r.flow ≠ w.pflow) → w.peer ≠ s.moduleId →
        let g : Frame := { dst := w.peer, src := s.moduleId, flow := w.pflow, seq := 0, vc := 3, kind := 3, last := true, plen := 0,
                           fidx := 0, msg := w.released % 65536, ttl := s.field .lnkCfg [] 21 16, data := [] }
        let h : Frame := { g with esc := s.portWrap out }
        s.route g false = .ok out →
        ∃ u, exec (.creditFrameSend f) s = .next u ∧ u.mem = s.mem ∧ u.flow f = { w with told := w.released } ∧
          u.dev.link.tx = s.dev.link.tx ++ [⟨out, none, h.cls, h, none, w.owner⟩]))

/-! ### Reduction (R215 to R219, R224) -/

/-- The rounds of a reduction flow. ROUND_BEGIN: once START is ahead of the rounds completed, modulo 2 ^ 32, an open flow that is idle
begins a round with its counts at 0. CHUNK_CONTRIBUTE, its source within reach and read: the next chunk is contributed when its slab slot
is free, and the member's saturations are added up; in ALLGATHER and BROADCAST the member's next message is written into its own
result (pieces numbered by rank and written in place: assumption log 58); a source out of reach faults the flow (assumption log 57).
CHUNK_COMPLETE: nothing happens while no chunk of this member has all G
contributions; else the first such chunk leaves its slab, is done, and its poisoned elements count. ROUND_COMPLETE: with every
chunk done and none of the flow's accesses waiting, the round is counted, the flow idle, and every scale entry, within reach, steps as
R219 says. A flow that is not open, or a link engine without its clock, does none of this (assumption log 5). -/
def Obligations.RoundsOfAReduction : Prop :=
  ∀ (f : FlowId) (s : State) (x : RedS),
    let w := s.flow f
    w.red = some x →
    let r := x.cfg
    let off : Prop := w.st ≠ .opened ∨ s.regionStopped 16 = true
    (off → exec (.roundBegin f) s = .next s ∧ exec (.chunkContribute f) s = .next s ∧ exec (.chunkComplete f) s = .next s ∧
      exec (.roundComplete f) s = .next s) ∧
    (¬ off → x.running = false →
      let lead := (BitVec.ofNat 32 (leNat (s.bytes r.start 4)) - BitVec.ofNat 32 x.rounds).toInt
      (0 < lead → exec (.roundBegin f) s = .next (s.setFlow f { w with red := some { x with
        running := true, next := 0, amax := [], sat := 0, nan := 0, inf := 0, pcount := 0, prank := 0xFFFF } })) ∧
      (lead ≤ 0 → exec (.roundBegin f) s = .next s)) ∧
    (¬ off → x.running = true → s.waits (.flow f 0) = false → s.regionStopped 17 = false →
      let src := r.src + 131072 * x.next
      let n := if r.coll ≤ 1 then 4 * r.chunkLen x.next else r.pieceLen x.next
      let ready : Prop := if r.coll ≤ 1 then x.next < r.chunks ∧ (x.next < r.slots ∨ x.next - r.slots ∈ x.done)
        else x.next < r.pieces ∧ (r.coll = 2 ∨ r.rank = r.root)
      (¬ ready → exec (.chunkContribute f) s = .next s) ∧
      (ready → s.reach w.ctx src n ≠ none → ∃ u, exec (.chunkContribute f) s = .next u ∧ u.mem = s.mem ∧ (u.flow f).st = .faulted) ∧
      (ready → s.reach w.ctx src n = none → x.asked = false → (∃ a, src ≤ a ∧ a < src + n ∧ s.regulator w.ctx a ≠ none) →
        ∃ u, exec (.chunkContribute f) s = .next u ∧ u.mem = s.mem ∧ u.flow f = { w with red := some { x with asked := true } } ∧
          u.waits (.flow f 0) = true) ∧
      (ready → s.reach w.ctx src n = none → x.asked = true ∨
          (s.unregulated w.ctx src n ∧ (r.coll ≤ 1 → s.unregulated w.ctx (r.scaleOf x.next).1 (r.scaleOf x.next).2)) →
        (r.coll ≤ 1 → ∃ u y, exec (.chunkContribute f) s = .next u ∧ (u.flow f).red = some y ∧ y.next = x.next + 1 ∧ y.done = x.done ∧
          y.rounds = x.rounds ∧ y.running = true ∧ y.asked = false ∧
          y.sat = x.sat + ((s.contribution (s.ctx w.ctx).seed x x.next).1.filter (·.sat)).length) ∧
        (1 < r.coll →
          let m := (if r.coll = 2 then r.rank * r.pieces else 0) + x.next
          let len := r.pieceLen m
          s.landRefused w (r.pieceAt m) len = none → s.direct w.ctx (r.pieceAt m) len → s.mem.wf = true →
          ∃ u y, exec (.chunkContribute f) s = .next u ∧ (u.flow f).red = some y ∧ y.next = x.next + 1 ∧ y.done = x.done ++ [m] ∧
            y.rounds = x.rounds ∧ y.running = true ∧ y.asked = false ∧ u.bytes (r.pieceAt m) len = s.bytes src len ∧
            (∀ a, a < r.pieceAt m ∨ r.pieceAt m + len ≤ a → Mem.read u.mem a = Mem.read s.mem a)))) ∧
    (¬ off → x.running = true →
      ((∀ p ∈ x.slabs, r.completes p.1 r.rank = false ∨ p.2.contrib ≠ r.g) → exec (.chunkComplete f) s = .next s) ∧
      (∀ pre j b post, x.slabs = pre ++ (j, b) :: post → (∀ p ∈ pre, r.completes p.1 r.rank = false ∨ p.2.contrib ≠ r.g) →
        r.completes j r.rank = true → b.contrib = r.g → r.coll ≤ 1 →
        (∀ a n, r.res ≤ a → a + n ≤ r.res + (r.areas.getD 1 (0, 0)).2 → s.landRefused w a n = none) →
        ∃ u y, exec (.chunkComplete f) s = .next u ∧ (u.flow f).red = some y ∧ y.done = x.done ++ [j] ∧
          AMap.find? y.slabs j = none ∧ y.pcount = x.pcount + b.pcount ∧ y.rounds = x.rounds ∧ y.running = true)) ∧
    (¬ off → x.running = true →
      let ready : Prop := r.total ≤ x.done.length ∧ s.waits (.flow f 0) = false
      (¬ ready → exec (.roundComplete f) s = .next s) ∧
      (ready → 1 < r.coll ∨ s.landRefused w r.scale (4 * r.scaleEntries) = none → ∃ u y, exec (.roundComplete f) s = .next u ∧ (u.flow f).red = some y ∧ y.running = false ∧ y.rounds = x.rounds + 1 ∧
        y.lastSat = x.sat ∧ y.lastPcount = x.pcount ∧ y.lastStep = BitVec.ofNat 64 (r.step0 + x.rounds) ∧
        (∀ g : FlowId, g ≠ f → u.flow g = s.flow g) ∧
        (1 < r.coll → u.mem = s.mem) ∧
        (r.coll ≤ 1 → s.direct w.ctx r.scale (4 * r.scaleEntries) → s.regionStopped 17 = false → s.mem.wf = true →
          ∀ e, e < (if r.int16 then 1 else (r.count + 31) / 32) →
          leNat (u.bytes (r.scale + 4 * e) 4) =
            scaleStep r (leNat (s.bytes (r.scale + 4 * e) 4)) (AMap.get x.amax 0 e) % 2 ^ 32)))

/-! ### Clocks (R229 to R233) -/

/-- Steps, stretches and lock, the rails on. STEP_CHANGE: every region adopts the step that is being changed to. DROOP_STRETCH: one stretch is
counted, at most once in 4 beats. REF_LOSS latches LOST and ALT. PLL_UNLOCK: the region's clock stops and every context with
a core or engine there is halted. PLL_RELOCK within 1 ms: it resumes, and what has waited for the memory's region goes on.
PLL_RELOCK_TIMEOUT later: the cluster's enabled cores are out of service, or a hub region fails the module with cause 7. No byte of
memory and no beat of a core changes by any of it. Outside its conditions a row does nothing (assumption log 5). -/
def Obligations.RegionsChangeStretchAndLoseLock : Prop :=
  ∀ s : State, s.nv.power.rails = true →
    (s.dev.clk.target = none → exec .stepChange s = .next s) ∧
    (∀ k, s.dev.clk.target = some k → ∃ u, exec .stepChange s = .next u ∧ u.mem = s.mem ∧ u.dev.clk.target = none ∧
      u.field .clkStatus [] 4 0 = k % 32 ∧ u.field .clkStatus [] 13 13 = 0 ∧ (∀ r, r < 19 → u.field .clkRegion [r] 10 6 = k % 32) ∧
      ∀ c : CoreId, (u.core c).sbc = (s.core c).sbc ∧ (u.core c).st = (s.core c).st) ∧
    (s.field .clkStatus [] 14 14 = 1 → exec .refLoss s = .next s) ∧
    (s.field .clkStatus [] 14 14 = 0 → ∃ u, exec .refLoss s = .next u ∧ s.onlyRegs u ∧ u.field .clkStatus [] 14 14 = 1 ∧
      u.field .clkStatus [] 15 15 = 1 ∧ u.field .clkStatus [] 4 0 = s.field .clkStatus [] 4 0) ∧
    ∀ r : RegionId,
      (s.field .clkRegion [r] 2 2 = 1 ∨ (∃ t, AMap.find? s.dev.clk.stretchAt r = some t ∧ s.dev.period < t + 4) →
        exec (.droopStretch r) s = .next s) ∧
      ((∀ t, AMap.find? s.dev.clk.stretchAt r = some t → t + 4 ≤ s.dev.period) → s.field .clkRegion [r] 2 2 = 0 →
        ∃ u, exec (.droopStretch r) s = .next u ∧ u.mem = s.mem ∧ AMap.find? u.dev.clk.stretchAt r = some s.dev.period ∧
          u.field .clkStretch [r] 47 0 = min (2 ^ 48 - 1) (s.field .clkStretch [r] 47 0 + 1)) ∧
      (s.field .clkRegion [r] 0 0 = 0 → exec (.pllUnlock r) s = .next s) ∧
      (s.field .clkRegion [r] 0 0 = 1 → ∃ u, exec (.pllUnlock r) s = .next u ∧ u.mem = s.mem ∧ u.field .clkRegion [r] 2 0 = 6 ∧
        AMap.find? u.dev.clk.unlocks r = some s.dev.tick ∧
        ∀ c : CtxId, (s.ctx c).valid = true → (16 ≤ r.val ∨ (s.ctx c).hasCluster r = true) → (u.ctx c).halted = true) ∧
      (AMap.find? s.dev.clk.unlocks r = none → exec (.pllRelock r) s = .next s ∧ exec (.pllRelockTimeout r) s = .next s) ∧
      (∀ t, AMap.find? s.dev.clk.unlocks r = some t →
        (s.dev.tick ≤ t + 100000 → exec (.pllRelockTimeout r) s = .next s ∧ ∃ u : State, exec (.pllRelock r) s = .next u.settleLandings ∧
          (r.val ≠ 17 ∨ s.dev.hubQ = [] → u.mem = s.mem) ∧ u.field .clkRegion [r] 0 0 = 1 ∧ u.field .clkRegion [r] 2 2 = 0 ∧
          AMap.find? u.dev.clk.unlocks r = none) ∧
        (t + 100000 < s.dev.tick → exec (.pllRelock r) s = .next s ∧ ∃ u, exec (.pllRelockTimeout r) s = .next u ∧
          u.mem = s.mem ∧ AMap.find? u.dev.clk.unlocks r = none ∧
          (r.val < 16 → ∀ i, i < 4 → (s.core (4 * r.val + i)).st ≠ .fusedOff → (u.core (4 * r.val + i)).st = .outOfService) ∧
          (16 ≤ r.val → u.field .hubState [] 2 0 = 5 ∧ u.field .hubState [] 15 8 = 7)))

/-! ### Energy (R234 to R245) -/

/-- The planner. PLANNING_POINT, when the planned end of a segment has come: the segments that have ended leave, and, outside an
emergency or 1 ms after its release, the pick is the first step from the cap and the floor on that the model accepts, 24 when none
is; during an emergency the step stays; else nothing happens (assumption log 5). That ended segments take no part, and the planner's
other corners, are assumption log 65. STEP_CAP_WRITE, the host's link being up: the cap is stored and the pick is not below it.
NRG_MODEL_WRITE: ignored, with NRG_STATUS.REFUSED set, while a core runs or is frozen. SEGMENT_HOLD_RELEASE: the first hold of the
context that may end ends, which it may when the share covers its segment, or when the context's other segments have ended; that it is
the first such hold is assumption log 66. -/
def Obligations.PlannerPicksTheFirstAcceptableStep : Prop :=
  ∀ s : State,
    let planned (v : State) (lo : Nat) (u : State) : Prop :=
      let k := u.field .clkStep [] 12 8
      u.stepNow = k ∧ k ≤ 24 ∧ (lo ≤ k ∨ k = 24) ∧ (k < 24 → v.stepOk v.dev.clk.segs k = true) ∧ u.dev.clk.elec = none ∧
        ∀ j, lo ≤ j → j < k → v.stepOk v.dev.clk.segs j = false
    ((∀ g ∈ s.dev.clk.segs, g.tag = none ∨ g.left ≠ 0) → exec .planningPoint s = .next s) ∧
    (∀ g ∈ s.dev.clk.segs, g.tag.isSome → g.left = 0 →
      ∃ u, exec .planningPoint s = .next u ∧ u.mem = s.mem ∧ u.dev.clk.segs = s.segsEnd.dev.clk.segs ∧
        (s.holdOver = true → planned s.segsEnd (max (min 24 (s.field .clkStep [] 4 0)) s.stepFloor) u) ∧
        (s.holdOver = false → u.stepNow = s.stepNow ∧ u.dev.clk.elec = s.dev.clk.elec ∧ u.field .clkStep [] 12 8 = s.stepNow % 32)) ∧
    (∀ v : Word, s.linked = true → ∃ u, exec (.stepCapWrite v) s = .next u ∧ u.mem = s.mem ∧ u.field .clkStep [] 4 0 = bits v.toNat 4 0 ∧
      (s.holdOver = true → planned s.segsEnd (max (min 24 (bits v.toNat 4 0)) s.stepFloor) u) ∧
      (s.holdOver = false → u.stepNow = s.stepNow)) ∧
    (∀ v : Word, s.linked = true → (∃ c : CoreId, (s.core c).st = .running ∨ (s.core c).st = .frozen) →
      exec (.nrgModelWrite v) s = .next (s.setField .nrgStatus [] 33 33 1)) ∧
    (∀ v : Word, s.linked = true → (∀ c : CoreId, (s.core c).st ≠ .running ∧ (s.core c).st ≠ .frozen) → ∃ u, exec (.nrgModelWrite v) s = .next u ∧
      u.mem = s.mem ∧ u.field .nrgModel [] 27 16 = bits v.toNat 27 16 ∧ u.field .nrgModel [] 11 0 = bits v.toNat 11 0) ∧
    ∀ c : CtxId,
      let seg (id : Nat) : SegRun := s.segRun c { addr := 0, segId := id, first := 0, ninstr := 0, ndesc := 0, bank := 0, last := false }
      let free (id : Nat) : Prop := s.shareCovers c (seg id) (s.field .clkStep [] 12 8) = true ∨
        ((∀ g ∈ s.dev.clk.segs, g.ctx = c.val → g.tag.isSome ∧ g.left = 0) ∧ ∀ h ∈ s.dev.clk.held, h.1 = c.val → h.2.2 = false)
      ((∀ h ∈ s.dev.clk.held, h.1 = c.val → h.2.2 = false → ¬ free h.2.1) → exec (.segmentHoldRelease c) s = .next s) ∧
      (∀ pre id post, s.dev.clk.held = pre ++ (c.val, id, false) :: post → (∀ h ∈ pre, h.1 = c.val → h.2.2 = false → ¬ free h.2.1) → free id →
        exec (.segmentHoldRelease c) s = .next (s.modClk fun k =>
          { k with held := k.held.map fun y => if y = (c.val, id, false) then (c.val, id, true) else y }))

/-- Meters and limits, the rails on. METER_INTERVAL: the reservoir takes P_S, loses what VIN gave and stays within its capacity, and each rail
counts its energy. WEAR_LEDGER_SAVE and OVERBURST_CHECK as their rules say. CURRENT_LIMIT: 8 steps down at once, at most to
24; CURRENT_LIMIT_RELEASE marks the tick. THERMAL_SAMPLE: the first reading of 105 °C in a millisecond is one step down, 100
cool samples end it; that the step is taken at the first hot sample, and that a stored reading is at most 1023, is assumption log 69.
THERMTRIP at 115 °C: the trip is logged, the rails go off and only the cave keeps its bytes: what memory reads then, and the tick that
goes with the log, are the model's choices (assumption log 78 and 85). -/
def Obligations.MetersAndLimits : Prop :=
  ∀ s : State, s.nv.power.rails = true →
    (∀ (rails regs : List Nat) (v : Nat), ∃ u, exec (.meterInterval rails regs v) s = .next u ∧ u.mem = s.mem ∧
      let cap : Int := s.field .nrgCfg [] 35 24 * 1000000
      u.dev.clk.level = max (-cap) (min cap (s.dev.clk.level + (s.field .nrgCfg [] 23 12 * 100 : Nat) - (rails.getD 0 0 : Nat))) ∧
      (∀ i, i < 12 → AMap.get u.dev.clk.rails 0 i = AMap.get s.dev.clk.rails 0 i + rails.getD i 0) ∧
      s.dev.clk.wear ≤ u.dev.clk.wear ∧ (∀ c : CoreId, u.core c = s.core c)) ∧
    exec .wearLedgerSave s = .next { s with nv := { s.nv with wear := s.dev.clk.wear } } ∧
    (∀ mw : Nat,
      let overfull : Prop := s.field .nrgCfg [] 47 36 * 1000 < mw ∧ mw ≤ 4000000
      (¬ overfull → exec (.overburstCheck mw) s = .next s) ∧
      (overfull → ∃ u, exec (.overburstCheck mw) s = .next u ∧ u.mem = s.mem ∧
        u.field .nrgCntOverburst [] 47 0 = min (2 ^ 48 - 1) (s.field .nrgCntOverburst [] 47 0 + 1))) ∧
    (∃ u, exec .currentLimit s = .next u ∧ u.mem = s.mem ∧ u.stepNow = min 24 (s.stepNow + 8) ∧
      u.dev.clk.elec = some (min 24 (s.stepNow + 8), none) ∧
      u.field .nrgCntEmerg [] 47 0 = min (2 ^ 48 - 1) (s.field .nrgCntEmerg [] 47 0 + 1)) ∧
    (∀ k, s.dev.clk.elec = some (k, none) →
      exec .currentLimitRelease s = .next (s.modClk fun c => { c with elec := some (k, some s.dev.tick) })) ∧
    (s.dev.clk.elec = none ∨ (∃ k t, s.dev.clk.elec = some (k, some t)) → exec .currentLimitRelease s = .next s) ∧
    (∀ temps : List Nat, ∃ u, exec (.thermalSample temps) s = .next u ∧ u.mem = s.mem ∧
      (∀ r, r < 19 → u.field .clkRegion [r] 25 16 = min 1023 (temps.getD r 0)) ∧
      ((∃ r, r < 19 ∧ 420 ≤ temps.getD r 0) → s.dev.clk.hot = false → u.stepNow = min 24 (s.stepNow + 1) ∧
        u.dev.clk.thermal = some (min 24 (s.stepNow + 1)) ∧ u.field .hubAlert [] 4 4 = 1) ∧
      ((∀ r, r < 19 → temps.getD r 0 < 400) → u.stepNow = s.stepNow ∧ u.dev.clk.cool = s.dev.clk.cool + 1 ∧
        u.dev.clk.thermal = if 100 ≤ s.dev.clk.cool + 1 then none else s.dev.clk.thermal)) ∧
    (∀ (r : RegionId) (t : Nat), t < 460 → exec (.thermtrip r t) s = .next s) ∧
    (∀ (r : RegionId) (t : Nat), 460 ≤ t → s.dev.clk.wear ≤ wearLimit → ∃ u, exec (.thermtrip r t) s = .next u ∧
      u.nv.power.rails = false ∧ u.nv.power.trip = true ∧ u.nv.tripTick = s.hubTick ∧ u.pending = s.pending ∧ wbits u.nv.tripLog 63 63 = 1 ∧
      wbits u.nv.tripLog 62 58 = r.val ∧ wbits u.nv.tripLog 57 48 = min 1023 t ∧
      ∀ a, Mem.read u.mem a = if 2 ^ 48 ≤ a then Mem.read s.mem a else 0)

/-! ### Mailboxes (R250 to R255, R274, R275) -/

/-- MAILBOX_SUBMIT: a write while OWN is set is counted in HIF_ERR and nothing else; with OWN 0 only the word is stored; with
OWN 1 the checks run in their order, the first that fails answers with its status at once, and a command that passes them
all is accepted: its SEQ is the mailbox's last one and it keeps the mailbox. No byte of tier space changes. While the host's link is
not up nothing happens (R291; assumption log 5). An answer writes
the response half of its mailbox, clears OWN, ends the command and raises the mailbox's vector; no other mailbox and no byte
of tier space changes. A row that its mailbox holds no command for, or whose turn has not come (R254), does nothing (assumption log 5); a context
command in a mailbox that no context owns is answered NO_CONTEXT (R253). -/
def Obligations.MailboxesCheckInOrderAndAnswer : Prop :=
  (∀ (m : MboxId) (fn : Fin 2) (w : BitVec 32) (s : State), s.linked = false → exec (.mailboxSubmit m fn w) s = .next s) ∧
  (∀ (m : MboxId) (fn : Fin 2) (w : BitVec 32) (s : State), s.linked = true →
      let b := s.mbox m
      let seq := bits w.toNat 30 0
      (b.own = true → exec (.mailboxSubmit m fn w) s =
        .next (s.setField .hifErr [] 63 32 (min (2 ^ 32 - 1) (s.field .hifErr [] 63 32 + 1)))) ∧
      (b.own = false → bit w.toNat 31 = false → exec (.mailboxSubmit m fn w) s =
        .next (s.modMbox m fun b => { b with cells := Mem.writeLE b.cells 0 4 w.toNat, own := false })) ∧
      (b.own = false → bit w.toNat 31 = true → b.cells.wf = true →
        let c := Mem.writeLE b.cells 0 4 w.toNat
        let len := Mem.readLE c 4 2
        let op := Mem.readLE c 6 2
        let counter := Mem.readLE c 8 8
        let payload := Mem.readN c 0x20 (min len 2016)
        let st : Nat :=
          if seq ≠ (if b.lastSeq = 2 ^ 31 - 1 then 1 else b.lastSeq + 1) then 0x10
          else match opInfo op with
            | none => 0x11
            | some i =>
              if i.accepts m = false then 0x12
              else if s.lengthOk m op len payload = false then 0x13
              else if s.hubState ≠ 4 ∧ op ≠ 0x01 ∧ op ≠ 0xF0 then 0x14
              else if i.critical = false then 0
              else match s.authorise m op counter payload (Mem.readN c 0x10 16) with
                | .error e => e
                | .ok _ => 0
        ∃ u, exec (.mailboxSubmit m fn w) s = .next u ∧ u.mem = s.mem ∧
          (u.mbox m).lastSeq = (if st = 0x10 then b.lastSeq else seq) ∧
          (st ≠ 0 → (u.mbox m).own = false ∧ (u.mbox m).cmd = none ∧ Mem.readLE (u.mbox m).cells 0x806 2 = st) ∧
          (st = 0 → (u.mbox m).own = true ∧ ∃ a, (u.mbox m).cmd = some a ∧ a.fn = fn.val ∧ a.seq = seq ∧ a.op = op ∧
            a.payload = payload ∧ a.counter = counter ∧ a.tick = s.dev.tick))) ∧
  ((∀ (m : MboxId) (a : Accepted) (status : Nat) (payload : List Byte) (s : State),
      (s.mbox m).cells.wf = true → status < 65536 → payload.length ≤ 2016 →
      let u := s.answer m a status payload
      (u.mbox m).own = false ∧ (u.mbox m).cmd = none ∧ Mem.readLE (u.mbox m).cells 0x800 4 = a.seq % 2 ^ 31 ∧
        Mem.readLE (u.mbox m).cells 0x804 2 = payload.length ∧ Mem.readLE (u.mbox m).cells 0x806 2 = status ∧
        Mem.readN (u.mbox m).cells 0x820 payload.length = payload ∧ (∀ n, n ≠ m.val → u.mbox n = s.mbox n) ∧
        u.mem = s.mem ∧ u.host = s.host.raise (m + 2048 * a.fn)) ∧
    (∀ (m : MboxId) (hint : Option Nat) (hints : List Nat) (s : State), ∀ r ∈ hostRows m hint hints,
      ((∀ a, ¬ s.serves m r.1 a) → exec r.2 s = .next s) ∧
      (∀ a, r.1 ∈ [0x30, 0x31, 0x32, 0x34, 0x50, 0x51, 0x52, 0x60, 0x61, 0x70, 0x71, 0x72] → s.serves m r.1 a → (s.mbox m).owner = none →
        exec r.2 s = .next (s.answer m a 0x20 []))))

/-- CONTEXT_CREATE, CONTEXT_DESTROY, HALT, RUN and PICK_MODE once their turn has come: the first failed check answers with its
status and changes nothing else; else the context exists with its arc and mailboxes; it halts and, its units quiet, is gone;
its running cores are HALTED on their beat; its LOADED cores start on beat 0 with their step and its HALTED ones resume; its
cores take the pick mode. -/
def Obligations.ContextsAreMadeRunAndEnded : Prop :=
  ∀ (m : MboxId) (hint : Option Nat) (s : State) (a : Accepted),
    (s.serves m 0x20 a →
      let q := Create.read a
      (∀ st, s.createRefused q = some st → exec (.contextCreate m hint) s = .next (s.answer m a st [])) ∧
      (s.createRefused q = none → exec (.contextCreate m hint) s = .next (match s.create q hint with
        | none => s.answer m a 0x27 []
        | some (t, g) => t.answer m a 0 (leBytes 4 (t.hubArc q.ctx).toNat ++ leBytes 4 0 ++ leBytes 8 (g * granBytes)))) ∧
      (s.createRefused q = none → ∀ t g, s.create q hint = some (t, g) →
        (t.ctx q.ctx).valid = true ∧ (t.ctx q.ctx).first = q.first ∧ (t.ctx q.ctx).count = q.count ∧ (t.ctx q.ctx).inbox = g ∧
        ∀ n, n < 64 → bit q.mbox n = true → (t.mbox n).owner = some q.ctx)) ∧
    (s.serves m 0x21 a →
      let c := a.at_ 0 4
      (7 < c ∨ (s.ctx c).valid = false → exec (.contextDestroy m) s = .next (s.answer m a 0x20 [])) ∧
      (c ≤ 7 → (s.ctx c).valid = true → ∃ u, exec (.contextDestroy m) s = .next u ∧
        let h := (s.haltCtx c).begin_ m
        (h.stopped c = true → u.ctx c = {} ∧ (u.mbox m).cmd = none) ∧ (h.stopped c = false → u = h ∧ (u.ctx c).halted = true))) ∧
    (s.serves m 0x33 a →
      let named (c : Nat) : Prop := if m.val = 0 then c = a.at_ 0 1 ∧ c ≤ 7 ∧ (s.ctx c).valid = true else (s.mbox m).owner = some c
      ((∀ c, ¬ named c) → exec (.halt m) s = .next (s.answer m a 0x20 [])) ∧
      (∀ c, named c → ∃ u, exec (.halt m) s = .next u ∧ u.mem = s.mem ∧
        ((s.ctx c).running = true ∨ (∃ d ∈ (s.ctx c).slots, (s.core d).live = true) → (u.ctx c).halted = true) ∧
        ∀ d ∈ (s.ctx c).slots, (u.core d).sbc = (s.core d).sbc ∧ (u.core d).seqr = (s.core d).seqr ∧
          ((s.core d).live = true → (u.core d).st = .halted))) ∧
    (∀ c, s.serves m 0x32 a → (s.mbox m).owner = some c →
      ((s.ctx c).loaded = false → exec (.run m) s = .next (s.answer m a 0x38 [])) ∧
      ((s.ctx c).loaded = true → (s.ctx c).faulted = true ∨ (∃ d ∈ (s.ctx c).slots, (s.core d).st = .faulted) →
        exec (.run m) s = .next (s.answer m a 0x40 [])) ∧
      ((s.ctx c).loaded = true → (s.ctx c).faulted = false → (∀ d ∈ (s.ctx c).slots, (s.core d).st ≠ .faulted) →
        ∃ u, exec (.run m) s = .next u ∧ u.mem = s.mem ∧ (u.mbox m).cmd = none ∧
          ∀ d ∈ (s.ctx c).slots,
            ((s.core d).st = .loaded → (u.core d).st = .running ∧ (u.core d).sbc = 0 ∧ (u.core d).seqr.blk = 64 ∧
              (u.core d).seqr.fwd.step = BitVec.ofNat 64 (a.at_ 0 8) ∧ (u.core d).seqr.bwd.step = BitVec.ofNat 64 (a.at_ 0 8)) ∧
            ((s.core d).st = .halted → u.core d = { s.core d with st := if (s.core d).seqr.frz.isSome then .frozen else .running }))) ∧
    (∀ c, s.serves m 0x34 a → (s.mbox m).owner = some c →
      let two : Prop := (s.ctx c).loaded = true ∧ ∃ d ∈ (s.ctx c).slots, (s.core d).seqr.two = true
      (¬ two → exec (.pickMode m) s = .next (s.answer m a 0x41 [])) ∧
      (two → 1 < a.at_ 0 1 → exec (.pickMode m) s = .next (s.answer m a 0x19 [])) ∧
      (two → a.at_ 0 1 ≤ 1 → ∃ u, exec (.pickMode m) s = .next u ∧ u.mem = s.mem ∧ (u.mbox m).cmd = none ∧
        ∀ d ∈ (s.ctx c).slots, (u.core d).seqr = { (s.core d).seqr with pick := a.at_ 0 1 == 1 } ∧ (u.core d).st = (s.core d).st))

/-- GET_INFO, GET_FEATURES, GET_LEDGER, FUSE_READ, FUSE_PROGRAM, SET_BUDGET, ROUTE_SET, RIND_ARM and RESET once their turn has
come: the answer that the table of commands gives, or its effect. Fuse bits are only set, and the device secret reads 0; a
budget out of range changes nothing; a route set names the module and its forwarding entries at once; RESET restarts the hub
at BOOT with the cave kept, or halts every context. That SRC 0 clears the arming and starts a wave, and that CLASS is checked for SRC 2
only, is assumption log 75; that memory outside the cave reads 0 after RESET is the model's choice (assumption log 78), and what RESET
keeps is assumption log 86. -/
def Obligations.ModuleCommandsTakeEffect : Prop :=
  ∀ (m : MboxId) (s : State) (a : Accepted),
    (s.serves m 0x01 a → exec (.getInfo m) s = .next (s.answer m a 0 (leBytes 8 (s.read .hubId []).toNat ++
      leBytes 8 (s.read .featGen []).toNat ++ leBytes 4 (s.read .hubState []).toNat ++ leBytes 8 (s.fuse 2).toNat ++
      leBytes 8 (s.fuse 3).toNat ++ leBytes 12 0))) ∧
    (s.serves m 0x02 a → exec (.getFeatures m) s = .next (s.answer m a 0 (s.featBytes ++ leBytes 4 (s.read .hubHoopCfg []).toNat))) ∧
    (s.serves m 0x41 a →
      let c := a.at_ 0 1
      let known : Prop := if m.val = 0 then c = 0xFF ∨ (c ≤ 7 ∧ (s.ctx c).valid = true) else (s.mbox m).owner.isSome
      let of (energy : Word) (share : Nat) : State := s.answer m a 0 (leBytes 8 (s.read .nrgRail [0]).toNat ++
        leBytes 8 energy.toNat ++ leBytes 4 (wbits s.nrgStatus 31 0) ++ leBytes 4 share ++
        leBytes 8 (wbits s.nrgWear 31 0) ++ leBytes 4 (wbits s.clkStatus 4 0) ++ leBytes 4 (wbits (s.reg .nrgCntEmerg []) 31 0))
      (¬ known → exec (.getLedger m) s = .next (s.answer m a 0x20 [])) ∧
      (m.val = 0 → c = 0xFF → exec (.getLedger m) s = .next (of (s.read .nrgIdle []) 0)) ∧
      (∀ d, (m.val = 0 ∧ d = c ∧ c ≤ 7 ∧ (s.ctx c).valid = true) ∨ (m.val ≠ 0 ∧ (s.mbox m).owner = some d) →
        exec (.getLedger m) s = .next (of (s.read .nrgCtx [d]) (wbits (s.nrgShare d) 31 0)))) ∧
    (s.serves m 0xF0 a →
      let n := a.at_ 0 4
      exec (.fuseRead m) s = .next (if 71 < n then s.answer m a 0x19 []
        else s.answer m a 0 (leBytes 8 (if n < 32 ∨ 35 < n then (s.fuse n).toNat else 0)))) ∧
    (s.serves m 0xF1 a →
      let n := a.at_ 0 4
      (n < 64 → exec (.fuseProgram m) s = .next (s.answer m a 0xF0 [])) ∧
      (71 < n → exec (.fuseProgram m) s = .next (s.answer m a 0x19 [])) ∧
      (64 ≤ n → n ≤ 71 → ∃ u, exec (.fuseProgram m) s = .next u ∧ u.mem = s.mem ∧
        u.fuse n = s.fuse n ||| BitVec.ofNat 64 (a.at_ 8 8) ∧ ∀ j, j ≠ n → u.fuse j = s.fuse j)) ∧
    (s.serves m 0x40 a →
      (budgetOk a = false → exec (.setBudget m) s = .next (s.answer m a 0x50 [])) ∧
      (budgetOk a = true → ∃ u, exec (.setBudget m) s = .next u ∧ u.mem = s.mem ∧
        u.field .nrgCfg [] 23 12 = a.at_ 0 4 ∧ u.field .nrgCfg [] 35 24 = a.at_ 4 4 ∧ u.field .nrgCfg [] 47 36 = a.at_ 8 4 ∧
        u.dev.clk.level = min s.dev.clk.level (a.at_ 4 4 * 1000000 : Nat) ∧
        ∀ c : CtxId, u.field .nrgShare [c] 43 32 = a.at_ (16 + 4 * c) 4)) ∧
    (s.serves m 0x62 a →
      (routeOk a = false → exec (.routeSet m) s = .next (s.answer m a 0x63 [])) ∧
      (routeOk a = true → ((routeEntries a).map (·.1)).Nodup → ∃ u, exec (.routeSet m) s = .next u ∧ u.mem = s.mem ∧
        (bit (a.at_ 2 1) 0 = true → u.moduleId = a.at_ 0 2) ∧ (bit (a.at_ 2 1) 0 = false → u.moduleId = s.moduleId) ∧
        (∀ e ∈ routeEntries a, AMap.get u.dev.link.fwd 0 e.1 = BitVec.ofNat 32 e.2.2) ∧
        ∀ d, (∀ e ∈ routeEntries a, e.1 ≠ d) → AMap.get u.dev.link.fwd 0 d = AMap.get s.dev.link.fwd 0 d)) ∧
    (∀ c, s.serves m 0x52 a → (s.mbox m).owner = some c →
      let src := a.at_ 0 1
      let cls := a.at_ 1 1
      (3 < src ∨ (src = 2 ∧ ¬ (1 ≤ cls ∧ cls ≤ 8)) → exec (.rindArm m) s = .next (s.answer m a 0x19 [])) ∧
      (src = 1 ∨ src = 3 ∨ (src = 2 ∧ 1 ≤ cls ∧ cls ≤ 8) → ∃ u, exec (.rindArm m) s = .next u ∧ u.mem = s.mem ∧ u.dev.rind = s.dev.rind ∧
        (u.ctx c).arming = some { src := src, cls := cls, step := BitVec.ofNat 64 (a.at_ 8 8), once := a.at_ 2 1 != 0 }) ∧
      (src = 0 → s.dev.rind.cur = none → ∃ u, exec (.rindArm m) s = .next u ∧ (u.ctx c).arming = none ∧
        u.dev.rind.cur = some ⟨0, some c⟩ ∧ u.dev.rind.wave = (s.dev.rind.wave + 1) % 65536 ∧ u.dev.rind.todo = List.range 19 ∧ u.dev.rind.cut = false)) ∧
    (s.serves m 0xA0 a →
      (a.at_ 0 1 = 0 → ∃ u, exec (.reset m) s = .next u ∧ u.hubState = 1 ∧ u.field .hubReset [] 3 0 = 2 ∧ u.nv.wear = s.dev.clk.wear ∧
        u.dev.ctxs = [] ∧ u.dev.cores = [] ∧ u.pending = s.pending ∧ ∀ x, Mem.read u.mem x = if 2 ^ 48 ≤ x then Mem.read s.mem x else 0) ∧
      (a.at_ 0 1 = 1 → ∃ u, exec (.reset m) s = .next u ∧ u.hubState = 6 ∧ u.mem = s.mem ∧
        ∀ c : CtxId, (s.ctx c).valid = true → (u.ctx c).halted = true) ∧
      (1 < a.at_ 0 1 → exec (.reset m) s = .next (s.answer m a 0x19 [])))

/-- PROGRAM_LOAD, STREAM_APPEND, FLOW_OPEN, FLOW_CLOSE, CAVE_READ, CAVE_WRITE and CAVE_ERASE of a context once their turn has
come: the first failed check answers with its status; a load waits for the context's units, and one that succeeds leaves the
context loaded and every slot's core LOADED; an appended segment joins its stream's queue; a flow opens with its credit or
closes; the cave's bytes reach the host, wait to be programmed, or read 0 and no other byte changes. A cave command out of
reach (R2, R148), or one that a read-only cave refuses (R170), changes no byte and is recorded in MEM_FAULT (assumption log 113). The
payload of a refused load is assumption log 51, and the order of FLOW_OPEN's checks assumption log 59; a reduction whose scale table
lies in a cave that has stopped accepting writes waits (R171). A cave that accepts writes is not read-only. Memory that a closing
flow's own frames do not hold stays as it was; frames that waited behind them follow. -/
def Obligations.ContextCommandsTakeEffect : Prop :=
  ∀ (m : MboxId) (hint : Option Nat) (hints : List Nat) (s : State) (a : Accepted) (c : Nat), (s.mbox m).owner = some c →
    (s.serves m 0x30 a →
      let x := s.ctx c
      let i := Image.read (s.rd (a.at_ 0 8))
      let bs := s.bytes (a.at_ 0 8) i.length
      let rd : Rd := fun o n => leNat ((bs.drop o).take n)
      let say (t : State) (st n v : Nat) : State := t.answer m a st (leBytes 4 n ++ leBytes 2 v ++ leBytes 2 0)
      ((∃ j, j < 4 * x.count ∧ (s.core (4 * x.first + j)).live = true) → exec (.programLoad m hints) s = .next (say s 0x21 0xFFFFFFFF 0)) ∧
      ((∀ j, j < 4 * x.count → (s.core (4 * x.first + j)).live = false) →
        (s.streamsQuiet c && s.harpQuiet c && s.ripQuiet c) = false → exec (.programLoad m hints) s = .next (s.begin_ m)) ∧
      ((∀ j, j < 4 * x.count → (s.core (4 * x.first + j)).live = false) → s.streamsQuiet c = true → s.harpQuiet c = true →
        s.ripQuiet c = true → s.imageReach c (a.at_ 0 8) 64 = false ∨ s.imageReach c (a.at_ 0 8) (max 64 i.length) = false →
        exec (.programLoad m hints) s = .next (say s 0x28 0xFFFFFFFF 0)) ∧
      ((∀ j, j < 4 * x.count → (s.core (4 * x.first + j)).live = false) → s.streamsQuiet c = true → s.harpQuiet c = true →
        s.ripQuiet c = true → s.imageReach c (a.at_ 0 8) 64 = true → s.imageReach c (a.at_ 0 8) (max 64 i.length) = true →
        (∀ st, s.loadRefused c i rd bs = some st → exec (.programLoad m hints) s = .next (say s st 0xFFFFFFFF i.v)) ∧
        (s.loadRefused c i rd bs = none → ∀ t st n, s.load c (a.at_ 0 8) i rd bs hints = (t, st, n) →
          exec (.programLoad m hints) s = .next (say t st n i.v) ∧
          (st = 0 → (t.ctx c).loaded = true ∧ (t.ctx c).running = false ∧ (t.ctx c).image = sha256 bs ∧
            (t.ctx c).slots = (s.positions x.first x.count).take i.v ∧ (t.ctx c).ps = s.positions x.first x.count ∧ ∀ d ∈ (t.ctx c).slots, (t.core d).st = .loaded ∧ (t.core d).ctx = c)))) ∧
    (s.serves m 0x31 a →
      ((s.ctx c).loaded = false → exec (.streamAppend m hint) s = .next (s.answer m a 0x38 [])) ∧
      ((s.ctx c).loaded = true → a.at_ 8 4 = 1 → a.at_ 12 4 = 0 →
        let r := SegRec.ofWord (leNat (s.bytes (a.at_ 0 8) 32))
        let n := max 32 (r.off + 16 * r.seg.ndesc + 8 * r.seg.ninstr)
        let d := (s.ctx c).slots.getD r.slot 0
        let x := streamOf r.stream
        s.imageReach c (a.at_ 0 8) 32 = true → s.imageReach c (a.at_ 0 8) n = true →
        r.ok ((s.ctx c).slots.any fun k => (s.core k).seqr.two) (s.ctx c).slots.length n = true →
        ((s.core d).seqr.strm x).cycle = none → s.unfetched c r.slot x < 4096 →
        (∀ t, s.alloc { owner := some c, tier := 3, n := gransFor n } hint = (t, none) →
          exec (.streamAppend m hint) s = .next (t.answer m a 0x27 [])) ∧
        ∀ t g, s.alloc { owner := some c, tier := 3, n := gransFor n } hint = (t, some g) →
          ∃ u, exec (.streamAppend m hint) s = .next u ∧ (u.mbox m).cmd = none ∧
            ((u.core d).seqr.strm x).segs = ((t.core d).seqr.strm x).segs ++ [{ r.seg with addr := g * granBytes + r.off }] ∧
            ∀ e, e ≠ d → u.core e = t.core e)) ∧
    (s.serves m 0x60 a →
      let f := a.at_ 0 2
      (flowFieldsOk a = false → exec (.flowOpen m hint) s = .next (s.answer m a 0x61 [])) ∧
      (flowFieldsOk a = true → (s.flow f).st ≠ .closed → exec (.flowOpen m hint) s = .next (s.answer m a 0x60 [])) ∧
      (flowFieldsOk a = true → (s.flow f).st = .closed → a.at_ 2 1 = 0 → exec (.flowOpen m hint) s = .next ((s.setFlow f
        { st := .opened, kind := 0, ctx := c, vc := a.at_ 3 1, peer := a.at_ 6 2, pflow := a.at_ 8 2, credit := a.at_ 10 2,
          base := a.at_ 16 8, slotSize := a.at_ 12 4, slots := a.at_ 10 2, relword := a.at_ 24 8 } |>.pump f).answer m a 0 [])) ∧
      (flowFieldsOk a = true → (s.flow f).st = .closed → a.at_ 2 1 = 1 →
        let rel := a.at_ 4 1 == 1
        let x := a.at_ 24 8
        ((s.reach c (a.at_ 16 8) (a.at_ 10 2 * a.at_ 12 4)).isSome → exec (.flowOpen m hint) s = .next (s.answer m a 0x28 [])) ∧
        (s.reach c (a.at_ 16 8) (a.at_ 10 2 * a.at_ 12 4) = none → rel = true → s.hubWord c x = false →
          exec (.flowOpen m hint) s = .next (s.answer m a (if x % 4 = 0 then 0x28 else 0x61) [])) ∧
        (s.reach c (a.at_ 16 8) (a.at_ 10 2 * a.at_ 12 4) = none → rel = false ∨ s.hubWord c x = true →
          exec (.flowOpen m hint) s = .next (((if rel then s.put x (leBytes 4 0) false else s).setFlow f
            { st := .opened, kind := 1, ctx := c, vc := a.at_ 3 1, rel := rel, peer := a.at_ 6 2, pflow := a.at_ 8 2,
              base := a.at_ 16 8, slotSize := a.at_ 12 4, slots := a.at_ 10 2, relword := x } |>.pump f).answer m a 0 []))) ∧
      (flowFieldsOk a = true → (s.flow f).st = .closed → a.at_ 2 1 = 2 → ∀ t, s.openRed c a hint = (t, none) →
        exec (.flowOpen m hint) s = .next s) ∧
      (flowFieldsOk a = true → (s.flow f).st = .closed → a.at_ 2 1 = 2 → ∀ t st, s.openRed c a hint = (t, some st) →
        exec (.flowOpen m hint) s = .next (t.answer m a st []) ∧
        (st = 0 → (t.flow f).st = .opened ∧ ∃ x, (t.flow f).red = some x ∧ x.rounds = 0 ∧ x.running = false))) ∧
    (s.serves m 0x61 a →
      let f := a.at_ 0 4
      let w := s.flow f
      (16384 ≤ f ∨ w.st = .closed ∨ w.fw = true ∨ w.ctx ≠ c → exec (.flowClose m) s = .next (s.answer m a 0x61 [])) ∧
      (f < 16384 → w.st ≠ .closed → w.fw = false → w.ctx = c → ∃ u, exec (.flowClose m) s = .next u ∧
        ((∀ g ∈ s.dev.link.flows, g.2.landings = []) → s.dev.link.held = [] → u.mem = s.mem) ∧
        (w.kind ≠ 0 ∨ s.flowDrained f = true → (u.flow f).st = .closed ∧ (u.mbox m).cmd = none) ∧
        (w.kind = 0 → s.flowDrained f = false → (u.flow f).st = .closing ∧ (u.mbox m).cmd.isSome))) ∧
    (let refused (row : Instr) (st code : Nat) : Prop := ∃ u, exec row s = .next u ∧ u.mem = s.mem ∧ u.bad = s.bad ∧
        u.host.mem = s.host.mem ∧ u.nv.flash = s.nv.flash ∧ (u.mbox m).cmd = none ∧
        ((s.mbox m).cells.wf = true → Mem.readLE (u.mbox m).cells 0x806 2 = st) ∧
        (code ≠ 0 → c < 8 → s.field .memFault [] 8 8 = 0 → u.field .memFault [] 63 48 = code)
      let badRange (st : Nat) : Nat := if st = 0x28 then 0x0104 else 0
      (∀ x n fn, x = a.at_ 0 8 → n = a.at_ 16 8 → fn = a.at_ 24 1 →
        let h := hostKey fn (a.at_ 8 8)
        (s.serves m 0x70 a → (∀ st, s.caveRange c x n 32 = some st → refused (.caveRead m) st (badRange st)) ∧
          (s.caveRange c x n 32 = none → s.fnOk fn = false → exec (.caveRead m) s = .next (s.answer m a 0x19 [])) ∧
          (s.caveRange c x n 32 = none → s.fnOk fn = true → s.mem.wf = true → s.host.mem.wf = true →
            ∃ u, exec (.caveRead m) s = .next u ∧ u.mem = s.mem ∧ Mem.readN u.host.mem h n = s.bytes x n ∧
              ∀ b, b < h ∨ h + n ≤ b → Mem.read u.host.mem b = Mem.read s.host.mem b)) ∧
        (s.serves m 0x71 a →
          (a.begun = true → exec (.caveWrite m) s = .next (if s.waits (.mailbox m) then s else s.answer m a 0 [])) ∧
          (a.begun = false → ∀ st, s.caveRange c x n 32 = some st → refused (.caveWrite m) st (badRange st)) ∧
          (a.begun = false → s.caveRange c x n 32 = none → s.fnOk fn = false → exec (.caveWrite m) s = .next (s.answer m a 0x19 [])) ∧
          (a.begun = false → s.caveRange c x n 32 = none → s.fnOk fn = true →
            (s.caveRo = true → refused (.caveWrite m) 0x27 0x0306) ∧
            (s.caveRo = false →
              exec (.caveWrite m) s = .next ((s.farWrite x (Mem.readN s.host.mem h n) [] (.mailbox m)).begin_ m))))) ∧
      (∀ x n, x = a.at_ 0 8 → n = a.at_ 8 8 → s.serves m 0x72 a →
        (∀ st, s.caveRange c x n granBytes = some st → refused (.caveErase m) st (badRange st)) ∧
        (s.caveRange c x n granBytes = none → s.caveRo = true → refused (.caveErase m) 0x27 0x0306) ∧
        (s.caveRange c x n granBytes = none → s.caveRo = false → s.caveOpen = false → exec (.caveErase m) s = .next s) ∧
        (s.caveRange c x n granBytes = none → s.caveOpen = true → ∃ u, exec (.caveErase m) s = .next u ∧ (u.mbox m).cmd = none ∧
          ∀ b, Mem.read u.mem b = if x ≤ b ∧ b < x + n then 0 else Mem.read s.mem b)))

/-- SNAPSHOT_SHIP and CHECKPOINT once their turn has come: a range out of reach is refused; a standing request is answered and
kept, in place of an older standing one, and a single one keeps its mailbox, with which no other is taken; a length of 0 ends the
request. SNAPSHOT_SHIPMENT and CHECKPOINT_WRITE do nothing without a request, before its step is complete, or while the message or
the writes before wait (assumption log 5); else they stage the ranges, send the next piece or write the next part; at the end a single
request is over, and a standing one is due EVERY steps later. That one request in progress holds back a later one, and when a request is
due and staged, is assumption log 73; the statuses of the pad and the extents are assumption log 74. -/
def Obligations.SnapshotsAndCheckpointsGoOn : Prop :=
  (∀ (m : MboxId) (s : State) (a : Accepted) (c : Nat), (s.mbox m).owner = some c →
    (s.serves m 0x50 a →
      let busy : Prop := a.begun = true ∨ ∃ o, (s.ctx c).snap = some o ∧ o.mbox.isSome
      let q : Snap := { src := a.at_ 0 8, len := a.at_ 8 8, peer := a.at_ 16 2, pflow := a.at_ 18 2, every := a.at_ 20 4, next := a.at_ 24 8,
                        mbox := if a.at_ 20 4 = 0 then some m.val else none }
      (busy → exec (.snapshotShip m) s = .next s) ∧
      (¬ busy → q.len = 0 → ∃ u, exec (.snapshotShip m) s = .next u ∧ u.mem = s.mem ∧ (u.ctx c).snap = none ∧ (u.mbox m).cmd = none) ∧
      (¬ busy → q.len ≠ 0 → (s.reach c q.src q.len).isSome → exec (.snapshotShip m) s = .next (s.answer m a 0x28 [])) ∧
      (¬ busy → q.len ≠ 0 → s.reach c q.src q.len = none → ∃ u, exec (.snapshotShip m) s = .next u ∧ u.mem = s.mem ∧
        (u.ctx c).snap = some q ∧ (u.mbox m).cmd = (if q.every = 0 then some { a with begun := true } else none))) ∧
    (s.serves m 0x51 a →
      let busy : Prop := a.begun = true ∨ ∃ o, (s.ctx c).chk = some o ∧ o.mbox.isSome
      let es := readExtents a
      let q : Chk := { destA := a.at_ 0 8, destB := a.at_ 8 8, every := a.at_ 24 4, next := a.at_ 16 8, extents := es,
                       mbox := if a.at_ 24 4 = 0 then some m.val else none }
      let ok : Prop := s.destOk c q.destA (extentBytes es) = true ∧ (q.destB ≠ 0 → s.destOk c q.destB (extentBytes es) = true) ∧
        ∀ e ∈ es, s.reach c e.1 e.2 = none
      (busy → exec (.checkpoint m) s = .next s) ∧
      (¬ busy → a.zero 30 2 = false → exec (.checkpoint m) s = .next (s.answer m a 0x19 [])) ∧
      (¬ busy → a.zero 30 2 = true → ¬ ok → exec (.checkpoint m) s = .next (s.answer m a 0x28 [])) ∧
      (¬ busy → a.zero 30 2 = true → ok → ∃ u, exec (.checkpoint m) s = .next u ∧ u.mem = s.mem ∧ (u.ctx c).chk = some q ∧
        (u.mbox m).cmd = (if q.every = 0 then some { a with begun := true } else none)))) ∧
  (∀ (c : CtxId) (hint : Option Nat) (s : State),
    ((s.ctx c).snap = none → exec (.snapshotShipment c hint) s = .next s) ∧
    ((s.ctx c).chk = none → exec (.checkpointWrite c hint) s = .next s) ∧
    (∀ q, (s.ctx c).snap = some q →
      let w := s.flow q.flow
      let idle : Option Snap := if q.mbox.isSome then none else some { q with stage := none, sent := 0, manifest := [], next := q.next + q.every }
      (q.stage = none → s.updated c q.next = false ∨ s.freeShipFlow = none → exec (.snapshotShipment c hint) s = .next s) ∧
      (q.stage = none → s.updated c q.next = true → ∀ f t g, s.freeShipFlow = some f →
        s.alloc { owner := some c, tier := 4, n := gransFor q.len } hint = (t, some g) → t.mem.wf = true →
        ∃ u man, exec (.snapshotShipment c hint) s = .next u ∧ u.bytes (g * granBytes) q.len = t.bytes q.src q.len ∧
          (u.ctx c).snap = some { q with stage := some (g * granBytes), flow := f, sent := 0, manifest := man } ∧ (u.flow f).st = .opened) ∧
      (∀ x, q.stage = some x →
        (w.st = .opened → w.credit = 0 → exec (.snapshotShipment c hint) s = .next s) ∧
        (w.st = .opened → w.credit ≠ 0 → q.sent ≤ q.len → ∃ u, exec (.snapshotShipment c hint) s = .next u ∧
          (u.ctx c).snap = some { q with sent := if q.sent < q.len then q.sent + min 16384 (q.len - q.sent) else q.len + 256 }) ∧
        (w.st ≠ .opened ∨ (w.credit ≠ 0 ∧ q.len < q.sent) → ∃ u, exec (.snapshotShipment c hint) s = .next u ∧ u.mem = s.mem ∧
          (u.ctx c).snap = idle))) ∧
    (∀ q, (s.ctx c).chk = some q →
      let n := extentBytes q.extents
      let idle : Option Chk := if q.mbox.isSome then none
        else some { q with stage := none, phase := 0, next := q.next + q.every, useB := !q.useB && q.destB != 0 }
      (q.stage = none → s.updated c q.next = false → exec (.checkpointWrite c hint) s = .next s) ∧
      (q.stage = none → s.updated c q.next = true → s.caveRo = false → ∀ t g,
        s.alloc { owner := some c, tier := 4, n := gransFor n } hint = (t, some g) →
        ∃ u, exec (.checkpointWrite c hint) s = .next u ∧
          (u.ctx c).chk = some { q with stage := some (g * granBytes), dest := if q.useB then q.destB else q.destA, phase := 1 }) ∧
      (∀ x, q.stage = some x →
        (s.waits (.checkpoint c) = true → exec (.checkpointWrite c hint) s = .next s) ∧
        (s.waits (.checkpoint c) = false → s.caveRo = false →
          (q.phase = 1 → exec (.checkpointWrite c hint) s = .next ((s.farWrite (q.dest + 16384) (s.bytes x n)
            ((s.badIn x n).map (· - x / 32)) (.checkpoint c)).modChk c fun q => { q with phase := 2 })) ∧
          (q.phase = 2 → exec (.checkpointWrite c hint) s = .next ((s.farWrite q.dest (chkHeader q q.next (s.bytes x n)) []
            (.checkpoint c)).modChk c fun q => { q with phase := 3 })))) ∧
      (s.caveRo = true ∨ (q.stage.isSome ∧ q.phase ≠ 1 ∧ q.phase ≠ 2) → (q.stage = none → s.updated c q.next = true) →
        s.waits (.checkpoint c) = false → ∃ u, exec (.checkpointWrite c hint) s = .next u ∧ u.mem = s.mem ∧ (u.ctx c).chk = idle)))

/-! ### Identity and sessions (R266, R270 to R273, R276 to R278) -/

/-- SESSION_OPEN, ATTEST, PATCH_INSTALL and DEBUG_UNLOCK once their turn has come. A session binds the mailboxes of its mask,
each with a new EPOCH and no accepted counter, when its bind number rises, its proof verifies and no other live session has
one of them; a proof that fails counts SEC_CNT_AUTHFAIL; a report carries the nonce and the Alias key's signature of all
before it; a valid, newer bundle of at most 65,536 bytes replaces the patch area; a debug token that verifies unlocks its
scope, and one that does not changes nothing of it, with a fresh nonce either way. Else the command's status is the answer. -/
def Obligations.SecurityCommandsCheckTheirProof : Prop :=
  ∀ (m : MboxId) (s : State) (a : Accepted),
    (s.serves m 0x10 a →
      let id := a.at_ 0 4
      let live (x : Sess) : Bool := x.id == id && x.up
      (s.dev.spdm.sessions.find? live = none → exec (.sessionOpen m) s = .next (s.answer m a 0x15 [])) ∧
      (∀ x, s.dev.spdm.sessions.find? live = some x →
        let proof : Prop := x.bindNo < a.at_ 4 4 ∧
          (hmac (hkdfExpand x.ems (asciiBytes "N2MB-BND") 32) (a.payload.take 16)).take 16 = (a.payload.drop 16).take 16
        (¬ proof → ∃ u, exec (.sessionOpen m) s = .next u ∧ (u.mbox m).cmd = none ∧ (u.mbox m).session = (s.mbox m).session ∧
          u.dev.spdm = s.dev.spdm ∧ u.field .secCntAuthfail [] 47 0 = min (2 ^ 48 - 1) (s.field .secCntAuthfail [] 47 0 + 1)) ∧
        (proof → (∀ n ∈ maskBits (a.at_ 8 8), s.boundElsewhere id n = false) → ∃ u, exec (.sessionOpen m) s = .next u ∧ u.mem = s.mem ∧
          ∀ n, n < 64 → (bit (a.at_ 8 8) n = true → (u.mbox n).session = some id ∧ (u.mbox n).epoch = ((s.mbox n).epoch + 1) % 2 ^ 32 ∧
              (u.mbox n).lastCtr = 0) ∧
            (bit (a.at_ 8 8) n = false → (u.mbox n).session = (s.mbox n).session ∧ (u.mbox n).epoch = (s.mbox n).epoch)) ∧
        (proof → (∃ n ∈ maskBits (a.at_ 8 8), s.boundElsewhere id n = true) → exec (.sessionOpen m) s = .next (s.answer m a 0x24 [])))) ∧
    (s.serves m 0x11 a → ∃ body, exec (.attest m) s = .next (s.answer m a 0 (body ++ s.aliasSig body)) ∧
      body.take (a.payload.take 32).length = a.payload.take 32) ∧
    (s.serves m 0x80 a →
      let n := a.at_ 8 4
      let d := Mem.readN s.host.mem (hostKey (a.at_ 12 1) (a.at_ 0 8)) n
      (a.zero 13 3 = false ∨ s.fnOk (a.at_ 12 1) = false → exec (.patchInstall m) s = .next (s.answer m a 0x19 [])) ∧
      (a.zero 13 3 = true → s.fnOk (a.at_ 12 1) = true → 65536 < n → exec (.patchInstall m) s = .next (s.answer m a 0x80 [])) ∧
      (a.zero 13 3 = true → s.fnOk (a.at_ 12 1) = true → n ≤ 65536 →
      (s.bundleOk d = false ∨ bundleLen d ≠ n → exec (.patchInstall m) s = .next (s.answer m a 0x80 [])) ∧
      (s.bundleOk d = true → bundleLen d = n → bundleVersion d ≤ s.field .featGen [] 23 16 →
        exec (.patchInstall m) s = .next (s.answer m a 0x81 [])) ∧
      (s.bundleOk d = true → bundleLen d = n → s.field .featGen [] 23 16 < bundleVersion d →
        exec (.patchInstall m) s = .next (({ s with nv := { s.nv with patch := d } }).answer m a 0 [])))) ∧
    (s.serves m 0x90 a → ∃ u, exec (.debugUnlock m) s = .next u ∧ u.mem = s.mem ∧ u.nv.power.draws = s.nv.power.draws + 1 ∧
      (∀ i, i < 4 → u.reg .secDbgNonce [i] = Config.nonce s.nv.power.draws i) ∧
      (s.tokenOk a.payload = true → u.field .secStatus [] 4 4 = 1 ∧ u.field .secStatus [] 6 5 = a.at_ 48 1 % 4) ∧
      (s.tokenOk a.payload = false → u = s.drawNonce.answer m a 0x90 [] ∧ u.reg .secStatus [] = s.reg .secStatus []))

/-- The SPDM responder (the error codes and the order of requests: assumption log 46): nothing without power or during BOOT, or over
PCI Express before its link is up (assumption log 5); a request before its connection has got far enough is answered by an error; else each request has its one answer: the
connection goes on by GET_VERSION, GET_CAPABILITIES and NEGOTIATE_ALGORITHMS; KEY_EXCHANGE begins a session under an id not
used since reset while fewer than four live, with mutual authentication where an owner hash is fused; FINISH with a proof
that verifies brings it up, and with a fused owner hash only for that owner's root, and else ends it with an error whose code the
spec leaves open (assumption log 18), and with four sessions live is answered Busy (assumption log 125); a request within a
session needs that session live on its transport; END_SESSION and a missed heartbeat end it and unbind its mailboxes. -/
def Obligations.SpdmRequestsAreAnswered : Prop :=
  ∀ (bus : Bool) (s : State),
    let n := if bus then s.dev.spdm.smbus else s.dev.spdm.doe
    let up : Prop := s.nv.power.rails = true ∧ s.hubState ≠ 1 ∧ (bus = true ∨ s.linked = true)
    let go (k : Nat) (p : SpdmS) : SpdmS := if bus then { p with smbus := k } else { p with doe := k }
    let say (r : SpdmRsp) (p : SpdmS) : SpdmS := { p with out := p.out ++ [(bus, r)] }
    let live := (s.dev.spdm.sessions.filter (·.up)).length
    let all : List Nat := [1, 2, 3, 4, 5, 16, 17, 18, 19, 20, 21, 22, 23]
    (¬ up → ∀ ok ix slot off len want id tr ems root, ∀ i ∈ [Instr.getVersion bus, .getCapabilities bus, .negotiateAlgorithms bus ok,
        .getDigests bus, .getCertificate bus slot off len, .challenge bus slot tr, .getMeasurements bus ix tr,
        .keyExchange bus ok want ems, .finish bus id ok root, .heartbeat bus id, .keyUpdate bus id, .endSession bus id],
      exec i s = .next s) ∧
    (up →
      exec (.getVersion bus) s = .next (s.modSpdm fun p => say .version (go 1 p)) ∧
      (1 ≤ n → exec (.getCapabilities bus) s = .next (s.modSpdm fun p => say .capabilities (go (max 2 n) p))) ∧
      (2 ≤ n → ∀ ok, exec (.negotiateAlgorithms bus ok) s =
        .next (s.modSpdm fun p => if ok then say .algorithms (go 3 p) else say (.error 1) p)) ∧
      (n < 1 → exec (.getCapabilities bus) s = .next (s.modSpdm (say (.error 4)))) ∧
      (n < 2 → ∀ ok, exec (.negotiateAlgorithms bus ok) s = .next (s.modSpdm (say (.error 4)))) ∧
      (n < 3 → ∀ ok ix slot off len want id tr ems root, ∀ i ∈ [Instr.getDigests bus, .getCertificate bus slot off len,
          .challenge bus slot tr, .getMeasurements bus ix tr, .keyExchange bus ok want ems, .finish bus id ok root,
          .heartbeat bus id, .keyUpdate bus id, .endSession bus id],
        exec i s = .next (s.modSpdm (say (.error 4)))) ∧
      (3 ≤ n →
        exec (.getDigests bus) s = .next (s.modSpdm (say (.digests (sha256 s.chain)))) ∧
        (∀ slot off len, exec (.getCertificate bus slot off len) s =
          .next (s.modSpdm (say (if slot = 0 then .certificate ((s.chain.drop off).take len) else .error 1)))) ∧
        (∀ slot tr, exec (.challenge bus slot tr) s = .next (s.modSpdm (say (if slot = 0 then .challenge (s.aliasSig tr) else .error 1)))) ∧
        (∀ i tr,
          (i ∈ all → exec (.getMeasurements bus i tr) s = .next (s.modSpdm (say (.measurements [(i, s.measure i)] (s.aliasSig tr))))) ∧
          (i = 0xFF → exec (.getMeasurements bus i tr) s =
            .next (s.modSpdm (say (.measurements (all.map fun j => (j, s.measure j)) (s.aliasSig tr))))) ∧
          (i ∉ all → i ≠ 0xFF → exec (.getMeasurements bus i tr) s = .next (s.modSpdm (say (.error 1))))) ∧
        (∀ mutAuth want ems, live < 4 → (s.ownerSet = true → mutAuth = true) → ∃ id, id ∉ s.dev.spdm.used ∧
          (want ∉ s.dev.spdm.used → id = want) ∧
          exec (.keyExchange bus mutAuth want ems) s = .next (s.modSpdm fun p => say (.keyExchange id mutAuth)
            { p with sessions := p.sessions ++ [{ id := id, bus := bus, ems := ems }], used := insertNat p.used id })) ∧
        (∀ mutAuth want ems, 4 ≤ live ∨ (s.ownerSet = true ∧ mutAuth = false) →
          exec (.keyExchange bus mutAuth want ems) s = .next (s.modSpdm (say (.error (if 4 ≤ live then 3 else 1))))) ∧
        (∀ id root x, s.dev.spdm.sessions.find? (fun y => y.id == id && y.bus == bus && !y.up) = some x →
          live < 4 → (s.ownerSet = true → root = s.ownerHash) → exec (.finish bus id true root) s = .next (s.modSpdm fun p => say (.finish id)
            { p with sessions := p.sessions.map fun y => if y.id = id then { y with up := true } else y })) ∧
        (∀ id root x ok, s.dev.spdm.sessions.find? (fun y => y.id == id && y.bus == bus && !y.up) = some x →
          live < 4 → ok = false ∨ (s.ownerSet = true ∧ root ≠ s.ownerHash) → exec (.finish bus id ok root) s =
            .next ((s.endSession id).modSpdm (say (.error Config.finishError)))) ∧
        (∀ id root ok, 4 ≤ live → (s.dev.spdm.sessions.find? (fun y => y.id == id && y.bus == bus && !y.up)).isSome →
          exec (.finish bus id ok root) s = .next (s.modSpdm (say (.error 3)))) ∧
        (∀ id root ok, s.dev.spdm.sessions.find? (fun y => y.id == id && y.bus == bus && !y.up) = none →
          exec (.finish bus id ok root) s = .next (s.modSpdm (say (.error 2)))) ∧
        (∀ id, ¬ (∃ x ∈ s.dev.spdm.sessions, x.id = id ∧ x.bus = bus ∧ x.up = true) →
          ∀ i ∈ [Instr.heartbeat bus id, .keyUpdate bus id, .endSession bus id], exec i s = .next (s.modSpdm (say (.error 2)))) ∧
        (∀ id, (∃ x ∈ s.dev.spdm.sessions, x.id = id ∧ x.bus = bus ∧ x.up = true) →
          exec (.heartbeat bus id) s = .next (s.modSpdm (say (.heartbeat id))) ∧
          exec (.keyUpdate bus id) s = .next (s.modSpdm (say (.keyUpdate id))) ∧
          (∃ u, exec (.endSession bus id) s = .next u ∧ u.mem = s.mem ∧ (∀ x ∈ u.dev.spdm.sessions, x.id ≠ id) ∧
            ∀ m : MboxId, (u.mbox m).session ≠ some id)))) ∧
    (∀ id, ¬ (∃ x ∈ s.dev.spdm.sessions, x.id = id ∧ x.up = true) → exec (.sessionHeartbeatTimeout id) s = .next s) ∧
    (∀ id, (∃ x ∈ s.dev.spdm.sessions, x.id = id ∧ x.up = true) → ∃ u, exec (.sessionHeartbeatTimeout id) s = .next u ∧ u.mem = s.mem ∧
      u.dev.spdm.sessions = s.dev.spdm.sessions.filter (fun x => x.id != id) ∧ ∀ m : MboxId, (u.mbox m).session ≠ some id)

/-! ### Register accesses (R8, R27, R31, R72, R116, R132, R148, R158, R187, R247 to R249, R289) -/

/-- BAR0 and BAR2, the host's link being up; while it is not, nothing answers (R291; assumption log 5). REGISTER_WRITE of another size or alignment is counted and changes nothing else; a 64-bit write of a register
with no rule of its own changes its RW bits, clears its W1C bits written 1 and leaves the others, and a 32-bit write does so
in its half. REGISTER_READ_CLEAR returns the register and clears its RC bits. COUNTER_SAT_CLEAR zeroes a counter and leaves
any other register. BAR2_ACCESS writes or reads the bytes at the window, or, out of reach, is recorded in MEM_FAULT and reads
all-ones; a write into a read-only cave is refused with CAUSE 4 (that its CODE is 0 is assumption log 88; that COUNTER_SAT_CLEAR clears
a counter that has not saturated too is assumption log 89), and one within a page of a cave that takes writes waits for
its page to be programmed. -/
def Obligations.HostAccessesFollowTheirCodes : Prop :=
  (∀ (s : State) (fn : Fin 2) (a n : Nat) (v : Word) (w : Option (List Byte)), s.linked = false →
    exec (.registerWrite fn a n v) s = .next s ∧ exec (.registerReadClear a n) s = .next s ∧ exec (.counterSatClear a) s = .next s ∧
    exec (.bar2Access fn a w n) s = .next s) ∧
  ∀ s : State, s.linked = true →
    (∀ (fn : Fin 2) (a size : Nat) (v : Word), (size ≠ 4 ∧ size ≠ 8) ∨ a % size ≠ 0 →
      exec (.registerWrite fn a size v) s = .next (s.setField .hifErr [] 31 0 (min (2 ^ 32 - 1) (s.field .hifErr [] 31 0 + 1)))) ∧
    (∀ (fn : Fin 2) (v : Word) (n : RegName) (i : List Nat), n ∉ [.hubHoopCfg, .coreCtrl, .seqDbgData, .vecRngDef, .rngWord0, .rngWord1,
        .hrpSideData, .strListData, .bwrCfg, .lnkPortCtrl, .lnkPortCred0, .lnkPortCred1, .nrgModel, .clkStep, .evtPtr, .rindTrig, .nrgTriplog] →
      (regRow n).fields ≠ counterFields → (regRow n).size = 8 →
      regAt (regAddr n i) = some (n, i) → regAddr n i % 8 = 0 → regAddr n i < 0x100000 ∨ 0x140000 ≤ regAddr n i →
      let rw (m : Word) := accMask (· == .rw) (regRow n).fields &&& m
      let w1c (m : Word) := accMask (· == .w1c) (regRow n).fields &&& m
      let stored (x m : Word) : Word := ((s.reg n i &&& ~~~(rw m)) ||| (x &&& rw m)) &&& ~~~(w1c m &&& x)
      exec (.registerWrite fn (regAddr n i) 8 v) s = .next (s.setReg n i (stored v (BitVec.allOnes 64))) ∧
      exec (.registerWrite fn (regAddr n i) 4 v) s = .next (s.setReg n i (stored v 0xFFFFFFFF)) ∧
      (regAt (regAddr n i + 4) = none → exec (.registerWrite fn (regAddr n i + 4) 4 v) s =
        .next (s.setReg n i (stored (v <<< 32) 0xFFFFFFFF00000000)))) ∧
    (∀ (n : RegName) (i : List Nat), regAt (regAddr n i) = some (n, i) → (regRow n).size = 8 → regAddr n i % 8 = 0 →
      regAt (regAddr n i + 4) = none → regAddr n i < 0x100000 ∨ 0x140000 ≤ regAddr n i →
      ∃ u, exec (.registerReadClear (regAddr n i) 8) s = .next u ∧ u.host.reply = leBytes 8 (s.read n i).toNat ∧ u.mem = s.mem ∧
        u.reg n i = s.reg n i &&& ~~~(accMask (· == .rc) (regRow n).fields) ∧
        ((∀ f ∈ (regRow n).fields, f.acc ≠ .rc) → u = { s with host := { s.host with reply := leBytes 8 (s.read n i).toNat } })) ∧
    (∀ (a : Nat) (n : RegName) (i : List Nat), regAt a = some (n, i) → (regRow n).fields = counterFields →
      exec (.counterSatClear a) s = .next (s.setReg n i 0)) ∧
    (∀ a : Nat, (∀ n i, regAt a = some (n, i) → (regRow n).fields ≠ counterFields) → exec (.counterSatClear a) s = .next s) ∧
    (∀ (fn : Fin 2) (o : Nat) (d : List Byte),
      let a := s.winBase fn + o
      (s.hostReachAll a d.length = false → ∃ u, exec (.bar2Access fn o (some d) 0) s = .next u ∧ u.mem = s.mem ∧
        (s.field .memFault [] 8 8 = 0 → u.field .memFault [] 8 8 = 1 ∧ u.field .memFault [] 7 0 = 1 ∧ u.reg .memFaultAddr [] = BitVec.ofNat 64 a)) ∧
      (s.hostReachAll a d.length = true → s.caveRo = true → d ≠ [] → (∃ g x, a / granBytes ≤ g ∧ g * granBytes < a + d.length ∧ s.gran g = some x ∧ x.at_ = 10) →
        exec (.bar2Access fn o (some d) 0) s = .next (s.memFault 0 4 0 0 4 a)) ∧
      (s.hostReachAll a d.length = true → s.caveRo = false → d ≠ [] → a % pageBytes + d.length ≤ pageBytes → s.inCave a = true →
        exec (.bar2Access fn o (some d) 0) s = .next { s with dev := { s.dev with caveQ :=
          s.dev.caveQ ++ [.page { addr := a, data := d, bad := [], who := .firmware }] } }) ∧
      (s.hostReachAll a d.length = true → s.mem.wf = true → (∀ g, a / granBytes ≤ g → g ≤ (a + d.length) / granBytes → ∀ x, s.gran g = some x → x.at_ ≠ 10) →
        ∃ u, exec (.bar2Access fn o (some d) 0) s = .next u ∧ u.bytes a d.length = d ∧
          ∀ b, b < a ∨ a + d.length ≤ b → Mem.read u.mem b = Mem.read s.mem b)) ∧
    (∀ (fn : Fin 2) (o n : Nat),
      let a := s.winBase fn + o
      ∃ u, exec (.bar2Access fn o none n) s = .next u ∧ u.mem = s.mem ∧ u.dev.regs = (if s.hostReachAll a n then s else s.memFault 0 4 0 0 1 a).dev.regs ∧
        u.host.reply = if s.hostReachAll a n then s.bytes a n else List.replicate n 0xFF)

/-- R249: raising a vector sends its message when MSI-X is enabled and the vector unmasked, sets its pending bit when it is
masked, and sends no message with MSI-X disabled; MSIX_UNMASK, the host's link being up, of a vector that was raised while masked sends its message once,
however often that was, and one that was not sends none. -/
def Obligations.VectorsAreSentOrHeld : Prop :=
  (∀ (s : State) (v : Nat),
    (s.host.msixOn = false → (s.vector v).host.sent = s.host.sent) ∧
    (s.host.msixOn = true → v ∈ s.host.unmasked → s.vector v = { s with host := { s.host with sent := s.host.sent ++ [v] } }) ∧
    (s.host.msixOn = true → v ∉ s.host.unmasked → s.vector v = { s with host := { s.host with pending := insertNat s.host.pending v } })) ∧
  (∀ (s : State) (fn : Fin 2) (v : Fin 2048) (n : Nat),
    let x := v.val + 2048 * fn.val
    let held := (List.range n).foldl (fun s _ => s.vector x) s
    s.linked = true → s.host.msixOn = true → x ∉ s.host.unmasked → x ∉ s.host.pending →
    ∃ u, exec (.msixUnmask fn v) held = .next u ∧ u.host.sent = s.host.sent ++ (if n = 0 then [] else [x]) ∧ x ∉ u.host.pending ∧
      x ∈ u.host.unmasked ∧ u.dev = s.dev ∧ u.mem = s.mem ∧ u.nv = s.nv ∧ u.host.mem = s.host.mem)

/-- R132 and R187: HRP_SIDE_DATA and STR_LIST_DATA read the word of the harp record, or of the entry of the descriptor store,
that their address registers select, at any time. HARP_SIDE_WRITE and STREAM_LIST_WRITE, the host's link being up, write that word, and no other, while
no core of the cluster is RUNNING or FROZEN; else the write is ignored and REFUSED is set. -/
def Obligations.SideDoorsOfACluster : Prop :=
  ∀ (k : ClusterId) (v : Word) (s : State),
    let runs : Prop := ∃ j, j < 4 ∧ ((s.core (4 * k.val + j)).st = .running ∨ (s.core (4 * k.val + j)).st = .frozen)
    let n := s.field .hrpSideAddr [k] 16 0
    let e := s.field .strListAddr [k] 15 0
    let w := s.field .strListAddr [k] 19 18
    let rcd := AMap.get (s.cluster k).records {} n
    let entry (t : State) (j : Nat) : BitVec 256 := AMap.get (t.cluster k).store 0 j
    s.read .strListData [k] = (entry s e).extractLsb' (64 * w) 64 ∧
    s.read .hrpSideData [k] = (match s.field .hrpSideAddr [k] 19 18 with
      | 0 => word [(rcd.sum, 32), (rcd.max, 0)]
      | 1 => word [(rcd.m2, 32), (rcd.mean, 0)]
      | 2 => word [(rcd.dot2, 32), (rcd.dot, 0)]
      | _ => word [(if rcd.poison then 1 else 0, 63), (rcd.count, 0)]) ∧
    (s.linked = true → runs → exec (.harpSideWrite k v) s = .next (s.setField .hrpSideAddr [k] 20 20 1) ∧
      exec (.streamListWrite k v) s = .next (s.setField .strListAddr [k] 20 20 1)) ∧
    (s.linked = true → ¬ runs →
      (∃ u, exec (.harpSideWrite k v) s = .next u ∧ s.onlyCluster u k ∧
        u.read .hrpSideData [k] = (if s.field .hrpSideAddr [k] 19 18 = 3 then v &&& 0x8000000001FFFFFF else v) ∧
        ∀ j, j ≠ n → AMap.get (u.cluster k).records {} j = AMap.get (s.cluster k).records {} j) ∧
      (∃ u, exec (.streamListWrite k v) s = .next u ∧ s.onlyCluster u k ∧ u.read .strListData [k] = v ∧
        (∀ j, j ≠ e → entry u j = entry s j) ∧
        ∀ x, x < 4 → x ≠ w → (entry u e).extractLsb' (64 * x) 64 = (entry s e).extractLsb' (64 * x) 64))

/-- Writes with a rule of their own, the host's link being up. JOIN only while no context exists and only to what the crossings allow;
IN_SERVICE only of
an idle or out-of-service core of a free cluster, and never of a fused-off one; SEQ_DBG_DATA only with debug scope and not
into an ACTIVE bank, a refused one raising DBG_BUSY; a range entry only of a core that is IDLE, LOADED or HALTED. A refused
write sets the refusal bit of its register. BWR_CFG is stored, its RW bits alone. That a JOIN that changes nothing, and a debug write
without scope or beyond word 511, do nothing, and where the refusal bits stand, is assumption log 87; the words of an unclaimed range
entry are assumption log 90. -/
def Obligations.GuardedWritesAreRefusedOrStored : Prop :=
  ∀ s : State, s.linked = true →
    (∀ on : Bool,
      let free : Prop := ∀ c : CtxId, (s.ctx c).valid = false
      let may : Prop := free ∧ (on = true → s.field .hubHoopCfg [] 1 1 = 1)
      (on = s.joined → exec (.hoopJoinWrite on) s = .next s) ∧
      (on ≠ s.joined → may → exec (.hoopJoinWrite on) s = .next (s.setField .hubHoopCfg [] 0 0 (if on then 1 else 0))) ∧
      (on ≠ s.joined → ¬ may → exec (.hoopJoinWrite on) s = .next (s.setField .hubHoopCfg [] 2 2 1))) ∧
    (∀ (c : CoreId) (on : Bool),
      let k := s.core c
      (k.st = .fusedOff → exec (.inServiceWrite c on) s = .next s) ∧
      (k.st = .idle ∨ k.st = .outOfService → s.clusterCtx (clusterOf c) = none →
        exec (.inServiceWrite c on) s = .next (s.setCore c { k with st := if on then .idle else .outOfService })) ∧
      (k.st ≠ .fusedOff → (k.st ≠ .idle ∧ k.st ≠ .outOfService) ∨ (s.clusterCtx (clusterOf c)).isSome →
        exec (.inServiceWrite c on) s = .next (s.setField .coreState (coreIdx c) 4 4 1))) ∧
    (∀ (c : CoreId) (v : Word),
      let i := coreIdx c
      let two := (s.core c).seqr.two
      let n := s.field .seqDbgAddr i 11 0
      let desc : Prop := s.field .seqDbgAddr i 12 12 = 1
      let half := if desc then 256 else 2048
      let upper := two = true ∧ half ≤ n
      let x : StreamSel := if upper then .bwd else .fwd
      let m := if upper then n - half else n
      let b (t : State) := (t.core c).seqr.bankOf x (s.field .seqDbgAddr i 13 13)
      (s.field .secStatus [] 5 5 = 0 → exec (.debugDataWrite c v) s = .next s) ∧
      (s.field .secStatus [] 5 5 = 1 → (b s).st ≠ .active → ¬ desc ∨ n < 512 → ∃ u, exec (.debugDataWrite c v) s = .next u ∧ s.onlyCore u c ∧
        (¬ desc → b u = { b s with code := AMap.set (b s).code m v }) ∧
        (desc → (b u).code = (b s).code ∧ (b u).st = (b s).st ∧ (∀ e, e ≠ m / 2 → AMap.get (b u).desc 0 e = AMap.get (b s).desc 0 e) ∧
          ∀ h, h < 2 → (AMap.get (b u).desc 0 (m / 2)).extractLsb' (64 * h) 64 =
            if h = m % 2 then v else (AMap.get (b s).desc 0 (m / 2)).extractLsb' (64 * h) 64)) ∧
      (s.field .secStatus [] 5 5 = 1 → (b s).st ≠ .active → desc → 512 ≤ n → exec (.debugDataWrite c v) s = .next s) ∧
      (s.field .secStatus [] 5 5 = 1 → (b s).st = .active → exec (.debugDataWrite c v) s = .next ((s.setField .seqDbgAddr i 15 15 1).raise 0x010D
        { kind := 0, index := c, ctx := none, detail := BitVec.ofNat 64 ((s.core c).sbc % 2 ^ 48) }))) ∧
    (∀ (c : CoreId) (t : Option (Fin 512 × Bool)) (v : Word),
      let free : Prop := (s.core c).st = .idle ∨ (s.core c).st = .loaded ∨ (s.core c).st = .halted
      (¬ free → exec (.rangeEntryWrite c t v) s = .next (s.setField .vecRngStatus (coreIdx c) 32 32 1)) ∧
      (free → t = none → exec (.rangeEntryWrite c t v) s =
        .next (s.setReg .vecRngDef (coreIdx c) (v &&& accMask (· == .rw) (regRow .vecRngDef).fields))) ∧
      (free → ∀ e x, t = some (e, true) → AMap.find? (s.core c).vec.rng e.val = some x → ∃ u, exec (.rangeEntryWrite c t v) s = .next u ∧
        u.mem = s.mem ∧ AMap.find? (u.core c).vec.rng e.val = some { x with cur := ((v.toNat / 2 ^ 56 : Nat) : Int) - if v.toNat / 2 ^ 63 = 1 then 256 else 0 }) ∧
      (free → ∀ e x, t = some (e, false) → AMap.find? (s.core c).vec.rng e.val = some x → ∃ u, exec (.rangeEntryWrite c t v) s = .next u ∧
        u.mem = s.mem ∧ AMap.find? (u.core c).vec.rng e.val =
          some { x with managed := v.getLsbD 62, window := bits v.toNat 59 56, headroom := bits v.toNat 55 52 }) ∧
      (free → ∀ e w, t = some (e, w) → AMap.find? (s.core c).vec.rng e.val = none → ∃ u, exec (.rangeEntryWrite c t v) s = .next u ∧ s.onlyRegs u ∧
        u.reg (if w then .rngWord1 else .rngWord0) (coreIdx c ++ [e.val]) =
          v &&& accMask (· == .rw) (regRow (if w then .rngWord1 else .rngWord0)).fields)) ∧
    (∀ (c : CtxId) (p : Fin 16) (v : Word),
      exec (.bwrCfgWrite c p v) s = .next (s.setReg .bwrCfg [c, p] (v &&& accMask (· == .rw) (regRow .bwrCfg).fields)))

/-! ### Events and rind waves (R280, R281, R285 to R288) -/

/-- EVENT_TAIL_WRITE, the host's link being up, consumes no more records than the log holds. CONTEXT_FAULT_HALT: the first fault halts the context and is
kept, the others are counted. RIND_TRIG (the link up) and TRIG_IN: a wave starts, becomes the pending one or is merged; a trigger of the
pin within the lockout is only counted; which context it triggers, that a ONCE arming that has fired is inert, and the lockout are
assumption log 75. RIND_CAPTURE: once in a wave, when it reaches a running region, the blocks of every
region whose clock runs capture what reads would return (that they do so at once is the model's choice, assumption log 114);
else it does nothing (assumption log 5). RIND_WAVE_COMPLETE: nothing while a running region has still to capture; else the wave ends, the blocks
of the regions left are counted as missing, and the pending one starts. -/
def Obligations.EventsHaltsAndWaves : Prop :=
  ∀ s : State,
    (∀ (l : Fin 10) (t : BitVec 8), s.linked = true → (s.log l).tail < 256 →
      let g := s.log l
      let n := min ((t.toNat + 256 - g.tail) % 256) g.used
      exec (.eventTailWrite l t) s = .next (s.setLog l { g with tail := (g.tail + n) % 256, used := g.used - n })) ∧
    (∀ (c : CtxId),
      ((s.ctx c).faults = [] → ∃ u, exec (.contextFaultHalt c) s = .next u ∧ s.onlyCtx u c ∧ (u.ctx c).halted = (s.ctx c).halted) ∧
      (∀ f r, (s.ctx c).faults = f :: r → (s.ctx c).more < 65536 → ∃ u, exec (.contextFaultHalt c) s = .next u ∧ u.mem = s.mem ∧ (u.ctx c).faults = [] ∧
        (u.ctx c).faulted = true ∧
        ((s.ctx c).faulted = false → (u.ctx c).fault = some f ∧ (u.ctx c).halted = true ∧
          (u.ctx c).more = min 65535 ((s.ctx c).more + r.length) ∧
          ∀ d ∈ (s.ctx c).slots, (s.core d).st = .running ∨ (s.core d).st = .frozen → (u.core d).st = .halted) ∧
        ((s.ctx c).faulted = true → (u.ctx c).fault = (s.ctx c).fault ∧ (u.ctx c).more = min 65535 ((s.ctx c).more + (f :: r).length)))) ∧
    (∀ v : Word, s.linked = true → (v.toNat % 2 = 0 → exec (.rindTrig v) s = .next s) ∧
      (v.toNat % 2 = 1 → ∃ u, exec (.rindTrig v) s = .next u ∧ u = { s with dev := { s.dev with rind := u.dev.rind } } ∧
        let q := s.dev.rind
        (q.cur = none → u.dev.rind.cur = some ⟨4, none⟩ ∧ u.dev.rind.wave = (q.wave + 1) % 65536 ∧ u.dev.rind.todo = List.range 19) ∧
        (q.cur ≠ none → q.pending = none → u.dev.rind = { q with pending := some ⟨4, none⟩ }) ∧
        (q.cur ≠ none → q.pending ≠ none → u.dev.rind = { q with merged := min 65535 (q.merged + 1) }))) ∧
    (∀ q : Rind, q = s.dev.rind →
      let lockout : Prop := q.started = true ∧ s.dev.tick < q.startTick + s.field .rindCfg [] 31 0
      let armed (c : CtxId) (x : Arming) : Prop := (s.ctx c).arming = some x ∧ x.src = 3 ∧ (x.once = true → x.fired = false)
      (lockout → exec .trigIn s = .next (s.modRind fun q => { q with locked := min 65535 (q.locked + 1) })) ∧
      (¬ lockout → (∀ c x, ¬ armed c x) → exec .trigIn s = .next s) ∧
      (¬ lockout → ∀ c x, armed c x → (∀ d y, d < c → ¬ armed d y) → ∃ u, exec .trigIn s = .next u ∧ u.mem = s.mem ∧
        (u.ctx c).arming = some { x with fired := true } ∧
        (q.cur = none → u.dev.rind.cur = some ⟨3, some c⟩ ∧ u.dev.rind.wave = (q.wave + 1) % 65536 ∧ u.dev.rind.todo = List.range 19) ∧
        (q.cur ≠ none → q.pending = none → u.dev.rind = { q with pending := some ⟨3, some c⟩ }) ∧
        (q.cur ≠ none → q.pending ≠ none → u.dev.rind = { q with merged := min 65535 (q.merged + 1) }))) ∧
    (∀ (r : Fin 19),
      let q := s.dev.rind
      (q.cur = none ∨ r.val ∉ q.todo ∨ q.cut = true ∨ s.regionStopped r = true → exec (.rindCapture r) s = .next s) ∧
      (∀ w, q.cur = some w → r.val ∈ q.todo → q.cut = false → s.regionStopped r = false → ∃ u, exec (.rindCapture r) s = .next u ∧
        u = { s with dev := { s.dev with rind := u.dev.rind } } ∧ u.dev.rind.cut = true ∧ u.dev.rind.cur = some w ∧
        (∀ x, x ∈ u.dev.rind.todo ↔ x ∈ q.todo ∧ s.regionStopped x = true) ∧
        ((∀ x ∈ q.todo, x < 19) → ∀ x ∈ q.todo, s.regionStopped x = false → ∀ b ∈ regionBlocks x,
          AMap.find? u.dev.rind.areas b.num = some (s.captureOf x w b) ∧
          (s.captureOf x w b).words = b.words.map fun z => s.read z.1 z.2) ∧
        ∀ n, (∀ x ∈ q.todo, s.regionStopped x = false → ∀ b ∈ regionBlocks x, b.num ≠ n) → AMap.find? u.dev.rind.areas n = AMap.find? q.areas n)) ∧
    (∀ q : Rind, q = s.dev.rind →
      let ended : Prop := q.cut = true ∨ ∀ r ∈ q.todo, s.regionStopped r = true
      (q.cur = none ∨ ¬ ended → exec .rindWaveComplete s = .next s) ∧
      (q.cur ≠ none → ended → ∃ u, exec .rindWaveComplete s = .next u ∧ u.mem = s.mem ∧ u.dev.rind.cut = false ∧ u.dev.rind.areas = q.areas ∧
        (q.pending = none → u.dev.rind.cur = none ∧ u.dev.rind.todo = [] ∧
          u.dev.rind.missing = (q.todo.map fun r => (regionBlocks r).length).sum) ∧
        (∀ w, q.pending = some w → u.dev.rind.cur = some w ∧ u.dev.rind.pending = none ∧ u.dev.rind.wave = (q.wave + 1) % 65536)))

/-! ### Start-up and stopping (R246, R248, R290 to R298) -/

/-- From power to READY. POWER_UP_SEQUENCE with the rails off, a valid input, PWR_EN high and no trip latched, or with PWR_EN raised
after 100 ms low: the rails are up, the trip as it was, and the hub is at BOOT with the cause of the stop. The raised edge and the count
of the low time are assumption log 85. BOOT_COMPLETE
leads to TEST with a good fuse map and else to FAILED with cause 1; SELF_TEST_COMPLETE to TRAIN with every enabled port in
training, or to FAILED with the fault's cause, a failing core out of service; START_UP_READY to READY, every enabled port that
is not UP now DOWN with cause 1 and its FEAT_LINK bits 0. Out of its state each does nothing (assumption log 5). -/
def Obligations.StartUpRunsToReady : Prop :=
  ∀ s : State,
    (∀ raised : Bool, s.nv.power.rails = true ∨ s.nv.power.input = false →
        (raised = true → s.nv.power.pwrEn = true ∧ s.nv.power.low = 0) →
      exec (.powerUpSequence raised) s = .next s) ∧
    (s.nv.power.pwrEn = false → exec (.powerUpSequence false) s = .next s) ∧
    (∀ raised : Bool, s.nv.power.trip = true → s.nv.power.low < ticks100ms ∨ raised = false → exec (.powerUpSequence raised) s =
      .next (if raised then s.modPower fun p => { p with pwrEn := true, low := 0 } else s)) ∧
    (∀ raised : Bool, s.nv.power.rails = false → s.nv.power.input = true →
      s.nv.power.trip = false ∨ (ticks100ms ≤ s.nv.power.low ∧ raised = true) →
      s.nv.power.pwrEn = true ∨ raised = true → ∃ u, exec (.powerUpSequence raised) s = .next u ∧ u.nv.power.rails = true ∧ u.hubState = 1 ∧
        u.nv.power.trip = s.nv.power.trip ∧ u.nv.power.pwrEn = true ∧ u.field .hubReset [] 3 0 = s.nv.power.cause % 16 ∧ u.dev.clk.wear = s.nv.wear ∧ u.mem = s.mem ∧ u.pending = s.pending) ∧
    (∀ (mref : Bool) (slot : Fin 64),
      (s.nv.power.rails = false ∨ s.hubState ≠ 1 → exec (.bootComplete mref slot) s = .next s) ∧
      (s.nv.power.rails = true → s.hubState = 1 → ∃ u, exec (.bootComplete mref slot) s = .next u ∧ u.mem = s.mem ∧
        (s.fuseMapOk = true → u.hubState = 2) ∧ (s.fuseMapOk = false → u.hubState = 5 ∧ u.field .hubState [] 15 8 = 1) ∧
        u.field .clkStatus [] 14 14 = (if mref then 0 else 1) ∧ u.field .hubState [] 37 32 = slot.val ∧
        (∀ c : CoreId, bit (s.fuse 0).toNat c = false → (u.core c).st = .fusedOff) ∧ ∀ r, r < 19 → u.field .clkRegion [r] 0 0 = 1)) ∧
    (∀ (badA badB badSram : List CoreId) (fault : Nat) (x0 x1 : Bool),
      (s.nv.power.rails = false ∨ s.hubState ≠ 2 → exec (.selfTestComplete badA badB badSram fault x0 x1) s = .next s) ∧
      (s.nv.power.rails = true → s.hubState = 2 → ∃ u, exec (.selfTestComplete badA badB badSram fault x0 x1) s = .next u ∧ u.mem = s.mem ∧
        (∀ c : CoreId, (s.core c).st ≠ .fusedOff → c ∈ badA ∨ c ∈ badB ∨ c ∈ badSram → (u.core c).st = .outOfService) ∧
        (∀ c : CoreId, c ∉ badA → c ∉ badB → c ∉ badSram → u.core c = s.core c) ∧
        (¬ (2 ≤ fault ∧ fault ≤ 7) → u.hubState = 3 ∧ u.field .caveStatus [] 4 4 = 1 ∧
          ∀ p : PortId, (s.field .lnkPortCtrl [p] 0 0 = 1 → (u.port p).st = .training) ∧
            (s.field .lnkPortCtrl [p] 0 0 = 0 → u.port p = s.port p)) ∧
        (2 ≤ fault → fault ≤ 7 → u.hubState = 5 ∧ u.field .hubState [] 15 8 = fault) ∧
        u.field .hubHoopCfg [] 1 1 = if x0 && x1 then 1 else 0)) ∧
    (s.nv.power.rails = false ∨ s.hubState ≠ 3 → exec .startUpReady s = .next s) ∧
    (s.nv.power.rails = true → s.hubState = 3 → ∃ u, exec .startUpReady s = .next u ∧ u.mem = s.mem ∧ u.hubState = 4 ∧
      ∀ p : PortId, (s.field .lnkPortCtrl [p] 0 0 = 1 → (s.port p).st ≠ .up → (u.port p).st = .down ∧ (u.port p).cause = 1) ∧
        ((s.port p).st ≠ .up → u.field .featLink [] p p = 0 ∧ u.field .featLink [] (16 + p) (16 + p) = 0) ∧
        ((s.port p).st = .up → (u.port p).st = .up ∧ u.field .featLink [] p p = s.field .featLink [] p p))

/-- Resets and stops. PERST_ASSERT after BOOT restarts the hub at BOOT with cause 1, the wear saved and the cave kept; at BOOT
it only marks the pin. PERST_DEASSERT: the link trains and is reported, at most x8 for each function when bifurcated, or waits until
100 ms after PWR_GOOD and past BOOT (R291). PWR_EN_DEASSERT begins an orderly stop: STOPPING, every context halted, the wear saved; at
its end RAILS_LEAVE_REGULATION, or 200 ms, turns the rails off, as the former does after a loss of input. LOSS_OF_INPUT steps the clock to 24 at once, ends every session, stops cave writes
and enters STOPPING. INPUT_RESTORE starts a module with PWR_EN high and no trip, INPUT_REMOVE clears the trip latch and is a
loss of input to a module that runs. RESIZABLE_BAR_WRITE and PORT_TABLE_WRITE store what they may. That memory outside the cave reads 0
after a reset is the model's choice (assumption log 78); what each reset keeps is assumption log 86, and the corners of the stops are
assumption log 85 and 127. -/
def Obligations.StopsAndResetsKeepWhatTheyMust : Prop :=
  ∀ s : State,
    let kept (u : State) : Prop := ∀ a, Mem.read u.mem a = if 2 ^ 48 ≤ a then Mem.read s.mem a else 0
    let on : Prop := s.nv.power.rails = true
    (¬ on ∨ s.hubState = 1 → exec .perstAssert s = .next (s.modPower fun p => { p with perst := true, trained := false })) ∧
    (on → s.hubState ≠ 1 → ∃ u, exec .perstAssert s = .next u ∧ u.hubState = 1 ∧ u.field .hubReset [] 3 0 = 1 ∧ u.nv.power.perst = true ∧
      u.nv.wear = s.dev.clk.wear ∧ u.nv.fuses = s.nv.fuses ∧ u.nv.flash = s.nv.flash ∧ u.pending = s.pending ∧ kept u) ∧
    (∀ w0 w1 sp : Nat,
      let waits : Prop := ¬ on ∨ s.nv.power.good < ticks100ms ∨ s.hubState = 1 ∨ s.nv.power.trained = true
      ∃ u, exec (.perstDeassert w0 w1 sp) s = .next u ∧ u.nv.power.perst = false ∧ u.mem = s.mem ∧
      (waits → u = s.modPower fun p => { p with perst := false, hostLink := (w0, w1, sp) }) ∧
      (¬ waits → u.linked = true ∧ u.field .hifCfg [] 7 4 = sp % 16 ∧
        (s.field .hifCfg [] 0 0 = 0 → u.field .hifCfg [] 15 12 = 0 ∧ (w0 < 16 → u.field .hifCfg [] 11 8 = w0) ∧
          (w0 = 16 → u.field .hifCfg [] 11 8 = Config.width16.toNat)) ∧
        (s.field .hifCfg [] 0 0 = 1 → u.field .hifCfg [] 11 8 = min w0 8 ∧ u.field .hifCfg [] 15 12 = min w1 8))) ∧
    (¬ on ∨ s.nv.power.lost = true ∨ s.nv.power.stopAt.isSome → exec .pwrEnDeassert s =
      .next (s.modPower fun p => { p with pwrEn := false, low := if p.pwrEn then 0 else p.low })) ∧
    (¬ on ∨ s.nv.power.lost = true → exec .lossOfInput s = .next (s.modPower fun p => { p with input := false })) ∧
    (on → s.nv.power.lost = false → s.nv.power.stopAt = none → ∃ u, exec .pwrEnDeassert s = .next u ∧ u.nv.power.rails = true ∧
      u.nv.power.pwrEn = false ∧ u.nv.power.stopAt = some s.dev.tick ∧ u.hubState = 7 ∧ u.nv.wear = s.dev.clk.wear ∧ u.mem = s.mem ∧
      ∀ c : CtxId, (s.ctx c).valid = true → (u.ctx c).halted = true) ∧
    (∀ t, on → s.nv.power.stopAt = some t → t + 2 * ticks100ms ≤ s.dev.tick → s.powerTick.nv.power.rails = false ∧
      s.powerTick.nv.power.cause = 0 ∧ s.powerTick.nv.power.shutdown = 0 ∧ kept s.powerTick) ∧
    (on → s.nv.power.lost = false → ∃ u, exec .lossOfInput s = .next u ∧ u.mem = s.mem ∧ u.nv.power.input = false ∧ u.nv.power.lost = true ∧
      u.nv.power.stopAt = none ∧ u.hubState = 7 ∧ u.field .clkStatus [] 4 0 = 24 ∧ u.dev.clk.target = none ∧ u.field .caveStatus [] 4 4 = 0 ∧
      (∀ r, r < 19 → u.field .clkRegion [r] 10 6 = 24) ∧ u.dev.spdm.sessions = [] ∧ (∀ m : MboxId, (u.mbox m).session = none) ∧
      ∀ c : CoreId, u.core c = s.core c) ∧
    (∀ flushed : Bool, (¬ on ∨ (s.nv.power.lost = false ∧ s.nv.power.stopAt = none) → exec (.railsLeaveRegulation flushed) s = .next s) ∧
      (on → s.nv.power.lost = false → s.nv.power.stopAt.isSome → ∃ u, exec (.railsLeaveRegulation flushed) s = .next u ∧
        u.nv.power.rails = false ∧ u.nv.power.cause = 0 ∧ u.nv.power.shutdown = 0 ∧ kept u) ∧
      (on → s.nv.power.lost = true → ∃ u, exec (.railsLeaveRegulation flushed) s = .next u ∧ u.nv.power.rails = false ∧
        u.nv.power.cause = 4 ∧ u.nv.power.shutdown = (if flushed then 1 else 2) ∧ kept u)) ∧
    (¬ on → s.nv.power.pwrEn = true → s.nv.power.trip = false → ∃ u, exec .inputRestore s = .next u ∧ u.nv.power.rails = true ∧
      u.nv.power.input = true ∧ u.hubState = 1 ∧ u.mem = s.mem) ∧
    (on ∨ s.nv.power.pwrEn = false ∨ s.nv.power.trip = true → exec .inputRestore s = .next (s.modPower fun p => { p with input := true })) ∧
    (on → s.nv.power.lost = false → ∃ u, exec .inputRemove s = .next u ∧ u.mem = s.mem ∧ u.nv.power.trip = false ∧ u.nv.power.input = false ∧
      u.nv.power.lost = true ∧ u.hubState = 7) ∧
    (¬ on → exec .inputRemove s = .next (s.modPower fun p => { p with trip := false, input := false })) ∧
    (∀ n : Nat, (s.linked = true → n ≤ 4 → exec (.resizableBarWrite n) s = .next (s.setField .hifCfg [] 19 16 n)) ∧
      (s.linked = false ∨ 4 < n → exec (.resizableBarWrite n) s = .next s)) ∧
    (∀ (a : Nat) (d : List Byte), s.nv.eeprom.wf = true → ∃ u, exec (.portTableWrite a d) s = .next u ∧ u.mem = s.mem ∧
      ∀ b, Mem.read u.nv.eeprom b = if 0x1000 ≤ b ∧ b < 0x2000 ∧ a ≤ b ∧ b < a + d.length then d.getD (b - a) 0 else Mem.read s.nv.eeprom b)
end

