-- ==== Sys2Proof/Laws/Mem.lean ====
section
/-!
SUPPORT. Laws of the two stores: maps keep what another key holds; the memory operations keep the canonical form, and a read
after a write gives the byte written and, elsewhere, the byte that was there.
-/
namespace Sys2Proof.Machine

/-! ### Maps -/

theorem AMap.set_set {κ α : Type} [DecidableEq κ] (m : AMap κ α) (k : κ) (v w : α) :
    AMap.set (AMap.set m k v) k w = AMap.set m k w := by
  induction m with
  | nil => simp [AMap.set]
  | cons p r ih =>
    obtain ⟨k', v'⟩ := p
    by_cases h : k' = k <;> simp [AMap.set, h, ih]

theorem AMap.find?_erase_self {κ α : Type} [DecidableEq κ] (m : AMap κ α) (k : κ) :
    AMap.find? (AMap.erase m k) k = none := by
  induction m with
  | nil => rfl
  | cons p r ih =>
    obtain ⟨k', v'⟩ := p
    unfold AMap.erase at *
    by_cases h : k' = k
    · rw [List.filter_cons_of_neg (by simp [h])]; exact ih
    · rw [List.filter_cons_of_pos (by simp [h]), AMap.find?, if_neg h]; exact ih

theorem AMap.find?_erase_ne {κ α : Type} [DecidableEq κ] (m : AMap κ α) {k j : κ} (h : j ≠ k) :
    AMap.find? (AMap.erase m k) j = AMap.find? m j := by
  induction m with
  | nil => rfl
  | cons p r ih =>
    obtain ⟨k', v'⟩ := p
    unfold AMap.erase at *
    by_cases hk : k' = k
    · rw [List.filter_cons_of_neg (by simp [hk]), AMap.find?, if_neg (by rw [hk]; exact Ne.symm h)]; exact ih
    · rw [List.filter_cons_of_pos (by simp [hk]), AMap.find?, AMap.find?]
      by_cases hj : k' = j
      · rw [if_pos hj, if_pos hj]
      · rw [if_neg hj, if_neg hj]; exact ih

/-! ### One byte -/

/-- A lower bound that a canonical list of cells respects. -/
def Mem.above (lo : Option Nat) (a : Nat) : Prop := ∀ b, lo = some b → b < a

theorem Mem.wfFrom_cons (lo : Option Nat) (a : Nat) (v : Byte) (r : Mem) :
    Mem.wfFrom lo ((a, v) :: r) = true ↔ Mem.above lo a ∧ v ≠ Mem.blank ∧ Mem.wfFrom (some a) r = true := by
  cases lo <;> simp [Mem.wfFrom, Mem.above, and_assoc]

theorem Mem.wfFrom_mono {lo lo' : Option Nat} {m : Mem} (h : Mem.wfFrom lo m = true)
    (hb : ∀ a, Mem.above lo a → Mem.above lo' a) : Mem.wfFrom lo' m = true := by
  cases m with
  | nil => rfl
  | cons p r =>
    obtain ⟨a, v⟩ := p
    rw [Mem.wfFrom_cons] at *
    exact ⟨hb _ h.1, h.2⟩

theorem Mem.above_trans {lo : Option Nat} {a b : Nat} (h : Mem.above lo a) (hb : a ≤ b) : Mem.above lo b :=
  fun c hc => Nat.lt_of_lt_of_le (h c hc) hb

theorem Mem.wfFrom_write {m : Mem} : ∀ {lo : Option Nat} {a : Nat} {v : Byte},
    Mem.wfFrom lo m = true → Mem.above lo a → Mem.wfFrom lo (Mem.write m a v) = true := by
  induction m with
  | nil =>
    intro lo a v _ ha
    by_cases hv : v = Mem.blank
    · simp [Mem.write, hv, Mem.wfFrom]
    · simp only [Mem.write, hv, if_false]
      rw [Mem.wfFrom_cons]; exact ⟨ha, hv, rfl⟩
  | cons p r ih =>
    obtain ⟨b, w⟩ := p
    intro lo a v h ha
    rw [Mem.wfFrom_cons] at h
    obtain ⟨hb, hw, hr⟩ := h
    by_cases hab : b = a
    · subst hab
      by_cases hv : v = Mem.blank
      · simp only [Mem.write, hv, if_true]
        exact Mem.wfFrom_mono hr fun x hx => Mem.above_trans hb (Nat.le_of_lt (hx _ rfl))
      · simp only [Mem.write, hv, if_true, if_false]
        rw [Mem.wfFrom_cons]; exact ⟨ha, hv, hr⟩
    · by_cases hlt : a < b
      · by_cases hv : v = Mem.blank
        · simp only [Mem.write, hab, hlt, hv, if_true, if_false]
          rw [Mem.wfFrom_cons]; exact ⟨hb, hw, hr⟩
        · simp only [Mem.write, hab, hlt, hv, if_true, if_false]
          rw [Mem.wfFrom_cons, Mem.wfFrom_cons]
          exact ⟨ha, hv, fun x hx => by cases hx; exact hlt, hw, hr⟩
      · simp only [Mem.write, hab, hlt, if_false]
        rw [Mem.wfFrom_cons]
        exact ⟨hb, hw, ih hr fun x hx => by cases hx; omega⟩

/-- A write keeps the canonical form. -/
theorem Mem.wf_write {m : Mem} (h : m.wf = true) (a : Nat) (v : Byte) : (Mem.write m a v).wf = true :=
  Mem.wfFrom_write h fun _ hx => by cases hx

/-- A canonical list reads blank at and below its lower bound. -/
theorem Mem.read_below {m : Mem} : ∀ {lo a : Nat}, Mem.wfFrom (some lo) m = true → a ≤ lo → Mem.read m a = Mem.blank := by
  induction m with
  | nil => intros; rfl
  | cons p r ih =>
    obtain ⟨b, w⟩ := p
    intro lo a h ha
    rw [Mem.wfFrom_cons] at h
    have hb : lo < b := h.1 _ rfl
    have hne : b ≠ a := by omega
    simp only [Mem.read, hne, if_false]
    exact ih h.2.2 (by omega)

theorem Mem.read_write_from {m : Mem} : ∀ {lo : Option Nat} {a : Nat} {v : Byte} {x : Nat},
    Mem.wfFrom lo m = true → Mem.read (Mem.write m a v) x = if x = a then v else Mem.read m x := by
  induction m with
  | nil =>
    intro lo a v x _
    by_cases hv : v = Mem.blank
    · by_cases hx : x = a <;> simp [Mem.write, Mem.read, hv, hx]
    · by_cases hx : x = a
      · simp [Mem.write, Mem.read, hv, hx]
      · simp [Mem.write, Mem.read, hv, hx, Ne.symm hx]
  | cons p r ih =>
    obtain ⟨b, w⟩ := p
    intro lo a v x h
    rw [Mem.wfFrom_cons] at h
    obtain ⟨hb, hw, hr⟩ := h
    by_cases hab : b = a
    · subst hab
      by_cases hv : v = Mem.blank
      · by_cases hx : x = b
        · subst hx
          simp [Mem.write, hv, Mem.read_below hr (Nat.le_refl _)]
        · simp [Mem.write, hv, Mem.read, hx, Ne.symm hx]
      · by_cases hx : x = b
        · simp [Mem.write, hv, Mem.read, hx]
        · simp [Mem.write, hv, Mem.read, hx, Ne.symm hx]
    · by_cases hlt : a < b
      · by_cases hv : v = Mem.blank
        · by_cases hx : x = a
          · subst hx
            have : Mem.read r x = Mem.blank := Mem.read_below hr (by omega)
            simp [Mem.write, hab, hlt, hv, Mem.read, this]
          · simp [Mem.write, hab, hlt, hv, hx]
        · by_cases hx : x = a
          · simp [Mem.write, hab, hlt, hv, Mem.read, hx]
          · simp [Mem.write, hab, hlt, hv, Mem.read, hx, Ne.symm hx]
      · by_cases hx : b = x
        · subst hx
          simp [Mem.write, hab, hlt, Mem.read]
        · simp [Mem.write, hab, hlt, Mem.read, hx, ih hr]

/-- Read after write: the byte written at its address, the old byte elsewhere. -/
theorem Mem.read_write {m : Mem} (h : m.wf = true) (a : Nat) (v : Byte) (x : Nat) :
    Mem.read (Mem.write m a v) x = if x = a then v else Mem.read m x := Mem.read_write_from h

/-! ### Runs of bytes -/

theorem Mem.wf_writeN (d : List Byte) : ∀ {m : Mem} (a : Nat), m.wf = true → (Mem.writeN m a d).wf = true := by
  induction d with
  | nil => intro m a h; exact h
  | cons b bs ih => intro m a h; exact ih (a + 1) (Mem.wf_write h a b)

theorem Mem.wf_writeLE {m : Mem} (h : m.wf = true) (a n v : Nat) : (Mem.writeLE m a n v).wf = true :=
  Mem.wf_writeN _ a h

/-- A write of a run: its bytes in order, and the old bytes outside it. -/
theorem Mem.read_writeN (d : List Byte) : ∀ {m : Mem} (a x : Nat), m.wf = true →
    Mem.read (Mem.writeN m a d) x = if a ≤ x ∧ x < a + d.length then d.getD (x - a) 0 else Mem.read m x := by
  induction d with
  | nil =>
    intro m a x _
    rw [if_neg (by rintro ⟨h1, h2⟩; simp at h2; omega)]; rfl
  | cons b bs ih =>
    intro m a x h
    rw [Mem.writeN, ih (a + 1) x (Mem.wf_write h a b), Mem.read_write h]
    by_cases hx : x = a
    · subst hx
      rw [if_neg (by omega), if_pos rfl, if_pos (by simp)]
      simp
    · by_cases hin : a + 1 ≤ x ∧ x < a + 1 + bs.length
      · have h2 : a ≤ x ∧ x < a + (b :: bs).length := by simp; omega
        rw [if_pos hin, if_pos h2]
        obtain ⟨k, hk⟩ : ∃ k, x = a + 1 + k := ⟨x - (a + 1), by omega⟩
        subst hk
        rw [show a + 1 + k - (a + 1) = k by omega, show a + 1 + k - a = k + 1 by omega]
        simp
      · have h2 : ¬(a ≤ x ∧ x < a + (b :: bs).length) := by simp; omega
        rw [if_neg hin, if_neg hx, if_neg h2]

theorem Mem.length_readN (m : Mem) (n : Nat) : ∀ a, (Mem.readN m a n).length = n := by
  induction n with
  | zero => intro a; rfl
  | succ n ih => intro a; simp [Mem.readN, ih]

theorem Mem.readN_congr {m m' : Mem} (n : Nat) : ∀ a, (∀ x, a ≤ x → x < a + n → Mem.read m x = Mem.read m' x) →
    Mem.readN m a n = Mem.readN m' a n := by
  induction n with
  | zero => intro a _; rfl
  | succ n ih =>
    intro a h
    rw [Mem.readN, Mem.readN, h a (Nat.le_refl _) (by omega), ih (a + 1) fun x h1 h2 => h x (by omega) (by omega)]

/-- Reading back a run. -/
theorem Mem.readN_writeN (d : List Byte) : ∀ {m : Mem} (a : Nat), m.wf = true →
    Mem.readN (Mem.writeN m a d) a d.length = d := by
  induction d with
  | nil => intro m a _; rfl
  | cons b bs ih =>
    intro m a h
    have hw := Mem.wf_write h a b
    rw [List.length_cons, Mem.readN, Mem.writeN, ih (a + 1) hw, Mem.read_writeN bs (a + 1) a hw, if_neg (by omega), Mem.read_write h,
      if_pos rfl]

theorem Mem.read_filter (p : Nat → Bool) (m : Mem) (x : Nat) :
    Mem.read (m.filter fun q => p q.1) x = if p x then Mem.read m x else Mem.blank := by
  induction m with
  | nil => simp [Mem.read]
  | cons q r ih =>
    obtain ⟨a, v⟩ := q
    by_cases ha : p a = true
    · by_cases hx : a = x
      · subst hx; simp [List.filter, ha, Mem.read]
      · simp [List.filter, ha, Mem.read, hx, ih]
    · by_cases hx : a = x
      · subst hx; simp [List.filter, ha, ih]
      · simp [List.filter, ha, Mem.read, hx, ih]

theorem Mem.wfFrom_filter (p : Host.Cell → Bool) (m : Mem) : ∀ {lo : Option Nat}, Mem.wfFrom lo m = true →
    Mem.wfFrom lo (m.filter p) = true := by
  induction m with
  | nil => intro lo _; rfl
  | cons q r ih =>
    obtain ⟨a, v⟩ := q
    intro lo h
    rw [Mem.wfFrom_cons] at h
    by_cases hp : p (a, v) = true
    · rw [List.filter_cons_of_pos hp, Mem.wfFrom_cons]
      exact ⟨h.1, h.2.1, ih h.2.2⟩
    · rw [List.filter_cons_of_neg hp]
      exact ih (Mem.wfFrom_mono h.2.2 fun x hx => Mem.above_trans h.1 (Nat.le_of_lt (hx _ rfl)))

/-- Dropping entries keeps the canonical form. -/
theorem Mem.wf_filter (p : Host.Cell → Bool) {m : Mem} (h : m.wf = true) : Mem.wf (m.filter p) = true :=
  Mem.wfFrom_filter p m h

theorem Mem.wf_clearRange {m : Mem} (h : m.wf = true) (a n : Nat) : (Mem.clearRange m a n).wf = true := Mem.wf_filter _ h

/-- A cleared range reads blank, and the rest as before. -/
theorem Mem.read_clearRange (m : Mem) (a n x : Nat) :
    Mem.read (Mem.clearRange m a n) x = if a ≤ x ∧ x < a + n then Mem.blank else Mem.read m x := by
  rw [Mem.clearRange, Mem.read_filter fun q => decide (q < a ∨ a + n ≤ q)]
  by_cases h : a ≤ x ∧ x < a + n
  · have hn : ¬(x < a ∨ a + n ≤ x) := by omega
    simp [h, hn]
  · have hy : x < a ∨ a + n ≤ x := by omega
    simp [h, hy]

theorem Mem.wf_writeCells (cs : Mem) : ∀ {m : Mem} (a : Nat), m.wf = true → (Mem.writeCells m a cs).wf = true := by
  induction cs with
  | nil => intro m a h; exact h
  | cons q r ih => intro m a h; exact ih a (Mem.wf_write h _ _)

/-- A copy keeps the canonical form. -/
theorem Mem.wf_copyInto {d : Mem} (h : d.wf = true) (s : Mem) (to_ a n : Nat) : (Mem.copyInto d s to_ a n).wf = true :=
  Mem.wf_writeCells _ _ (Mem.wf_clearRange h _ _)

end Sys2Proof.Machine
end

