-- ==== Sys2Proof/Laws/State.lean ====
section
/-!
SUPPORT. For every named update of the state, what it leaves as it was: one lemma for each field that it does not touch, and the
reading back of what it writes.
-/
namespace Sys2Proof.Machine

variable (s : State)

/-! ### `setCore` -/

@[simp] theorem State.setCore_pending (c : Nat) (k : Core) : (s.setCore c k).pending = s.pending := rfl
@[simp] theorem State.setCore_mem (c : Nat) (k : Core) : (s.setCore c k).mem = s.mem := rfl
@[simp] theorem State.setCore_bad (c : Nat) (k : Core) : (s.setCore c k).bad = s.bad := rfl
@[simp] theorem State.setCore_nv (c : Nat) (k : Core) : (s.setCore c k).nv = s.nv := rfl
@[simp] theorem State.setCore_host (c : Nat) (k : Core) : (s.setCore c k).host = s.host := rfl
@[simp] theorem State.setCore_dev_period (c : Nat) (k : Core) : (s.setCore c k).dev.period = s.dev.period := rfl
@[simp] theorem State.setCore_dev_tick (c : Nat) (k : Core) : (s.setCore c k).dev.tick = s.dev.tick := rfl
@[simp] theorem State.setCore_cluster (c : Nat) (k : Core) (z : Nat) : (s.setCore c k).cluster z = s.cluster z := rfl
@[simp] theorem State.setCore_dev_clm (c : Nat) (k : Core) : (s.setCore c k).dev.clm = s.dev.clm := rfl
@[simp] theorem State.setCore_dev_air (c : Nat) (k : Core) : (s.setCore c k).dev.air = s.dev.air := rfl
@[simp] theorem State.setCore_reg (c : Nat) (k : Core) (y : RegName) (z : List Nat) : (s.setCore c k).reg y z = s.reg y z := rfl
@[simp] theorem State.setCore_ctx (c : Nat) (k : Core) (z : Nat) : (s.setCore c k).ctx z = s.ctx z := rfl
@[simp] theorem State.setCore_log (c : Nat) (k : Core) (z : Nat) : (s.setCore c k).log z = s.log z := rfl
@[simp] theorem State.setCore_dev_rind (c : Nat) (k : Core) : (s.setCore c k).dev.rind = s.dev.rind := rfl
@[simp] theorem State.setCore_gran (c : Nat) (k : Core) (z : Nat) : (s.setCore c k).gran z = s.gran z := rfl
@[simp] theorem State.setCore_dev_memS (c : Nat) (k : Core) : (s.setCore c k).dev.memS = s.dev.memS := rfl
@[simp] theorem State.setCore_dev_caveQ (c : Nat) (k : Core) : (s.setCore c k).dev.caveQ = s.dev.caveQ := rfl
@[simp] theorem State.setCore_flow (c : Nat) (k : Core) (z : Nat) : (s.setCore c k).flow z = s.flow z := rfl
@[simp] theorem State.setCore_dev_link (c : Nat) (k : Core) : (s.setCore c k).dev.link = s.dev.link := rfl
@[simp] theorem State.setCore_dev_hubQ (c : Nat) (k : Core) : (s.setCore c k).dev.hubQ = s.dev.hubQ := rfl
@[simp] theorem State.setCore_dev_rips (c : Nat) (k : Core) : (s.setCore c k).dev.rips = s.dev.rips := rfl
@[simp] theorem State.setCore_dev_ripTurn (c : Nat) (k : Core) : (s.setCore c k).dev.ripTurn = s.dev.ripTurn := rfl
@[simp] theorem State.setCore_dev_clk (c : Nat) (k : Core) : (s.setCore c k).dev.clk = s.dev.clk := rfl
@[simp] theorem State.setCore_mbox (c : Nat) (k : Core) (z : Nat) : (s.setCore c k).mbox z = s.mbox z := rfl
@[simp] theorem State.setCore_dev_spdm (c : Nat) (k : Core) : (s.setCore c k).dev.spdm = s.dev.spdm := rfl
@[simp] theorem State.setCore_dev_fuseDigest (c : Nat) (k : Core) : (s.setCore c k).dev.fuseDigest = s.dev.fuseDigest := rfl
@[simp] theorem State.setCore_dev_patchDigest (c : Nat) (k : Core) : (s.setCore c k).dev.patchDigest = s.dev.patchDigest := rfl

/-! ### `modCore` -/

@[simp] theorem State.modCore_pending (c : Nat) (f : Core → Core) : (s.modCore c f).pending = s.pending := rfl
@[simp] theorem State.modCore_mem (c : Nat) (f : Core → Core) : (s.modCore c f).mem = s.mem := rfl
@[simp] theorem State.modCore_bad (c : Nat) (f : Core → Core) : (s.modCore c f).bad = s.bad := rfl
@[simp] theorem State.modCore_nv (c : Nat) (f : Core → Core) : (s.modCore c f).nv = s.nv := rfl
@[simp] theorem State.modCore_host (c : Nat) (f : Core → Core) : (s.modCore c f).host = s.host := rfl
@[simp] theorem State.modCore_dev_period (c : Nat) (f : Core → Core) : (s.modCore c f).dev.period = s.dev.period := rfl
@[simp] theorem State.modCore_dev_tick (c : Nat) (f : Core → Core) : (s.modCore c f).dev.tick = s.dev.tick := rfl
@[simp] theorem State.modCore_cluster (c : Nat) (f : Core → Core) (z : Nat) : (s.modCore c f).cluster z = s.cluster z := rfl
@[simp] theorem State.modCore_dev_clm (c : Nat) (f : Core → Core) : (s.modCore c f).dev.clm = s.dev.clm := rfl
@[simp] theorem State.modCore_dev_air (c : Nat) (f : Core → Core) : (s.modCore c f).dev.air = s.dev.air := rfl
@[simp] theorem State.modCore_reg (c : Nat) (f : Core → Core) (y : RegName) (z : List Nat) : (s.modCore c f).reg y z = s.reg y z := rfl
@[simp] theorem State.modCore_ctx (c : Nat) (f : Core → Core) (z : Nat) : (s.modCore c f).ctx z = s.ctx z := rfl
@[simp] theorem State.modCore_log (c : Nat) (f : Core → Core) (z : Nat) : (s.modCore c f).log z = s.log z := rfl
@[simp] theorem State.modCore_dev_rind (c : Nat) (f : Core → Core) : (s.modCore c f).dev.rind = s.dev.rind := rfl
@[simp] theorem State.modCore_gran (c : Nat) (f : Core → Core) (z : Nat) : (s.modCore c f).gran z = s.gran z := rfl
@[simp] theorem State.modCore_dev_memS (c : Nat) (f : Core → Core) : (s.modCore c f).dev.memS = s.dev.memS := rfl
@[simp] theorem State.modCore_dev_caveQ (c : Nat) (f : Core → Core) : (s.modCore c f).dev.caveQ = s.dev.caveQ := rfl
@[simp] theorem State.modCore_flow (c : Nat) (f : Core → Core) (z : Nat) : (s.modCore c f).flow z = s.flow z := rfl
@[simp] theorem State.modCore_dev_link (c : Nat) (f : Core → Core) : (s.modCore c f).dev.link = s.dev.link := rfl
@[simp] theorem State.modCore_dev_hubQ (c : Nat) (f : Core → Core) : (s.modCore c f).dev.hubQ = s.dev.hubQ := rfl
@[simp] theorem State.modCore_dev_rips (c : Nat) (f : Core → Core) : (s.modCore c f).dev.rips = s.dev.rips := rfl
@[simp] theorem State.modCore_dev_ripTurn (c : Nat) (f : Core → Core) : (s.modCore c f).dev.ripTurn = s.dev.ripTurn := rfl
@[simp] theorem State.modCore_dev_clk (c : Nat) (f : Core → Core) : (s.modCore c f).dev.clk = s.dev.clk := rfl
@[simp] theorem State.modCore_mbox (c : Nat) (f : Core → Core) (z : Nat) : (s.modCore c f).mbox z = s.mbox z := rfl
@[simp] theorem State.modCore_dev_spdm (c : Nat) (f : Core → Core) : (s.modCore c f).dev.spdm = s.dev.spdm := rfl
@[simp] theorem State.modCore_dev_fuseDigest (c : Nat) (f : Core → Core) : (s.modCore c f).dev.fuseDigest = s.dev.fuseDigest := rfl
@[simp] theorem State.modCore_dev_patchDigest (c : Nat) (f : Core → Core) : (s.modCore c f).dev.patchDigest = s.dev.patchDigest := rfl

/-! ### `setCluster` -/

@[simp] theorem State.setCluster_pending (k : Nat) (x : Cluster) : (s.setCluster k x).pending = s.pending := rfl
@[simp] theorem State.setCluster_mem (k : Nat) (x : Cluster) : (s.setCluster k x).mem = s.mem := rfl
@[simp] theorem State.setCluster_bad (k : Nat) (x : Cluster) : (s.setCluster k x).bad = s.bad := rfl
@[simp] theorem State.setCluster_nv (k : Nat) (x : Cluster) : (s.setCluster k x).nv = s.nv := rfl
@[simp] theorem State.setCluster_host (k : Nat) (x : Cluster) : (s.setCluster k x).host = s.host := rfl
@[simp] theorem State.setCluster_dev_period (k : Nat) (x : Cluster) : (s.setCluster k x).dev.period = s.dev.period := rfl
@[simp] theorem State.setCluster_dev_tick (k : Nat) (x : Cluster) : (s.setCluster k x).dev.tick = s.dev.tick := rfl
@[simp] theorem State.setCluster_core (k : Nat) (x : Cluster) (z : Nat) : (s.setCluster k x).core z = s.core z := rfl
@[simp] theorem State.setCluster_dev_clm (k : Nat) (x : Cluster) : (s.setCluster k x).dev.clm = s.dev.clm := rfl
@[simp] theorem State.setCluster_dev_air (k : Nat) (x : Cluster) : (s.setCluster k x).dev.air = s.dev.air := rfl
@[simp] theorem State.setCluster_reg (k : Nat) (x : Cluster) (y : RegName) (z : List Nat) : (s.setCluster k x).reg y z = s.reg y z := rfl
@[simp] theorem State.setCluster_ctx (k : Nat) (x : Cluster) (z : Nat) : (s.setCluster k x).ctx z = s.ctx z := rfl
@[simp] theorem State.setCluster_log (k : Nat) (x : Cluster) (z : Nat) : (s.setCluster k x).log z = s.log z := rfl
@[simp] theorem State.setCluster_dev_rind (k : Nat) (x : Cluster) : (s.setCluster k x).dev.rind = s.dev.rind := rfl
@[simp] theorem State.setCluster_gran (k : Nat) (x : Cluster) (z : Nat) : (s.setCluster k x).gran z = s.gran z := rfl
@[simp] theorem State.setCluster_dev_memS (k : Nat) (x : Cluster) : (s.setCluster k x).dev.memS = s.dev.memS := rfl
@[simp] theorem State.setCluster_dev_caveQ (k : Nat) (x : Cluster) : (s.setCluster k x).dev.caveQ = s.dev.caveQ := rfl
@[simp] theorem State.setCluster_flow (k : Nat) (x : Cluster) (z : Nat) : (s.setCluster k x).flow z = s.flow z := rfl
@[simp] theorem State.setCluster_dev_link (k : Nat) (x : Cluster) : (s.setCluster k x).dev.link = s.dev.link := rfl
@[simp] theorem State.setCluster_dev_hubQ (k : Nat) (x : Cluster) : (s.setCluster k x).dev.hubQ = s.dev.hubQ := rfl
@[simp] theorem State.setCluster_dev_rips (k : Nat) (x : Cluster) : (s.setCluster k x).dev.rips = s.dev.rips := rfl
@[simp] theorem State.setCluster_dev_ripTurn (k : Nat) (x : Cluster) : (s.setCluster k x).dev.ripTurn = s.dev.ripTurn := rfl
@[simp] theorem State.setCluster_dev_clk (k : Nat) (x : Cluster) : (s.setCluster k x).dev.clk = s.dev.clk := rfl
@[simp] theorem State.setCluster_mbox (k : Nat) (x : Cluster) (z : Nat) : (s.setCluster k x).mbox z = s.mbox z := rfl
@[simp] theorem State.setCluster_dev_spdm (k : Nat) (x : Cluster) : (s.setCluster k x).dev.spdm = s.dev.spdm := rfl
@[simp] theorem State.setCluster_dev_fuseDigest (k : Nat) (x : Cluster) : (s.setCluster k x).dev.fuseDigest = s.dev.fuseDigest := rfl
@[simp] theorem State.setCluster_dev_patchDigest (k : Nat) (x : Cluster) : (s.setCluster k x).dev.patchDigest = s.dev.patchDigest := rfl

/-! ### `modCluster` -/

@[simp] theorem State.modCluster_pending (k : Nat) (f : Cluster → Cluster) : (s.modCluster k f).pending = s.pending := rfl
@[simp] theorem State.modCluster_mem (k : Nat) (f : Cluster → Cluster) : (s.modCluster k f).mem = s.mem := rfl
@[simp] theorem State.modCluster_bad (k : Nat) (f : Cluster → Cluster) : (s.modCluster k f).bad = s.bad := rfl
@[simp] theorem State.modCluster_nv (k : Nat) (f : Cluster → Cluster) : (s.modCluster k f).nv = s.nv := rfl
@[simp] theorem State.modCluster_host (k : Nat) (f : Cluster → Cluster) : (s.modCluster k f).host = s.host := rfl
@[simp] theorem State.modCluster_dev_period (k : Nat) (f : Cluster → Cluster) : (s.modCluster k f).dev.period = s.dev.period := rfl
@[simp] theorem State.modCluster_dev_tick (k : Nat) (f : Cluster → Cluster) : (s.modCluster k f).dev.tick = s.dev.tick := rfl
@[simp] theorem State.modCluster_core (k : Nat) (f : Cluster → Cluster) (z : Nat) : (s.modCluster k f).core z = s.core z := rfl
@[simp] theorem State.modCluster_dev_clm (k : Nat) (f : Cluster → Cluster) : (s.modCluster k f).dev.clm = s.dev.clm := rfl
@[simp] theorem State.modCluster_dev_air (k : Nat) (f : Cluster → Cluster) : (s.modCluster k f).dev.air = s.dev.air := rfl
@[simp] theorem State.modCluster_reg (k : Nat) (f : Cluster → Cluster) (y : RegName) (z : List Nat) : (s.modCluster k f).reg y z = s.reg y z := rfl
@[simp] theorem State.modCluster_ctx (k : Nat) (f : Cluster → Cluster) (z : Nat) : (s.modCluster k f).ctx z = s.ctx z := rfl
@[simp] theorem State.modCluster_log (k : Nat) (f : Cluster → Cluster) (z : Nat) : (s.modCluster k f).log z = s.log z := rfl
@[simp] theorem State.modCluster_dev_rind (k : Nat) (f : Cluster → Cluster) : (s.modCluster k f).dev.rind = s.dev.rind := rfl
@[simp] theorem State.modCluster_gran (k : Nat) (f : Cluster → Cluster) (z : Nat) : (s.modCluster k f).gran z = s.gran z := rfl
@[simp] theorem State.modCluster_dev_memS (k : Nat) (f : Cluster → Cluster) : (s.modCluster k f).dev.memS = s.dev.memS := rfl
@[simp] theorem State.modCluster_dev_caveQ (k : Nat) (f : Cluster → Cluster) : (s.modCluster k f).dev.caveQ = s.dev.caveQ := rfl
@[simp] theorem State.modCluster_flow (k : Nat) (f : Cluster → Cluster) (z : Nat) : (s.modCluster k f).flow z = s.flow z := rfl
@[simp] theorem State.modCluster_dev_link (k : Nat) (f : Cluster → Cluster) : (s.modCluster k f).dev.link = s.dev.link := rfl
@[simp] theorem State.modCluster_dev_hubQ (k : Nat) (f : Cluster → Cluster) : (s.modCluster k f).dev.hubQ = s.dev.hubQ := rfl
@[simp] theorem State.modCluster_dev_rips (k : Nat) (f : Cluster → Cluster) : (s.modCluster k f).dev.rips = s.dev.rips := rfl
@[simp] theorem State.modCluster_dev_ripTurn (k : Nat) (f : Cluster → Cluster) : (s.modCluster k f).dev.ripTurn = s.dev.ripTurn := rfl
@[simp] theorem State.modCluster_dev_clk (k : Nat) (f : Cluster → Cluster) : (s.modCluster k f).dev.clk = s.dev.clk := rfl
@[simp] theorem State.modCluster_mbox (k : Nat) (f : Cluster → Cluster) (z : Nat) : (s.modCluster k f).mbox z = s.mbox z := rfl
@[simp] theorem State.modCluster_dev_spdm (k : Nat) (f : Cluster → Cluster) : (s.modCluster k f).dev.spdm = s.dev.spdm := rfl
@[simp] theorem State.modCluster_dev_fuseDigest (k : Nat) (f : Cluster → Cluster) : (s.modCluster k f).dev.fuseDigest = s.dev.fuseDigest := rfl
@[simp] theorem State.modCluster_dev_patchDigest (k : Nat) (f : Cluster → Cluster) : (s.modCluster k f).dev.patchDigest = s.dev.patchDigest := rfl

/-! ### `modClm` -/

@[simp] theorem State.modClm_pending (f : ClmS → ClmS) : (s.modClm f).pending = s.pending := rfl
@[simp] theorem State.modClm_mem (f : ClmS → ClmS) : (s.modClm f).mem = s.mem := rfl
@[simp] theorem State.modClm_bad (f : ClmS → ClmS) : (s.modClm f).bad = s.bad := rfl
@[simp] theorem State.modClm_nv (f : ClmS → ClmS) : (s.modClm f).nv = s.nv := rfl
@[simp] theorem State.modClm_host (f : ClmS → ClmS) : (s.modClm f).host = s.host := rfl
@[simp] theorem State.modClm_dev_period (f : ClmS → ClmS) : (s.modClm f).dev.period = s.dev.period := rfl
@[simp] theorem State.modClm_dev_tick (f : ClmS → ClmS) : (s.modClm f).dev.tick = s.dev.tick := rfl
@[simp] theorem State.modClm_core (f : ClmS → ClmS) (z : Nat) : (s.modClm f).core z = s.core z := rfl
@[simp] theorem State.modClm_cluster (f : ClmS → ClmS) (z : Nat) : (s.modClm f).cluster z = s.cluster z := rfl
@[simp] theorem State.modClm_dev_air (f : ClmS → ClmS) : (s.modClm f).dev.air = s.dev.air := rfl
@[simp] theorem State.modClm_reg (f : ClmS → ClmS) (y : RegName) (z : List Nat) : (s.modClm f).reg y z = s.reg y z := rfl
@[simp] theorem State.modClm_ctx (f : ClmS → ClmS) (z : Nat) : (s.modClm f).ctx z = s.ctx z := rfl
@[simp] theorem State.modClm_log (f : ClmS → ClmS) (z : Nat) : (s.modClm f).log z = s.log z := rfl
@[simp] theorem State.modClm_dev_rind (f : ClmS → ClmS) : (s.modClm f).dev.rind = s.dev.rind := rfl
@[simp] theorem State.modClm_gran (f : ClmS → ClmS) (z : Nat) : (s.modClm f).gran z = s.gran z := rfl
@[simp] theorem State.modClm_dev_memS (f : ClmS → ClmS) : (s.modClm f).dev.memS = s.dev.memS := rfl
@[simp] theorem State.modClm_dev_caveQ (f : ClmS → ClmS) : (s.modClm f).dev.caveQ = s.dev.caveQ := rfl
@[simp] theorem State.modClm_flow (f : ClmS → ClmS) (z : Nat) : (s.modClm f).flow z = s.flow z := rfl
@[simp] theorem State.modClm_dev_link (f : ClmS → ClmS) : (s.modClm f).dev.link = s.dev.link := rfl
@[simp] theorem State.modClm_dev_hubQ (f : ClmS → ClmS) : (s.modClm f).dev.hubQ = s.dev.hubQ := rfl
@[simp] theorem State.modClm_dev_rips (f : ClmS → ClmS) : (s.modClm f).dev.rips = s.dev.rips := rfl
@[simp] theorem State.modClm_dev_ripTurn (f : ClmS → ClmS) : (s.modClm f).dev.ripTurn = s.dev.ripTurn := rfl
@[simp] theorem State.modClm_dev_clk (f : ClmS → ClmS) : (s.modClm f).dev.clk = s.dev.clk := rfl
@[simp] theorem State.modClm_mbox (f : ClmS → ClmS) (z : Nat) : (s.modClm f).mbox z = s.mbox z := rfl
@[simp] theorem State.modClm_dev_spdm (f : ClmS → ClmS) : (s.modClm f).dev.spdm = s.dev.spdm := rfl
@[simp] theorem State.modClm_dev_fuseDigest (f : ClmS → ClmS) : (s.modClm f).dev.fuseDigest = s.dev.fuseDigest := rfl
@[simp] theorem State.modClm_dev_patchDigest (f : ClmS → ClmS) : (s.modClm f).dev.patchDigest = s.dev.patchDigest := rfl

/-! ### `setCtx` -/

@[simp] theorem State.setCtx_pending (c : Nat) (x : Ctx) : (s.setCtx c x).pending = s.pending := rfl
@[simp] theorem State.setCtx_mem (c : Nat) (x : Ctx) : (s.setCtx c x).mem = s.mem := rfl
@[simp] theorem State.setCtx_bad (c : Nat) (x : Ctx) : (s.setCtx c x).bad = s.bad := rfl
@[simp] theorem State.setCtx_nv (c : Nat) (x : Ctx) : (s.setCtx c x).nv = s.nv := rfl
@[simp] theorem State.setCtx_host (c : Nat) (x : Ctx) : (s.setCtx c x).host = s.host := rfl
@[simp] theorem State.setCtx_dev_period (c : Nat) (x : Ctx) : (s.setCtx c x).dev.period = s.dev.period := rfl
@[simp] theorem State.setCtx_dev_tick (c : Nat) (x : Ctx) : (s.setCtx c x).dev.tick = s.dev.tick := rfl
@[simp] theorem State.setCtx_core (c : Nat) (x : Ctx) (z : Nat) : (s.setCtx c x).core z = s.core z := rfl
@[simp] theorem State.setCtx_cluster (c : Nat) (x : Ctx) (z : Nat) : (s.setCtx c x).cluster z = s.cluster z := rfl
@[simp] theorem State.setCtx_dev_clm (c : Nat) (x : Ctx) : (s.setCtx c x).dev.clm = s.dev.clm := rfl
@[simp] theorem State.setCtx_dev_air (c : Nat) (x : Ctx) : (s.setCtx c x).dev.air = s.dev.air := rfl
@[simp] theorem State.setCtx_reg (c : Nat) (x : Ctx) (y : RegName) (z : List Nat) : (s.setCtx c x).reg y z = s.reg y z := rfl
@[simp] theorem State.setCtx_log (c : Nat) (x : Ctx) (z : Nat) : (s.setCtx c x).log z = s.log z := rfl
@[simp] theorem State.setCtx_dev_rind (c : Nat) (x : Ctx) : (s.setCtx c x).dev.rind = s.dev.rind := rfl
@[simp] theorem State.setCtx_gran (c : Nat) (x : Ctx) (z : Nat) : (s.setCtx c x).gran z = s.gran z := rfl
@[simp] theorem State.setCtx_dev_memS (c : Nat) (x : Ctx) : (s.setCtx c x).dev.memS = s.dev.memS := rfl
@[simp] theorem State.setCtx_dev_caveQ (c : Nat) (x : Ctx) : (s.setCtx c x).dev.caveQ = s.dev.caveQ := rfl
@[simp] theorem State.setCtx_flow (c : Nat) (x : Ctx) (z : Nat) : (s.setCtx c x).flow z = s.flow z := rfl
@[simp] theorem State.setCtx_dev_link (c : Nat) (x : Ctx) : (s.setCtx c x).dev.link = s.dev.link := rfl
@[simp] theorem State.setCtx_dev_hubQ (c : Nat) (x : Ctx) : (s.setCtx c x).dev.hubQ = s.dev.hubQ := rfl
@[simp] theorem State.setCtx_dev_rips (c : Nat) (x : Ctx) : (s.setCtx c x).dev.rips = s.dev.rips := rfl
@[simp] theorem State.setCtx_dev_ripTurn (c : Nat) (x : Ctx) : (s.setCtx c x).dev.ripTurn = s.dev.ripTurn := rfl
@[simp] theorem State.setCtx_dev_clk (c : Nat) (x : Ctx) : (s.setCtx c x).dev.clk = s.dev.clk := rfl
@[simp] theorem State.setCtx_mbox (c : Nat) (x : Ctx) (z : Nat) : (s.setCtx c x).mbox z = s.mbox z := rfl
@[simp] theorem State.setCtx_dev_spdm (c : Nat) (x : Ctx) : (s.setCtx c x).dev.spdm = s.dev.spdm := rfl
@[simp] theorem State.setCtx_dev_fuseDigest (c : Nat) (x : Ctx) : (s.setCtx c x).dev.fuseDigest = s.dev.fuseDigest := rfl
@[simp] theorem State.setCtx_dev_patchDigest (c : Nat) (x : Ctx) : (s.setCtx c x).dev.patchDigest = s.dev.patchDigest := rfl

/-! ### `modCtx` -/

@[simp] theorem State.modCtx_pending (c : Nat) (f : Ctx → Ctx) : (s.modCtx c f).pending = s.pending := rfl
@[simp] theorem State.modCtx_mem (c : Nat) (f : Ctx → Ctx) : (s.modCtx c f).mem = s.mem := rfl
@[simp] theorem State.modCtx_bad (c : Nat) (f : Ctx → Ctx) : (s.modCtx c f).bad = s.bad := rfl
@[simp] theorem State.modCtx_nv (c : Nat) (f : Ctx → Ctx) : (s.modCtx c f).nv = s.nv := rfl
@[simp] theorem State.modCtx_host (c : Nat) (f : Ctx → Ctx) : (s.modCtx c f).host = s.host := rfl
@[simp] theorem State.modCtx_dev_period (c : Nat) (f : Ctx → Ctx) : (s.modCtx c f).dev.period = s.dev.period := rfl
@[simp] theorem State.modCtx_dev_tick (c : Nat) (f : Ctx → Ctx) : (s.modCtx c f).dev.tick = s.dev.tick := rfl
@[simp] theorem State.modCtx_core (c : Nat) (f : Ctx → Ctx) (z : Nat) : (s.modCtx c f).core z = s.core z := rfl
@[simp] theorem State.modCtx_cluster (c : Nat) (f : Ctx → Ctx) (z : Nat) : (s.modCtx c f).cluster z = s.cluster z := rfl
@[simp] theorem State.modCtx_dev_clm (c : Nat) (f : Ctx → Ctx) : (s.modCtx c f).dev.clm = s.dev.clm := rfl
@[simp] theorem State.modCtx_dev_air (c : Nat) (f : Ctx → Ctx) : (s.modCtx c f).dev.air = s.dev.air := rfl
@[simp] theorem State.modCtx_reg (c : Nat) (f : Ctx → Ctx) (y : RegName) (z : List Nat) : (s.modCtx c f).reg y z = s.reg y z := rfl
@[simp] theorem State.modCtx_log (c : Nat) (f : Ctx → Ctx) (z : Nat) : (s.modCtx c f).log z = s.log z := rfl
@[simp] theorem State.modCtx_dev_rind (c : Nat) (f : Ctx → Ctx) : (s.modCtx c f).dev.rind = s.dev.rind := rfl
@[simp] theorem State.modCtx_gran (c : Nat) (f : Ctx → Ctx) (z : Nat) : (s.modCtx c f).gran z = s.gran z := rfl
@[simp] theorem State.modCtx_dev_memS (c : Nat) (f : Ctx → Ctx) : (s.modCtx c f).dev.memS = s.dev.memS := rfl
@[simp] theorem State.modCtx_dev_caveQ (c : Nat) (f : Ctx → Ctx) : (s.modCtx c f).dev.caveQ = s.dev.caveQ := rfl
@[simp] theorem State.modCtx_flow (c : Nat) (f : Ctx → Ctx) (z : Nat) : (s.modCtx c f).flow z = s.flow z := rfl
@[simp] theorem State.modCtx_dev_link (c : Nat) (f : Ctx → Ctx) : (s.modCtx c f).dev.link = s.dev.link := rfl
@[simp] theorem State.modCtx_dev_hubQ (c : Nat) (f : Ctx → Ctx) : (s.modCtx c f).dev.hubQ = s.dev.hubQ := rfl
@[simp] theorem State.modCtx_dev_rips (c : Nat) (f : Ctx → Ctx) : (s.modCtx c f).dev.rips = s.dev.rips := rfl
@[simp] theorem State.modCtx_dev_ripTurn (c : Nat) (f : Ctx → Ctx) : (s.modCtx c f).dev.ripTurn = s.dev.ripTurn := rfl
@[simp] theorem State.modCtx_dev_clk (c : Nat) (f : Ctx → Ctx) : (s.modCtx c f).dev.clk = s.dev.clk := rfl
@[simp] theorem State.modCtx_mbox (c : Nat) (f : Ctx → Ctx) (z : Nat) : (s.modCtx c f).mbox z = s.mbox z := rfl
@[simp] theorem State.modCtx_dev_spdm (c : Nat) (f : Ctx → Ctx) : (s.modCtx c f).dev.spdm = s.dev.spdm := rfl
@[simp] theorem State.modCtx_dev_fuseDigest (c : Nat) (f : Ctx → Ctx) : (s.modCtx c f).dev.fuseDigest = s.dev.fuseDigest := rfl
@[simp] theorem State.modCtx_dev_patchDigest (c : Nat) (f : Ctx → Ctx) : (s.modCtx c f).dev.patchDigest = s.dev.patchDigest := rfl

/-! ### `setLog` -/

@[simp] theorem State.setLog_pending (l : Nat) (g : Log) : (s.setLog l g).pending = s.pending := rfl
@[simp] theorem State.setLog_mem (l : Nat) (g : Log) : (s.setLog l g).mem = s.mem := rfl
@[simp] theorem State.setLog_bad (l : Nat) (g : Log) : (s.setLog l g).bad = s.bad := rfl
@[simp] theorem State.setLog_nv (l : Nat) (g : Log) : (s.setLog l g).nv = s.nv := rfl
@[simp] theorem State.setLog_host (l : Nat) (g : Log) : (s.setLog l g).host = s.host := rfl
@[simp] theorem State.setLog_dev_period (l : Nat) (g : Log) : (s.setLog l g).dev.period = s.dev.period := rfl
@[simp] theorem State.setLog_dev_tick (l : Nat) (g : Log) : (s.setLog l g).dev.tick = s.dev.tick := rfl
@[simp] theorem State.setLog_core (l : Nat) (g : Log) (z : Nat) : (s.setLog l g).core z = s.core z := rfl
@[simp] theorem State.setLog_cluster (l : Nat) (g : Log) (z : Nat) : (s.setLog l g).cluster z = s.cluster z := rfl
@[simp] theorem State.setLog_dev_clm (l : Nat) (g : Log) : (s.setLog l g).dev.clm = s.dev.clm := rfl
@[simp] theorem State.setLog_dev_air (l : Nat) (g : Log) : (s.setLog l g).dev.air = s.dev.air := rfl
@[simp] theorem State.setLog_reg (l : Nat) (g : Log) (y : RegName) (z : List Nat) : (s.setLog l g).reg y z = s.reg y z := rfl
@[simp] theorem State.setLog_ctx (l : Nat) (g : Log) (z : Nat) : (s.setLog l g).ctx z = s.ctx z := rfl
@[simp] theorem State.setLog_dev_rind (l : Nat) (g : Log) : (s.setLog l g).dev.rind = s.dev.rind := rfl
@[simp] theorem State.setLog_gran (l : Nat) (g : Log) (z : Nat) : (s.setLog l g).gran z = s.gran z := rfl
@[simp] theorem State.setLog_dev_memS (l : Nat) (g : Log) : (s.setLog l g).dev.memS = s.dev.memS := rfl
@[simp] theorem State.setLog_dev_caveQ (l : Nat) (g : Log) : (s.setLog l g).dev.caveQ = s.dev.caveQ := rfl
@[simp] theorem State.setLog_flow (l : Nat) (g : Log) (z : Nat) : (s.setLog l g).flow z = s.flow z := rfl
@[simp] theorem State.setLog_dev_link (l : Nat) (g : Log) : (s.setLog l g).dev.link = s.dev.link := rfl
@[simp] theorem State.setLog_dev_hubQ (l : Nat) (g : Log) : (s.setLog l g).dev.hubQ = s.dev.hubQ := rfl
@[simp] theorem State.setLog_dev_rips (l : Nat) (g : Log) : (s.setLog l g).dev.rips = s.dev.rips := rfl
@[simp] theorem State.setLog_dev_ripTurn (l : Nat) (g : Log) : (s.setLog l g).dev.ripTurn = s.dev.ripTurn := rfl
@[simp] theorem State.setLog_dev_clk (l : Nat) (g : Log) : (s.setLog l g).dev.clk = s.dev.clk := rfl
@[simp] theorem State.setLog_mbox (l : Nat) (g : Log) (z : Nat) : (s.setLog l g).mbox z = s.mbox z := rfl
@[simp] theorem State.setLog_dev_spdm (l : Nat) (g : Log) : (s.setLog l g).dev.spdm = s.dev.spdm := rfl
@[simp] theorem State.setLog_dev_fuseDigest (l : Nat) (g : Log) : (s.setLog l g).dev.fuseDigest = s.dev.fuseDigest := rfl
@[simp] theorem State.setLog_dev_patchDigest (l : Nat) (g : Log) : (s.setLog l g).dev.patchDigest = s.dev.patchDigest := rfl

/-! ### `setReg` -/

@[simp] theorem State.setReg_pending (n : RegName) (i : List Nat) (v : BitVec 64) : (s.setReg n i v).pending = s.pending := rfl
@[simp] theorem State.setReg_mem (n : RegName) (i : List Nat) (v : BitVec 64) : (s.setReg n i v).mem = s.mem := rfl
@[simp] theorem State.setReg_bad (n : RegName) (i : List Nat) (v : BitVec 64) : (s.setReg n i v).bad = s.bad := rfl
@[simp] theorem State.setReg_nv (n : RegName) (i : List Nat) (v : BitVec 64) : (s.setReg n i v).nv = s.nv := rfl
@[simp] theorem State.setReg_host (n : RegName) (i : List Nat) (v : BitVec 64) : (s.setReg n i v).host = s.host := rfl
@[simp] theorem State.setReg_dev_period (n : RegName) (i : List Nat) (v : BitVec 64) : (s.setReg n i v).dev.period = s.dev.period := rfl
@[simp] theorem State.setReg_dev_tick (n : RegName) (i : List Nat) (v : BitVec 64) : (s.setReg n i v).dev.tick = s.dev.tick := rfl
@[simp] theorem State.setReg_core (n : RegName) (i : List Nat) (v : BitVec 64) (z : Nat) : (s.setReg n i v).core z = s.core z := rfl
@[simp] theorem State.setReg_cluster (n : RegName) (i : List Nat) (v : BitVec 64) (z : Nat) : (s.setReg n i v).cluster z = s.cluster z := rfl
@[simp] theorem State.setReg_dev_clm (n : RegName) (i : List Nat) (v : BitVec 64) : (s.setReg n i v).dev.clm = s.dev.clm := rfl
@[simp] theorem State.setReg_dev_air (n : RegName) (i : List Nat) (v : BitVec 64) : (s.setReg n i v).dev.air = s.dev.air := rfl
@[simp] theorem State.setReg_ctx (n : RegName) (i : List Nat) (v : BitVec 64) (z : Nat) : (s.setReg n i v).ctx z = s.ctx z := rfl
@[simp] theorem State.setReg_log (n : RegName) (i : List Nat) (v : BitVec 64) (z : Nat) : (s.setReg n i v).log z = s.log z := rfl
@[simp] theorem State.setReg_dev_rind (n : RegName) (i : List Nat) (v : BitVec 64) : (s.setReg n i v).dev.rind = s.dev.rind := rfl
@[simp] theorem State.setReg_gran (n : RegName) (i : List Nat) (v : BitVec 64) (z : Nat) : (s.setReg n i v).gran z = s.gran z := rfl
@[simp] theorem State.setReg_dev_memS (n : RegName) (i : List Nat) (v : BitVec 64) : (s.setReg n i v).dev.memS = s.dev.memS := rfl
@[simp] theorem State.setReg_dev_caveQ (n : RegName) (i : List Nat) (v : BitVec 64) : (s.setReg n i v).dev.caveQ = s.dev.caveQ := rfl
@[simp] theorem State.setReg_flow (n : RegName) (i : List Nat) (v : BitVec 64) (z : Nat) : (s.setReg n i v).flow z = s.flow z := rfl
@[simp] theorem State.setReg_dev_link (n : RegName) (i : List Nat) (v : BitVec 64) : (s.setReg n i v).dev.link = s.dev.link := rfl
@[simp] theorem State.setReg_dev_hubQ (n : RegName) (i : List Nat) (v : BitVec 64) : (s.setReg n i v).dev.hubQ = s.dev.hubQ := rfl
@[simp] theorem State.setReg_dev_rips (n : RegName) (i : List Nat) (v : BitVec 64) : (s.setReg n i v).dev.rips = s.dev.rips := rfl
@[simp] theorem State.setReg_dev_ripTurn (n : RegName) (i : List Nat) (v : BitVec 64) : (s.setReg n i v).dev.ripTurn = s.dev.ripTurn := rfl
@[simp] theorem State.setReg_dev_clk (n : RegName) (i : List Nat) (v : BitVec 64) : (s.setReg n i v).dev.clk = s.dev.clk := rfl
@[simp] theorem State.setReg_mbox (n : RegName) (i : List Nat) (v : BitVec 64) (z : Nat) : (s.setReg n i v).mbox z = s.mbox z := rfl
@[simp] theorem State.setReg_dev_spdm (n : RegName) (i : List Nat) (v : BitVec 64) : (s.setReg n i v).dev.spdm = s.dev.spdm := rfl
@[simp] theorem State.setReg_dev_fuseDigest (n : RegName) (i : List Nat) (v : BitVec 64) : (s.setReg n i v).dev.fuseDigest = s.dev.fuseDigest := rfl
@[simp] theorem State.setReg_dev_patchDigest (n : RegName) (i : List Nat) (v : BitVec 64) : (s.setReg n i v).dev.patchDigest = s.dev.patchDigest := rfl

/-! ### `setField` -/

@[simp] theorem State.setField_pending (n : RegName) (i : List Nat) (hi lo v : Nat) : (s.setField n i hi lo v).pending = s.pending := rfl
@[simp] theorem State.setField_mem (n : RegName) (i : List Nat) (hi lo v : Nat) : (s.setField n i hi lo v).mem = s.mem := rfl
@[simp] theorem State.setField_bad (n : RegName) (i : List Nat) (hi lo v : Nat) : (s.setField n i hi lo v).bad = s.bad := rfl
@[simp] theorem State.setField_nv (n : RegName) (i : List Nat) (hi lo v : Nat) : (s.setField n i hi lo v).nv = s.nv := rfl
@[simp] theorem State.setField_host (n : RegName) (i : List Nat) (hi lo v : Nat) : (s.setField n i hi lo v).host = s.host := rfl
@[simp] theorem State.setField_dev_period (n : RegName) (i : List Nat) (hi lo v : Nat) : (s.setField n i hi lo v).dev.period = s.dev.period := rfl
@[simp] theorem State.setField_dev_tick (n : RegName) (i : List Nat) (hi lo v : Nat) : (s.setField n i hi lo v).dev.tick = s.dev.tick := rfl
@[simp] theorem State.setField_core (n : RegName) (i : List Nat) (hi lo v : Nat) (z : Nat) : (s.setField n i hi lo v).core z = s.core z := rfl
@[simp] theorem State.setField_cluster (n : RegName) (i : List Nat) (hi lo v : Nat) (z : Nat) : (s.setField n i hi lo v).cluster z = s.cluster z := rfl
@[simp] theorem State.setField_dev_clm (n : RegName) (i : List Nat) (hi lo v : Nat) : (s.setField n i hi lo v).dev.clm = s.dev.clm := rfl
@[simp] theorem State.setField_dev_air (n : RegName) (i : List Nat) (hi lo v : Nat) : (s.setField n i hi lo v).dev.air = s.dev.air := rfl
@[simp] theorem State.setField_ctx (n : RegName) (i : List Nat) (hi lo v : Nat) (z : Nat) : (s.setField n i hi lo v).ctx z = s.ctx z := rfl
@[simp] theorem State.setField_log (n : RegName) (i : List Nat) (hi lo v : Nat) (z : Nat) : (s.setField n i hi lo v).log z = s.log z := rfl
@[simp] theorem State.setField_dev_rind (n : RegName) (i : List Nat) (hi lo v : Nat) : (s.setField n i hi lo v).dev.rind = s.dev.rind := rfl
@[simp] theorem State.setField_gran (n : RegName) (i : List Nat) (hi lo v : Nat) (z : Nat) : (s.setField n i hi lo v).gran z = s.gran z := rfl
@[simp] theorem State.setField_dev_memS (n : RegName) (i : List Nat) (hi lo v : Nat) : (s.setField n i hi lo v).dev.memS = s.dev.memS := rfl
@[simp] theorem State.setField_dev_caveQ (n : RegName) (i : List Nat) (hi lo v : Nat) : (s.setField n i hi lo v).dev.caveQ = s.dev.caveQ := rfl
@[simp] theorem State.setField_flow (n : RegName) (i : List Nat) (hi lo v : Nat) (z : Nat) : (s.setField n i hi lo v).flow z = s.flow z := rfl
@[simp] theorem State.setField_dev_link (n : RegName) (i : List Nat) (hi lo v : Nat) : (s.setField n i hi lo v).dev.link = s.dev.link := rfl
@[simp] theorem State.setField_dev_hubQ (n : RegName) (i : List Nat) (hi lo v : Nat) : (s.setField n i hi lo v).dev.hubQ = s.dev.hubQ := rfl
@[simp] theorem State.setField_dev_rips (n : RegName) (i : List Nat) (hi lo v : Nat) : (s.setField n i hi lo v).dev.rips = s.dev.rips := rfl
@[simp] theorem State.setField_dev_ripTurn (n : RegName) (i : List Nat) (hi lo v : Nat) : (s.setField n i hi lo v).dev.ripTurn = s.dev.ripTurn := rfl
@[simp] theorem State.setField_dev_clk (n : RegName) (i : List Nat) (hi lo v : Nat) : (s.setField n i hi lo v).dev.clk = s.dev.clk := rfl
@[simp] theorem State.setField_mbox (n : RegName) (i : List Nat) (hi lo v : Nat) (z : Nat) : (s.setField n i hi lo v).mbox z = s.mbox z := rfl
@[simp] theorem State.setField_dev_spdm (n : RegName) (i : List Nat) (hi lo v : Nat) : (s.setField n i hi lo v).dev.spdm = s.dev.spdm := rfl
@[simp] theorem State.setField_dev_fuseDigest (n : RegName) (i : List Nat) (hi lo v : Nat) : (s.setField n i hi lo v).dev.fuseDigest = s.dev.fuseDigest := rfl
@[simp] theorem State.setField_dev_patchDigest (n : RegName) (i : List Nat) (hi lo v : Nat) : (s.setField n i hi lo v).dev.patchDigest = s.dev.patchDigest := rfl

/-! ### `trigger` -/

@[simp] theorem State.trigger_pending (w : WaveSrc) : (s.trigger w).pending = s.pending := rfl
@[simp] theorem State.trigger_mem (w : WaveSrc) : (s.trigger w).mem = s.mem := rfl
@[simp] theorem State.trigger_bad (w : WaveSrc) : (s.trigger w).bad = s.bad := rfl
@[simp] theorem State.trigger_nv (w : WaveSrc) : (s.trigger w).nv = s.nv := rfl
@[simp] theorem State.trigger_host (w : WaveSrc) : (s.trigger w).host = s.host := rfl
@[simp] theorem State.trigger_dev_period (w : WaveSrc) : (s.trigger w).dev.period = s.dev.period := rfl
@[simp] theorem State.trigger_dev_tick (w : WaveSrc) : (s.trigger w).dev.tick = s.dev.tick := rfl
@[simp] theorem State.trigger_core (w : WaveSrc) (z : Nat) : (s.trigger w).core z = s.core z := rfl
@[simp] theorem State.trigger_cluster (w : WaveSrc) (z : Nat) : (s.trigger w).cluster z = s.cluster z := rfl
@[simp] theorem State.trigger_dev_clm (w : WaveSrc) : (s.trigger w).dev.clm = s.dev.clm := rfl
@[simp] theorem State.trigger_dev_air (w : WaveSrc) : (s.trigger w).dev.air = s.dev.air := rfl
@[simp] theorem State.trigger_reg (w : WaveSrc) (y : RegName) (z : List Nat) : (s.trigger w).reg y z = s.reg y z := rfl
@[simp] theorem State.trigger_ctx (w : WaveSrc) (z : Nat) : (s.trigger w).ctx z = s.ctx z := rfl
@[simp] theorem State.trigger_log (w : WaveSrc) (z : Nat) : (s.trigger w).log z = s.log z := rfl
@[simp] theorem State.trigger_gran (w : WaveSrc) (z : Nat) : (s.trigger w).gran z = s.gran z := rfl
@[simp] theorem State.trigger_dev_memS (w : WaveSrc) : (s.trigger w).dev.memS = s.dev.memS := rfl
@[simp] theorem State.trigger_dev_caveQ (w : WaveSrc) : (s.trigger w).dev.caveQ = s.dev.caveQ := rfl
@[simp] theorem State.trigger_flow (w : WaveSrc) (z : Nat) : (s.trigger w).flow z = s.flow z := rfl
@[simp] theorem State.trigger_dev_link (w : WaveSrc) : (s.trigger w).dev.link = s.dev.link := rfl
@[simp] theorem State.trigger_dev_hubQ (w : WaveSrc) : (s.trigger w).dev.hubQ = s.dev.hubQ := rfl
@[simp] theorem State.trigger_dev_rips (w : WaveSrc) : (s.trigger w).dev.rips = s.dev.rips := rfl
@[simp] theorem State.trigger_dev_ripTurn (w : WaveSrc) : (s.trigger w).dev.ripTurn = s.dev.ripTurn := rfl
@[simp] theorem State.trigger_dev_clk (w : WaveSrc) : (s.trigger w).dev.clk = s.dev.clk := rfl
@[simp] theorem State.trigger_mbox (w : WaveSrc) (z : Nat) : (s.trigger w).mbox z = s.mbox z := rfl
@[simp] theorem State.trigger_dev_spdm (w : WaveSrc) : (s.trigger w).dev.spdm = s.dev.spdm := rfl
@[simp] theorem State.trigger_dev_fuseDigest (w : WaveSrc) : (s.trigger w).dev.fuseDigest = s.dev.fuseDigest := rfl
@[simp] theorem State.trigger_dev_patchDigest (w : WaveSrc) : (s.trigger w).dev.patchDigest = s.dev.patchDigest := rfl

/-! ### `modRind` -/

@[simp] theorem State.modRind_pending (f : Rind → Rind) : (s.modRind f).pending = s.pending := rfl
@[simp] theorem State.modRind_mem (f : Rind → Rind) : (s.modRind f).mem = s.mem := rfl
@[simp] theorem State.modRind_bad (f : Rind → Rind) : (s.modRind f).bad = s.bad := rfl
@[simp] theorem State.modRind_nv (f : Rind → Rind) : (s.modRind f).nv = s.nv := rfl
@[simp] theorem State.modRind_host (f : Rind → Rind) : (s.modRind f).host = s.host := rfl
@[simp] theorem State.modRind_dev_period (f : Rind → Rind) : (s.modRind f).dev.period = s.dev.period := rfl
@[simp] theorem State.modRind_dev_tick (f : Rind → Rind) : (s.modRind f).dev.tick = s.dev.tick := rfl
@[simp] theorem State.modRind_core (f : Rind → Rind) (z : Nat) : (s.modRind f).core z = s.core z := rfl
@[simp] theorem State.modRind_cluster (f : Rind → Rind) (z : Nat) : (s.modRind f).cluster z = s.cluster z := rfl
@[simp] theorem State.modRind_dev_clm (f : Rind → Rind) : (s.modRind f).dev.clm = s.dev.clm := rfl
@[simp] theorem State.modRind_dev_air (f : Rind → Rind) : (s.modRind f).dev.air = s.dev.air := rfl
@[simp] theorem State.modRind_reg (f : Rind → Rind) (y : RegName) (z : List Nat) : (s.modRind f).reg y z = s.reg y z := rfl
@[simp] theorem State.modRind_ctx (f : Rind → Rind) (z : Nat) : (s.modRind f).ctx z = s.ctx z := rfl
@[simp] theorem State.modRind_log (f : Rind → Rind) (z : Nat) : (s.modRind f).log z = s.log z := rfl
@[simp] theorem State.modRind_gran (f : Rind → Rind) (z : Nat) : (s.modRind f).gran z = s.gran z := rfl
@[simp] theorem State.modRind_dev_memS (f : Rind → Rind) : (s.modRind f).dev.memS = s.dev.memS := rfl
@[simp] theorem State.modRind_dev_caveQ (f : Rind → Rind) : (s.modRind f).dev.caveQ = s.dev.caveQ := rfl
@[simp] theorem State.modRind_flow (f : Rind → Rind) (z : Nat) : (s.modRind f).flow z = s.flow z := rfl
@[simp] theorem State.modRind_dev_link (f : Rind → Rind) : (s.modRind f).dev.link = s.dev.link := rfl
@[simp] theorem State.modRind_dev_hubQ (f : Rind → Rind) : (s.modRind f).dev.hubQ = s.dev.hubQ := rfl
@[simp] theorem State.modRind_dev_rips (f : Rind → Rind) : (s.modRind f).dev.rips = s.dev.rips := rfl
@[simp] theorem State.modRind_dev_ripTurn (f : Rind → Rind) : (s.modRind f).dev.ripTurn = s.dev.ripTurn := rfl
@[simp] theorem State.modRind_dev_clk (f : Rind → Rind) : (s.modRind f).dev.clk = s.dev.clk := rfl
@[simp] theorem State.modRind_mbox (f : Rind → Rind) (z : Nat) : (s.modRind f).mbox z = s.mbox z := rfl
@[simp] theorem State.modRind_dev_spdm (f : Rind → Rind) : (s.modRind f).dev.spdm = s.dev.spdm := rfl
@[simp] theorem State.modRind_dev_fuseDigest (f : Rind → Rind) : (s.modRind f).dev.fuseDigest = s.dev.fuseDigest := rfl
@[simp] theorem State.modRind_dev_patchDigest (f : Rind → Rind) : (s.modRind f).dev.patchDigest = s.dev.patchDigest := rfl

/-! ### `modMem` -/

@[simp] theorem State.modMem_pending (f : MemS → MemS) : (s.modMem f).pending = s.pending := rfl
@[simp] theorem State.modMem_mem (f : MemS → MemS) : (s.modMem f).mem = s.mem := rfl
@[simp] theorem State.modMem_bad (f : MemS → MemS) : (s.modMem f).bad = s.bad := rfl
@[simp] theorem State.modMem_nv (f : MemS → MemS) : (s.modMem f).nv = s.nv := rfl
@[simp] theorem State.modMem_host (f : MemS → MemS) : (s.modMem f).host = s.host := rfl
@[simp] theorem State.modMem_dev_period (f : MemS → MemS) : (s.modMem f).dev.period = s.dev.period := rfl
@[simp] theorem State.modMem_dev_tick (f : MemS → MemS) : (s.modMem f).dev.tick = s.dev.tick := rfl
@[simp] theorem State.modMem_core (f : MemS → MemS) (z : Nat) : (s.modMem f).core z = s.core z := rfl
@[simp] theorem State.modMem_cluster (f : MemS → MemS) (z : Nat) : (s.modMem f).cluster z = s.cluster z := rfl
@[simp] theorem State.modMem_dev_clm (f : MemS → MemS) : (s.modMem f).dev.clm = s.dev.clm := rfl
@[simp] theorem State.modMem_dev_air (f : MemS → MemS) : (s.modMem f).dev.air = s.dev.air := rfl
@[simp] theorem State.modMem_reg (f : MemS → MemS) (y : RegName) (z : List Nat) : (s.modMem f).reg y z = s.reg y z := rfl
@[simp] theorem State.modMem_ctx (f : MemS → MemS) (z : Nat) : (s.modMem f).ctx z = s.ctx z := rfl
@[simp] theorem State.modMem_log (f : MemS → MemS) (z : Nat) : (s.modMem f).log z = s.log z := rfl
@[simp] theorem State.modMem_dev_rind (f : MemS → MemS) : (s.modMem f).dev.rind = s.dev.rind := rfl
@[simp] theorem State.modMem_dev_caveQ (f : MemS → MemS) : (s.modMem f).dev.caveQ = s.dev.caveQ := rfl
@[simp] theorem State.modMem_flow (f : MemS → MemS) (z : Nat) : (s.modMem f).flow z = s.flow z := rfl
@[simp] theorem State.modMem_dev_link (f : MemS → MemS) : (s.modMem f).dev.link = s.dev.link := rfl
@[simp] theorem State.modMem_dev_hubQ (f : MemS → MemS) : (s.modMem f).dev.hubQ = s.dev.hubQ := rfl
@[simp] theorem State.modMem_dev_rips (f : MemS → MemS) : (s.modMem f).dev.rips = s.dev.rips := rfl
@[simp] theorem State.modMem_dev_ripTurn (f : MemS → MemS) : (s.modMem f).dev.ripTurn = s.dev.ripTurn := rfl
@[simp] theorem State.modMem_dev_clk (f : MemS → MemS) : (s.modMem f).dev.clk = s.dev.clk := rfl
@[simp] theorem State.modMem_mbox (f : MemS → MemS) (z : Nat) : (s.modMem f).mbox z = s.mbox z := rfl
@[simp] theorem State.modMem_dev_spdm (f : MemS → MemS) : (s.modMem f).dev.spdm = s.dev.spdm := rfl
@[simp] theorem State.modMem_dev_fuseDigest (f : MemS → MemS) : (s.modMem f).dev.fuseDigest = s.dev.fuseDigest := rfl
@[simp] theorem State.modMem_dev_patchDigest (f : MemS → MemS) : (s.modMem f).dev.patchDigest = s.dev.patchDigest := rfl

/-! ### `setGran` -/

@[simp] theorem State.setGran_pending (g : Nat) (x : Gran) : (s.setGran g x).pending = s.pending := rfl
@[simp] theorem State.setGran_mem (g : Nat) (x : Gran) : (s.setGran g x).mem = s.mem := rfl
@[simp] theorem State.setGran_bad (g : Nat) (x : Gran) : (s.setGran g x).bad = s.bad := rfl
@[simp] theorem State.setGran_nv (g : Nat) (x : Gran) : (s.setGran g x).nv = s.nv := rfl
@[simp] theorem State.setGran_host (g : Nat) (x : Gran) : (s.setGran g x).host = s.host := rfl
@[simp] theorem State.setGran_dev_period (g : Nat) (x : Gran) : (s.setGran g x).dev.period = s.dev.period := rfl
@[simp] theorem State.setGran_dev_tick (g : Nat) (x : Gran) : (s.setGran g x).dev.tick = s.dev.tick := rfl
@[simp] theorem State.setGran_core (g : Nat) (x : Gran) (z : Nat) : (s.setGran g x).core z = s.core z := rfl
@[simp] theorem State.setGran_cluster (g : Nat) (x : Gran) (z : Nat) : (s.setGran g x).cluster z = s.cluster z := rfl
@[simp] theorem State.setGran_dev_clm (g : Nat) (x : Gran) : (s.setGran g x).dev.clm = s.dev.clm := rfl
@[simp] theorem State.setGran_dev_air (g : Nat) (x : Gran) : (s.setGran g x).dev.air = s.dev.air := rfl
@[simp] theorem State.setGran_reg (g : Nat) (x : Gran) (y : RegName) (z : List Nat) : (s.setGran g x).reg y z = s.reg y z := rfl
@[simp] theorem State.setGran_ctx (g : Nat) (x : Gran) (z : Nat) : (s.setGran g x).ctx z = s.ctx z := rfl
@[simp] theorem State.setGran_log (g : Nat) (x : Gran) (z : Nat) : (s.setGran g x).log z = s.log z := rfl
@[simp] theorem State.setGran_dev_rind (g : Nat) (x : Gran) : (s.setGran g x).dev.rind = s.dev.rind := rfl
@[simp] theorem State.setGran_dev_caveQ (g : Nat) (x : Gran) : (s.setGran g x).dev.caveQ = s.dev.caveQ := rfl
@[simp] theorem State.setGran_flow (g : Nat) (x : Gran) (z : Nat) : (s.setGran g x).flow z = s.flow z := rfl
@[simp] theorem State.setGran_dev_link (g : Nat) (x : Gran) : (s.setGran g x).dev.link = s.dev.link := rfl
@[simp] theorem State.setGran_dev_hubQ (g : Nat) (x : Gran) : (s.setGran g x).dev.hubQ = s.dev.hubQ := rfl
@[simp] theorem State.setGran_dev_rips (g : Nat) (x : Gran) : (s.setGran g x).dev.rips = s.dev.rips := rfl
@[simp] theorem State.setGran_dev_ripTurn (g : Nat) (x : Gran) : (s.setGran g x).dev.ripTurn = s.dev.ripTurn := rfl
@[simp] theorem State.setGran_dev_clk (g : Nat) (x : Gran) : (s.setGran g x).dev.clk = s.dev.clk := rfl
@[simp] theorem State.setGran_mbox (g : Nat) (x : Gran) (z : Nat) : (s.setGran g x).mbox z = s.mbox z := rfl
@[simp] theorem State.setGran_dev_spdm (g : Nat) (x : Gran) : (s.setGran g x).dev.spdm = s.dev.spdm := rfl
@[simp] theorem State.setGran_dev_fuseDigest (g : Nat) (x : Gran) : (s.setGran g x).dev.fuseDigest = s.dev.fuseDigest := rfl
@[simp] theorem State.setGran_dev_patchDigest (g : Nat) (x : Gran) : (s.setGran g x).dev.patchDigest = s.dev.patchDigest := rfl

/-! ### `modLink` -/

@[simp] theorem State.modLink_pending (f : LinkS → LinkS) : (s.modLink f).pending = s.pending := rfl
@[simp] theorem State.modLink_mem (f : LinkS → LinkS) : (s.modLink f).mem = s.mem := rfl
@[simp] theorem State.modLink_bad (f : LinkS → LinkS) : (s.modLink f).bad = s.bad := rfl
@[simp] theorem State.modLink_nv (f : LinkS → LinkS) : (s.modLink f).nv = s.nv := rfl
@[simp] theorem State.modLink_host (f : LinkS → LinkS) : (s.modLink f).host = s.host := rfl
@[simp] theorem State.modLink_dev_period (f : LinkS → LinkS) : (s.modLink f).dev.period = s.dev.period := rfl
@[simp] theorem State.modLink_dev_tick (f : LinkS → LinkS) : (s.modLink f).dev.tick = s.dev.tick := rfl
@[simp] theorem State.modLink_core (f : LinkS → LinkS) (z : Nat) : (s.modLink f).core z = s.core z := rfl
@[simp] theorem State.modLink_cluster (f : LinkS → LinkS) (z : Nat) : (s.modLink f).cluster z = s.cluster z := rfl
@[simp] theorem State.modLink_dev_clm (f : LinkS → LinkS) : (s.modLink f).dev.clm = s.dev.clm := rfl
@[simp] theorem State.modLink_dev_air (f : LinkS → LinkS) : (s.modLink f).dev.air = s.dev.air := rfl
@[simp] theorem State.modLink_reg (f : LinkS → LinkS) (y : RegName) (z : List Nat) : (s.modLink f).reg y z = s.reg y z := rfl
@[simp] theorem State.modLink_ctx (f : LinkS → LinkS) (z : Nat) : (s.modLink f).ctx z = s.ctx z := rfl
@[simp] theorem State.modLink_log (f : LinkS → LinkS) (z : Nat) : (s.modLink f).log z = s.log z := rfl
@[simp] theorem State.modLink_dev_rind (f : LinkS → LinkS) : (s.modLink f).dev.rind = s.dev.rind := rfl
@[simp] theorem State.modLink_gran (f : LinkS → LinkS) (z : Nat) : (s.modLink f).gran z = s.gran z := rfl
@[simp] theorem State.modLink_dev_memS (f : LinkS → LinkS) : (s.modLink f).dev.memS = s.dev.memS := rfl
@[simp] theorem State.modLink_dev_caveQ (f : LinkS → LinkS) : (s.modLink f).dev.caveQ = s.dev.caveQ := rfl
@[simp] theorem State.modLink_dev_hubQ (f : LinkS → LinkS) : (s.modLink f).dev.hubQ = s.dev.hubQ := rfl
@[simp] theorem State.modLink_dev_rips (f : LinkS → LinkS) : (s.modLink f).dev.rips = s.dev.rips := rfl
@[simp] theorem State.modLink_dev_ripTurn (f : LinkS → LinkS) : (s.modLink f).dev.ripTurn = s.dev.ripTurn := rfl
@[simp] theorem State.modLink_dev_clk (f : LinkS → LinkS) : (s.modLink f).dev.clk = s.dev.clk := rfl
@[simp] theorem State.modLink_mbox (f : LinkS → LinkS) (z : Nat) : (s.modLink f).mbox z = s.mbox z := rfl
@[simp] theorem State.modLink_dev_spdm (f : LinkS → LinkS) : (s.modLink f).dev.spdm = s.dev.spdm := rfl
@[simp] theorem State.modLink_dev_fuseDigest (f : LinkS → LinkS) : (s.modLink f).dev.fuseDigest = s.dev.fuseDigest := rfl
@[simp] theorem State.modLink_dev_patchDigest (f : LinkS → LinkS) : (s.modLink f).dev.patchDigest = s.dev.patchDigest := rfl

/-! ### `modPort` -/

@[simp] theorem State.modPort_pending (p : Nat) (f : PortS → PortS) : (s.modPort p f).pending = s.pending := rfl
@[simp] theorem State.modPort_mem (p : Nat) (f : PortS → PortS) : (s.modPort p f).mem = s.mem := rfl
@[simp] theorem State.modPort_bad (p : Nat) (f : PortS → PortS) : (s.modPort p f).bad = s.bad := rfl
@[simp] theorem State.modPort_nv (p : Nat) (f : PortS → PortS) : (s.modPort p f).nv = s.nv := rfl
@[simp] theorem State.modPort_host (p : Nat) (f : PortS → PortS) : (s.modPort p f).host = s.host := rfl
@[simp] theorem State.modPort_dev_period (p : Nat) (f : PortS → PortS) : (s.modPort p f).dev.period = s.dev.period := rfl
@[simp] theorem State.modPort_dev_tick (p : Nat) (f : PortS → PortS) : (s.modPort p f).dev.tick = s.dev.tick := rfl
@[simp] theorem State.modPort_core (p : Nat) (f : PortS → PortS) (z : Nat) : (s.modPort p f).core z = s.core z := rfl
@[simp] theorem State.modPort_cluster (p : Nat) (f : PortS → PortS) (z : Nat) : (s.modPort p f).cluster z = s.cluster z := rfl
@[simp] theorem State.modPort_dev_clm (p : Nat) (f : PortS → PortS) : (s.modPort p f).dev.clm = s.dev.clm := rfl
@[simp] theorem State.modPort_dev_air (p : Nat) (f : PortS → PortS) : (s.modPort p f).dev.air = s.dev.air := rfl
@[simp] theorem State.modPort_reg (p : Nat) (f : PortS → PortS) (y : RegName) (z : List Nat) : (s.modPort p f).reg y z = s.reg y z := rfl
@[simp] theorem State.modPort_ctx (p : Nat) (f : PortS → PortS) (z : Nat) : (s.modPort p f).ctx z = s.ctx z := rfl
@[simp] theorem State.modPort_log (p : Nat) (f : PortS → PortS) (z : Nat) : (s.modPort p f).log z = s.log z := rfl
@[simp] theorem State.modPort_dev_rind (p : Nat) (f : PortS → PortS) : (s.modPort p f).dev.rind = s.dev.rind := rfl
@[simp] theorem State.modPort_gran (p : Nat) (f : PortS → PortS) (z : Nat) : (s.modPort p f).gran z = s.gran z := rfl
@[simp] theorem State.modPort_dev_memS (p : Nat) (f : PortS → PortS) : (s.modPort p f).dev.memS = s.dev.memS := rfl
@[simp] theorem State.modPort_dev_caveQ (p : Nat) (f : PortS → PortS) : (s.modPort p f).dev.caveQ = s.dev.caveQ := rfl
@[simp] theorem State.modPort_dev_hubQ (p : Nat) (f : PortS → PortS) : (s.modPort p f).dev.hubQ = s.dev.hubQ := rfl
@[simp] theorem State.modPort_dev_rips (p : Nat) (f : PortS → PortS) : (s.modPort p f).dev.rips = s.dev.rips := rfl
@[simp] theorem State.modPort_dev_ripTurn (p : Nat) (f : PortS → PortS) : (s.modPort p f).dev.ripTurn = s.dev.ripTurn := rfl
@[simp] theorem State.modPort_dev_clk (p : Nat) (f : PortS → PortS) : (s.modPort p f).dev.clk = s.dev.clk := rfl
@[simp] theorem State.modPort_mbox (p : Nat) (f : PortS → PortS) (z : Nat) : (s.modPort p f).mbox z = s.mbox z := rfl
@[simp] theorem State.modPort_dev_spdm (p : Nat) (f : PortS → PortS) : (s.modPort p f).dev.spdm = s.dev.spdm := rfl
@[simp] theorem State.modPort_dev_fuseDigest (p : Nat) (f : PortS → PortS) : (s.modPort p f).dev.fuseDigest = s.dev.fuseDigest := rfl
@[simp] theorem State.modPort_dev_patchDigest (p : Nat) (f : PortS → PortS) : (s.modPort p f).dev.patchDigest = s.dev.patchDigest := rfl

/-! ### `setFlow` -/

@[simp] theorem State.setFlow_pending (f : Nat) (w : Flow) : (s.setFlow f w).pending = s.pending := rfl
@[simp] theorem State.setFlow_mem (f : Nat) (w : Flow) : (s.setFlow f w).mem = s.mem := rfl
@[simp] theorem State.setFlow_bad (f : Nat) (w : Flow) : (s.setFlow f w).bad = s.bad := rfl
@[simp] theorem State.setFlow_nv (f : Nat) (w : Flow) : (s.setFlow f w).nv = s.nv := rfl
@[simp] theorem State.setFlow_host (f : Nat) (w : Flow) : (s.setFlow f w).host = s.host := rfl
@[simp] theorem State.setFlow_dev_period (f : Nat) (w : Flow) : (s.setFlow f w).dev.period = s.dev.period := rfl
@[simp] theorem State.setFlow_dev_tick (f : Nat) (w : Flow) : (s.setFlow f w).dev.tick = s.dev.tick := rfl
@[simp] theorem State.setFlow_core (f : Nat) (w : Flow) (z : Nat) : (s.setFlow f w).core z = s.core z := rfl
@[simp] theorem State.setFlow_cluster (f : Nat) (w : Flow) (z : Nat) : (s.setFlow f w).cluster z = s.cluster z := rfl
@[simp] theorem State.setFlow_dev_clm (f : Nat) (w : Flow) : (s.setFlow f w).dev.clm = s.dev.clm := rfl
@[simp] theorem State.setFlow_dev_air (f : Nat) (w : Flow) : (s.setFlow f w).dev.air = s.dev.air := rfl
@[simp] theorem State.setFlow_reg (f : Nat) (w : Flow) (y : RegName) (z : List Nat) : (s.setFlow f w).reg y z = s.reg y z := rfl
@[simp] theorem State.setFlow_ctx (f : Nat) (w : Flow) (z : Nat) : (s.setFlow f w).ctx z = s.ctx z := rfl
@[simp] theorem State.setFlow_log (f : Nat) (w : Flow) (z : Nat) : (s.setFlow f w).log z = s.log z := rfl
@[simp] theorem State.setFlow_dev_rind (f : Nat) (w : Flow) : (s.setFlow f w).dev.rind = s.dev.rind := rfl
@[simp] theorem State.setFlow_gran (f : Nat) (w : Flow) (z : Nat) : (s.setFlow f w).gran z = s.gran z := rfl
@[simp] theorem State.setFlow_dev_memS (f : Nat) (w : Flow) : (s.setFlow f w).dev.memS = s.dev.memS := rfl
@[simp] theorem State.setFlow_dev_caveQ (f : Nat) (w : Flow) : (s.setFlow f w).dev.caveQ = s.dev.caveQ := rfl
@[simp] theorem State.setFlow_dev_hubQ (f : Nat) (w : Flow) : (s.setFlow f w).dev.hubQ = s.dev.hubQ := rfl
@[simp] theorem State.setFlow_dev_rips (f : Nat) (w : Flow) : (s.setFlow f w).dev.rips = s.dev.rips := rfl
@[simp] theorem State.setFlow_dev_ripTurn (f : Nat) (w : Flow) : (s.setFlow f w).dev.ripTurn = s.dev.ripTurn := rfl
@[simp] theorem State.setFlow_dev_clk (f : Nat) (w : Flow) : (s.setFlow f w).dev.clk = s.dev.clk := rfl
@[simp] theorem State.setFlow_mbox (f : Nat) (w : Flow) (z : Nat) : (s.setFlow f w).mbox z = s.mbox z := rfl
@[simp] theorem State.setFlow_dev_spdm (f : Nat) (w : Flow) : (s.setFlow f w).dev.spdm = s.dev.spdm := rfl
@[simp] theorem State.setFlow_dev_fuseDigest (f : Nat) (w : Flow) : (s.setFlow f w).dev.fuseDigest = s.dev.fuseDigest := rfl
@[simp] theorem State.setFlow_dev_patchDigest (f : Nat) (w : Flow) : (s.setFlow f w).dev.patchDigest = s.dev.patchDigest := rfl

/-! ### `modFlow` -/

@[simp] theorem State.modFlow_pending (f : Nat) (g : Flow → Flow) : (s.modFlow f g).pending = s.pending := rfl
@[simp] theorem State.modFlow_mem (f : Nat) (g : Flow → Flow) : (s.modFlow f g).mem = s.mem := rfl
@[simp] theorem State.modFlow_bad (f : Nat) (g : Flow → Flow) : (s.modFlow f g).bad = s.bad := rfl
@[simp] theorem State.modFlow_nv (f : Nat) (g : Flow → Flow) : (s.modFlow f g).nv = s.nv := rfl
@[simp] theorem State.modFlow_host (f : Nat) (g : Flow → Flow) : (s.modFlow f g).host = s.host := rfl
@[simp] theorem State.modFlow_dev_period (f : Nat) (g : Flow → Flow) : (s.modFlow f g).dev.period = s.dev.period := rfl
@[simp] theorem State.modFlow_dev_tick (f : Nat) (g : Flow → Flow) : (s.modFlow f g).dev.tick = s.dev.tick := rfl
@[simp] theorem State.modFlow_core (f : Nat) (g : Flow → Flow) (z : Nat) : (s.modFlow f g).core z = s.core z := rfl
@[simp] theorem State.modFlow_cluster (f : Nat) (g : Flow → Flow) (z : Nat) : (s.modFlow f g).cluster z = s.cluster z := rfl
@[simp] theorem State.modFlow_dev_clm (f : Nat) (g : Flow → Flow) : (s.modFlow f g).dev.clm = s.dev.clm := rfl
@[simp] theorem State.modFlow_dev_air (f : Nat) (g : Flow → Flow) : (s.modFlow f g).dev.air = s.dev.air := rfl
@[simp] theorem State.modFlow_reg (f : Nat) (g : Flow → Flow) (y : RegName) (z : List Nat) : (s.modFlow f g).reg y z = s.reg y z := rfl
@[simp] theorem State.modFlow_ctx (f : Nat) (g : Flow → Flow) (z : Nat) : (s.modFlow f g).ctx z = s.ctx z := rfl
@[simp] theorem State.modFlow_log (f : Nat) (g : Flow → Flow) (z : Nat) : (s.modFlow f g).log z = s.log z := rfl
@[simp] theorem State.modFlow_dev_rind (f : Nat) (g : Flow → Flow) : (s.modFlow f g).dev.rind = s.dev.rind := rfl
@[simp] theorem State.modFlow_gran (f : Nat) (g : Flow → Flow) (z : Nat) : (s.modFlow f g).gran z = s.gran z := rfl
@[simp] theorem State.modFlow_dev_memS (f : Nat) (g : Flow → Flow) : (s.modFlow f g).dev.memS = s.dev.memS := rfl
@[simp] theorem State.modFlow_dev_caveQ (f : Nat) (g : Flow → Flow) : (s.modFlow f g).dev.caveQ = s.dev.caveQ := rfl
@[simp] theorem State.modFlow_dev_hubQ (f : Nat) (g : Flow → Flow) : (s.modFlow f g).dev.hubQ = s.dev.hubQ := rfl
@[simp] theorem State.modFlow_dev_rips (f : Nat) (g : Flow → Flow) : (s.modFlow f g).dev.rips = s.dev.rips := rfl
@[simp] theorem State.modFlow_dev_ripTurn (f : Nat) (g : Flow → Flow) : (s.modFlow f g).dev.ripTurn = s.dev.ripTurn := rfl
@[simp] theorem State.modFlow_dev_clk (f : Nat) (g : Flow → Flow) : (s.modFlow f g).dev.clk = s.dev.clk := rfl
@[simp] theorem State.modFlow_mbox (f : Nat) (g : Flow → Flow) (z : Nat) : (s.modFlow f g).mbox z = s.mbox z := rfl
@[simp] theorem State.modFlow_dev_spdm (f : Nat) (g : Flow → Flow) : (s.modFlow f g).dev.spdm = s.dev.spdm := rfl
@[simp] theorem State.modFlow_dev_fuseDigest (f : Nat) (g : Flow → Flow) : (s.modFlow f g).dev.fuseDigest = s.dev.fuseDigest := rfl
@[simp] theorem State.modFlow_dev_patchDigest (f : Nat) (g : Flow → Flow) : (s.modFlow f g).dev.patchDigest = s.dev.patchDigest := rfl

/-! ### `modClk` -/

@[simp] theorem State.modClk_pending (f : ClkS → ClkS) : (s.modClk f).pending = s.pending := rfl
@[simp] theorem State.modClk_mem (f : ClkS → ClkS) : (s.modClk f).mem = s.mem := rfl
@[simp] theorem State.modClk_bad (f : ClkS → ClkS) : (s.modClk f).bad = s.bad := rfl
@[simp] theorem State.modClk_nv (f : ClkS → ClkS) : (s.modClk f).nv = s.nv := rfl
@[simp] theorem State.modClk_host (f : ClkS → ClkS) : (s.modClk f).host = s.host := rfl
@[simp] theorem State.modClk_dev_period (f : ClkS → ClkS) : (s.modClk f).dev.period = s.dev.period := rfl
@[simp] theorem State.modClk_dev_tick (f : ClkS → ClkS) : (s.modClk f).dev.tick = s.dev.tick := rfl
@[simp] theorem State.modClk_core (f : ClkS → ClkS) (z : Nat) : (s.modClk f).core z = s.core z := rfl
@[simp] theorem State.modClk_cluster (f : ClkS → ClkS) (z : Nat) : (s.modClk f).cluster z = s.cluster z := rfl
@[simp] theorem State.modClk_dev_clm (f : ClkS → ClkS) : (s.modClk f).dev.clm = s.dev.clm := rfl
@[simp] theorem State.modClk_dev_air (f : ClkS → ClkS) : (s.modClk f).dev.air = s.dev.air := rfl
@[simp] theorem State.modClk_reg (f : ClkS → ClkS) (y : RegName) (z : List Nat) : (s.modClk f).reg y z = s.reg y z := rfl
@[simp] theorem State.modClk_ctx (f : ClkS → ClkS) (z : Nat) : (s.modClk f).ctx z = s.ctx z := rfl
@[simp] theorem State.modClk_log (f : ClkS → ClkS) (z : Nat) : (s.modClk f).log z = s.log z := rfl
@[simp] theorem State.modClk_dev_rind (f : ClkS → ClkS) : (s.modClk f).dev.rind = s.dev.rind := rfl
@[simp] theorem State.modClk_gran (f : ClkS → ClkS) (z : Nat) : (s.modClk f).gran z = s.gran z := rfl
@[simp] theorem State.modClk_dev_memS (f : ClkS → ClkS) : (s.modClk f).dev.memS = s.dev.memS := rfl
@[simp] theorem State.modClk_dev_caveQ (f : ClkS → ClkS) : (s.modClk f).dev.caveQ = s.dev.caveQ := rfl
@[simp] theorem State.modClk_flow (f : ClkS → ClkS) (z : Nat) : (s.modClk f).flow z = s.flow z := rfl
@[simp] theorem State.modClk_dev_link (f : ClkS → ClkS) : (s.modClk f).dev.link = s.dev.link := rfl
@[simp] theorem State.modClk_dev_hubQ (f : ClkS → ClkS) : (s.modClk f).dev.hubQ = s.dev.hubQ := rfl
@[simp] theorem State.modClk_dev_rips (f : ClkS → ClkS) : (s.modClk f).dev.rips = s.dev.rips := rfl
@[simp] theorem State.modClk_dev_ripTurn (f : ClkS → ClkS) : (s.modClk f).dev.ripTurn = s.dev.ripTurn := rfl
@[simp] theorem State.modClk_mbox (f : ClkS → ClkS) (z : Nat) : (s.modClk f).mbox z = s.mbox z := rfl
@[simp] theorem State.modClk_dev_spdm (f : ClkS → ClkS) : (s.modClk f).dev.spdm = s.dev.spdm := rfl
@[simp] theorem State.modClk_dev_fuseDigest (f : ClkS → ClkS) : (s.modClk f).dev.fuseDigest = s.dev.fuseDigest := rfl
@[simp] theorem State.modClk_dev_patchDigest (f : ClkS → ClkS) : (s.modClk f).dev.patchDigest = s.dev.patchDigest := rfl

/-! ### `modMbox` -/

@[simp] theorem State.modMbox_pending (m : Nat) (f : Mbox → Mbox) : (s.modMbox m f).pending = s.pending := rfl
@[simp] theorem State.modMbox_mem (m : Nat) (f : Mbox → Mbox) : (s.modMbox m f).mem = s.mem := rfl
@[simp] theorem State.modMbox_bad (m : Nat) (f : Mbox → Mbox) : (s.modMbox m f).bad = s.bad := rfl
@[simp] theorem State.modMbox_nv (m : Nat) (f : Mbox → Mbox) : (s.modMbox m f).nv = s.nv := rfl
@[simp] theorem State.modMbox_host (m : Nat) (f : Mbox → Mbox) : (s.modMbox m f).host = s.host := rfl
@[simp] theorem State.modMbox_dev_period (m : Nat) (f : Mbox → Mbox) : (s.modMbox m f).dev.period = s.dev.period := rfl
@[simp] theorem State.modMbox_dev_tick (m : Nat) (f : Mbox → Mbox) : (s.modMbox m f).dev.tick = s.dev.tick := rfl
@[simp] theorem State.modMbox_core (m : Nat) (f : Mbox → Mbox) (z : Nat) : (s.modMbox m f).core z = s.core z := rfl
@[simp] theorem State.modMbox_cluster (m : Nat) (f : Mbox → Mbox) (z : Nat) : (s.modMbox m f).cluster z = s.cluster z := rfl
@[simp] theorem State.modMbox_dev_clm (m : Nat) (f : Mbox → Mbox) : (s.modMbox m f).dev.clm = s.dev.clm := rfl
@[simp] theorem State.modMbox_dev_air (m : Nat) (f : Mbox → Mbox) : (s.modMbox m f).dev.air = s.dev.air := rfl
@[simp] theorem State.modMbox_reg (m : Nat) (f : Mbox → Mbox) (y : RegName) (z : List Nat) : (s.modMbox m f).reg y z = s.reg y z := rfl
@[simp] theorem State.modMbox_ctx (m : Nat) (f : Mbox → Mbox) (z : Nat) : (s.modMbox m f).ctx z = s.ctx z := rfl
@[simp] theorem State.modMbox_log (m : Nat) (f : Mbox → Mbox) (z : Nat) : (s.modMbox m f).log z = s.log z := rfl
@[simp] theorem State.modMbox_dev_rind (m : Nat) (f : Mbox → Mbox) : (s.modMbox m f).dev.rind = s.dev.rind := rfl
@[simp] theorem State.modMbox_gran (m : Nat) (f : Mbox → Mbox) (z : Nat) : (s.modMbox m f).gran z = s.gran z := rfl
@[simp] theorem State.modMbox_dev_memS (m : Nat) (f : Mbox → Mbox) : (s.modMbox m f).dev.memS = s.dev.memS := rfl
@[simp] theorem State.modMbox_dev_caveQ (m : Nat) (f : Mbox → Mbox) : (s.modMbox m f).dev.caveQ = s.dev.caveQ := rfl
@[simp] theorem State.modMbox_flow (m : Nat) (f : Mbox → Mbox) (z : Nat) : (s.modMbox m f).flow z = s.flow z := rfl
@[simp] theorem State.modMbox_dev_link (m : Nat) (f : Mbox → Mbox) : (s.modMbox m f).dev.link = s.dev.link := rfl
@[simp] theorem State.modMbox_dev_hubQ (m : Nat) (f : Mbox → Mbox) : (s.modMbox m f).dev.hubQ = s.dev.hubQ := rfl
@[simp] theorem State.modMbox_dev_rips (m : Nat) (f : Mbox → Mbox) : (s.modMbox m f).dev.rips = s.dev.rips := rfl
@[simp] theorem State.modMbox_dev_ripTurn (m : Nat) (f : Mbox → Mbox) : (s.modMbox m f).dev.ripTurn = s.dev.ripTurn := rfl
@[simp] theorem State.modMbox_dev_clk (m : Nat) (f : Mbox → Mbox) : (s.modMbox m f).dev.clk = s.dev.clk := rfl
@[simp] theorem State.modMbox_dev_spdm (m : Nat) (f : Mbox → Mbox) : (s.modMbox m f).dev.spdm = s.dev.spdm := rfl
@[simp] theorem State.modMbox_dev_fuseDigest (m : Nat) (f : Mbox → Mbox) : (s.modMbox m f).dev.fuseDigest = s.dev.fuseDigest := rfl
@[simp] theorem State.modMbox_dev_patchDigest (m : Nat) (f : Mbox → Mbox) : (s.modMbox m f).dev.patchDigest = s.dev.patchDigest := rfl

/-! ### `modSpdm` -/

@[simp] theorem State.modSpdm_pending (f : SpdmS → SpdmS) : (s.modSpdm f).pending = s.pending := rfl
@[simp] theorem State.modSpdm_mem (f : SpdmS → SpdmS) : (s.modSpdm f).mem = s.mem := rfl
@[simp] theorem State.modSpdm_bad (f : SpdmS → SpdmS) : (s.modSpdm f).bad = s.bad := rfl
@[simp] theorem State.modSpdm_nv (f : SpdmS → SpdmS) : (s.modSpdm f).nv = s.nv := rfl
@[simp] theorem State.modSpdm_host (f : SpdmS → SpdmS) : (s.modSpdm f).host = s.host := rfl
@[simp] theorem State.modSpdm_dev_period (f : SpdmS → SpdmS) : (s.modSpdm f).dev.period = s.dev.period := rfl
@[simp] theorem State.modSpdm_dev_tick (f : SpdmS → SpdmS) : (s.modSpdm f).dev.tick = s.dev.tick := rfl
@[simp] theorem State.modSpdm_core (f : SpdmS → SpdmS) (z : Nat) : (s.modSpdm f).core z = s.core z := rfl
@[simp] theorem State.modSpdm_cluster (f : SpdmS → SpdmS) (z : Nat) : (s.modSpdm f).cluster z = s.cluster z := rfl
@[simp] theorem State.modSpdm_dev_clm (f : SpdmS → SpdmS) : (s.modSpdm f).dev.clm = s.dev.clm := rfl
@[simp] theorem State.modSpdm_dev_air (f : SpdmS → SpdmS) : (s.modSpdm f).dev.air = s.dev.air := rfl
@[simp] theorem State.modSpdm_reg (f : SpdmS → SpdmS) (y : RegName) (z : List Nat) : (s.modSpdm f).reg y z = s.reg y z := rfl
@[simp] theorem State.modSpdm_ctx (f : SpdmS → SpdmS) (z : Nat) : (s.modSpdm f).ctx z = s.ctx z := rfl
@[simp] theorem State.modSpdm_log (f : SpdmS → SpdmS) (z : Nat) : (s.modSpdm f).log z = s.log z := rfl
@[simp] theorem State.modSpdm_dev_rind (f : SpdmS → SpdmS) : (s.modSpdm f).dev.rind = s.dev.rind := rfl
@[simp] theorem State.modSpdm_gran (f : SpdmS → SpdmS) (z : Nat) : (s.modSpdm f).gran z = s.gran z := rfl
@[simp] theorem State.modSpdm_dev_memS (f : SpdmS → SpdmS) : (s.modSpdm f).dev.memS = s.dev.memS := rfl
@[simp] theorem State.modSpdm_dev_caveQ (f : SpdmS → SpdmS) : (s.modSpdm f).dev.caveQ = s.dev.caveQ := rfl
@[simp] theorem State.modSpdm_flow (f : SpdmS → SpdmS) (z : Nat) : (s.modSpdm f).flow z = s.flow z := rfl
@[simp] theorem State.modSpdm_dev_link (f : SpdmS → SpdmS) : (s.modSpdm f).dev.link = s.dev.link := rfl
@[simp] theorem State.modSpdm_dev_hubQ (f : SpdmS → SpdmS) : (s.modSpdm f).dev.hubQ = s.dev.hubQ := rfl
@[simp] theorem State.modSpdm_dev_rips (f : SpdmS → SpdmS) : (s.modSpdm f).dev.rips = s.dev.rips := rfl
@[simp] theorem State.modSpdm_dev_ripTurn (f : SpdmS → SpdmS) : (s.modSpdm f).dev.ripTurn = s.dev.ripTurn := rfl
@[simp] theorem State.modSpdm_dev_clk (f : SpdmS → SpdmS) : (s.modSpdm f).dev.clk = s.dev.clk := rfl
@[simp] theorem State.modSpdm_mbox (f : SpdmS → SpdmS) (z : Nat) : (s.modSpdm f).mbox z = s.mbox z := rfl
@[simp] theorem State.modSpdm_dev_fuseDigest (f : SpdmS → SpdmS) : (s.modSpdm f).dev.fuseDigest = s.dev.fuseDigest := rfl
@[simp] theorem State.modSpdm_dev_patchDigest (f : SpdmS → SpdmS) : (s.modSpdm f).dev.patchDigest = s.dev.patchDigest := rfl

/-! ### `put` -/

@[simp] theorem State.put_pending (a : Nat) (d : List Byte) (p : Bool) : (s.put a d p).pending = s.pending := rfl
@[simp] theorem State.put_dev (a : Nat) (d : List Byte) (p : Bool) : (s.put a d p).dev = s.dev := rfl
@[simp] theorem State.put_nv (a : Nat) (d : List Byte) (p : Bool) : (s.put a d p).nv = s.nv := rfl
@[simp] theorem State.put_host (a : Nat) (d : List Byte) (p : Bool) : (s.put a d p).host = s.host := rfl
@[simp] theorem State.put_core (a : Nat) (d : List Byte) (p : Bool) (z : Nat) : (s.put a d p).core z = s.core z := rfl
@[simp] theorem State.put_cluster (a : Nat) (d : List Byte) (p : Bool) (z : Nat) : (s.put a d p).cluster z = s.cluster z := rfl
@[simp] theorem State.put_ctx (a : Nat) (d : List Byte) (p : Bool) (z : Nat) : (s.put a d p).ctx z = s.ctx z := rfl
@[simp] theorem State.put_log (a : Nat) (d : List Byte) (p : Bool) (z : Nat) : (s.put a d p).log z = s.log z := rfl
@[simp] theorem State.put_reg (a : Nat) (d : List Byte) (p : Bool) (y : RegName) (z : List Nat) : (s.put a d p).reg y z = s.reg y z := rfl
@[simp] theorem State.put_flow (a : Nat) (d : List Byte) (p : Bool) (z : Nat) : (s.put a d p).flow z = s.flow z := rfl
@[simp] theorem State.put_mbox (a : Nat) (d : List Byte) (p : Bool) (z : Nat) : (s.put a d p).mbox z = s.mbox z := rfl
@[simp] theorem State.put_gran (a : Nat) (d : List Byte) (p : Bool) (z : Nat) : (s.put a d p).gran z = s.gran z := rfl

/-! ### `putWith` -/

@[simp] theorem State.putWith_pending (a : Nat) (d : List Byte) (l : List Nat) : (s.putWith a d l).pending = s.pending := rfl
@[simp] theorem State.putWith_dev (a : Nat) (d : List Byte) (l : List Nat) : (s.putWith a d l).dev = s.dev := rfl
@[simp] theorem State.putWith_nv (a : Nat) (d : List Byte) (l : List Nat) : (s.putWith a d l).nv = s.nv := rfl
@[simp] theorem State.putWith_host (a : Nat) (d : List Byte) (l : List Nat) : (s.putWith a d l).host = s.host := rfl
@[simp] theorem State.putWith_core (a : Nat) (d : List Byte) (l : List Nat) (z : Nat) : (s.putWith a d l).core z = s.core z := rfl
@[simp] theorem State.putWith_cluster (a : Nat) (d : List Byte) (l : List Nat) (z : Nat) : (s.putWith a d l).cluster z = s.cluster z := rfl
@[simp] theorem State.putWith_ctx (a : Nat) (d : List Byte) (l : List Nat) (z : Nat) : (s.putWith a d l).ctx z = s.ctx z := rfl
@[simp] theorem State.putWith_log (a : Nat) (d : List Byte) (l : List Nat) (z : Nat) : (s.putWith a d l).log z = s.log z := rfl
@[simp] theorem State.putWith_reg (a : Nat) (d : List Byte) (l : List Nat) (y : RegName) (z : List Nat) : (s.putWith a d l).reg y z = s.reg y z := rfl
@[simp] theorem State.putWith_flow (a : Nat) (d : List Byte) (l : List Nat) (z : Nat) : (s.putWith a d l).flow z = s.flow z := rfl
@[simp] theorem State.putWith_mbox (a : Nat) (d : List Byte) (l : List Nat) (z : Nat) : (s.putWith a d l).mbox z = s.mbox z := rfl
@[simp] theorem State.putWith_gran (a : Nat) (d : List Byte) (l : List Nat) (z : Nat) : (s.putWith a d l).gran z = s.gran z := rfl

/-! ### `clear` -/

@[simp] theorem State.clear_pending (a n : Nat) : (s.clear a n).pending = s.pending := rfl
@[simp] theorem State.clear_dev (a n : Nat) : (s.clear a n).dev = s.dev := rfl
@[simp] theorem State.clear_nv (a n : Nat) : (s.clear a n).nv = s.nv := rfl
@[simp] theorem State.clear_host (a n : Nat) : (s.clear a n).host = s.host := rfl
@[simp] theorem State.clear_core (a n : Nat) (z : Nat) : (s.clear a n).core z = s.core z := rfl
@[simp] theorem State.clear_cluster (a n : Nat) (z : Nat) : (s.clear a n).cluster z = s.cluster z := rfl
@[simp] theorem State.clear_ctx (a n : Nat) (z : Nat) : (s.clear a n).ctx z = s.ctx z := rfl
@[simp] theorem State.clear_log (a n : Nat) (z : Nat) : (s.clear a n).log z = s.log z := rfl
@[simp] theorem State.clear_reg (a n : Nat) (y : RegName) (z : List Nat) : (s.clear a n).reg y z = s.reg y z := rfl
@[simp] theorem State.clear_flow (a n : Nat) (z : Nat) : (s.clear a n).flow z = s.flow z := rfl
@[simp] theorem State.clear_mbox (a n : Nat) (z : Nat) : (s.clear a n).mbox z = s.mbox z := rfl
@[simp] theorem State.clear_gran (a n : Nat) (z : Nat) : (s.clear a n).gran z = s.gran z := rfl

/-! ### `vector` -/

@[simp] theorem State.vector_pending (v : Nat) : (s.vector v).pending = s.pending := rfl
@[simp] theorem State.vector_dev (v : Nat) : (s.vector v).dev = s.dev := rfl
@[simp] theorem State.vector_mem (v : Nat) : (s.vector v).mem = s.mem := rfl
@[simp] theorem State.vector_bad (v : Nat) : (s.vector v).bad = s.bad := rfl
@[simp] theorem State.vector_nv (v : Nat) : (s.vector v).nv = s.nv := rfl
@[simp] theorem State.vector_core (v : Nat) (z : Nat) : (s.vector v).core z = s.core z := rfl
@[simp] theorem State.vector_cluster (v : Nat) (z : Nat) : (s.vector v).cluster z = s.cluster z := rfl
@[simp] theorem State.vector_ctx (v : Nat) (z : Nat) : (s.vector v).ctx z = s.ctx z := rfl
@[simp] theorem State.vector_log (v : Nat) (z : Nat) : (s.vector v).log z = s.log z := rfl
@[simp] theorem State.vector_reg (v : Nat) (y : RegName) (z : List Nat) : (s.vector v).reg y z = s.reg y z := rfl
@[simp] theorem State.vector_flow (v : Nat) (z : Nat) : (s.vector v).flow z = s.flow z := rfl
@[simp] theorem State.vector_mbox (v : Nat) (z : Nat) : (s.vector v).mbox z = s.mbox z := rfl
@[simp] theorem State.vector_gran (v : Nat) (z : Nat) : (s.vector v).gran z = s.gran z := rfl

/-! ### `modPower` -/

@[simp] theorem State.modPower_pending (f : PowerS → PowerS) : (s.modPower f).pending = s.pending := rfl
@[simp] theorem State.modPower_dev (f : PowerS → PowerS) : (s.modPower f).dev = s.dev := rfl
@[simp] theorem State.modPower_mem (f : PowerS → PowerS) : (s.modPower f).mem = s.mem := rfl
@[simp] theorem State.modPower_bad (f : PowerS → PowerS) : (s.modPower f).bad = s.bad := rfl
@[simp] theorem State.modPower_host (f : PowerS → PowerS) : (s.modPower f).host = s.host := rfl
@[simp] theorem State.modPower_core (f : PowerS → PowerS) (z : Nat) : (s.modPower f).core z = s.core z := rfl
@[simp] theorem State.modPower_cluster (f : PowerS → PowerS) (z : Nat) : (s.modPower f).cluster z = s.cluster z := rfl
@[simp] theorem State.modPower_ctx (f : PowerS → PowerS) (z : Nat) : (s.modPower f).ctx z = s.ctx z := rfl
@[simp] theorem State.modPower_log (f : PowerS → PowerS) (z : Nat) : (s.modPower f).log z = s.log z := rfl
@[simp] theorem State.modPower_reg (f : PowerS → PowerS) (y : RegName) (z : List Nat) : (s.modPower f).reg y z = s.reg y z := rfl
@[simp] theorem State.modPower_flow (f : PowerS → PowerS) (z : Nat) : (s.modPower f).flow z = s.flow z := rfl
@[simp] theorem State.modPower_mbox (f : PowerS → PowerS) (z : Nat) : (s.modPower f).mbox z = s.mbox z := rfl
@[simp] theorem State.modPower_gran (f : PowerS → PowerS) (z : Nat) : (s.modPower f).gran z = s.gran z := rfl

/-! ### `modFlash` -/

@[simp] theorem State.modFlash_pending (f : Flash → Flash) : (s.modFlash f).pending = s.pending := rfl
@[simp] theorem State.modFlash_dev (f : Flash → Flash) : (s.modFlash f).dev = s.dev := rfl
@[simp] theorem State.modFlash_mem (f : Flash → Flash) : (s.modFlash f).mem = s.mem := rfl
@[simp] theorem State.modFlash_bad (f : Flash → Flash) : (s.modFlash f).bad = s.bad := rfl
@[simp] theorem State.modFlash_host (f : Flash → Flash) : (s.modFlash f).host = s.host := rfl
@[simp] theorem State.modFlash_core (f : Flash → Flash) (z : Nat) : (s.modFlash f).core z = s.core z := rfl
@[simp] theorem State.modFlash_cluster (f : Flash → Flash) (z : Nat) : (s.modFlash f).cluster z = s.cluster z := rfl
@[simp] theorem State.modFlash_ctx (f : Flash → Flash) (z : Nat) : (s.modFlash f).ctx z = s.ctx z := rfl
@[simp] theorem State.modFlash_log (f : Flash → Flash) (z : Nat) : (s.modFlash f).log z = s.log z := rfl
@[simp] theorem State.modFlash_reg (f : Flash → Flash) (y : RegName) (z : List Nat) : (s.modFlash f).reg y z = s.reg y z := rfl
@[simp] theorem State.modFlash_flow (f : Flash → Flash) (z : Nat) : (s.modFlash f).flow z = s.flow z := rfl
@[simp] theorem State.modFlash_mbox (f : Flash → Flash) (z : Nat) : (s.modFlash f).mbox z = s.mbox z := rfl
@[simp] theorem State.modFlash_gran (f : Flash → Flash) (z : Nat) : (s.modFlash f).gran z = s.gran z := rfl

/-! ### `withPending` -/

@[simp] theorem State.withPending_dev (q : List Instr) : (s.withPending q).dev = s.dev := rfl
@[simp] theorem State.withPending_mem (q : List Instr) : (s.withPending q).mem = s.mem := rfl
@[simp] theorem State.withPending_bad (q : List Instr) : (s.withPending q).bad = s.bad := rfl
@[simp] theorem State.withPending_nv (q : List Instr) : (s.withPending q).nv = s.nv := rfl
@[simp] theorem State.withPending_host (q : List Instr) : (s.withPending q).host = s.host := rfl
@[simp] theorem State.withPending_core (q : List Instr) (z : Nat) : (s.withPending q).core z = s.core z := rfl
@[simp] theorem State.withPending_cluster (q : List Instr) (z : Nat) : (s.withPending q).cluster z = s.cluster z := rfl
@[simp] theorem State.withPending_ctx (q : List Instr) (z : Nat) : (s.withPending q).ctx z = s.ctx z := rfl
@[simp] theorem State.withPending_log (q : List Instr) (z : Nat) : (s.withPending q).log z = s.log z := rfl
@[simp] theorem State.withPending_reg (q : List Instr) (y : RegName) (z : List Nat) : (s.withPending q).reg y z = s.reg y z := rfl
@[simp] theorem State.withPending_flow (q : List Instr) (z : Nat) : (s.withPending q).flow z = s.flow z := rfl
@[simp] theorem State.withPending_mbox (q : List Instr) (z : Nat) : (s.withPending q).mbox z = s.mbox z := rfl
@[simp] theorem State.withPending_gran (q : List Instr) (z : Nat) : (s.withPending q).gran z = s.gran z := rfl

/-! ### Reading back -/

@[simp] theorem State.core_setCore_self (c : Nat) (k : Core) : (s.setCore c k).core c = k := AMap.get_set_self _ _ _ _
theorem State.core_setCore_ne {c d : Nat} (k : Core) (h : d ≠ c) : (s.setCore c k).core d = s.core d := AMap.get_set_ne _ _ _ h
@[simp] theorem State.core_modCore_self (c : Nat) (f : Core → Core) : (s.modCore c f).core c = f (s.core c) :=
  AMap.get_set_self _ _ _ _
theorem State.core_modCore_ne {c d : Nat} (f : Core → Core) (h : d ≠ c) : (s.modCore c f).core d = s.core d :=
  AMap.get_set_ne _ _ _ h
@[simp] theorem State.cluster_setCluster_self (k : Nat) (x : Cluster) : (s.setCluster k x).cluster k = x := AMap.get_set_self _ _ _ _
theorem State.cluster_setCluster_ne {k j : Nat} (x : Cluster) (h : j ≠ k) : (s.setCluster k x).cluster j = s.cluster j :=
  AMap.get_set_ne _ _ _ h
@[simp] theorem State.ctx_setCtx_self (c : Nat) (x : Ctx) : (s.setCtx c x).ctx c = x := AMap.get_set_self _ _ _ _
theorem State.ctx_setCtx_ne {c d : Nat} (x : Ctx) (h : d ≠ c) : (s.setCtx c x).ctx d = s.ctx d := AMap.get_set_ne _ _ _ h
@[simp] theorem State.log_setLog_self (l : Nat) (g : Log) : (s.setLog l g).log l = g := AMap.get_set_self _ _ _ _
theorem State.log_setLog_ne {l j : Nat} (g : Log) (h : j ≠ l) : (s.setLog l g).log j = s.log j := AMap.get_set_ne _ _ _ h
@[simp] theorem State.flow_setFlow_self (f : Nat) (w : Flow) : (s.setFlow f w).flow f = w := AMap.get_set_self _ _ _ _
theorem State.flow_setFlow_ne {f g : Nat} (w : Flow) (h : g ≠ f) : (s.setFlow f w).flow g = s.flow g := AMap.get_set_ne _ _ _ h
@[simp] theorem State.port_modPort_self (p : Nat) (f : PortS → PortS) : (s.modPort p f).port p = f (s.port p) :=
  AMap.get_set_self _ _ _ _
theorem State.port_modPort_ne {p q : Nat} (f : PortS → PortS) (h : q ≠ p) : (s.modPort p f).port q = s.port q :=
  AMap.get_set_ne _ _ _ h
@[simp] theorem State.mbox_modMbox_self (m : Nat) (f : Mbox → Mbox) : (s.modMbox m f).mbox m = f (s.mbox m) :=
  AMap.get_set_self _ _ _ _
theorem State.mbox_modMbox_ne {m n : Nat} (f : Mbox → Mbox) (h : n ≠ m) : (s.modMbox m f).mbox n = s.mbox n :=
  AMap.get_set_ne _ _ _ h
@[simp] theorem State.reg_setReg_self (n : RegName) (i : List Nat) (v : BitVec 64) : (s.setReg n i v).reg n i = v := by
  simp [State.reg, State.setReg, AMap.find?_set_self]
theorem State.reg_setReg_ne {n m : RegName} {i j : List Nat} (v : BitVec 64) (h : (m, j) ≠ (n, i)) :
    (s.setReg n i v).reg m j = s.reg m j := by
  simp [State.reg, State.setReg, AMap.find?_set_ne _ _ h]

/-- Two updates of one core are one. -/
@[simp] theorem State.setCore_setCore (c : Nat) (k l : Core) : (s.setCore c k).setCore c l = s.setCore c l := by
  simp [State.setCore, AMap.set_set]

end Sys2Proof.Machine
end

