-- ==== Sys2Proof/Laws/Ops.lean ====
section
/-!
SUPPORT. What the shared operations can do, once for each: raising an event or counting touches the logs, the registers, the
contexts, the rind unit and the host's vectors and nothing else; what starts a command; what lands; what a written range
reads as.
-/
namespace Sys2Proof.Machine

/-! ### Events and counters -/

/-- `t` differs from `s` in what events touch, at most: logs, register words, contexts, the rind unit and the vectors. -/
def State.eventsOnly (s t : State) : Prop :=
  t = { s with dev := { s.dev with logs := t.dev.logs, regs := t.dev.regs, ctxs := t.dev.ctxs, rind := t.dev.rind }, host := t.host } ∧
    t.host.mem = s.host.mem

theorem State.eventsOnly_refl (s : State) : s.eventsOnly s := ⟨rfl, rfl⟩

theorem State.eventsOnly_trans {s t u : State} (h : s.eventsOnly t) (k : t.eventsOnly u) : s.eventsOnly u := by
  obtain ⟨h1, h2⟩ := h
  obtain ⟨k1, k2⟩ := k
  refine ⟨?_, k2.trans h2⟩
  rw [k1, h1]

theorem State.eventsOnly_setReg (s : State) (n : RegName) (i : List Nat) (v : BitVec 64) : s.eventsOnly (s.setReg n i v) := ⟨rfl, rfl⟩
theorem State.eventsOnly_setLog (s : State) (l : Nat) (g : Log) : s.eventsOnly (s.setLog l g) := ⟨rfl, rfl⟩
theorem State.eventsOnly_modCtx (s : State) (c : Nat) (f : Ctx → Ctx) : s.eventsOnly (s.modCtx c f) := ⟨rfl, rfl⟩
theorem State.eventsOnly_trigger (s : State) (w : WaveSrc) : s.eventsOnly (s.trigger w) := ⟨rfl, rfl⟩
theorem State.eventsOnly_armTrigger (s : State) (c : Nat) (a : Arming) : s.eventsOnly (s.armTrigger c a) := ⟨rfl, rfl⟩

theorem HostSide.raise_mem (h : HostSide) (v : Nat) : (h.raise v).mem = h.mem := by
  unfold HostSide.raise
  split
  · split <;> rfl
  · rfl

theorem State.eventsOnly_vector (s : State) (v : Nat) : s.eventsOnly (s.vector v) := ⟨rfl, HostSide.raise_mem _ _⟩

theorem State.eventsOnly_classTriggers (l g : Nat) (cs : List Nat) : ∀ s : State, s.eventsOnly (s.classTriggers l g cs) := by
  induction cs with
  | nil => intro s; exact s.eventsOnly_refl
  | cons c cs ih =>
    intro s
    rw [State.classTriggers]
    split
    · split
      · exact State.eventsOnly_trans (s.eventsOnly_armTrigger c _) (ih _)
      · exact ih s
    · exact ih s

/-- Writing the record of a code. -/
theorem State.eventsOnly_record (s : State) (code : Nat) (o : Origin) : s.eventsOnly (s.record code o) := by
  unfold State.record
  dsimp only
  refine State.eventsOnly_trans (s.eventsOnly_setLog (logOf code o)
    ((s.log (logOf code o)).write (eventRecord code o s.hubTick (s.log (logOf code o)).num))) ?_
  generalize s.setLog _ _ = t
  split
  · refine State.eventsOnly_trans (t.eventsOnly_vector (if logOf code o = 8 then 72 else if logOf code o = 9 then 73 else 64 + logOf code o)) ?_
    generalize t.vector _ = u
    refine State.eventsOnly_trans ?_ (State.eventsOnly_classTriggers _ _ _ _)
    split
    · exact u.eventsOnly_setReg _ _ _
    · split
      · exact u.eventsOnly_setReg _ _ _
      · exact u.eventsOnly_refl
  · exact t.eventsOnly_refl

/-- Counting. -/
theorem State.eventsOnly_bump (s : State) (n : RegName) (i : List Nat) (k : Nat) (c : Option Nat) (kind index : Nat) :
    s.eventsOnly (s.bump n i k c kind index) := by
  unfold State.bump
  split
  · exact s.eventsOnly_refl
  · dsimp only
    refine State.eventsOnly_trans (s.eventsOnly_setReg n i (ctrAdd (s.reg n i) k)) ?_
    split
    · exact State.eventsOnly_record _ _ _
    · exact State.eventsOnly_refl _

/-- Raising a code. -/
theorem State.eventsOnly_raise (s : State) (code : Nat) (o : Origin) : s.eventsOnly (s.raise code o) := by
  unfold State.raise
  dsimp only
  refine State.eventsOnly_trans (s.eventsOnly_record code o) ?_
  generalize s.record code o = t
  split
  · exact t.eventsOnly_refl
  · rename_i c _
    have ht : t.eventsOnly (t.taint c o.step) :=
      State.eventsOnly_trans (t.eventsOnly_modCtx c _) (State.eventsOnly_bump _ _ _ _ _ _ _)
    split <;> split
    · exact State.eventsOnly_trans ht (State.eventsOnly_modCtx _ _ _)
    · exact State.eventsOnly_modCtx _ _ _
    · exact ht
    · exact State.eventsOnly_refl _

section
variable {s t : State} (h : s.eventsOnly t)
include h
theorem State.eventsOnly.pending : t.pending = s.pending := by rw [h.1]
theorem State.eventsOnly.mem : t.mem = s.mem := by rw [h.1]
theorem State.eventsOnly.bad : t.bad = s.bad := by rw [h.1]
theorem State.eventsOnly.nv : t.nv = s.nv := by rw [h.1]
theorem State.eventsOnly.core (c : Nat) : t.core c = s.core c := by rw [h.1]; rfl
theorem State.eventsOnly.cluster (k : Nat) : t.cluster k = s.cluster k := by rw [h.1]; rfl
theorem State.eventsOnly.port (p : Nat) : t.port p = s.port p := by rw [h.1]; rfl
theorem State.eventsOnly.flow (f : Nat) : t.flow f = s.flow f := by rw [h.1]; rfl
theorem State.eventsOnly.link : t.dev.link = s.dev.link := by rw [h.1]
theorem State.eventsOnly.memS : t.dev.memS = s.dev.memS := by rw [h.1]
theorem State.eventsOnly.air : t.dev.air = s.dev.air := by rw [h.1]
theorem State.eventsOnly.clk : t.dev.clk = s.dev.clk := by rw [h.1]
theorem State.eventsOnly.rips : t.dev.rips = s.dev.rips := by rw [h.1]
theorem State.eventsOnly.mbox (m : Nat) : t.mbox m = s.mbox m := by rw [h.1]; rfl
theorem State.eventsOnly.period : t.dev.period = s.dev.period := by rw [h.1]
theorem State.eventsOnly.tick : t.dev.tick = s.dev.tick := by rw [h.1]
end

/-! ### Register words through events -/

theorem State.reg_classTriggers (l g : Nat) (cs : List Nat) (n : RegName) (i : List Nat) :
    ∀ s : State, (s.classTriggers l g cs).reg n i = s.reg n i := by
  induction cs with
  | nil => intro s; rfl
  | cons c cs ih =>
    intro s
    rw [State.classTriggers, ih]
    split
    · split <;> rfl
    · rfl

/-- A record changes no register word but HUB_ALERT. -/
theorem State.reg_record (s : State) (code : Nat) (o : Origin) {n : RegName} (i : List Nat) (h : n ≠ .hubAlert) :
    (s.record code o).reg n i = s.reg n i := by
  have hne (v : BitVec 64) (t : State) : (t.setReg .hubAlert [] v).reg n i = t.reg n i :=
    State.reg_setReg_ne t v fun e => h (congrArg Prod.fst e)
  unfold State.record
  dsimp only
  split
  · rw [State.reg_classTriggers]
    split
    · rw [State.setField, hne]; rfl
    · split
      · rw [State.setField, hne]; rfl
      · rfl
  · rfl

/-- A counter that counts changes no other register word but HUB_ALERT. -/
theorem State.reg_bump (s : State) (m : RegName) (j : List Nat) (k : Nat) (c : Option Nat) (kind index : Nat) {n : RegName}
    (i : List Nat) (h : n ≠ .hubAlert) (hm : (n, i) ≠ (m, j)) : (s.bump m j k c kind index).reg n i = s.reg n i := by
  unfold State.bump
  split
  · rfl
  · dsimp only
    split
    · rw [State.reg_record _ _ _ _ h, State.reg_setReg_ne _ _ hm]
    · rw [State.reg_setReg_ne _ _ hm]

/-- Raising a code changes no register word but HUB_ALERT and TAINT_CNT. -/
theorem State.reg_raise (s : State) (code : Nat) (o : Origin) {n : RegName} (i : List Nat) (h : n ≠ .hubAlert) (ht : n ≠ .taintCnt) :
    (s.raise code o).reg n i = s.reg n i := by
  unfold State.raise
  dsimp only
  split
  · exact State.reg_record _ _ _ _ h
  · have hne (c : Nat) : (n, i) ≠ (RegName.taintCnt, [c]) := fun e => ht (congrArg Prod.fst e)
    split <;> split <;> simp only [State.taint, State.modCtx_reg, State.reg_bump _ _ _ _ _ _ _ _ h (hne _), State.reg_record _ _ _ _ h]

/-! ### Starting a command -/

/-- The command of a queue that is ready: the core runs, the command is at the head, and its beat has come. -/
theorem State.ready_some {s : State} {c q : Nat} {e : QEntry} (h : s.ready c q = some e) :
    (s.core c).st = .running ∧ (∃ r, (s.core c).seqr.queue q = e :: r) ∧ e.start = (s.core c).sbc := by
  unfold State.ready at h
  dsimp only at h
  split at h
  · rename_i e' r hst hq
    split at h
    · rename_i hb
      cases h
      exact ⟨hst, ⟨r, hq⟩, hb⟩
    · cases h
  · cases h

/-- Taking the head of a queue changes that core's queue and nothing else. -/
theorem State.popHead_eq (s : State) (c q : Nat) :
    s.popHead c q = s.setCore c { s.core c with seqr := (s.core c).seqr.setQueue q ((s.core c).seqr.queue q).tail } := rfl

theorem SeqS.queue_setQueue_self (q : SeqS) (e : Nat) (l : List QEntry) : (q.setQueue e l).queue e = l := AMap.get_set_self _ _ _ _
theorem SeqS.queue_setQueue_ne (q : SeqS) {e f : Nat} (l : List QEntry) (h : f ≠ e) : (q.setQueue e l).queue f = q.queue f :=
  AMap.get_set_ne _ _ _ h

/-! ### Reading what was written -/

/-- What was put reads back, and every other byte is as before. -/
theorem State.bytes_put {s : State} (h : s.mem.wf = true) (a : Nat) (d : List Byte) (p : Bool) : (s.put a d p).bytes a d.length = d :=
  Mem.readN_writeN d a h

theorem State.read_put {s : State} (h : s.mem.wf = true) (a : Nat) (d : List Byte) (p : Bool) {x : Nat} (hx : x < a ∨ a + d.length ≤ x) :
    Mem.read (s.put a d p).mem x = Mem.read s.mem x := by
  rw [State.put, Mem.read_writeN d a x h, if_neg (by omega)]

theorem State.wf_put {s : State} (h : s.mem.wf = true) (a : Nat) (d : List Byte) (p : Bool) : (s.put a d p).mem.wf = true :=
  Mem.wf_writeN d a h

theorem State.wf_putWith {s : State} (h : s.mem.wf = true) (a : Nat) (d : List Byte) (l : List Nat) : (s.putWith a d l).mem.wf = true :=
  Mem.wf_writeN d a h

/-! ### Answers of a mailbox -/

/-- An answer ends the command and gives the mailbox back. -/
theorem State.answer_mbox (s : State) (m : Nat) (a : Accepted) (status : Nat) (payload : List Byte) :
    ((s.answer m a status payload).mbox m).cmd = none ∧ ((s.answer m a status payload).mbox m).own = false := by
  unfold State.answer State.respond
  split <;> simp [State.vector, State.mbox, State.modMbox]

/-- An answer changes its mailbox and the host's vectors, and nothing else. -/
theorem State.respond_only (s : State) (m fn seq status : Nat) (payload : List Byte) (counter : Nat) (check : List Byte) :
    ∃ f, s.respond m fn seq status payload counter check = (s.modMbox m f).vector (m + 2048 * fn) := ⟨_, rfl⟩

theorem State.answer_only (s : State) (m : Nat) (a : Accepted) (status : Nat) (payload : List Byte) :
    ∃ f, s.answer m a status payload = (s.modMbox m f).vector (m + 2048 * a.fn) := by
  unfold State.answer
  split
  · exact s.respond_only m a.fn a.seq status payload a.counter _
  · exact s.respond_only m a.fn a.seq status payload 0 []

end Sys2Proof.Machine
end

