-- ==== Sys2Proof/WellFormed.lean ====
section
/-!
DEFINITION. Well-formed commands: the operands that no finite type holds are within the ranges that the fields of the
manual give them. A meaning is given to every command; a command that is not well formed is one that no sender can send.
-/
namespace Sys2Proof

/-- A tier-space address. -/
def addrOk (a : Nat) : Bool := decide (a < 2 ^ 48)

/-- A session id. -/
def idOk (n : Nat) : Bool := decide (n < 2 ^ 32)

/-- An access of BAR0: 4 or 8 bytes, aligned, within 64 MiB. -/
def accessOk (a size : Nat) : Bool := (size == 4 || size == 8) && a % size == 0 && decide (a < 2 ^ 26)

/-- A link width. -/
def widthOk (w : Nat) : Bool := [0, 1, 2, 4, 8, 16].contains w

/-- What a partner can say: a module ID, a port, and credit for each of the eight classes. -/
def Peer.ok (q : Peer) : Bool :=
  decide (q.id < 4096) && decide (q.port < 16) && decide (q.gen < 256) && q.credits.length == 8 && q.credits.all (· < 65536)

/-- The fields of a frame fit the header and the trailer, and the payload is of a length that PLEN can name, whether it does or not. -/
def Frame.ok (f : Frame) : Bool :=
  decide (f.pmask < 2 ^ 128) && decide (f.dst < 4096) && decide (f.src < 4096) && decide (f.flow < 16384) &&
    decide (f.seq < 2 ^ 24) && decide (f.vc < 4) && decide (f.kind < 8) && decide (f.plen < 256) &&
    decide (f.fidx < 2 ^ 20) && decide (f.msg < 65536) && decide (f.ttl < 64) && decide (f.rsv < 512) &&
    decide (f.tail < 65536) && decide (f.data.length ≤ 8192)

/-- A command is well formed. -/
def WellFormed : Instr → Bool
  | .tileArrive _ _ flips _ ue => decide (flips < 2 ^ 256) && ue.all (· < 8192)
  | .granuleMove g => decide (g < 2 ^ 32)
  | .stackedMemoryAccess _ a _ _ _ => addrOk a
  | .sramAccess a _ => addrOk a
  | .cellarAccess a _ => addrOk a
  | .patrolScrubRead _ a _ _ _ => addrOk a
  | .granuleRetire g => decide (g < 2 ^ 32)
  | .hbmRefresh n => decide (n.temp < 256)
  | .portTrainingComplete _ _ q => q.ok
  | .portRetrain _ _ q => q.ok
  | .frameReceive _ f _ _ _ _ => f.ok
  | .lcredit _ _ units => decide (units < 65536)
  | .meterInterval rails regs _ => rails.length == 12 && regs.length == 16
  | .thermalSample temps => temps.length == 19 && temps.all (· < 1024)
  | .thermtrip _ t => decide (t < 1024)
  | .getCertificate _ slot off len => decide (slot < 8) && decide (off < 65536) && decide (len < 65536)
  | .challenge _ slot _ => decide (slot < 8)
  | .getMeasurements _ index _ => decide (index < 256)
  | .keyExchange _ _ want _ => idOk want
  | .finish _ id _ _ => idOk id
  | .heartbeat _ id => idOk id
  | .keyUpdate _ id => idOk id
  | .endSession _ id => idOk id
  | .sessionHeartbeatTimeout id => idOk id
  | .bar2Access _ o w n => decide (o < 2 ^ 40) && (match w with | some d => !d.isEmpty && n == 0 | none => decide (0 < n))
  | .registerWrite _ a size _ => accessOk a size
  | .registerReadClear a size => accessOk a size
  | .counterSatClear a => accessOk a 8
  | .selfTestComplete _ _ _ fault _ _ => fault == 0 || (decide (2 ≤ fault) && decide (fault ≤ 7))
  | .perstDeassert w0 w1 speed => widthOk w0 && widthOk w1 && decide (speed < 16)
  | .resizableBarWrite n => decide (n ≤ 4)
  | .portTableWrite a d => decide (0x1000 ≤ a) && decide (a + d.length ≤ 0x2000)
  | .instructionDecode _ | .segmentFetch _ _ | .nop _ | .gateArrive _ | .gateStream _ | .gateArray _ | .gateBarrier _
  | .gateTime _ | .gateConditionMet _ | .loop _ | .lend _ | .lbreak _ | .bank _ | .mark _ | .haltInstruction _
  | .blockPick _ | .cnt _ | .press _ _ | .mul _ _ | .mulx _ _ | .arrayOpComplete _ _ | .drain _ _ | .skipdw _ _
  | .vadd _ | .vsub _ | .vmul _ | .vfma _ | .vmax _ | .vmin _ | .vexp2 _ | .vlog2 _ | .vrcp _ | .vrsq _ | .vsel _
  | .vcvt _ | .vreds _ | .vredm _ | .vld _ | .vst _ | .vectorResultLand _ | .mv _ | .mvacc _ | .ladleEmit _
  | .inject _ | .recv _ | .pass _ | .retire _ | .turn _ | .tileBufferAdmit _ _ | .syncBar _ | .barrierComplete _ _
  | .syncFlag _ | .rind _ | .arm _ | .waitst _ | .rowstat _ | .rowapply _ | .rowgrad _ | .ortho _
  | .harpCommandBegin _ | .harpCommandComplete _ | .streamEntryBegin _ _ | .streamEntryComplete _ _ | .hubAtomic
  | .deadlockScan _ | .paceBoundary _ | .upd _ _ | .ripGranuleUpdate _ | .updComplete _ _ | .passEnd _ _
  | .updateNop _ _ | .lastUseStampAdvance | .bwrTokenTick | .regulatorGrant _ _ | .cavePageWrite
  | .cavePageRead _ _ _ | .caveReadScrub _ | .caveStaticLevel | .caveBlockFail _ | .laneFail _ _ | .frameSend _
  | .linkAck _ _ | .linkNak _ _ | .ackSend _ | .replayTimeout _ | .creditFrameSend _ | .linkDown _ | .roundBegin _
  | .chunkContribute _ | .chunkComplete _ | .roundComplete _ | .planningPoint | .segmentHoldRelease _ | .stepChange
  | .droopStretch _ | .refLoss | .pllUnlock _ | .pllRelock _ | .pllRelockTimeout _ | .wearLedgerSave
  | .overburstCheck _ | .currentLimit | .mailboxSubmit _ _ _ | .getInfo _ | .getFeatures _ | .contextCreate _ _
  | .contextDestroy _ | .halt _ | .setBudget _ | .getLedger _ | .routeSet _ | .patchInstall _ | .reset _
  | .fuseRead _ | .fuseProgram _ | .programLoad _ _ | .streamAppend _ _ | .run _ | .pickMode _ | .snapshotShip _
  | .snapshotShipment _ _ | .checkpoint _ | .checkpointWrite _ _ | .rindArm _ | .flowOpen _ _ | .flowClose _
  | .caveRead _ | .caveWrite _ | .caveErase _ | .sessionOpen _ | .attest _ | .debugUnlock _ | .getVersion _
  | .getCapabilities _ | .negotiateAlgorithms _ _ | .getDigests _ | .hoopJoinWrite _ | .inServiceWrite _ _
  | .debugDataWrite _ _ | .rangeEntryWrite _ _ _ | .harpSideWrite _ _ | .streamListWrite _ _ | .bwrCfgWrite _ _ _
  | .creditSplitWrite _ _ _ | .retrain _ | .nrgModelWrite _ | .stepCapWrite _ | .msixUnmask _ _ | .eventTailWrite _ _
  | .contextFaultHalt _ | .rindTrig _ | .trigIn | .rindCapture _ | .rindWaveComplete | .powerUpSequence _
  | .bootComplete _ _ | .startUpReady | .perstAssert | .pwrEnDeassert | .lossOfInput | .inputRestore | .inputRemove
  | .currentLimitRelease | .railsLeaveRegulation _ | .portEnableWrite _ _ => true

end Sys2Proof
end

