-- ==== Sys2Proof/Tests/Slice0.lean ====
section
/-!
SUPPORT. Smoke tests of well-formedness, small tests of single commands against values taken from the manual, and for each
statement of the certificates concrete states and operands that meet its hypotheses together, clause by clause.
-/
namespace Sys2Proof.Tests
set_option Elab.async false
open Sys2Proof Sys2Proof.Machine

/-! ### Small states -/

/-- A command of a core's queue that starts on beat 100. -/
def entry (x : Cmd) : QEntry :=
  { cmd := x, start := 100, stream := .fwd, step := 5, opcode := 0, engine := 0, pc := 0, bank := 0 }

/-- Core 0 running on beat 100, a slot of context 0. -/
def runner : Core := { st := .running, slot := some 0, sbc := 100 }

/-- Context 0 on cluster 0, its one slot at core 0, loaded and running. -/
def ctx0 : Ctx := { valid := true, first := 0, count := 1, loaded := true, running := true, slots := [0] }

/-- `s` with PERST# deasserted and the host's link trained. -/
def wired (s : State) : State := s.modPower fun p => { p with perst := false, trained := true }

/-- The module at READY with a core 0 and context 0. -/
def base (k : Core) : State :=
  let s := (((wired State.reset).setCore 0 k).setCtx 0 ctx0).setField .hubState [] 2 0 4
  { s with dev := { s.dev with period := 50 } }

/-- `base` with a command at the head of queue `q` of core 0. -/
def run (q : Nat) (x : Cmd) : State := base { runner with seqr := { queues := [(q, [entry x])] } }

/-- A bounded form of writes that are performed at once. -/
theorem direct_of (s : State) (c a n : Nat) (h : ∀ i, i < n → s.regulator c (a + i) = none ∧ s.inCave (a + i) = false) : s.direct c a n := by
  intro x hx hn
  have e := h (x - a) (by omega)
  rwa [show a + (x - a) = x by omega] at e

/-- A bounded form of reads that pass no regulator. -/
theorem unregulated_of (s : State) (c a n : Nat) (h : ∀ i, i < n → s.regulator c (a + i) = none) : s.unregulated c a n := by
  intro x hx hn
  have e := h (x - a) (by omega)
  rwa [show a + (x - a) = x by omega] at e

/-! ### Gates, decoding and boundaries -/

theorem witness_StepRunsTheFrontCommand :
    ({ State.reset with pending := [.refLoss, .trigIn] } : State).pending = Instr.refLoss :: [.trigIn] := rfl

theorem witness_IdleStepsAndWords :
    State.reset.pending = [] ∧ State.reset.nv.power.stopAt = none ∧ (State.reset.modPower fun p => { p with rails := false }).nv.power.rails = false ∧
    State.reset.nv.power.rails = true ∧ State.reset.hubState ≠ 6 ∧ State.reset.due = none := by decide +kernel

theorem witness_StepsKeepMemoryCanonical : State.reset.canonical ∧ step State.reset ≠ .next State.reset := by
  refine ⟨⟨rfl, rfl, rfl, fun _ h => by cases h⟩, fun h => ?_⟩
  have k : ∃ t, step State.reset = .next t ∧ t.dev.period = 1 := ⟨_, rfl, by decide +kernel⟩
  obtain ⟨t, e, p⟩ := k
  rw [e] at h
  cases h
  exact absurd p (by decide)

theorem witness_GatesOpenOrFreeze :
    (run 0 (.gateStream 3 65535)).ready 0 0 = some (entry (.gateStream 3 65535)) ∧
    (run 0 (.gateArray .a true 260)).ready 0 0 = some (entry (.gateArray .a true 260)) ∧
    (run 0 (.gateArray .b false 255)).ready 0 0 = some (entry (.gateArray .b false 255)) ∧
    (run 0 (.gateBarrier true 63 65535)).ready 0 0 = some (entry (.gateBarrier true 63 65535)) ∧
    (run 0 (.gateBarrier false 15 0)).ready 0 0 = some (entry (.gateBarrier false 15 0)) ∧
    (run 0 .gateTime).ready 0 0 = some (entry .gateTime) := by decide +kernel

/-- Core 0 frozen on the gate at the head of its queue. -/
def onGate (x : Cmd) (cause : Nat) : State :=
  base { runner with st := .frozen, seqr := { queues := [(0, [entry x])], frz := some ⟨cause, some 0, none⟩ } }

theorem witness_GatesOpenOrFreeze_resume :
    ((onGate (.gateStream 3 1) 3).core 0).st = .frozen ∧ ((onGate (.gateStream 3 1) 3).core 0).seqr.frz = some ⟨3, some 0, none⟩ ∧
    ((onGate (.gateStream 3 1) 3).core 0).seqr.queue 0 = [entry (.gateStream 3 1)] ∧
    (entry (.gateStream 3 1)).start = ((onGate (.gateStream 3 1) 3).core 0).sbc ∧
    ∀ p ∈ [(Cmd.gateArray .a true 260, 4), (.gateArray .b false 255, 4), (.gateBarrier true 63 65535, 5), (.gateBarrier false 15 0, 5),
      (.gateTime, 6), (.gateArrive .cw false true ⟨9, 1, 2, 0, true⟩, 2)],
      ((onGate p.1 p.2).core 0).seqr.queue 0 = [entry p.1] ∧ ((onGate p.1 p.2).core 0).seqr.frz = some ⟨p.2, some 0, none⟩ := by
  decide +kernel

/-- A tag of tensor 9, row 1, column 2, in FP32, with odd parity. -/
def tag9 : Tag :=
  { tensor := 9, row := 1, col := 2, fmt := 0, parity := true, frozen := false, poison := false, scaleExp := 0, hops := 0, check := 0 }

/-- A tile in the clockwise buffer of core 0 that an arrival gate of queue 0 awaits. -/
def awaiting (x : Cmd) : State :=
  base { runner with seqr := { queues := [(0, [entry x])] }, hoop := { cw := [⟨1, ⟨tag9, [], []⟩, 10, false, 0, 0⟩] } }

theorem witness_GateArriveComparesTheTag :
    let g := fun row => Cmd.gateArrive .cw false true ⟨9, row, 2, 0, true⟩
    (run 0 (g 1)).ready 0 0 = some (entry (g 1)) ∧ ((run 0 (g 1)).core 0).hoop.awaited .cw false = none ∧
    (awaiting (g 1)).ready 0 0 = some (entry (g 1)) ∧ (awaiting (g 3)).ready 0 0 = some (entry (g 3)) ∧
    ((awaiting (g 1)).core 0).hoop.awaited .cw false = some ⟨1, ⟨tag9, [], []⟩, 10, false, 0, 0⟩ ∧
    (∀ n ∈ [1, 3], let s := (awaiting (g n)).modCore 0 fun k => k.frozenOn 2 0
      (s.core 0).st = .frozen ∧ (s.core 0).seqr.queue 0 = [entry (g n)] ∧
      (s.core 0).hoop.awaited .cw false = some ⟨1, ⟨tag9, [], []⟩, 10, false, 0, 0⟩ ∧
      (tag9.compare ⟨9, n, 2, 0, true⟩ 5 = .pass ↔ n = 1)) := by decide +kernel

/-- Core 0 decoding `w` at index `pc` of its bank 0, its next block starting on beat `blk`. -/
def decoding (w pc blk : Nat) (t : Strm) : State :=
  base { runner with seqr := { fwd := { t with pc := pc }, banks := [(0, { st := .active, code := [(pc, BitVec.ofNat 64 w), (pc + 3, BitVec.ofNat 64 (0x09 * 2 ^ 56))] })], blk := blk } }

/-- CNT 0, OP 2 (add immediate), QD 3, QA 3, with the immediate −1. -/
def wCnt : Nat := 0x90 * 2 ^ 56 + 9 * 2 ^ 52 + 2 * 2 ^ 33 + 3 * 2 ^ 28 + 3 * 2 ^ 23 + (2 ^ 23 - 1)

theorem witness_CntLbreakAndNopActAtDecode :
    (decoding wCnt 4 200 { q := [(3, 0)] }).decodesNext 0 wCnt ∧ opcodeOf wCnt = 0x90 ∧ offsetOf wCnt = 0 ∧ bits wCnt 35 33 ≠ 7 ∧
    (decoding (0x0A * 2 ^ 56) 4 200 { loops := [⟨3, 2, false⟩] }).decodesNext 0 (0x0A * 2 ^ 56) ∧
    (decoding 0 4 200 {}).decodesNext 0 0 ∧ ((decoding 0 4 200 {}).ready 0 0).isNone := by
  unfold State.decodesNext
  decide +kernel

/-- LOOP 5 with a body of two instructions, and LEND. -/
def wLoop : Nat := 0x08 * 2 ^ 56 + 5 * 2 ^ 12 + 2
def wLend : Nat := 0x09 * 2 ^ 56

theorem witness_LoopsAndLateIssue :
    let s := decoding wLoop 4 200 {}
    let q := (s.core 0).seqr
    let t := decoding wLend 4 200 { loops := [⟨2, 2, false⟩] }
    let p := (t.core 0).seqr
    s.decodesNext 0 wLoop ∧ (s.ready 0 0).isNone ∧ opcodeOf wLoop = 0x08 ∧
    q.late 100 (q.entryOf q.cur wLoop .loop) = none ∧ (4 : Nat) + bits wLoop 11 0 + 1 ≤ q.lastIndex ∧
    AMap.find? (q.bankOf q.cur (q.strm q.cur).bank).code (4 + bits wLoop 11 0 + 1) = some (BitVec.ofNat 64 wLend) ∧
    t.decodesNext 0 wLend ∧ (t.ready 0 0).isNone ∧ p.late 100 (p.entryOf p.cur wLend .lend) = none := by
  unfold State.decodesNext
  decide +kernel

theorem witness_LoopsAndLateIssue_faults :
    let l := decoding wLend 4 101 { loops := [⟨2, 2, false⟩] }
    let n := decoding wLoop 4 200 { loops := List.replicate 8 ⟨2, 2, false⟩ }
    l.decodesNext 0 wLend ∧ isDecodeTime wLend = false ∧ (l.core 0).seqr.blk = 101 ∧ (l.core 0).sbc = 100 ∧
    ((l.core 0).seqr.queue (engineOf wLend)).length + l.handedTo 0 (engineOf wLend) < queueDepth (engineOf wLend) ∧
    (match (l.core 0).seqr.boundaryCheck (l.core 0).seqr.cur wLend with | some (.ok _) => true | _ => false) = true ∧
    (match (l.decEnv 0 (l.core 0).seqr.cur).resolve wLend with | .ok x => x == .lend | .error _ => false) = true ∧
    n.decodesNext 0 wLoop ∧ (n.ready 0 0).isNone ∧ ((n.core 0).seqr.strm (n.core 0).seqr.cur).loops.length = 8 := by
  unfold State.decodesNext
  decide +kernel

/-- Core 0 waiting to switch to its bank 1, which is READY. -/
def switching : State :=
  base { runner with seqr := { fwd := { bankWait := some 7 }, banks := [(0, { st := .active }), (2, { st := .ready })] } }

theorem witness_BankSwitchesOnceReady :
    let q := (switching.core 0).seqr
    (q.strm q.cur).bank < 2 ∧ (q.strm q.cur).bankWait = some 7 ∧ (q.bankOf q.cur (1 - (q.strm q.cur).bank)).st = .ready := by decide +kernel

theorem witness_BoundariesMarkersAndHalt :
    (∀ x ∈ [Cmd.loop, .lend, .bank, .nop, .mark, .halt], (run 0 x).ready 0 0 = some (entry x)) ∧
    (((run 0 .bank).core 0).seqr.strm ((run 0 .bank).core 0).seqr.cur).bankWait = none ∧
    ((run 0 .mark).core 0).owner = some 0 ∧ ((run 0 .mark).ctx 0).arming = none ∧
    (let a : Arming := { src := 1, step := 5, once := false, fired := false, cls := 0 }
     ((run 0 .mark).setCtx 0 { ctx0 with arming := some a }).ready 0 0 = some (entry .mark) ∧ a.step = (entry .mark).step) ∧
    (∀ d ∈ ((run 0 .halt).ctx 0).slots, d ≠ 0 → ((run 0 .halt).core d).st = .halted) ∧
    (∃ d ∈ (((run 0 .halt).setCtx 0 { ctx0 with slots := [0, 1] }).ctx 0).slots, d ≠ 0 ∧ ((run 0 .halt).core d).st ≠ .halted) := by decide +kernel

/-- Core 0 at the pick of its next block, GATE.STREAM 0 with target 1 at the heads of both streams; `n` entries of stream 0
are complete. -/
def picking (n : Nat) : State :=
  let s := base { runner with seqr := {
    two := true, pick := true, pickMode := true, plan := [1, 0x8001], streams := 1, fwd := { atGate := true }, bwd := { atGate := true }
    banks := [(0, { st := .active, code := [(0, BitVec.ofNat 64 (0x02 * 2 ^ 56 + 2 ^ 9))] }),
              (1, { st := .active, code := [(0, BitVec.ofNat 64 (0x02 * 2 ^ 56 + 2 ^ 9))] })] } }
  s.setCluster 0 { streams := [(0, { st := .running, doneCnt := n })] }

theorem witness_PickTakesTheFirstMetGate :
    ((picking 1).core 0).picking = true ∧ ((picking 0).core 0).picking = true ∧
    (((picking 1).core 0).seqr.planEntry ((picking 1).core 0).seqr.ptr).1 = .fwd ∧
    (match (picking 1).headGate 0 .fwd with
      | some (_, .ok x) => x == .gateStream 0 1 && (picking 1).gateMet 0 x && ((picking 1).gateTag 0 x).isNone
      | _ => false) = true ∧
    (picking 0).headMet 0 .fwd = false ∧ (picking 0).headMet 0 .bwd = false := by decide +kernel

/-- In a state where no command has been deposited, one that starts on beat 200 is not late on beat 100. -/
theorem late_none (q : SeqS) (e : QEntry) (h : q.lastStart = []) (hs : e.start = 200) : q.late 100 e = none := by
  simp [SeqS.late, h, hs, AMap.find?, beatSub, beatMod]

theorem witness_LoopsAndLateIssue_deposit (x : Cmd) :
    (let q := ((decoding wLoop 4 200 {}).core 0).seqr; q.late 100 (q.entryOf q.cur wLoop x) = none) ∧
    (let p := ((decoding wLend 4 200 { loops := [⟨2, 2, false⟩] }).core 0).seqr; p.late 100 (p.entryOf p.cur wLend x) = none) :=
  ⟨late_none _ _ rfl rfl, late_none _ _ rfl rfl⟩

/-- `picking` with a gate on a tile whose tag descriptor is none, and with the plan's gate unmet and the other one met. -/
def pickingBad : State := (picking 1).modCore 0 fun k => k.modSeq fun q =>
  q.setBank .fwd 0 { st := .active, code := [(0, BitVec.ofNat 64 (0x01 * 2 ^ 56))] }
def pickingOther : State := (picking 1).modCore 0 fun k => k.modSeq fun q =>
  q.setBank .fwd 0 { st := .active, code := [(0, BitVec.ofNat 64 (0x02 * 2 ^ 56 + 2 * 2 ^ 9))] }

theorem witness_PickTakesTheFirstMetGate_rest :
    (pickingBad.core 0).picking = true ∧ (pickingBad.core 0).seqr.planEntry (pickingBad.core 0).seqr.ptr = (.fwd, 1) ∧
    (match pickingBad.headGate 0 .fwd with | some (_, .error f) => f.1 == 0x0105 | _ => false) = true ∧
    (pickingOther.core 0).picking = true ∧ pickingOther.headMet 0 .fwd = false ∧
    (match pickingOther.headGate 0 .bwd with | some (_, .ok x) => pickingOther.gateMet 0 x | _ => false) = true ∧
    (∃ d ∈ (((run 0 .halt).setCtx 0 { ctx0 with slots := [0, 1] }).ctx 0).slots,
      d ≠ 0 ∧ (((run 0 .halt).setCtx 0 { ctx0 with slots := [0, 1] }).core d).st ≠ .halted) := by decide +kernel
/-! ### Segments, arrays, ladle and vector unit -/

/-- A segment at 2 ^ 40 with one descriptor and two instructions for bank 1, which is as given. -/
def seg1 : Seg := { addr := 2 ^ 40, segId := 1, first := 4094, ninstr := 2, ndesc := 1, bank := 1, last := true }

def fetching (b : BankSt) : State := base { runner with seqr := { fwd := { segs := [seg1] }, banks := [(2, { st := b })] } }

theorem witness_SegmentFetchFillsItsBank :
    (∀ b ∈ [BankSt.free, .loading, .ready, .active], let s := fetching b
      (s.core 0).slot.isSome ∧ ((s.core 0).seqr.strm .fwd).waitBank = false ∧ ((s.core 0).seqr.strm .fwd).segAt = some seg1 ∧
      ((s.core 0).seqr.bankOf .fwd seg1.bank).st = b ∧ ((s.core 0).seqr.strm .fwd).initFill = false ∧ s.shareW (s.core 0).ctx = 0 ∧
      (∀ h ∈ s.dev.clk.held, h.1 ≠ (s.core 0).ctx)) ∧
    seg1.segId < 65536 ∧ (((run 0 .nop).core 0).seqr.strm .fwd).segAt = none := by decide +kernel

/-- Local memory of a core at offset 0, a vector each 128 bytes. -/
def mem0 : MemRef := { clm := false, base := 0, stride := 128 }

/-- `run` with array A as given. -/
def runArr (x : Cmd) (r : ArrayS) : State := base { runner with seqr := { queues := [(1, [entry x])] }, arrA := r }

/-- An INT8 block of 128 rows of ones. -/
def ones : Stat := ⟨.int8, List.replicate 128 (List.replicate 128 1), true, false, false⟩

/-- A tag of tensor 9, row 1, column 2, in INT8, and a tile of it that a RECV of beat 90 has handed over. -/
def tagI : Tag :=
  { tensor := 9, row := 1, col := 2, fmt := 5, parity := true, frozen := false, poison := false, scaleExp := 0, hops := 0, check := 0 }
def handed : Handed := ⟨4, .cw, false, ⟨tagI, [], []⟩, 0, 90⟩

/-- A press that is shifting since beat 99 from local memory. -/
def shifting : ArrayS :=
  { used := true, injIsPress := true, injEnd := 229, pressStart := 99, gen := 1, stat := some ⟨.int8, [[]], true, false, false⟩,
    press := some ⟨entry (.press (.mem mem0) true .int8 false), some mem0⟩ }

theorem witness_PressLatchesItsBlock :
    let x := Cmd.press (.mem mem0) true .int8 false
    let y := Cmd.press .special true .int8 false
    let z (s : State) (e : QEntry) : ArrayS := ((s.onBeat 0 e).core 0).arr .a
    (run 1 x).acts 0 Side.a.engine (entry x) ∧ (z (run 1 x) (entry x)).injBusy 100 = false ∧ Fmt.int8.pair ≠ 0 ∧ Fmt.int8.mx = false ∧
    (runArr y { handed := [handed] }).acts 0 Side.a.engine (entry y) ∧ (z (runArr y { handed := [handed] }) (entry y)).injBusy 100 = false ∧
    (z (runArr y { handed := [handed] }) (entry y)).tileNeed 1 .int8 true 100 50 = .ok ∧
    (runArr x shifting).acts 0 Side.a.engine (entry x) ∧ (z (runArr x shifting) (entry x)).injBusy 100 = true ∧
    (let r := ((runArr .nop shifting).core 0).arr .a
     r.press = some ⟨entry x, some mem0⟩ ∧ r.stat.isSome ∧ beatSub 100 r.pressStart < 128) := by
  unfold State.acts
  decide +kernel

/-- A MUL of 128 vectors from tiles, and one vector from local memory, with the job that each has begun. -/
def mulT (m : Option (Nat × MulMode)) : Cmd := match m with
  | none => .mul .special 128 .int8 false 0
  | some (w, o) => .mulx .special 128 .int8 false 0 w o
def mulM (m : Option (Nat × MulMode)) : Cmd := match m with
  | none => .mul (.mem mem0) 1 .int8 false 0
  | some (w, o) => .mulx (.mem mem0) 1 .int8 false 0 w o
def injecting (x : Cmd) : State :=
  runArr .nop { stat := some ones, handed := [handed], job := some ⟨entry x, 7, 0, false⟩, ops := [⟨7, false⟩] }

theorem witness_MulInjectsEveryVector :
    (∀ p ∈ [(mulM none, Src.mem mem0, 1), (mulT none, .special, 128)], let s := runArr p.1 { stat := some ones, handed := [handed] }
      let r := ((s.onBeat 0 (entry p.1)).core 0).arr .a
      p.1 = .mul p.2.1 p.2.2 .int8 false 0 ∧
      s.acts 0 Side.a.engine (entry p.1) ∧ r.injBusy 100 = false ∧ r.formatOk ⟨p.2.1, p.2.2, .int8, false, 0, none⟩ = true ∧
      r.foreign ⟨p.2.1, p.2.2, .int8, false, 0, none⟩ = false ∧ r.tileNeed 1 .int8 false 100 50 = .ok) ∧
    (∀ x ∈ [mulM none, mulT none], let r := ((injecting x).core 0).arr .a
      r.job = some ⟨entry x, 7, 0, false⟩ ∧ ((entry x).start + 0 * Fmt.int8.interval) % 2 ^ 48 = ((injecting x).core 0).sbc ∧
      r.feedFull (injecting x).dev.period = false ∧ r.tileNeed 1 .int8 false 100 50 = .ok) := by
  unfold State.acts
  decide +kernel

theorem witness_MulxKeepsSumsInWhey :
    (∀ p ∈ [(mulM (some (511, .start)), Src.mem mem0, 1), (mulT (some (384, .start)), .special, 128)],
      let s := runArr p.1 { stat := some ones, handed := [handed] }
      let r := ((s.onBeat 0 (entry p.1)).core 0).arr .a
      s.acts 0 Side.a.engine (entry p.1) ∧ r.injBusy 100 = false ∧ r.formatOk ⟨p.2.1, p.2.2, .int8, false, 0, some (0, .start)⟩ = true ∧
      r.foreign ⟨p.2.1, p.2.2, .int8, false, 0, some (0, .start)⟩ = false ∧ r.tileNeed 1 .int8 false 100 50 = .ok) ∧
    (∀ x ∈ [mulM (some (511, .start)), mulT (some (384, .start))], let r := ((injecting x).core 0).arr .a
      r.job = some ⟨entry x, 7, 0, false⟩ ∧ ((entry x).start + 0 * Fmt.int8.interval) % 2 ^ 48 = ((injecting x).core 0).sbc ∧
      r.feedFull (injecting x).dev.period = false ∧ r.tileNeed 1 .int8 false 100 50 = .ok) := by
  unfold State.acts
  decide +kernel

/-- The boundary of R46: with 128 more terms an entry of 2 ^ 20 − 128 terms is still kept, one of 2 ^ 20 − 127 is refused. -/
theorem witness_MulxKeepsSumsInWhey_limit :
    let w : Nat → Whey := fun n => ⟨false, n, [{ sum := 3 }], false⟩
    wheyCombine (some (w (2 ^ 20 - 128))) .add false 128 [{ sum := 4 }] false =
      .ok (some ⟨false, 2 ^ 20, [{ sum := 7 }], false⟩) none ∧
    wheyCombine (some (w (2 ^ 20 - 127))) .add false 128 [{ sum := 4 }] false = .limit ∧
    wheyCombine (some (w 1)) .addEmit true 128 [{ sum := 4 }] false = .format := ⟨rfl, rfl, rfl⟩

/-- An output vector that is in the drains, null or real. -/
def drained (null : Bool) : OutVec :=
  { op := 1, since := 10, feeds := [], upto := 128, ready := some 20, lat := 260, gap := 1, gen := 0, out := true, fp := false,
    lanes := [], null := null, poison := false, bad := none }

/-- A DRAIN of `n` vectors of a tensor that bit 22 marks as frozen, or not. -/
def drainCmd (n tensor : Nat) : Cmd := .drain (.mem mem0) n .int8 0 false ⟨tensor, 0, 0⟩

theorem witness_OpsDoneSkipAndDrain :
    (let r := ((runArr .nop { ops := [⟨7, true⟩] }).core 0).arr .a; r.ops = ⟨7, true⟩ :: [] ∧ r.opComplete 50 = true) ∧
    (let r := ((runArr .nop { ops := [⟨7, false⟩] }).core 0).arr .a; r.opComplete 50 = false) ∧
    (run 1 (.skipdw true)).acts 0 Side.a.engine (entry (.skipdw true)) ∧ ((((run 1 (.skipdw true)).onBeat 0 (entry (.skipdw true))).core 0).arr .a).injBusy 100 = false ∧
    (∀ t ∈ [0, 2 ^ 22], ∀ b ∈ [true, false], let s := runArr (drainCmd 1 t) { outs := [drained b], used := true, drainEnd := 100 }
      let k := (s.onBeat 0 (entry (drainCmd 1 t))).core 0
      s.acts 0 Side.a.engine (entry (drainCmd 1 t)) ∧ beatReached k.sbc (k.arr .a).drainEnd = true ∧ (k.arr .a).level 50 = 1 ∧
      k.st = .running ∧ (k.arr .a).outs.find? (·.out) = some (drained b) ∧ bit t 22 = decide (t = 2 ^ 22)) ∧
    (let s := runArr (drainCmd 2 0) { outs := [drained false] }
     s.acts 0 Side.a.engine (entry (drainCmd 2 0)) ∧ ((((s.onBeat 0 (entry (drainCmd 2 0))).core 0).arr .a).level 50 < 2)) := by
  unfold State.acts
  decide +kernel

theorem witness_IntegerDotProductIsExact : ([-128, 127] : List (BitVec 8)).length = ([-128, 1] : List (BitVec 8)).length := rfl

/-- MV and MVACC of 128 rows over one chunk with EMIT, from register `x` on, in the weight format `f`. -/
def mv (acc : Bool) (x f : Nat) : LdlCmd :=
  { acc := acc, w := mem0, rows := 128, chunks := 1, x := x, vd := 5, rate := 1, emit := true, lfmt := f }

/-- `run` with the ladle as given. -/
def runLdl (x : Cmd) (l : LdlS) : State := base { runner with seqr := { queues := [(4, [entry x])] }, ldl := l }

theorem witness_LadleAccumulatesAndLands :
    (∀ p ∈ [(true, 63, 1), (false, 63, 0), (false, 64, 1), (false, 4, 5)],
      (run 4 (.ladle (mv p.1 p.2.1 p.2.2))).acts 0 4 (entry (.ladle (mv p.1 p.2.1 p.2.2)))) ∧
    (mv false 63 0).rangeOk = true ∧ (ladleFmt (mv false 63 0).lfmt).isSome ∧ (mv false 64 1).rangeOk = false ∧
    (mv false 4 5).rangeOk = true ∧ 4 < (mv false 4 5).lfmt ∧
    (let s := runLdl (.ladle (mv true 4 1)) { terms := 2 ^ 20 }
     s.acts 0 4 (entry (.ladle (mv true 4 1))) ∧ (mv true 4 1).rangeOk = true ∧ (mv true 4 1).lfmt ≤ 4 ∧
     2 ^ 20 < ((s.land 0).core 0).ldl.lastTerms + (mv true 4 1).chunks * (mv true 4 1).depth) ∧
    (∀ f ∈ [(4, Fmt.int8), (1, .mxint8)], let l := mv true 4 f.1
      let s := runLdl .nop { jobs := [{ entry := entry (.ladle l), cmd := l, first := 100, terms := 128 }] }
      (s.core 0).ldl.jobs.head? = some { entry := entry (.ladle l), cmd := l, first := 100, terms := 128 } ∧
      ladleFmt l.lfmt = some f.2 ∧ 1 ≤ l.chunks) ∧
    (mv true 4 1).weightUnit 7 = some 7 ∧ (mv true 4 1).weightUnit 8 = none ∧ 7 ∈ (mv true 4 4).due 24 ∧
    (let k := (runLdl .nop { emits := [(100, 5, 1, false), (101, 6, 1, true)] }).core 0
     k.ldl.emits = [] ++ (100, 5, 1, false) :: [(101, 6, 1, true)] ∧ beatReached k.sbc 100 = true ∧
     ∀ q ∈ [((101 : Nat), (6 : Nat), (1 : BitVec 4096), true)], beatReached k.sbc q.1 = true → q.2.1 ≠ 5) := by
  unfold State.acts
  decide +kernel

/-- Core 0 with register 4 poisoned. -/
def runBad (x : Cmd) : State := base { runner with seqr := { queues := [(3, [entry x])] }, vec := { poisoned := [4] } }

theorem witness_VectorOperationsScheduleTheirResult :
    (∀ x ∈ [Cmd.vec .fma 1 2 3 4 .fp32, .vld 63 mem0, .vst 0 mem0, .vcvt 1 2 .e4m3 false false 0 ⟨0, 0, 0⟩],
      (run 3 x).acts 0 3 (entry x) ∧ (((run 3 x).onBeat 0 (entry x)).core 0).vec.poisoned = []) ∧
    mem0.clm = false ∧
    (let x := Cmd.vec .fma 1 2 3 4 .fp32
     (runBad x).acts 0 3 (entry x) ∧ ∃ y ∈ VOp.fma.sources 2 3 4, y ∈ (((runBad x).onBeat 0 (entry x)).core 0).vec.poisoned) := by
  unfold State.acts
  decide +kernel

/-- The table of bank priority (R51): two loads of one bank in one MCLK lose one MCLK, two of other banks none; two 512-byte
loads of cluster memory exceed the core's port of 512 bytes; a ladle operation at RATE 3 leaves the fourth MCLK. -/
theorem test_bank_conflicts :
    mclkLost [⟨3, 100, 1, 0, 0, 512, false, 0⟩, ⟨3, 101, 1, 4096, 0, 512, false, 0⟩] 50 = 1 ∧
    mclkLost [⟨3, 100, 1, 0, 0, 512, false, 0⟩, ⟨3, 101, 1, 512, 0, 512, false, 0⟩] 50 = 0 ∧
    mclkLost [⟨3, 100, 1, 0, 0, 512, true, 0⟩, ⟨3, 101, 1, 512, 0, 512, true, 0⟩] 50 = 1 ∧
    mclkLost [⟨4, 100, 8, 0, 0, 0, false, 3⟩, ⟨3, 104, 1, 0, 0, 512, false, 0⟩] 52 = 1 ∧
    mclkLost [⟨4, 100, 8, 0, 0, 0, false, 3⟩, ⟨3, 106, 1, 0, 0, 512, false, 0⟩] 53 = 0 := by decide +kernel

/-- Core 0 with a write that is due on its present beat. -/
def landing (p : Pend) : State := base { runner with vec := { pend := [p] } }

/-- The drain unit of array A at work: its next vector on this beat, of an unfrozen tensor, to a place. -/
def draining (d : DrainDst) : State :=
  let j : DrainJob := ⟨entry (drainCmd 1 0), d, 1, .int8, 0, false, ⟨0, 0, 0⟩, 0, false, 0⟩
  base { runner with arrA := { outs := [drained false], used := true, drainEnd := 101, drain := some j } }

theorem witness_VectorResultsLand :
    (∀ p ∈ [Pend.reg 100 96 7 9 true, .mem 100 96 0 [1, 2] false false],
      ((landing p).core 0).vec.pend = p :: [] ∧ beatReached 100 p.due = true ∧ (landing p).mem.wf = true ∧ ((landing p).core 0).ldl.emits = [] ∧
      ∀ x, (((landing p).core 0).arr x).drain = none) ∧
    (∀ d ∈ [DrainDst.mem mem0, .mem ⟨true, 0, 512, 0⟩, .vreg 63], let k := (draining d).core 0
     k.st = .running ∧ k.vec.pend = [] ∧ k.ldl.emits = [] ∧ (k.arr .b).drain = none ∧ (draining d).mem.wf = true ∧
     (draining d).ready 0 5 = none ∧ (k.arr .a).drain.map (·.dst) = some d ∧ ((entry (drainCmd 1 0)).start + 0) % 2 ^ 48 = k.sbc ∧
     (k.arr .a).outs.find? (·.out) = some (drained false) ∧ bit 0 22 = false ∧ (draining d).dev.clm.words = []) := by
  refine ⟨?_, by decide +kernel⟩
  intro p hp
  refine ⟨?_, ?_, rfl, rfl, fun x => by cases x <;> rfl⟩ <;>
    (simp only [List.mem_cons, List.not_mem_nil, or_false] at hp; rcases hp with rfl | rfl <;> decide +kernel)

/-- Core 2 has written word 0 of cluster memory 0 (all 7 before) in the present MCLK. -/
def noted (s : State) : State :=
  s.modClm fun m => { m with seq := 1, words := [(0x4000000, ⟨2, 1, 25, List.replicate 64 7, s.bytes 0x100000000 64⟩)] }

/-- A store of core 0 to that word is due. -/
def losing : State := noted (landing (.mem 100 96 (64 * 0x4000000) (List.replicate 64 1) false true))

/-- A load of core 0 from that word on. -/
def racing : State := noted (run 3 (.vld 1 ⟨true, 0, 512, 0⟩))

theorem witness_cluster_memory_words :
    (losing.core 0).vec.pend = [.mem 100 96 (64 * 0x4000000) (List.replicate 64 1) false true] ∧
    losing.clmLoses 0 0x4000000 = true ∧ racing.acts 0 3 (entry (.vld 1 ⟨true, 0, 512, 0⟩)) ∧
    (racing.onBeat 0 (entry (.vld 1 ⟨true, 0, 512, 0⟩))).clmOpen 0 0x4000000 = true ∧ (⟨true, 0, 512, 0⟩ : MemRef).addr 0 0 % 64 = 0 ∧
    (racing.dev.clm.words.all fun p => p.2.old.length == 64) = true := by
  unfold State.acts
  decide +kernel

/-- R14: the store of the lower core in the same MCLK does nothing; a barrier or a flag makes the write visible. -/
theorem test_cluster_memory_words :
    (losing.land 0).mem = [] ∧ (racing.clmMeet [0, 2]).clmOpen 0 0x4000000 = false ∧
    ((racing.clmPost 2 5).clmFlag 0 5).clmOpen 0 0x4000000 = false ∧ ((racing.clmPost 2 5).clmFlag 0 6).clmOpen 0 0x4000000 = true := by
  decide +kernel
/-! ### Hoop and synchronisation -/

/-- An INJECT of tensor 9 in INT8 over two hops, clockwise, from `src`; `turn` for a TURN. -/
def inj (turn : Bool) (src : Src) : InjCmd :=
  { turn := turn, src := src, tag := ⟨9, 1, 2, 5, false⟩, hops := 2, dir := .cw, frozen := false, par := true, scaleExp := 0 }

/-- Tiles under way in a state. -/
def withAir (s : State) (l : List Air) : State := { s with dev := { s.dev with air := l } }

/-- `n` turning INT8 tiles under way clockwise, far from cores 0 and 1. -/
def turningAir (n : Nat) : List Air :=
  List.replicate n ⟨3, .cw, ⟨{ tagI with hops := 0xFF }, [], []⟩, 0, 2, 1000, false, false⟩

/-- Core 0 with an INJECT from its injection port, which holds one run of `n` bytes. -/
def ported0 (n : Nat) : State :=
  (run 5 (.inject (inj false .special))).setCluster 0 { ports := [(0, [⟨List.replicate n 7, [], some true⟩])] }

theorem witness_InjectSendsItsTile :
    (∀ b ∈ [false, true], (run 5 (.inject (inj b (.mem mem0)))).acts 0 5 (entry (.inject (inj b (.mem mem0))))) ∧
    Fmt.ofCode (inj false .special).tag.fmt = some .int8 ∧
    (let v := (run 5 (.inject (inj false (.mem mem0)))).land 0; v.hopFree 0 0 .cw = true ∧ v.forwardWaits 0 .cw = false) ∧
    (let s := base { runner with seqr := { queues := [(5, [entry (.inject (inj false (.mem mem0)))])] }, hoop := { busyCw := 51 } }
     s.acts 0 5 (entry (.inject (inj false (.mem mem0)))) ∧ (s.land 0).hopFree 0 0 .cw = false) ∧
    (let s := withAir (run 5 (.inject (inj true (.mem mem0)))) (turningAir 1)
     s.acts 0 5 (entry (.inject (inj true (.mem mem0)))) ∧
     32 * ((s.land 0).ctx 0).count < (s.land 0).turningFlits 0 .cw + Fmt.int8.flits) ∧
    (let s := run 5 (.inject (inj false .special))
     s.acts 0 5 (entry (.inject (inj false .special))) ∧ AMap.get ((s.land 0).cluster 0).ports [] 0 = []) := by
  unfold State.acts
  decide +kernel

/-- From the port, with a run of the format's length and with one of another. -/
theorem witness_InjectSendsItsTile_port : ∀ n ∈ [1, 16384],
    (ported0 n).acts 0 5 (entry (.inject (inj false .special))) ∧
    (AMap.get (((ported0 n).land 0).cluster 0).ports [] 0).map (·.data.length) = [n] ∧
    ((ported0 n).land 0).hopFree 0 0 .cw = true ∧ ((ported0 n).land 0).forwardWaits 0 .cw = false ∧
    (Fmt.int8.payload + Fmt.int8.scales = 16384) := by
  unfold State.acts
  decide +kernel

/-- A tile of INT8 with one sector of data in the clockwise buffer of core 0, its first flit of period `since`. -/
def tileI (since : Nat) : TBuf := ⟨1, ⟨tagI, List.replicate 32 7, []⟩, since, false, 0, 0⟩
def receiving (x : Cmd) (since : Nat) : State :=
  base { runner with seqr := { queues := [(5, [entry x])] }, hoop := { cw := [tileI since] } }

/-- The same with a MUL of tiles by columns in progress at array A. -/
def receivingCols (since : Nat) : State :=
  (receiving (.recv .cw false 0 none) since).modCore 0 fun k =>
    { k with arrA := { job := some ⟨entry (.mul .special 128 .int8 true 0), 7, 0, false⟩ } }

theorem witness_RecvPassRetire :
    (∀ d ∈ [0, 2], let s := run 5 (.recv .cw false d none)
      s.acts 0 5 (entry (.recv .cw false d none)) ∧ ((s.land 0).core 0).hoop.awaited .cw false = none) ∧
    (∀ d, d < 3 → let s := receiving (.recv .cw false d none) 0
      s.acts 0 5 (entry (.recv .cw false d none)) ∧ ((s.land 0).core 0).hoop.awaited .cw false = some (tileI 0) ∧
      ((tileI 0).complete s.dev.period = true ∨ ((s.land 0).core 0).wholeTile d = false)) ∧
    (let s := receivingCols 50
     s.acts 0 5 (entry (.recv .cw false 0 none)) ∧ ((s.land 0).core 0).hoop.awaited .cw false = some (tileI 50) ∧
     ((s.land 0).core 0).wholeTile 0 = true ∧ (tileI 50).complete s.dev.period = false) ∧
    (run 5 (.pass .cw 3)).acts 0 5 (entry (.pass .cw 3)) ∧ (run 5 (.retire .ccw 9)).acts 0 5 (entry (.retire .ccw 9)) := by
  unfold State.acts
  decide +kernel

theorem witness_RecvPassRetire_memory :
    let m (a : Nat) : MemRef := { clm := false, base := a, stride := 0 }
    let x (a : Nat) : Cmd := .recv .cw false 3 (some (m a))
    (∀ s ∈ [run 5 (x 0), receiving (x 0) 50, receiving (x (0x01800000 - 32)) 0, receiving (x (0x01800000 - 31)) 0],
      ((s.ready 0 5).map (·.cmd)).isSome ∧ ((s.core 0).arr .a).drain = none ∧ ((s.core 0).arr .b).drain = none ∧
      (s.core 0).vec.pend = [] ∧ (s.core 0).ldl.emits = [] ∧ s.mem.wf = true) ∧
    ((run 5 (x 0)).core 0).hoop.awaited .cw false = none ∧
    (∀ f ∈ [0, 50], let s := receiving (x 0) f
      (s.core 0).hoop.awaited .cw false = some (tileI f) ∧ ((tileI f).complete s.dev.period = true ↔ f = 0)) ∧
    (∀ a ∈ [0x01800000 - 32, 0x01800000 - 31], let s := receiving (x a) 0
      s.ready 0 5 = some (entry (x a)) ∧ (m a).base + (tileI 0).tile.data.length = a + 32) := by
  decide +kernel

/-- A tile on its last hop at core 0, with its CHECK. -/
def lastHop (stalled : Bool) : Air := ⟨0, .cw, ⟨({ tag9 with hops := 1 } : Tag).seal, [], []⟩, 0, 2, 50, stalled, false⟩

theorem witness_TilesArriveOnTheirLastHop :
    (∀ b ∈ [false, true], (withAir (run 0 .nop) [lastHop b]).airHead 0 .cw = some (lastHop b) ∧ (lastHop b).stalled = b ∧
      (lastHop b).readyAt ≤ (run 0 .nop).dev.period) ∧
    (run 0 .nop).airHead 0 .cw = none ∧
    (let g := (lastHop false).tile.tag.flip 0; g.crc = g.check ∧ g.rsv = 0) ∧
    (let g := (lastHop false).tile.tag.flip 1; g.crc ≠ g.check) ∧
    ((run 0 .nop).core 0).slot.isSome ∧ ((run 0 .nop).core 0).live = true ∧ ((run 0 .nop).core 1).slot = none ∧
    ((run 0 .nop).core 0).hoop.pass .cw = 0 ∧ 0 < ((base { runner with hoop := { passCw := 1 } }).core 0).hoop.pass .cw := by decide +kernel

/-- Core 0 with an arrival of its own at barrier 15. -/
def arrived (x : Cmd) : State := base { runner with seqr := { queues := [(8, [entry x])] }, bars := [(15, 1)] }

/-- Core 0 with a SYNC_FLAG and a store to cluster memory under way. -/
def posting : State :=
  base { runner with seqr := { queues := [(8, [entry (.flag 63)])] }, vec := { pend := [.mem 120 99 0x100000000 [1] false true] } }

theorem witness_SynchronisationOfCores :
    (run 8 (.bar 15 true)).ready 0 8 = some (entry (.bar 15 true)) ∧ AMap.find? ((run 8 (.bar 15 true)).core 0).bars 15 = none ∧
    (arrived (.bar 15 true)).ready 0 8 = some (entry (.bar 15 true)) ∧
    AMap.find? ((arrived .nop).core 0).bars 15 = some 1 ∧
    (∀ d ∈ (arrived .nop).barCores 0 true, AMap.find? ((arrived .nop).core d).bars 15 = some 1) ∧
    (∃ d ∈ ((arrived .nop).setCtx 0 { ctx0 with slots := [0, 1] }).barCores 0 true,
      AMap.find? (((arrived .nop).setCtx 0 { ctx0 with slots := [0, 1] }).core d).bars 15 ≠ some 1) ∧
    (run 8 (.flag 63)).acts 0 8 (entry (.flag 63)) ∧ (((run 8 (.flag 63)).land 0).core 0).clmStores 100 = false ∧
    (((run 8 (.flag 63)).land 0).core 0).flagPosts = [] ∧
    posting.acts 0 8 (entry (.flag 63)) ∧ ((posting.land 0).core 0).clmStores 100 = true ∧ ((posting.land 0).core 0).flagPosts = [] ∧
    (run 9 .rind).ready 0 9 = some (entry .rind) ∧ ((run 9 .rind).core 0).owner = some 0 ∧
    (((run 9 .rind).setCtx 0 { ctx0 with rindProg := true }).ctx 0).rindProg = true ∧ (run 9 .rind).dev.rind.cur = none := by
  unfold State.acts
  decide +kernel

/-! ### Streams, atomics, boundaries -/

/-- `run` with stream 63 of cluster 0 as given. -/
def runStream (q : Nat) (x : Cmd) (t : StreamS) : State := (run q x).setCluster 0 { streams := [(63, t)] }

theorem witness_ArmsAndArmWaits :
    (∀ t ∈ [({} : StreamS), { st := .done }, { st := .faulted }, { st := .armed }, { st := .running, pend := some (9, 1) }],
      (runStream 6 (.arm 63 5 2) t).acts 0 6 (entry (.arm 63 5 2)) ∧ ((runStream 6 (.arm 63 5 2) t).land 0).stream 0 63 = t) ∧
    (∀ w ∈ [none, some (0, 0)], (runStream 6 (.waitst 63 1 2) { armWait := w }).acts 0 6 (entry (.waitst 63 1 2))) ∧
    ((run 0 .nop).land 0).field .strFault [0] 8 8 = 0 := by
  unfold State.acts
  decide +kernel

/-- An entry word: `op`, ADDR, LEN, STRIDE, COUNT, bits 107 to 100 and NEAR, with bits 63 to 0. -/
def entryWord (op addr len stride count hi near lo : Nat) : BitVec 256 :=
  BitVec.ofNat 256 (addr * 2 ^ 192 + len * 2 ^ 160 + stride * 2 ^ 128 + count * 2 ^ 112 + op * 2 ^ 108 + hi * 2 ^ 100 + near * 2 ^ 64 + lo)

/-- GATHER of one run of 32 bytes from `a` to cluster memory offset 64, waiting for `n` entries of stream 1 when `n` is not 0. -/
def gather (a n : Nat) : BitVec 256 := entryWord 0 a 32 0 1 (if n = 0 then 0 else 64) 64 (n * 2 ^ 48 + 2 ^ 42)

/-- Stream 2 of cluster 0 armed for one entry, the entry as given; its far end in a granule of context 0 in an HBM stack or the cave,
whose accesses pass a regulator or not; host memory at 0, flow 3 open with `credit`. -/
def beginning (w : BitVec 256) (reg : Nat) (unit : Nat := 1) (credit : Nat := 0) : State :=
  let s := (run 0 .nop).setCluster 0 { streams := [(2, { st := .armed, left := 1, armedAt := 49 })], store := [(0, w)] }
  let s := s.setCtx 0 { ctx0 with hostOk := true, hostBase := 0, hostLen := 65536 }
  let s := s.setFlow 3 { st := .opened, peer := 9, slotSize := 64, credit := credit }
  let s := s.setGran (hubBase / 65536) { owner := some 0, home := 0, part := 0, at_ := 0 }
  (s.setGran (2 ^ 40 / 65536) { owner := some 0, home := unit, part := 0, at_ := unit }).modMem fun m =>
    { m with bwr := [((0, 0), BitVec.ofNat 64 (2 ^ 63 * (1 - reg)))] }

/-- The hypotheses of an entry that begins, of operation `op`, all but what its own clause adds. -/
def begins (s : State) (op count : Nat) : Bool :=
  let e := (s.cluster 0).entry 0
  s.clusterCtx 0 == some 0 && !s.regionStopped 0 && !(s.ctx 0).halted && (s.stream 0 2).pending && decide ((s.stream 0 2).armedAt < s.dev.period) &&
  !s.laterBegan 0 2 && s.waitHolds 0 e && s.armHolds 0 (s.stream 0 2) && !e.fence && decide ((s.stream 0 2).inFlight < 8) &&
  decide ((s.cluster 0).inFlight < 256) && s.dev.link.sends.isEmpty && e.formatOk && (s.entryRefused 0 0 e).isNone && e.op == op &&
  e.count == count && s.mem.wf && s.host.mem.wf

/-- Runs that no regulator holds, with nothing before them at the hub cache or the cave, or that regulators hold. -/
def unheld (s : State) (held : Bool) : Bool :=
  let e := (s.cluster 0).entry 0
  !s.regionStopped 17 && s.dev.hubQ.isEmpty && s.dev.caveQ.isEmpty &&
    (List.range e.count).all fun i => (granParts (e.far i) e.len).all fun g => (s.regulator 0 g.1).isSome == held

/-- Two runs of a GATHER and a SCATTER, in HBM and in the cave; their far ends, and their near ends, apart. -/
theorem witness_StreamEntriesBegin_runs :
    (∀ op ∈ [0, 1], ∀ unit ∈ [1, 10], let s := beginning (entryWord op (2 ^ 40) 32 64 2 0 64 0) 0 unit
      let e := (s.cluster 0).entry 0
      begins s op 2 = true ∧ unheld s false = true ∧ e.nhoop = false ∧ e.far 0 + e.len ≤ e.far 1 ∧ e.nearAddr 0 1 + e.len ≤ e.far 0 ∧
      ∀ i, i < 2 → ∀ n, n < e.len → s.inCave (e.nearAddr 0 i + n) = false ∧ s.inCave (e.far i + n) = decide (unit = 10)) ∧
    (∀ op ∈ [0, 1, 7], let s := beginning (entryWord op (2 ^ 40) 32 64 2 0 64 0) 1
      begins s op 2 = true ∧ unheld s true = true) ∧
    (let s := beginning (entryWord 7 (2 ^ 40) 64 64 2 0 64 0) 0
     begins s 7 2 = true ∧ unheld s false = true) := by decide +kernel

/-- Two runs for an injection port, two atomics, two messages with and without credit, host reads and writes, no transfer. -/
theorem witness_StreamEntriesBegin_kinds :
    (let s := beginning (entryWord 0 (2 ^ 40) 16384 16384 2 20 0 0) 0
     begins s 0 2 = true ∧ unheld s false = true ∧ ((s.cluster 0).entry 0).nhoop = true ∧ ((s.cluster 0).entry 0).gpar = true ∧
     (s.cluster 0).portWait = [] ∧ (s.cluster 0).ports = [] ∧ ∀ i, i < 2 → s.actWaits (.port 0 2 0 i) = false) ∧
    begins (beginning (entryWord 2 hubBase 4 4 2 0 64 0) 0) 2 2 = true ∧
    (∀ n ∈ [0, 2], let s := beginning (entryWord 3 0 64 64 2 0 64 (3 * 2 ^ 20)) 0 1 n
      begins s 3 2 = true ∧ ((s.cluster 0).entry 0).flow = 3 ∧ (s.flow 3).credit = n ∧ (s.flow 3).peer ≠ s.moduleId) ∧
    (∀ op ∈ [4, 5], begins (beginning (entryWord op 0 32 64 2 0 64 0) 0) op 2 = true) ∧
    (let s := beginning (entryWord 6 0 0 0 1 0 0 0) 0
     begins s 6 1 = true ∧ (s.stream 0 2).pend = none ∧ (s.stream 0 2).begun = [] ∧ s.entryDone 0 2 (s.stream 0 2).seq = true) := by
  decide +kernel

/-- A wait that does not hold, a form that is wrong, and an address out of reach. -/
theorem witness_StreamEntriesBegin_refused :
    (let s := beginning (gather (2 ^ 40) 1) 0
     s.waitHolds 0 ((s.cluster 0).entry 0) = false ∧ (s.stream 0 2).met = false ∧ s.clusterCtx 0 = some 0 ∧ s.laterBegan 0 2 = false ∧
     (s.stream 0 2).pending = true) ∧
    (let s := beginning (gather (2 ^ 40 + 1) 0) 0; ((s.cluster 0).entry 0).formatOk = false ∧ s.waitHolds 0 ((s.cluster 0).entry 0) = true) ∧
    (let s := beginning (gather (2 ^ 41) 0) 0; ((s.cluster 0).entry 0).formatOk = true ∧ (s.entryRefused 0 0 ((s.cluster 0).entry 0)).isSome) := by
  decide +kernel

/-- What waits at the hub cache. -/
def withHub (s : State) (l : List HubReq) : State := { s with dev := { s.dev with hubQ := l } }

/-- One atomic that waits at the hub cache, of entry `n` of stream 2. -/
def atomic (op n : Nat) : AtomicReq := ⟨0, 2, n, hubBase, 0x100000040, op, 0⟩

/-- Stream 2 of cluster 0 with two begun entries, the atomics of those of `w` still under way. -/
def ending (p : Option (Nat × Nat)) (st : StreamSt) (w : List Nat) : State :=
  withHub ((run 0 .nop).setCluster 0 { streams := [(2, { st := st, doneCnt := 65535, begun := [⟨4, 9, false⟩, ⟨5, 10, false⟩], pend := p })] })
    (w.map fun n => .atomic (atomic 0 n))

/-- Both are done, or the first alone, or the second alone: then none leaves. -/
theorem witness_StreamEntriesComplete :
    (∀ p ∈ [(ending none .draining [], 2), (ending (some (3, 4)) .draining [], 2), (ending none .running [], 2), (ending none .draining [10], 1),
      (ending none .draining [9], 0)],
      let s := p.1
      let t := s.stream 0 2
      s.regionStopped 0 = false ∧ (s.cluster 0).portWait = [] ∧
      (t.begun.takeWhile fun b => b.complete || s.entryDone 0 2 b.seq).length = p.2) ∧
    ((ending none .draining []).stream 0 2).st = .draining ∧ ((ending (some (3, 4)) .draining []).stream 0 2).pend = some (3, 4) := by
  decide +kernel

theorem witness_AtomicsUpdateTheirWord :
    ∀ op, op ≤ 7 → let s := withHub (run 0 .nop) [.atomic (atomic op 9)]
      s.dev.hubQ = .atomic (atomic op 9) :: [] ∧ s.regionStopped 17 = false ∧ s.mem.wf = true ∧
      (op ≤ 6 → (atomic op 9).aop ≠ 7) ∧ (atomic op 9).rcd + 24 ≤ (atomic op 9).target ∧ s.dev.link.flows = [] ∧ s.dev.link.held = [] := by
  decide +kernel

/-- Streams 0 and 1 of cluster 0 wait for each other: the next entry of each waits for one entry more of the other. -/
def deadlocked : State :=
  let l : List (Nat × StreamS) := [(0, { st := .armed, left := 1, next := 0 }), (1, { st := .armed, left := 1, next := 1 })]
  (run 0 .nop).setCluster 0 { streams := l, store := [(0, gather (2 ^ 40) 1), (1, BitVec.ofNat 256 (2 ^ 106 + 2 ^ 48))] }

/-- Context 0 paced, its boundary due. -/
def paced : State := (run 0 .nop).setCtx 0 { ctx0 with period := 10 }

theorem witness_DeadlocksBoundariesAndRefresh :
    (run 0 .nop).regionStopped 0 = false ∧ (∀ x, x < 64 → (run 0 .nop).cycle 0 x = []) ∧ deadlocked.cycle 0 0 ≠ [] ∧
    (∀ y ∈ deadlocked.cycle 0 0, 0 ≤ y) ∧ deadlocked.clusterCtx 0 = some 0 ∧ deadlocked.regionStopped 0 = false ∧
    (run 0 .nop).paceDue 0 = false ∧ paced.paceDue 0 = true ∧ (paced.ctx 0).slots.Nodup ∧
    (run 0 .nop).nv.power.rails = true := by decide +kernel

/-! ### Harp and ripeners -/

/-- A row descriptor of two rows at 2 ^ 40. -/
def row0 : RowRef :=
  { base := 0, estride := 4, len := 8, fmt := .fp32, rows := 2, stat := 5, qpos := 0, qq := 1, causal := false, eps := 0, oscale := 0 }

def harp (op : Nat) : HarpCmd := { op := op, mode := 0, d1 := row0, d2 := none, r := 0, key := none, flag := 63 }

/-- A harp with two commands waiting, ready in the same period. -/
def harpWaits (cur : Option (HarpQ × Nat)) : State :=
  (run 0 .nop).setCluster 0 {
    harpQ := [⟨1, 1, 90, some 40, 5, harp 0⟩, ⟨0, 0, 91, some 40, 5, harp 0⟩], harpCur := cur, flags := [(63, 65535)]
    records := [(5, { sum := 1 }), (6, { sum := 2 })] }

theorem witness_HarpCommandsRunInOrder :
    (∀ op ∈ [0, 1, 2, 3], (run 7 (.harp (harp op))).acts 0 7 (entry (.harp (harp op)))) ∧
    (∀ g ∈ ((harpWaits none).cluster 0).harpQ, g.ready.isSome) ∧ ⟨0, 0, 91, some 40, 5, harp 0⟩ ∈ ((harpWaits none).cluster 0).harpQ ∧
    (∀ g ∈ ((harpWaits none).cluster 0).harpQ, g ≠ ⟨0, 0, 91, some 40, 5, harp 0⟩ → 40 = g.ready.getD 0 ∧ 0 < g.port) ∧
    ((harpWaits none).cluster 0).harpCur = none ∧ (harpWaits none).regionStopped 0 = false ∧ (harpWaits none).harpHeld 0 = false ∧
    (harpWaits none).mem.wf = true ∧ ((harp 0).d2.getD (harp 0).d1).len = (harp 0).d1.len ∧
    ((harpWaits (some (⟨0, 0, 91, some 40, 5, harp 0⟩, 50))).cluster 0).harpCur = some (⟨0, 0, 91, some 40, 5, harp 0⟩, 50) := by
  unfold State.acts
  decide +kernel

/-- An update section at 2 ^ 40: one group of rule 2 with BF16 copies, an UPD of one parameter, a NOP, a PASS_END. -/
def ripBytes : List (Nat × List Byte) :=
  [(64 + 72, [0xFF, 0xFF, 2, 0, 0, 0, 1, 0]),
   (192, [1, 1] ++ leBytes 2 0 ++ leBytes 4 1 ++ leBytes 8 (2 ^ 40 + 0x1000) ++ leBytes 8 (2 ^ 40 + 0x2000) ++ leBytes 8 (2 ^ 40 + 0x3000) ++
     leBytes 8 (2 ^ 40 + 0x4000) ++ leBytes 4 64 ++ [1]),
   (192 + 128, [2])]

/-- The update stream of context 0 at command `cmd`. -/
def rip0 (cmd : Nat) : RipS :=
  { base := 2 ^ 40, ncmd := 4, ngroup := 1, ncurve := 0, groupOff := 64, curveOff := 0, cmdOff := 192, cycle := 0xFFFFFFFF, st := .running, cmd := cmd }

/-- The module with that section in a granule of context 0, and the stream as given. -/
def ripening (r : RipS) : State :=
  let s := (run 0 .nop).setGran (2 ^ 40 / 65536) { owner := some 0, home := 1, part := 0, at_ := 1 }
  let s := ripBytes.foldl (fun s p => s.put (2 ^ 40 + p.1) p.2 false) s
  { s with dev := { s.dev with rips := [((0, 0), r)] } }

/-- The constants of that group. -/
def group0 : GroupC :=
  { rule := 2, g := 0, b1 := 0, k1 := 0, b2 := 0, k2 := 0, a := 0, c2 := 0, d := 0, l := 0, eps := 0, hold := false, wsr := false, wfmt := 1,
    wscale := 0, bad := false }

/-- Its one UPD, as the stream has latched it. -/
def upd0 : Upd :=
  let s := ripening (rip0 0)
  Upd.read (s.rd (rip0 0).base) (rip0 0).at_

/-- The stream after the start of that UPD. -/
def ripAt (done : Nat) : RipS := { rip0 0 with started := some upd0, begun := [(0, group0)], done := done }

/-- `s` with every access of partition 0 by context 0 under its regulator. -/
def underRegulator (s : State) : State := s.modMem fun m => { m with bwr := [((0, 0), 0)] }

/-- The section with a wrong opcode in its UPD, and with a group that waits for a norm word. -/
def ripBad : State := (ripening (rip0 0)).put (2 ^ 40 + 192) [9] false
def ripWaits : State := (ripening (rip0 0)).put (2 ^ 40 + 64 + 56) [1] false

theorem witness_UpdStartsItsGroup :
    let r := rip0 0
    (∀ s ∈ [ripening r, underRegulator (ripening r), ripBad, ripWaits], s.rip 0 0 = some r ∧ s.ripRuns 0 r = true ∧ s.ripOp r ≠ 0 ∧
      s.ripOp r ≠ 2 ∧ s.waits (.ripener 0 0) = false ∧ s.mem.wf = true) ∧
    r.started = none ∧ r.asked = false ∧ upd0.group = 0 ∧
    (let s := ripening r
     s.updOk r upd0 = true ∧ bit upd0.tensor 22 = false ∧ s.updWaits r upd0 = false ∧ AMap.find? r.begun 0 = none ∧
     (∀ e ∈ upd0.extents (s.ruleOf r upd0).1 (s.ruleOf r upd0).2, s.reach 0 e.1 e.2 = none) ∧
     s.heldBack 0 r (r.base + (r.groupOff + 128 * 0)) 128 = false ∧
     (∀ i, i < 24 → s.regulator 0 (r.base + (r.groupOff + 128 * 0) + i) = none ∧ s.inCave (r.base + (r.groupOff + 128 * 0) + i) = false)) ∧
    ripBad.updOk r (Upd.read (ripBad.rd r.base) r.at_) = false ∧
    ripWaits.updOk r (Upd.read (ripWaits.rd r.base) r.at_) = true ∧ ripWaits.updWaits r (Upd.read (ripWaits.rd r.base) r.at_) = true ∧
    ((underRegulator (ripening r)).startReads r).head? = some (2 ^ 40 + 192, 64) ∧
    (underRegulator (ripening r)).regulator 0 (2 ^ 40 + 192) ≠ none := by decide +kernel

/-- The same stream once its reads have been asked for, and with its group begun. -/
theorem witness_UpdStartsItsGroup_asked :
    (∀ r ∈ [({ rip0 0 with asked := true } : RipS), { rip0 0 with asked := true, begun := [(0, group0)] }],
      (ripening r).rip 0 0 = some r ∧ (ripening r).ripRuns 0 r = true ∧ r.started = none ∧ r.asked = true ∧
      (ripening r).waits (.ripener 0 0) = false ∧ (ripening r).ripOp r = 1) ∧
    (AMap.find? ({ rip0 0 with begun := [(0, group0)] } : RipS).begun 0).isSome ∧
    (∀ e ∈ (ripening (rip0 0)).startReads (rip0 0), ∀ i, i < e.2 → (ripening (rip0 0)).regulator 0 (e.1 + i) = none) := by decide +kernel

theorem witness_RipenerUpdatesOneGranule :
    let r := ripAt 0
    let u := upd0
    let m := u.granule 0
    (∀ s ∈ [ripening r, ripening { r with asked := true }, underRegulator (ripening r)], s.waits (.ripener 0 0) = false ∧ s.mem.wf = true ∧
      (s.rip 0 0).isSome ∧ (∀ d : CtxId, d ≠ 0 → s.ripReady 0 d = none)) ∧
    (ripening r).ripReady 0 0 = some (r, u, group0) ∧ (ripening r).snapWaits 0 r u group0 = false ∧
    (ripening { r with asked := true }).ripReady 0 0 = some ({ r with asked := true }, u, group0) ∧
    (∀ e ∈ u.reads group0 0 m, ∀ i, i < e.2 → (ripening r).regulator 0 (e.1 + i) = none) ∧
    (∀ e ∈ [(u.master, 4 * m), (u.avg, avgBytes 2 * m), (u.wcopy, wfmtBytes 1 * m)], ∀ i, i < e.2 →
      (ripening r).regulator 0 (e.1 + i) = none ∧ (ripening r).inCave (e.1 + i) = false) ∧
    u.master + 4 * m ≤ u.avg ∧ u.master + 4 * m ≤ u.wcopy ∧ u.avg + avgBytes 2 * m ≤ u.wcopy ∧
    (underRegulator (ripening r)).ripReady 0 0 = some (r, u, group0) ∧ (underRegulator (ripening r)).snapWaits 0 r u group0 = false ∧
    (∃ e ∈ u.reads group0 0 m, (underRegulator (ripening r)).regulator 0 e.1 ≠ none) := by decide +kernel

theorem witness_UpdateStreamsMoveOn :
    (ripening (ripAt 1)).rip 0 0 = some (ripAt 1) ∧ (ripening (ripAt 1)).ripRuns 0 (ripAt 1) = true ∧ (ripAt 1).started = some upd0 ∧
    (ripAt 1).done = upd0.count ∧ (ripening (ripAt 1)).waits (.ripener 0 0) = false ∧ (ripAt 0).done ≠ upd0.count ∧
    (∀ i ∈ [1, 2], (ripening (rip0 i)).rip 0 0 = some (rip0 i) ∧ (ripening (rip0 i)).ripRuns 0 (rip0 i) = true ∧
      (rip0 i).cmd < (rip0 i).ncmd ∧ (ripening (rip0 i)).waits (.ripener 0 0) = false) ∧
    (ripening (rip0 2)).ripOp (rip0 2) = 2 ∧ (ripening (rip0 1)).ripOp (rip0 1) = 0 := by decide +kernel

/-! ### Tiers and the cave -/

/-- A granule of context 0 whose home is stack 0 and which resides in unit `at`. -/
def gran0 (u : Nat) : Gran := { owner := some 0, home := 1, part := 0, at_ := u }

/-- Granule `g` as given, queued for a move and for a retirement. -/
def tiered (g : Nat) (x : Gran) : State :=
  ((run 0 .nop).setGran g x).modMem fun m => { m with moves := [g], retire := [g] }

theorem witness_MovesAndRetirementsKeepData :
    let g := 2 ^ 40 / 65536
    (tiered g (gran0 9)).regionStopped 17 = false ∧ (7 : Nat) ∉ (tiered g (gran0 9)).dev.memS.moves ∧ g ∈ (tiered g (gran0 9)).dev.memS.moves ∧
    (tiered g (gran0 9)).gran g = some (gran0 9) ∧ (gran0 9).at_ ≠ (gran0 9).home ∧ (gran0 9).retiring = false ∧
    (let s := ((tiered g (gran0 9)).setReg .memQuota [0, 1] 1).setField .migCfg [] 4 4 1
     1 ≤ s.available (some 0) 1 ∧ s.field .migCfg [] 4 4 = 1 ∧ s.gran g = some (gran0 9) ∧ g ∈ s.dev.memS.moves) ∧
    (let s := (tiered g (gran0 9)).setField .migCfg [] 4 4 0
     s.field .migCfg [] 4 4 ≠ 1 ∧ s.gran g = some (gran0 9) ∧ g ∈ s.dev.memS.moves) ∧
    (7 : Nat) ∉ (tiered g (gran0 8)).dev.memS.retire ∧
    g ∈ (tiered g (gran0 8)).dev.memS.retire ∧ 1 ≤ (gran0 8).at_ ∧ (gran0 8).at_ ≤ 8 ∧
    0 < (tiered g (gran0 8)).field .hbmSpare [(gran0 8).at_ - 1] 63 32 := by decide +kernel

/-- One request of 3 sectors, with its effect, at the regulator of context 0 and partition 15; its bucket, and whether the regulator
is bypassed, as given. -/
def regulated (level bypass : Nat) (act : RegAct) : State :=
  let s := (run 0 .nop).modMem fun m =>
    { m with regQ := [⟨0, 15, 3, .stream 0 1 2, act⟩], bwr := [((0, 15), BitVec.ofNat 64 (2 ^ 63 * bypass))] }
  s.setField .bwrLevel [0, 15] 29 0 level

theorem witness_BucketsFillAndGrantInOrder :
    (∀ p ∈ [(191, 0), (192, 0), (0, 1)], ∀ act ∈ [RegAct.pass, .put hubBase [1, 2] [] none, .copy hubBase (hubBase + 64) 8 0],
      let s := regulated p.1 p.2 act
      s.dev.memS.regQ = [] ++ ⟨0, 15, 3, .stream 0 1 2, act⟩ :: [] ∧ s.unreg 0 15 = decide (p.2 = 1) ∧
      s.field .bwrLevel [0, 15] 29 0 = p.1 ∧ s.dev.link.flows = [] ∧ s.mem.wf = true ∧
      (∀ i, i < 72 → s.inCave (hubBase + i) = false)) ∧
    (run 0 .nop).dev.memS.regQ = [] ∧ (run 0 .nop).regionStopped 17 = false ∧ (run 0 .nop).nv.power.rails = true ∧
    (run 0 .nop).dev.link.held = [] := by decide +kernel

theorem witness_MemoryErrorsMarkTheirSectors :
    let g := 2 ^ 41 / 65536
    (tiered (2 ^ 40 / 65536) (gran0 8)).inStack 7 (2 ^ 40 + 64) = true ∧ (run 0 .nop).patrolled 7 (2 ^ 40) = true ∧
    (run 0 .nop).inStack 7 (2 ^ 40) = false ∧
    (run 0 .nop).space 0 = .local_ 0 0 ∧ (run 0 .nop).space 0x100000000 = .cluster 0 0 ∧ (run 0 .nop).space hubBase = .hub 0 ∧
    (run 0 .nop).space 0x1800000 = .hole ∧
    ((run 0 .nop).setGran g (gran0 9)).gran (2 ^ 41 / granBytes) = some (gran0 9) := by decide +kernel

/-- The write of a page of the cave. -/
def page0 : CaveW := { addr := caveBase, data := [1, 2, 3], bad := [], who := .firmware }

/-- The cave accepting writes, eight blocks, block 5 as given being filled, page 7 mapped to it, and the write of one page of a
cave granule waiting. -/
def cave (b : CaveBlk) : State :=
  let s := (((run 0 .nop).setField .caveStatus [] 4 4 1).setField .caveBlocks [] 59 40 8).setField .caveBlocks [] 19 0 1
  let s := s.setGran (caveBase / granBytes) { owner := some 0, home := 10, part := 0, at_ := 10 }
  { s with dev := { s.dev with caveQ := [.page page0] },
           nv := { s.nv with flash := { map := [(7, 5)], blocks := [(5, b)], fill := some 5 } } }

theorem witness_CavePagesAndBlocks :
    let s := cave { next := 2047 }
    s.dev.caveQ = [page0].map CaveReq.page ∧ s.regionStopped 17 = false ∧ s.nv.power.rails = true ∧ s.field .caveStatus [] 4 4 = 1 ∧ s.nv.flash.fill = some 5 ∧
    (s.nv.flash.block 5).next < 2048 ∧ (s.nv.flash.block 5).bad = false ∧ s.dev.link.flows = [] ∧ s.mem.wf = true ∧
    s.inCave caveBase = true ∧ s.inCave hubBase = false ∧
    AMap.find? s.nv.flash.map 7 = some 5 ∧
    (let t := s.setField .caveCfg [] 31 16 1; (t.nv.flash.block 5).reads < t.field .caveCfg [] 31 16) ∧
    (let t := s.setField .caveCfg [] 31 16 0; t.field .caveCfg [] 31 16 ≤ (t.nv.flash.block 5).reads) ∧
    (let t := (cave { pe := 9 }).setField .caveCfg [] 15 0 9
     t.nv.flash.spread t.caveBlocks = some (0, 9) ∧ t.nv.flash.coldest = some 5 ∧ 9 - 0 ≤ t.field .caveCfg [] 15 0) ∧
    (let t := (cave { pe := 9 }).setField .caveCfg [] 15 0 8
     t.nv.flash.spread t.caveBlocks = some (0, 9) ∧ t.nv.flash.coldest = some 5 ∧ t.field .caveCfg [] 15 0 < 9 - 0) ∧
    ((cave { bad := true }).nv.flash.block 5).bad = true ∧ (run 0 .nop).dev.caveQ = [] ∧
    100 * (s.field .caveBlocks [] 19 0 - 1) < s.caveBlocks := by decide +kernel
/-! ### Fabric -/

/-- A partner: module 7 with full credit. -/
def peer7 : Peer := { id := 7, endpoint := true, gen := 2, port := 3, credits := List.replicate 8 1536 }

/-- Port 15 as given, enabled or not. -/
def ported (k : PortS) (on : Nat) : State := ((run 0 .nop).modPort 15 fun _ => k).setField .lnkPortCtrl [15] 0 0 on

/-- A port that is UP on its four lanes. -/
def upPort : PortS :=
  { st := .up, fresh := false, lanes := [0, 1, 2, 3], peer := some peer7, credits := List.replicate 8 200, lseq := 65535, expect := 65535 }

/-- A port that the host retrains, one that retrains in service, and one in its first training. -/
def freshPort : PortS := { st := .retraining }
def servicePort : PortS := { upPort with st := .retraining }
def trainingPort : PortS := { st := .training }

theorem witness_PortsTrainRetrainAndSpare :
    (∀ k ∈ [({} : PortS), upPort, freshPort, servicePort, trainingPort], (ported k 1).port 15 = k ∧ (ported k 1).field .lnkPortCtrl [15] 0 0 = 1) ∧
    (ported {} 0).field .lnkPortCtrl [15] 0 0 = 0 ∧ (ported {} 1).field .hubState [] 2 0 = 4 ∧
    freshPort.fresh = true ∧ servicePort.fresh = false ∧ peer7.gen = 2 ∧ ¬ (peer7.id = (ported {} 1).moduleId ∧ peer7.id ≠ 0xFFF) ∧
    ({ peer7 with gen := 1 } : Peer).gen ≠ 2 ∧
    (let s := (ported {} 1).setField .lnkCfg [] 11 0 7; peer7.id = s.moduleId) ∧
    (∀ l ∈ servicePort.good ++ servicePort.lanes, l < 5 ∧ bit 0x1F l = true) ∧ ¬ bit 0x1E 0 ∧ (0 : Nat) ∈ servicePort.lanes ∧
    (ported upPort 1).linked = true ∧ (ported upPort 1).regionStopped 16 = false ∧
    ((List.range 5).filter fun l => bit 0x1E l && (decide (l < 4) || (ported {} 1).field .lnkPortCtrl [15] 3 3 == 1)) ≠ [] ∧
    ((List.range 5).filter fun l => bit 0x10 l && (decide (l < 4) || ((ported {} 1).setField .lnkPortCtrl [15] 3 3 0).field .lnkPortCtrl [15] 3 3 == 1)) = [] ∧
    (3 : Nat) ∈ upPort.good ∧ (3 : Nat) ∈ upPort.lanes ∧ (4 : Nat) ∈ upPort.good ∧ 4 ∉ upPort.lanes ∧
    (∀ j ∈ ({ upPort with good := [2], lanes := [2] } : PortS).good, j = 2) := by
  decide +kernel

/-- The table of the credit split (R204): the smallest split that fits, and one unit too many. -/
def split (n : Nat) : Word := word [(n, 48), (129, 32), (129, 16), (129, 0)]

theorem witness_PortsTrainRetrainAndSpare_split :
    (∀ n ∈ [129, 128], ∀ i, i < 4 → (129 ≤ wbits (split n) (16 * i + 15) (16 * i) ↔ (i < 3 ∨ n = 129))) ∧
    (∀ i, i < 4 → 129 ≤ wbits ((ported {} 0).reg .lnkPortCred1 [15]) (16 * i + 15) (16 * i)) ∧
    129 * 4 + (wbits ((ported {} 0).reg .lnkPortCred1 [15]) 15 0 + wbits ((ported {} 0).reg .lnkPortCred1 [15]) 31 16 +
      wbits ((ported {} 0).reg .lnkPortCred1 [15]) 47 32 + wbits ((ported {} 0).reg .lnkPortCred1 [15]) 63 48) ≤ 12288 := by decide +kernel

/-- A DATA frame of module 7 for module `dst` with `data`, which is a whole message of flow 16,383. -/
def frameFor (dst : Nat) (data : List Byte) : Frame :=
  { dst := dst, src := 7, flow := 16383, seq := 1, vc := 0, kind := 0, last := true, plen := data.length / 32, fidx := 0, msg := 1, ttl := 5, data := data }

/-- The module with id 5 and a route to module 9 on port 15, the port as given. -/
def routed (k : PortS) : State :=
  let s := (ported k 1).setField .lnkCfg [] 11 0 5
  s.modLink fun l => { l with fwd := [(9, BitVec.ofNat 32 (2 ^ 31 + 15 * 2 ^ 27))] }

/-- `routed` with one frame that waits for the port. -/
def waitTx : TxWait := ⟨15, none, 0, frameFor 9 [], none, some 0⟩
def waiting : State := (routed upPort).modLink fun l => { l with tx := [waitTx] }

theorem witness_FramesAreAcknowledgedInOrder :
    (let s := routed upPort
     (s.port 15).st = .up ∧ s.regionStopped 16 = false ∧ s.pick 15 = none ∧ s.moduleId = 5 ∧
     ∀ f ∈ [frameFor 9 [], frameFor 5 (List.replicate 32 6)], f.norm.valid = true ∧ f.norm.crc 65535 < 2 ^ 32) ∧
    ((routed {}).port 15).st ≠ .up ∧ (∀ q c, waitTx.inp = some (q, c) → q ≠ 15) ∧
    (match waiting.pick 15 with | some ((i, t), _, _) => i == 16 && t == waitTx | none => false) = true ∧
    (frameFor 9 []).norm.dst ≠ 5 ∧ (frameFor 5 []).norm.dst = 5 ∧
    (let s := (routed upPort).modLink fun l => { l with held := [(15, (frameFor 9 []).norm)] }
     s.dev.link.held ≠ [] ∧ (s.port 15).st = .up ∧ (s.port 15).expect = 65535) ∧ (routed upPort).nv.power.rails = true ∧
    (routed upPort).dev.link.held = [] ∧ (routed upPort).classHeld 15 (frameFor 9 []).norm.cls = false ∧
    (match (routed upPort).route (frameFor 9 []).norm true with | .ok out => out == 15 | .error _ => false) = true ∧
    ((routed { upPort with discarding := true }).port 15).discarding = true ∧
    (∀ n ∈ [6, 7], ((routed { upPort with replay := [⟨65535, frameFor 9 [], none, n⟩] }).port 15).replay = ⟨65535, frameFor 9 [], none, n⟩ :: []) ∧
    (65535 + 65536 - 65535 % 65536) % 65536 < 32768 ∧
    0 < ((routed { upPort with unacked := 1 }).port 15).unacked ∧ (upPort.unacked = 0 ∧ upPort.replay = []) := by
  and_intros <;> first | decide +kernel | exact fun q c h => by cases h

/-- An open RX flow of context 0 that takes messages of at most 64 bytes in two slots at 2 ^ 40, one message landed before, and
whose last CREDIT said `told`. -/
def rxFlow (told : Nat) : State :=
  let s := (routed upPort).setGran (2 ^ 40 / 65536) { owner := some 0, home := 1, part := 0, at_ := 1 }
  s.setFlow 16383 { st := .opened, kind := 1, peer := 7, pflow := 3, released := 65536, told := told, base := 2 ^ 40, slots := 2,
                    slotSize := 64, seq := 1 }

theorem witness_FramesAreAcknowledgedInOrder_lands :
    let s := rxFlow 0
    let g := (frameFor 5 (List.replicate 32 6)).norm
    let w := s.flow g.flow
    let a := w.base + g.msg % w.slots * w.slotSize + 4096 * g.fidx
    w.st = .opened ∧ w.kind = 1 ∧ w.landings = [] ∧ g.src = w.peer ∧ g.kind = 0 ∧ g.seq = w.seq ∧ 4096 * g.fidx + g.data.length ≤ w.slotSize ∧
    s.landRefused w a g.data.length = none ∧
    (∀ i, i < g.data.length → s.regulator w.ctx (a + i) = none ∧ s.inCave (a + i) = false) ∧
    s.waits (.flow g.flow w.landed) = false ∧ s.mem.wf = true ∧ (s.port 15).expect = 65535 := by decide +kernel

theorem witness_FramesAreAcknowledgedInOrder_credit :
    (∀ n ∈ [65535, 65536], let s := ((rxFlow n).modLink fun l => { l with fwd := [(7, BitVec.ofNat 32 (2 ^ 31 + 15 * 2 ^ 27))] })
      (s.flow 16383).st = .opened ∧ (s.flow 16383).kind = 1 ∧ (s.flow 16383).red = none ∧ s.regionStopped 16 = false ∧
      (s.flow 16383).peer ≠ s.moduleId ∧ s.dev.link.sends = [] ∧
      (match s.route { dst := 7, src := 5, flow := 3, seq := 0, vc := 3, kind := 3, last := true, plen := 0, fidx := 0, msg := 0,
                       ttl := s.field .lnkCfg [] 21 16, data := [] } false with | .ok out => out == 15 | .error _ => false) = true) ∧
    ((rxFlow 65536).flow 16383).released = ((rxFlow 65536).flow 16383).told := by decide +kernel

/-- A reduction of two members, a ring in INT8, one chunk of 32 elements, at rank 0; its collective as given. -/
def red0 (coll : Nat) : RedRec :=
  { coll := coll, tree := false, int16 := false, fp32 := false, g := 2, rank := 0, members := 0, tensor := 1, normId := 0, ibase := 0, slots := 1,
    count := 32, headroom := 1, decay := 0, haltPoison := false, x0 := 0, src := 2 ^ 40, res := 2 ^ 40 + 256, scale := 2 ^ 40 + 512,
    start := 2 ^ 40 + 1024, step0 := 0, root := 0, ids := [5, 9], parents := [], slab := hubBase, crc := 0 }

/-- Flow 12 of context 0 with that reduction as given; its buffers are in a granule of the context, and START is 1. -/
def reducing (x : RedS) : State :=
  let s := (routed upPort).setGran (2 ^ 40 / 65536) { owner := some 0, home := 1, part := 0, at_ := 1 }
  (s.setFlow 12 { st := .opened, kind := 2, red := some x }).put (2 ^ 40 + 1024) [1] false

/-- A round in progress. -/
def round (coll : Nat) : RedS := { cfg := red0 coll, running := true }

theorem witness_RoundsOfAReduction :
    let idle : RedS := { cfg := red0 0 }
    (∀ x ∈ [idle, { idle with rounds := 1 }, round 0, { round 0 with asked := true }, round 2], (reducing x).regionStopped 16 = false ∧
      ((reducing x).flow 12).red = some x ∧ ((reducing x).flow 12).st = .opened ∧ (reducing x).waits (.flow 12 0) = false ∧
      (reducing x).mem.wf = true) ∧
    (∀ n ∈ [0, 1, 2 ^ 32 - 1], let s := reducing { idle with rounds := n }
      (0 < (BitVec.ofNat 32 (leNat (s.bytes (red0 0).start 4)) - BitVec.ofNat 32 n).toInt ↔ n ≠ 1)) ∧
    (reducing (round 0)).regionStopped 17 = false ∧ (reducing (round 0)).landRefused ((reducing (round 0)).flow 12) (red0 0).scale 4 = none ∧
    (∀ i, i < ((red0 0).scaleOf 0).2 → (reducing (round 0)).regulator 0 (((red0 0).scaleOf 0).1 + i) = none) ∧
    (∀ i, i < 4 * (red0 0).scaleEntries → (reducing (round 0)).regulator 0 ((red0 0).scale + i) = none ∧
      (reducing (round 0)).inCave ((red0 0).scale + i) = false) ∧
    ((red0 0).coll ≤ 1 ∧ (round 0).next < (red0 0).chunks ∧ (round 0).next < (red0 0).slots) ∧
    ((red0 2).coll = 2 ∧ (round 2).next < (red0 2).pieces) ∧ ¬ ({ round 0 with next := 1 } : RedS).next < (red0 0).chunks ∧
    (let s := reducing (round 0)
     s.reach 0 (red0 0).src (4 * (red0 0).chunkLen 0) = none ∧ (let x : RedS := { round 0 with cfg := { red0 0 with src := 2 ^ 41 } }
      (reducing x).reach 0 x.cfg.src (4 * x.cfg.chunkLen 0) ≠ none ∧ x.next < x.cfg.chunks ∧ x.next < x.cfg.slots) ∧
     (∀ i, i < 4 * (red0 0).chunkLen 0 → s.regulator 0 ((red0 0).src + i) = none)) ∧
    (underRegulator (reducing (round 0))).regulator 0 (red0 0).src ≠ none ∧
    (let s := reducing (round 2)
     let a := (red0 2).pieceAt 0
     s.reach 0 (red0 2).src ((red0 2).pieceLen 0) = none ∧ s.landRefused (s.flow 12) a ((red0 2).pieceLen 0) = none ∧
     ∀ i, i < (red0 2).pieceLen 0 → s.regulator 0 ((red0 2).src + i) = none ∧ s.regulator 0 (a + i) = none ∧ s.inCave (a + i) = false) := by
  decide +kernel

/-- The round at its end: chunk 0 with its contributions in the slab, and with every chunk done. -/
theorem witness_RoundsOfAReduction_ends :
    let b : SlabS := { contrib := 2, pcount := 3 }
    let x : RedS := { round 0 with next := 1, slabs := [(0, b)] }
    ((reducing x).flow 12).red = some x ∧ x.slabs = [] ++ (0, b) :: [] ∧ (red0 0).completes 0 (red0 0).rank = true ∧ b.contrib = (red0 0).g ∧
    (∀ a, a < 66 → (reducing x).landRefused ((reducing x).flow 12) ((red0 0).res + a) (65 - a) = none) ∧
    ((red0 0).areas.getD 1 (0, 0)).2 = 65 ∧
    (∀ y ∈ [({ round 0 with next := 1, done := [0] } : RedS), { round 2 with next := 1, done := [0, 1] }],
      ((reducing y).flow 12).red = some y ∧ y.running = true ∧ y.cfg.total ≤ y.done.length ∧ (reducing y).waits (.flow 12 0) = false ∧ y.out = []) ∧
    (∀ p ∈ (round 0).slabs, (red0 0).completes p.1 (red0 0).rank = false) ∧ ¬ (red0 0).total ≤ (round 0).done.length := by decide +kernel

/-! ### Clocks and energy -/

/-- A change to step 9 under way, region 18 locked, a stretch of it in period `t`. -/
def clocked (t : Nat) : State :=
  ((run 0 .nop).setField .clkRegion [18] 0 0 1).modClk fun c => { c with target := some 9, stretchAt := [(18, t)] }

/-- Region 18 unlocked since tick 0, at tick `t`. -/
def unlocked (t : Nat) : State :=
  let s := (run 0 .nop).modClk fun c => { c with unlocks := [(18, 0)] }
  { s with dev := { s.dev with tick := t } }

theorem witness_RegionsChangeStretchAndLoseLock :
    (run 0 .nop).nv.power.rails = true ∧ (run 0 .nop).dev.hubQ = [] ∧ (run 0 .nop).dev.clk.target = none ∧ (clocked 0).dev.clk.target = some 9 ∧ (run 0 .nop).field .clkStatus [] 14 14 = 0 ∧
    ((run 0 .nop).setField .clkStatus [] 14 14 1).field .clkStatus [] 14 14 = 1 ∧
    AMap.find? (clocked 47).dev.clk.stretchAt 18 = some 47 ∧ (clocked 47).dev.period < 47 + 4 ∧
    AMap.find? (clocked 46).dev.clk.stretchAt 18 = some 46 ∧ 46 + 4 ≤ (clocked 46).dev.period ∧ (clocked 46).field .clkRegion [18] 2 2 = 0 ∧
    (run 0 .nop).field .clkRegion [18] 0 0 = 0 ∧ (clocked 0).field .clkRegion [18] 0 0 = 1 ∧
    AMap.find? (unlocked 100000).dev.clk.unlocks 18 = some 0 ∧ (unlocked 100000).dev.tick ≤ 0 + 100000 ∧ 0 + 100000 < (unlocked 100001).dev.tick := by
  decide +kernel

/-- One segment of context 0 with an energy record and `left` beats to go. -/
def planned (left : Nat) : State := (run 0 .nop).modClk fun c => { c with segs := [⟨0, 1, some (100, 5, 900), left⟩] }

/-- `s` in an electrical emergency, and after its release at tick 0. -/
def emergency (s : State) (at_ : Option Nat) : State := s.modClk fun c => { c with elec := some (16, at_) }

/-- Context 0 with a share of 1 W that has saved nothing, its segment 7 of 100 beats and 900 W held. -/
def heldStart (c : Nat) : State :=
  let s := (run 0 .nop).setCtx 0 { ctx0 with energy := [(7, (100, 5, 900))] }
  (s.setField .nrgShare [0] 43 32 1).modClk fun k => { k with held := [(c, 7, false)], segs := [⟨0, 1, some (100, 5, 900), 4⟩] }

theorem witness_PlannerPicksTheFirstAcceptableStep :
    (∀ g ∈ (planned 1).dev.clk.segs, g.tag = none ∨ g.left ≠ 0) ∧
    (∃ g ∈ (planned 0).dev.clk.segs, g.tag.isSome ∧ g.left = 0) ∧
    (planned 0).holdOver = true ∧ (emergency (planned 0) none).holdOver = false ∧ (emergency (planned 0) (some 0)).holdOver = false ∧
    ((run 0 .nop).core 0).st = .running ∧ (run 0 .nop).linked = true ∧ (wired State.reset).linked = true ∧ (∀ c : CoreId, ((wired State.reset).core c).st ≠ .running ∧ ((wired State.reset).core c).st ≠ .frozen) ∧
    (run 0 .nop).dev.clk.held = [] := by
  decide +kernel

theorem witness_PlannerPicksTheFirstAcceptableStep_held :
    let seg (s : State) : SegRun := s.segRun 0 { addr := 0, segId := 7, first := 0, ninstr := 0, ndesc := 0, bank := 0, last := false }
    (heldStart 0).dev.clk.held = [] ++ (0, 7, false) :: [] ∧
    (heldStart 0).shareCovers 0 (seg (heldStart 0)) ((heldStart 0).field .clkStep [] 12 8) = false ∧
    (∃ g ∈ (heldStart 0).dev.clk.segs, g.ctx = 0 ∧ ¬ (g.tag.isSome ∧ g.left = 0)) ∧
    (let s := (heldStart 0).setField .nrgShare [0] 43 32 0
     s.shareCovers 0 (seg s) (s.field .clkStep [] 12 8) = true ∧ s.dev.clk.held = [(0, 7, false)]) := by decide +kernel

theorem witness_MetersAndLimits :
    ¬ ((run 0 .nop).field .nrgCfg [] 47 36 * 1000 < 0) ∧
    ((run 0 .nop).field .nrgCfg [] 47 36 * 1000 < 4000000 ∧ (4000000 : Nat) ≤ 4000000) ∧
    ((run 0 .nop).modClk fun c => { c with elec := some (9, none) }).dev.clk.elec = some (9, none) ∧ (run 0 .nop).dev.clk.elec = none ∧
    (List.replicate 19 399).length = 19 ∧ (∃ t ∈ 420 :: List.replicate 18 0, 420 ≤ t) ∧ (run 0 .nop).dev.clk.hot = false ∧
    (459 : Nat) < 460 ∧ (run 0 .nop).nv.power.rails = true ∧ (run 0 .nop).dev.clk.wear ≤ wearLimit := by decide +kernel

/-! ### Mailboxes -/

/-- A command with an opcode and a payload, accepted. -/
def asked (op : Nat) (payload : List Byte) : Accepted := { fn := 0, seq := 1, tick := 0, op := op, payload := payload, counter := 1, key := none }

/-- Mailbox `m`, of context 0, holds an accepted command; core 0 is LOADED. -/
def serving (m : Nat) (a : Accepted) (st : CoreSt) : State :=
  (base { runner with st := st }).modMbox m fun b => { b with own := true, cmd := some a, owner := some 0 }

/-- A GET_INFO in the command half of mailbox 63, and a reserved opcode. -/
def submitted (op : Nat) (own : Bool) : State :=
  (base runner).modMbox 63 fun b => { b with cells := Mem.writeLE [] 6 2 op, own := own }

theorem witness_MailboxesCheckInOrderAndAnswer :
    ((submitted 1 true).modPower fun p => { p with trained := false }).linked = false ∧ ((base runner).mbox 5).cmd = none ∧
    (let s := (serving 5 (asked 0x72 []) .running).modMbox 5 fun b => { b with owner := none }
     (s.mbox 5).cmd = some (asked 0x72 []) ∧ s.mayServe 5 (asked 0x72 []) = true ∧ (s.mbox 5).owner = none) ∧
    (submitted 1 true).linked = true ∧ (submitted 1 false).linked = true ∧ ((submitted 1 true).mbox 63).own = true ∧ ((submitted 1 false).mbox 63).own = false ∧
    bit (0x80000001 : BitVec 32).toNat 31 = true ∧ bit (1 : BitVec 32).toNat 31 = false ∧ ((submitted 1 false).mbox 63).cells.wf = true ∧
    bits (0x80000001 : BitVec 32).toNat 30 0 = 1 ∧
    ((serving 5 (asked 0x33 []) .running).mbox 5).cells.wf = true ∧ (0xFFFF : Nat) < 65536 ∧ (List.replicate 2016 (7 : Byte)).length ≤ 2016 := by
  decide +kernel

/-- A payload of CONTEXT_CREATE: context `c`, cluster 1, mailbox 9, one granule of inbox in a quota of one for each stack. -/
def createBytes (c : Nat) : List Byte :=
  [BitVec.ofNat 8 c, 0, 1, 1] ++ leBytes 8 512 ++ leBytes 4 0 ++ leBytes 8 7 ++ leBytes 4 0 ++ leBytes 4 1 ++ leBytes 8 0 ++ leBytes 4 1 ++
    List.replicate 84 0

theorem witness_ContextsAreMadeRunAndEnded :
    (serving 0 (asked 0x20 (createBytes 1)) .loaded).serves 0 0x20 (asked 0x20 (createBytes 1)) ∧
    (serving 0 (asked 0x20 (createBytes 1)) .loaded).createRefused (Create.read (asked 0x20 (createBytes 1))) = none ∧
    (serving 0 (asked 0x20 (createBytes 0)) .loaded).createRefused (Create.read (asked 0x20 (createBytes 0))) = some 0x21 ∧
    (serving 0 (asked 0x21 [0, 0, 0, 0]) .running).serves 0 0x21 (asked 0x21 [0, 0, 0, 0]) ∧
    ((serving 0 (asked 0x21 [0, 0, 0, 0]) .running).ctx 0).valid = true ∧ ((serving 0 (asked 0x21 [7, 0, 0, 0]) .running).ctx 7).valid = false ∧
    (serving 0 (asked 0x21 [7, 0, 0, 0]) .running).serves 0 0x21 (asked 0x21 [7, 0, 0, 0]) ∧ (asked 0x21 [0, 1, 0, 0]).at_ 0 4 = 256 ∧
    ((((serving 0 (asked 0x21 [0, 0, 0, 0]) .running).haltCtx 0).begin_ 0).stopped 0 = true) ∧
    ((((harpWaits (some (⟨0, 0, 91, some 40, 5, harp 0⟩, 50))).haltCtx 0).begin_ 0).stopped 0 = false) ∧
    (serving 0 (asked 0x33 [0]) .running).serves 0 0x33 (asked 0x33 [0]) ∧ (serving 0 (asked 0x33 [7]) .running).serves 0 0x33 (asked 0x33 [7]) ∧
    (serving 5 (asked 0x33 []) .running).serves 5 0x33 (asked 0x33 []) ∧ ((serving 5 (asked 0x33 []) .running).mbox 5).owner = some 0 ∧
    (serving 5 (asked 0x32 (leBytes 8 9)) .loaded).serves 5 0x32 (asked 0x32 (leBytes 8 9)) ∧
    ((serving 5 (asked 0x32 (leBytes 8 9)) .loaded).ctx 0).loaded = true ∧
    (∀ d ∈ ((serving 5 (asked 0x32 (leBytes 8 9)) .loaded).ctx 0).slots, ((serving 5 (asked 0x32 (leBytes 8 9)) .loaded).core d).st = .loaded) ∧
    (serving 5 (asked 0x32 (leBytes 8 9)) .faulted).serves 5 0x32 (asked 0x32 (leBytes 8 9)) ∧
    ((serving 5 (asked 0x32 (leBytes 8 9)) .faulted).core 0).st = .faulted ∧ 0 ∈ ((serving 5 (asked 0x32 (leBytes 8 9)) .faulted).ctx 0).slots ∧
    (((serving 5 (asked 0x32 (leBytes 8 9)) .loaded).modCtx 0 fun x => { x with loaded := false }).ctx 0).loaded = false ∧
    (∀ d ∈ ((serving 5 (asked 0x34 [1]) .running).ctx 0).slots, ((serving 5 (asked 0x34 [1]) .running).core d).seqr.two = false) ∧
    1 < (asked 0x34 [2]).at_ 0 1 ∧ (serving 5 (asked 0x34 [2]) .running).serves 5 0x34 (asked 0x34 [2]) ∧
    (serving 5 (asked 0x34 [1]) .running).serves 5 0x34 (asked 0x34 [1]) ∧ (asked 0x34 [1]).at_ 0 1 ≤ 1 ∧
    (∃ d ∈ ((serving 5 (asked 0x34 [1]) .running).ctx 0).slots,
      (((serving 5 (asked 0x34 [1]) .running).modCore 0 fun k => k.modSeq fun q => { q with two := true }).core d).seqr.two = true) := by
  unfold State.serves
  decide +kernel

theorem witness_ContextsAreMadeRunAndEnded_create :
    ((serving 0 (asked 0x20 (createBytes 1)) .loaded).create (Create.read (asked 0x20 (createBytes 1))) none).isSome = true := by decide +kernel

/-- A SET_BUDGET with the sustained power `w`. -/
def budgetBytes (w : Nat) : List Byte := leBytes 4 w ++ leBytes 4 900 ++ leBytes 4 3600 ++ List.replicate 36 0

/-- A ROUTE_SET that names the module 5 and one forwarding entry. -/
def routeBytes (flags : Byte) : List Byte :=
  leBytes 2 5 ++ [flags, 1] ++ leBytes 2 1 ++ List.replicate 18 0 ++ leBytes 2 9 ++ leBytes 2 0 ++ leBytes 4 (2 ^ 31)

theorem witness_ModuleCommandsTakeEffect :
    (∀ a ∈ [asked 0x01 [], asked 0x02 [], asked 0xF0 (leBytes 4 71), asked 0xF1 (leBytes 4 71 ++ leBytes 12 0), asked 0x40 (budgetBytes 1200),
        asked 0x62 (routeBytes 1), asked 0xA0 [0], asked 0xA0 [1], asked 0xA0 [2]],
      ((serving 0 a .running).mbox 0).cmd = some a ∧ (serving 0 a .running).mayServe 0 a = true) ∧
    (∀ c ∈ [(0 : Byte), 7, 255], (serving 0 (asked 0x41 [c]) .running).mayServe 0 (asked 0x41 [c]) = true) ∧
    ((serving 0 (asked 0x41 [0]) .running).ctx 0).valid = true ∧ ((serving 0 (asked 0x41 [7]) .running).ctx 7).valid = false ∧
    (∀ n ∈ [(63 : Nat), 64, 71, 72], (asked 0xF1 (leBytes 4 n ++ leBytes 12 0)).at_ 0 4 = n) ∧
    (serving 5 (asked 0x41 []) .running).mayServe 5 (asked 0x41 []) = true ∧ ((serving 5 (asked 0x41 []) .running).mbox 5).owner = some 0 ∧
    budgetOk (asked 0x40 (budgetBytes 1200)) = true ∧ budgetOk (asked 0x40 (budgetBytes 1199)) = false ∧
    routeOk (asked 0x62 (routeBytes 1)) = true ∧ routeOk (asked 0x62 (routeBytes 8)) = false ∧
    ((routeEntries (asked 0x62 (routeBytes 1))).map (·.1)).Nodup ∧ bit ((asked 0x62 (routeBytes 1)).at_ 2 1) 0 = true ∧
    (∀ src ∈ [(0 : Byte), 1, 2, 3, 4], (serving 5 (asked 0x52 ([src, 8] ++ List.replicate 14 0)) .running).mayServe 5
      (asked 0x52 ([src, 8] ++ List.replicate 14 0)) = true) ∧
    (serving 5 (asked 0x52 []) .running).dev.rind.cur = none := by decide +kernel

/-- A program image for one slot: one segment of one NOP; its CHECK is a number here. -/
def imageBytes : List Byte :=
  let dir (t o n : Nat) : List Byte := [BitVec.ofNat 8 t, 0, 0, 0] ++ leBytes 4 o ++ leBytes 4 n ++ leBytes 4 0
  let head (check : Nat) : List Byte :=
    leBytes 4 0x4E32494D ++ leBytes 2 1 ++ [2, 0] ++ leBytes 2 1 ++ leBytes 2 4 ++ leBytes 4 328 ++ leBytes 4 0xFFFFFFFF ++ leBytes 4 0 ++
      leBytes 4 check ++ List.replicate 36 0
  let rest : List Byte :=
    dir 1 128 32 ++ dir 2 192 32 ++ dir 3 256 8 ++ dir 4 320 8 ++
      (leBytes 4 0 ++ List.replicate 12 0 ++ leBytes 4 0 ++ [1] ++ List.replicate 11 0) ++ List.replicate 32 0 ++
      (leBytes 32 (1 * 2 ^ 200 + 1 * 2 ^ 175 + 1 * 2 ^ 163)) ++ List.replicate 32 0 ++ List.replicate 64 0 ++ leBytes 8 (1 * 2 ^ 16 + 0xFFFF)
  head 201960748 ++ rest

/-- Mailbox 5 with a command, an image at 2 ^ 40 in a granule of context 0, and the volume of context 0 in the cave. -/
def loading (a : Accepted) (st : CoreSt) : State :=
  let s := (serving 5 a st).setGran (2 ^ 40 / 65536) (gran0 1)
  let s := (s.setGran (caveBase / 65536) { owner := some 0, home := 10, part := 0, at_ := 10 }).put (2 ^ 40) imageBytes false
  s.modCtx 0 fun x => { x with volBase := caveBase, volLen := 1 }

theorem witness_ContextCommandsTakeEffect_load :
    let a := asked 0x30 (leBytes 8 (2 ^ 40))
    let s := loading a .halted
    let i := Image.read (s.rd (a.at_ 0 8))
    (s.mbox 5).owner = some 0 ∧ (s.mbox 5).cmd = some a ∧ s.mayServe 5 a = true ∧
    (∀ j, j < 4 * (s.ctx 0).count → (s.core (4 * (s.ctx 0).first + j)).live = false) ∧
    s.streamsQuiet 0 = true ∧ s.harpQuiet 0 = true ∧ s.ripQuiet 0 = true ∧ s.imageReach 0 (a.at_ 0 8) 64 = true ∧
    s.imageReach 0 (a.at_ 0 8) (max 64 i.length) = true ∧ i.length = 328 ∧
    (let t := s.setCluster 0 { harpCur := some (⟨0, 0, 91, some 40, 5, harp 0⟩, 50) }
     t.harpQuiet 0 = false ∧ (t.mbox 5).cmd = some a ∧ t.mayServe 5 a = true) ∧
    s.imageReach 0 (2 ^ 41) 64 = false ∧
    (s.loadRefused 0 (Image.read fun _ _ => 0) (fun _ _ => 0) []).isSome ∧
    (∃ j, j < 4 * ((loading a .running).ctx 0).count ∧ ((loading a .running).core (4 * ((loading a .running).ctx 0).first + j)).live = true) := by
  decide +kernel

/-- A STREAM_APPEND of one segment of one instruction for slot 0, whose record is at 2 ^ 40 + 4096. -/
def append : Accepted := asked 0x31 (leBytes 8 (2 ^ 40 + 4096) ++ leBytes 4 1 ++ leBytes 4 0)
def appending : State := (loading append .running).put (2 ^ 40 + 4096) (leBytes 32 (64 * 2 ^ 224 + 7 * 2 ^ 200 + 1 * 2 ^ 175 + 1 * 2 ^ 163)) false

theorem witness_ContextCommandsTakeEffect_append :
    let s := appending
    let a := append
    let r := SegRec.ofWord (leNat (s.bytes (a.at_ 0 8) 32))
    let n := max 32 (r.off + 16 * r.seg.ndesc + 8 * r.seg.ninstr)
    (s.mbox 5).cmd = some a ∧ s.mayServe 5 a = true ∧ (s.ctx 0).loaded = true ∧ a.at_ 8 4 = 1 ∧ a.at_ 12 4 = 0 ∧
    s.imageReach 0 (a.at_ 0 8) 32 = true ∧ s.imageReach 0 (a.at_ 0 8) n = true ∧
    r.ok ((s.ctx 0).slots.any fun k => (s.core k).seqr.two) (s.ctx 0).slots.length n = true ∧
    ((s.core 0).seqr.strm (streamOf r.stream)).cycle = none ∧ s.unfetched 0 r.slot (streamOf r.stream) < 4096 ∧
    (s.alloc { owner := some 0, tier := 3, n := gransFor n } none).2.isSome ∧
    (((s.setReg .memQuota [1, 1] 12484608).alloc { owner := some 0, tier := 3, n := gransFor n } none).2 = none) ∧
    (((loading append .running).modCtx 0 fun x => { x with loaded := false }).ctx 0).loaded = false := by decide +kernel

/-- A FLOW_OPEN of flow `f`: kind `k`, VC `v`, REL, peer 9, peer flow 3, 4 slots of 64 bytes at `b`, RELWORD `x`. -/
def openFlow (f : Nat) (k v rel : Byte) (b x : Nat) : Accepted :=
  asked 0x60 (leBytes 2 f ++ [k, v, rel, 0] ++ leBytes 2 9 ++ leBytes 2 3 ++ leBytes 2 4 ++ leBytes 4 64 ++ leBytes 8 b ++ leBytes 8 x ++ List.replicate 32 0)

/-- A state with a granule of context 0 in the hub cache, too. -/
def opening (a : Accepted) : State := (loading a .running).setGran (hubBase / 65536) { owner := some 0, home := 0, part := 0, at_ := 0 }

theorem witness_ContextCommandsTakeEffect :
    (∀ a ∈ [openFlow 16319 0 0 0 0 0, openFlow 16319 1 2 0 (2 ^ 40) 0, openFlow 16319 1 2 1 (2 ^ 40) hubBase, openFlow 16319 1 2 1 (2 ^ 40) (hubBase + 2),
        openFlow 16319 1 0 0 (2 ^ 41) 0, openFlow 16319 2 1 0 0 0],
      ((opening a).mbox 5).cmd = some a ∧ (opening a).mayServe 5 a = true ∧ flowFieldsOk a = true ∧ ((opening a).flow 16319).st = .closed ∧ a.at_ 0 2 = 16319) ∧
    flowFieldsOk (openFlow 16320 0 0 0 0 0) = false ∧ flowFieldsOk (openFlow 16319 3 0 0 0 0) = false ∧
    (let s := opening append
     s.reach 0 (2 ^ 40) (4 * 64) = none ∧ (s.reach 0 (2 ^ 41) (4 * 64)).isSome ∧ s.hubWord 0 hubBase = true ∧ s.hubWord 0 (hubBase + 2) = false ∧
     ((s.setFlow 16319 { st := .opened }).flow 16319).st ≠ .closed) ∧
    (let a := asked 0x61 (leBytes 4 16319)
     let s := (loading a .running).setFlow 16319 { st := .opened, kind := 0, peer := 9, pflow := 3 }
     (s.mbox 5).cmd = some a ∧ s.mayServe 5 a = true ∧ a.at_ 0 4 < 16384 ∧ (s.flow 16319).st ≠ .closed ∧ (s.flow 16319).fw = false ∧
     (s.flow 16319).ctx = 0 ∧ s.flowDrained 16319 = true ∧
     (s.modLink fun l => { l with tx := [⟨15, none, 0, { frameFor 9 [] with flow := 3 }, none, some 0⟩] }).flowDrained 16319 = false ∧
     ((loading a .running).flow 16319).st = .closed) := by decide +kernel

/-- A FLOW_OPEN of reduction flow 16,319: a ring of two members, 32 elements in INT8, START in the hub cache, SCALE as given. -/
def openRing (scale : Nat) : Accepted :=
  asked 0x60 (leBytes 2 16319 ++ [2, 1] ++ List.replicate 60 0 ++ leBytes 4 0 ++ leBytes 2 2 ++ leBytes 2 0 ++ leBytes 8 (2 ^ 40 + 2048) ++
    leBytes 3 1 ++ [0xFF] ++ leBytes 5 0 ++ [1] ++ leBytes 4 32 ++ [1, 0] ++ leBytes 8 (2 ^ 40) ++ leBytes 8 (2 ^ 40 + 256) ++ leBytes 8 scale ++
    leBytes 8 hubBase ++ leBytes 8 0 ++ leBytes 2 0 ++ List.replicate 54 0)

/-- Its scale table in an HBM stack, and in a cave that has stopped accepting writes. -/
theorem witness_ContextCommandsTakeEffect_ring :
    let at_ (x : Nat) : State := (opening (openRing x)).put (2 ^ 40 + 2048) (leBytes 4 0xFFF ++ leBytes 4 9) false
    (∀ x ∈ [2 ^ 40 + 512, caveBase], let s := at_ x
      (s.mbox 5).owner = some 0 ∧ (s.mbox 5).cmd = some (openRing x) ∧ s.mayServe 5 (openRing x) = true ∧ flowFieldsOk (openRing x) = true ∧
      (s.flow 16319).st = .closed ∧ (openRing x).at_ 0 2 = 16319 ∧ (openRing x).at_ 2 1 = 2 ∧
      (s.openRed 0 (openRing x) none).2 = if x = caveBase then none else some 0) := by decide +kernel

/-- A cave command: `n` bytes at `x` of the cave and at byte 64 of the memory of function `fn`. -/
def caveCmd (op x n : Nat) (fn : Byte) : Accepted := asked op (leBytes 8 x ++ leBytes 8 64 ++ leBytes 8 n ++ [fn] ++ List.replicate 7 0)

theorem witness_ContextCommandsTakeEffect_cave :
    (∀ op ∈ [0x70, 0x71], ∀ p ∈ [((caveBase : Nat), (32 : Nat)), (caveBase - 32, 32), (caveBase + 1, 32)], ∀ fn ∈ [(0 : Byte), 1],
      let a := caveCmd op p.1 p.2 fn
      ((loading a .running).mbox 5).cmd = some a ∧ (loading a .running).mayServe 5 a = true ∧ a.at_ 0 8 = p.1 ∧ a.at_ 16 8 = p.2 ∧
      a.at_ 24 1 = fn.toNat ∧ a.begun = false) ∧
    (let s := loading append .running
     s.caveRange 0 caveBase 32 32 = none ∧ s.caveRange 0 (caveBase - 32) 32 32 = some 0x28 ∧ s.caveRange 0 (caveBase + 1) 32 32 = some 0x19 ∧
     s.fnOk 0 = true ∧ s.fnOk 1 = false ∧ s.mem.wf = true ∧ s.host.mem.wf = true ∧ s.caveRo = false ∧ s.field .memFault [] 8 8 = 0 ∧
     s.caveRange 0 caveBase granBytes granBytes = none ∧ s.caveRange 0 (caveBase - granBytes) granBytes granBytes = some 0x28 ∧
     (s.setField .caveStatus [] 5 5 1).caveRo = true ∧ s.caveOpen = false ∧ (s.setField .caveStatus [] 4 4 1).caveOpen = true ∧
     (s.mbox 5).cells.wf = true) ∧
    (let a := { caveCmd 0x71 caveBase 32 0 with begun := true }
     ((loading a .running).mbox 5).cmd = some a ∧ (loading a .running).mayServe 5 a = true) ∧
    (let a := asked 0x72 (leBytes 8 caveBase ++ leBytes 8 granBytes)
     ((loading a .running).mbox 5).cmd = some a ∧ (loading a .running).mayServe 5 a = true) := by decide +kernel

/-- `loading` with a snapshot and a checkpoint of context 0 under way. -/
def shipping (q : Snap) (k : Chk) : State := (loading (asked 0x50 []) .running).modCtx 0 fun x => { x with snap := some q, chk := some k }

def snap0 : Snap := { src := 2 ^ 40, len := 16385, peer := 9, pflow := 3, every := 1, next := 4, mbox := none }
def chk0 : Chk := { destA := caveBase, destB := 0, every := 1, next := 4, extents := [(2 ^ 40, 64)], mbox := none }

theorem witness_SnapshotsAndCheckpointsGoOn :
    (let a := asked 0x50 (leBytes 8 (2 ^ 40) ++ leBytes 8 64 ++ leBytes 2 9 ++ leBytes 2 3 ++ leBytes 4 0 ++ leBytes 8 4)
     let s := loading a .running
     (s.mbox 5).owner = some 0 ∧ (s.mbox 5).cmd = some a ∧ s.mayServe 5 a = true ∧ a.begun = false ∧ (s.ctx 0).snap = none ∧ a.at_ 8 8 ≠ 0 ∧
     s.reach 0 (a.at_ 0 8) (a.at_ 8 8) = none ∧ (s.reach 0 (a.at_ 0 8) (2 ^ 16 + 1)).isSome ∧
     ((s.modCtx 0 fun x => { x with snap := some { snap0 with mbox := some 5 } }).ctx 0).snap = some { snap0 with mbox := some 5 }) ∧
    (let a := asked 0x51 (leBytes 8 caveBase ++ leBytes 8 0 ++ leBytes 8 4 ++ leBytes 4 0 ++ leBytes 2 1 ++ leBytes 2 0 ++ leBytes 8 (2 ^ 40) ++ leBytes 8 64)
     let s := loading a .running
     (s.mbox 5).cmd = some a ∧ s.mayServe 5 a = true ∧ (s.ctx 0).chk = none ∧ a.zero 30 2 = true ∧
     s.destOk 0 (a.at_ 0 8) (extentBytes (readExtents a)) = true ∧ a.at_ 8 8 = 0 ∧ (∀ e ∈ readExtents a, s.reach 0 e.1 e.2 = none) ∧
     s.destOk 0 (caveBase + 65536) (extentBytes (readExtents a)) = false ∧
     ((s.modCtx 0 fun x => { x with chk := some { chk0 with mbox := some 5 } }).ctx 0).chk = some { chk0 with mbox := some 5 }) ∧
    ((base runner).ctx 0).snap = none ∧ ((base runner).ctx 0).chk = none ∧
    ((shipping snap0 chk0).ctx 0).snap = some snap0 ∧ snap0.stage = none ∧ ((shipping snap0 chk0).ctx 0).chk = some chk0 ∧
    (let s := { shipping snap0 chk0 with dev := { (shipping snap0 chk0).dev with rips := [((0, 0), { rip0 0 with step := 4 })] } }
     s.updated 0 4 = false) ∧
    (let q := { snap0 with stage := some (2 ^ 40), flow := 16319, sent := 16384 }
     let s := (shipping q chk0).setFlow 16319 { st := .opened, credit := 1, peer := 9 }
     (s.ctx 0).snap = some q ∧ (s.flow q.flow).st = .opened ∧ (s.flow q.flow).credit ≠ 0 ∧ q.sent < q.len) ∧
    (let q := { chk0 with stage := some (2 ^ 40), phase := 2 }
     let s := shipping snap0 q
     (s.ctx 0).chk = some q ∧ s.waits (.checkpoint 0) = false ∧ s.caveRo = false) := by
  decide +kernel

/-- Every firmware flow is open. -/
def allOpen (s : State) : State := (List.range 64).foldl (fun s f => s.setFlow (16320 + f) { st := .opened, fw := true }) s

/-- The step that the requests wait for is complete: a flow and staging granules to be had, or no flow. -/
theorem witness_SnapshotsAndCheckpointsGoOn_stage :
    let s := shipping { snap0 with len := 64 } chk0
    (s.ctx 0).snap = some { snap0 with len := 64 } ∧ (s.ctx 0).chk = some chk0 ∧ s.updated 0 4 = true ∧ s.freeShipFlow = some 16320 ∧
    (s.alloc { owner := some 0, tier := 4, n := gransFor 64 } none).2.isSome ∧
    (s.alloc { owner := some 0, tier := 4, n := gransFor 64 } none).1.mem.wf = true ∧ s.caveRo = false ∧ extentBytes chk0.extents = 64 ∧
    s.waits (.checkpoint 0) = false ∧ (allOpen s).updated 0 4 = true ∧ (allOpen s).freeShipFlow = none ∧
    ((allOpen s).ctx 0).snap = some { snap0 with len := 64 } := by decide +kernel

/-- A staged shipment without credit, one that has sent all, one whose flow is closed; a staged checkpoint that waits, one at its end. -/
theorem witness_SnapshotsAndCheckpointsGoOn_steps :
    let q (n : Nat) : Snap := { snap0 with stage := some (2 ^ 40), flow := 16319, sent := n }
    let at_ (n credit : Nat) (st : FlowSt) : State := (shipping (q n) chk0).setFlow 16319 { st := st, credit := credit, peer := 9 }
    (((at_ 0 0 .opened).flow 16319).credit = 0 ∧ ((at_ 0 0 .opened).ctx 0).snap = some (q 0)) ∧
    (((at_ 20000 1 .opened).flow 16319).credit ≠ 0 ∧ (q 20000).len < (q 20000).sent) ∧ ((at_ 0 1 .faulted).flow 16319).st ≠ .opened ∧
    (∀ n ∈ [1, 2], let k : Chk := { chk0 with stage := some (2 ^ 40), phase := n }
      let w : CaveW := { addr := caveBase, data := [], bad := [], who := .checkpoint 0 }
      let s := shipping snap0 k
      (s.ctx 0).chk = some k ∧ ({ s with dev := { s.dev with caveQ := [.page w] } }).waits (.checkpoint 0) = true) ∧
    (let k : Chk := { chk0 with stage := some (2 ^ 40), phase := 3 }
     ((shipping snap0 k).ctx 0).chk = some k ∧ k.phase ≠ 1 ∧ k.phase ≠ 2 ∧ (shipping snap0 k).waits (.checkpoint 0) = false) ∧
    ((shipping snap0 chk0).setField .caveStatus [] 5 5 1).caveRo = true := by decide +kernel

/-! The CHECK of that image, computed in three parts. -/

def crcBytes : List Byte := imageBytes.take 24 ++ leBytes 4 0 ++ imageBytes.drop 28
def crcStep (c : Nat) (b : Byte) : Nat := crc32Bits 8 (c ^^^ b.toNat)

theorem foldl_cut {α β : Type} (f : β → α → β) (n : Nat) (l : List α) (c : β) :
    l.foldl f c = (l.drop n).foldl f ((l.take n).foldl f c) := by
  rw [← List.foldl_append, List.take_append_drop]

theorem crc_part1 : (crcBytes.take 110).foldl crcStep 0xFFFFFFFF = 3281481180 := by decide +kernel
theorem crc_part2 : ((crcBytes.drop 110).take 110).foldl crcStep 3281481180 = 1287213537 := by decide +kernel
theorem crc_part3 : ((crcBytes.drop 110).drop 110).foldl crcStep 1287213537 = 4093006547 := by decide +kernel

theorem crc_image : crcBytes.foldl crcStep 0xFFFFFFFF = 4093006547 := by
  rw [foldl_cut crcStep 110, crc_part1, foldl_cut crcStep 110, crc_part2, crc_part3]

theorem crc32_eq (l : List Byte) : crc32 l = l.foldl crcStep 0xFFFFFFFF ^^^ 0xFFFFFFFF := rfl

theorem crc32_image : crc32 crcBytes = 4093006547 ^^^ 0xFFFFFFFF := by rw [crc32_eq, crc_image]

theorem checkOk_eq (bs : List Byte) : checkOk bs = (crc32 (bs.take 24 ++ leBytes 4 0 ++ bs.drop 28) == leNat ((bs.drop 24).take 4)) := rfl

theorem image_check : checkOk imageBytes = true := by
  rw [checkOk_eq, ← crcBytes, crc32_image]
  decide +kernel

theorem witness_ContextCommandsTakeEffect_image :
    (loading (asked 0x30 (leBytes 8 (2 ^ 40))) .halted).bytes (2 ^ 40) 328 = imageBytes ∧
    (loading (asked 0x30 (leBytes 8 (2 ^ 40))) .halted).loadRefused 0 (Image.read fun o n => leNat ((imageBytes.drop o).take n))
      (fun o n => leNat ((imageBytes.drop o).take n)) imageBytes = none := by
  refine ⟨by decide +kernel, ?_⟩
  simp only [State.loadRefused, image_check]
  decide +kernel

/-! ### Sessions, host accesses, events, power -/

/-- A live session of id 3, its binding proof not yet given. -/
def sess3 : Sess := { id := 3, bus := false, ems := [1, 2, 3], up := true }

/-- Mailbox 63 with a command, and that session. -/
def secured (a : Accepted) : State := (serving 63 a .running).modSpdm fun p => { p with sessions := [sess3] }

/-- SESSION_OPEN of session 3 with bind number 1 for mailboxes 5 and 6, and its proof. -/
def bindHead : List Byte := leBytes 4 3 ++ leBytes 4 1 ++ leBytes 8 96
def bindBytes : List Byte := bindHead ++ (hmac (hkdfExpand sess3.ems (asciiBytes "N2MB-BND") 32) bindHead).take 16

theorem bind_proof (l t : List Byte) (h : l.length = 16) : ((l ++ t.take 16).drop 16).take 16 = t.take 16 ∧ (l ++ t.take 16).take 16 = l := by
  constructor
  · rw [← h, List.drop_left, h, List.take_take, Nat.min_self]
  · rw [← h, List.take_left]

theorem witness_SecurityCommandsCheckTheirProof :
    let a := asked 0x10 bindBytes
    ((secured a).mbox 63).cmd = some a ∧ (secured a).mayServe 63 a = true ∧
    (secured a).dev.spdm.sessions.find? (fun x => x.id == 3 && x.up) = some sess3 ∧
    (hmac (hkdfExpand sess3.ems (asciiBytes "N2MB-BND") 32) (a.payload.take 16)).take 16 = (a.payload.drop 16).take 16 ∧
    sess3.bindNo < 1 ∧ (∀ n ∈ maskBits 96, (secured (asked 0x10 [])).boundElsewhere 3 n = false) := by
  have h := bind_proof bindHead (hmac (hkdfExpand sess3.ems (asciiBytes "N2MB-BND") 32) bindHead) (by decide +kernel)
  refine ⟨rfl, rfl, rfl, ?_, by decide, by decide +kernel⟩
  show (hmac _ (bindBytes.take 16)).take 16 = (bindBytes.drop 16).take 16
  unfold bindBytes
  rw [h.1, h.2]

/-- No session, a bind number that does not rise, a mailbox of the mask bound to another live session. -/
theorem witness_SecurityCommandsCheckTheirProof_refused :
    ((serving 63 (asked 0x10 bindBytes) .running).dev.spdm.sessions.find? (fun x => x.id == 3 && x.up) = none) ∧
    ¬ (sess3.bindNo < (asked 0x10 (leBytes 4 3 ++ leBytes 4 0)).at_ 4 4) ∧
    (let s := ((secured (asked 0x10 bindBytes)).modSpdm fun p => { p with sessions := [sess3, { sess3 with id := 4 }] }).modMbox 6 fun b => { b with session := some 4 }
     s.dev.spdm.sessions.find? (fun x => x.id == 3 && x.up) = some sess3 ∧ ∃ n ∈ maskBits 96, s.boundElsewhere 3 n = true) := by
  refine ⟨rfl, by decide +kernel, rfl, 6, by decide +kernel, by decide +kernel⟩

/-- A state with fuse word `n` holding `v`. -/
def withFuse (s : State) (n : Nat) (v : BitVec 64) : State :=
  { s with nv := { s.nv with fuses := AMap.set s.nv.fuses n v } }

/-- A bundle of version 1 for this stepping; a token of zeros. Whether their signatures verify is for the keys to say. -/
def bundle1 : List Byte := leBytes 4 0x4E325042 ++ [1, 0, 0, 0] ++ leBytes 4 0x20100 ++ leBytes 4 128 ++ List.replicate 112 0
def token0 : List Byte := List.replicate 120 0

theorem witness_SecurityCommandsCheckTheirProof_rest :
    (∀ a ∈ [asked 0x11 (List.replicate 32 7), asked 0x90 token0], ((secured a).mbox 63).cmd = some a ∧ (secured a).mayServe 63 a = true) ∧
    (let a := asked 0x80 (leBytes 8 0 ++ leBytes 4 128 ++ leBytes 4 0)
     let s := serving 0 a .running
     (s.mbox 0).cmd = some a ∧ s.mayServe 0 a = true ∧ a.zero 13 3 = true ∧ s.fnOk (a.at_ 12 1) = true ∧ a.at_ 8 4 ≤ 65536 ∧
     (asked 0x80 (leBytes 8 0 ++ leBytes 4 65537 ++ leBytes 4 0)).at_ 8 4 = 65537 ∧ s.fnOk 1 = false ∧
     (asked 0x80 (leBytes 8 0 ++ leBytes 4 128 ++ [0, 1, 0, 0])).zero 13 3 = false ∧
     s.bundleOk (Mem.readN s.host.mem 0 128) = false ∧ bundleLen bundle1 = 128 ∧ s.field .featGen [] 23 16 < bundleVersion bundle1) ∧
    (withFuse (secured (asked 0x90 token0)) 68 1).tokenOk token0 = false := by decide +kernel

/-- With a signature that verifies, the bundle is valid and the token grants its scope. -/
theorem witness_SecurityCommandsCheckTheirProof_signed
    (hp : Config.patchVerify (beBits 256 (sha256 (bundle1.take 64))) (beBits 512 ((bundle1.drop 64).take 64)) = true)
    (hd : Config.debugVerify (beBits 256 (sha256 (token0.take 56))) (beBits 512 ((token0.drop 56).take 64)) = true) :
    (∀ v, v < 2 → ((base runner).setField .featGen [] 23 16 v).bundleOk bundle1 = true) ∧ (secured (asked 0x90 token0)).tokenOk token0 = true := by
  constructor
  · intro v hv
    have h : bundleLen bundle1 = 128 := by decide +kernel
    unfold State.bundleOk
    rw [h]
    simp only [hp, Bool.and_true]
    revert v
    decide +kernel
  · unfold State.tokenOk
    simp only [hd]
    decide +kernel

/-- The SPDM responder at step `n` of the connection, with the sessions as given. -/
def responder (n : Nat) (l : List Sess) : State := (base runner).modSpdm fun p => { p with doe := n, sessions := l }

theorem witness_SpdmRequestsAreAnswered :
    State.reset.hubState = 1 ∧ ((responder 0 []).modPower fun p => { p with perst := true }).linked = false ∧
    (responder 0 []).nv.power.rails = true ∧ (responder 0 []).hubState ≠ 1 ∧ (responder 0 []).linked = true ∧ 1 ≤ (responder 1 []).dev.spdm.doe ∧ 2 ≤ (responder 2 []).dev.spdm.doe ∧
    (responder 2 []).dev.spdm.doe < 3 ∧ 3 ≤ (responder 3 []).dev.spdm.doe ∧
    (responder 3 [sess3, sess3, sess3]).dev.spdm.sessions.length < 4 ∧ 4 ≤ (responder 3 [sess3, sess3, sess3, sess3]).dev.spdm.sessions.length ∧
    (responder 3 []).ownerSet = false ∧ 7 ∉ (responder 3 []).dev.spdm.used ∧
    (responder 3 [{ sess3 with up := false }]).dev.spdm.sessions.find? (fun y => y.id == 3 && y.bus == false && !y.up) = some { sess3 with up := false } ∧
    (∃ x ∈ (responder 3 [sess3]).dev.spdm.sessions, x.id = 3 ∧ x.bus = false ∧ x.up = true) ∧
    (responder 0 []).dev.spdm.doe < 1 ∧ (responder 1 []).dev.spdm.doe < 2 ∧
    (((responder 3 [sess3, { sess3 with up := false }]).dev.spdm.sessions.filter (·.up)).length < 4) ∧
    (4 ≤ ((responder 3 [sess3, sess3, sess3, sess3]).dev.spdm.sessions.filter (·.up)).length) ∧
    ((responder 3 [sess3, sess3, sess3, sess3, { sess3 with id := 9, up := false }]).dev.spdm.sessions.find?
      (fun y => y.id == 9 && y.bus == false && !y.up)).isSome ∧
    (withFuse (responder 3 []) 64 1).ownerSet = true ∧ [] ≠ (withFuse (responder 3 []) 64 1).ownerHash ∧
    ((responder 3 [sess3]).dev.spdm.sessions.find? (fun y => y.id == 3 && y.bus == false && !y.up) = none) ∧
    ¬ (∃ x ∈ (responder 3 [{ sess3 with up := false }]).dev.spdm.sessions, x.id = 3 ∧ x.up = true) ∧ (23 : Nat) ∈ [1, 2, 3, 4, 5, 16, 17, 18, 19, 20, 21, 22, 23] ∧
    (6 : Nat) ∉ [1, 2, 3, 4, 5, 16, 17, 18, 19, 20, 21, 22, 23] := by decide +kernel

theorem witness_HostAccessesFollowTheirCodes :
    (base runner).linked = true ∧ ((base runner).modPower fun p => { p with trained := false }).linked = false ∧ (0x1002 : Nat) % 8 ≠ 0 ∧ regAt (regAddr .secLast []) = some (.secLast, []) ∧ regAddr .secLast [] % 8 = 0 ∧
    (regAddr .secLast [] < 0x100000 ∨ 0x140000 ≤ regAddr .secLast []) ∧
    regAt (regAddr .nrgCtx [7]) = some (.nrgCtx, [7]) ∧ (regRow .nrgCtx).size = 8 ∧ regAt (regAddr .nrgCtx [7] + 4) = none ∧
    (regAddr .nrgCtx [7] < 0x100000 ∨ 0x140000 ≤ regAddr .nrgCtx [7]) ∧ (regRow .taintCnt).fields = counterFields ∧
    regAt (regAddr .taintCnt [7]) = some (.taintCnt, [7]) ∧
    (base runner).hostReachAll ((base runner).winBase 0 + 0xFFFFF0000) 1 = false ∧
    (let s := (base runner).setGran (hubBase / granBytes) { owner := some 0, home := 0, part := 0, at_ := 0 }
     s.winBase 0 = 0 ∧ s.hostReachAll (s.winBase 0 + 0x100000000) 4 = true ∧ s.mem.wf = true ∧
     (0x100000000 / granBytes : Nat) = (0x100000000 + 4) / granBytes ∧ (s.gran (0x100000000 / granBytes)).isNone) := by
  decide +kernel

/-- A register with no rule of its own, and the cave: read-only, or taking a write within one page. -/
theorem witness_HostAccessesFollowTheirCodes_rest :
    (regRow .secLast).size = 8 ∧ (regRow .secLast).fields ≠ counterFields ∧ regAt (regAddr .secLast [] + 4) = none ∧
    RegName.secLast ∉ [RegName.hubHoopCfg, .coreCtrl, .seqDbgData, .vecRngDef, .rngWord0, .rngWord1,
        .hrpSideData, .strListData, .bwrCfg, .lnkPortCtrl, .lnkPortCred0, .lnkPortCred1, .nrgModel, .clkStep, .evtPtr, .rindTrig, .nrgTriplog] ∧
    (∀ f ∈ (regRow .nrgCtx).fields, f.acc ≠ .rc) ∧ (regAt 4).isNone ∧
    (let s := ((base runner).setGran (caveBase / granBytes) { owner := some 0, home := 10, part := 0, at_ := 10 }).setField .hifWin [0] 63 36 (caveBase / 2 ^ 36)
     let a := s.winBase 0 + 16383
     a = caveBase + 16383 ∧ s.hostReachAll a 1 = true ∧ s.caveRo = false ∧ a % pageBytes + 1 ≤ pageBytes ∧ s.inCave a = true ∧
     a / granBytes ≤ caveBase / granBytes ∧ caveBase / granBytes * granBytes < a + 1 ∧
     s.gran (caveBase / granBytes) = some { owner := some 0, home := 10, part := 0, at_ := 10 } ∧
     (s.setField .caveStatus [] 5 5 1).caveRo = true ∧ (s.setField .caveStatus [] 5 5 1).hostReachAll a 1 = true) := by
  decide +kernel

theorem witness_VectorsAreSentOrHeld :
    (wired State.reset).linked = true ∧ (wired State.reset).host.msixOn = true ∧ (4095 : Nat) ∉ (wired State.reset).host.unmasked ∧ (2047 + 2048 * 1 : Nat) ∉ (wired State.reset).host.pending ∧
    ({ State.reset with host := { State.reset.host with unmasked := [4095] } } : State).host.unmasked = [4095] ∧
    ({ State.reset with host := { State.reset.host with msixOn := false } } : State).host.msixOn = false := by decide +kernel

theorem witness_SideDoorsOfACluster :
    (base runner).linked = true ∧ (∃ j, j < 4 ∧ (((base runner).core (4 * 0 + j)).st = .running ∨ ((base runner).core (4 * 0 + j)).st = .frozen)) ∧
    ¬ (∃ j, j < 4 ∧ (((base runner).core (4 * 15 + j)).st = .running ∨ ((base runner).core (4 * 15 + j)).st = .frozen)) := by decide +kernel

/-- A module without contexts. -/
def bare : State := { wired State.reset with dev := { State.reset.dev with cores := [(1, { st := .loaded }), (2, { st := .fusedOff })] } }

theorem witness_GuardedWritesAreRefusedOrStored :
    bare.linked = true ∧ (base runner).linked = true ∧ (∀ c : CtxId, (bare.ctx c).valid = false) ∧ ((base runner).ctx 0).valid = true ∧ bare.joined = false ∧
    ((bare.setField .hubHoopCfg [] 1 1 1).field .hubHoopCfg [] 1 1 = 1) ∧
    (bare.core 2).st = .fusedOff ∧ (bare.core 0).st = .idle ∧ bare.clusterCtx 0 = none ∧ (bare.core 1).st = .loaded ∧
    bare.field .secStatus [] 5 5 = 0 ∧ (bare.setField .secStatus [] 5 5 1).field .secStatus [] 5 5 = 1 ∧ (bare.core 0).seqr.two = false ∧
    bare.field .seqDbgAddr [0, 0] 12 12 = 0 ∧ ((bare.core 0).seqr.bankOf .fwd 0).st ≠ .active ∧
    ((base { seqr := { banks := [(0, { st := .active })] } }).core 0).seqr.banks = [(0, { st := .active })] ∧
    (((base { seqr := { banks := [(0, { st := .active })] } }).core 0).seqr.bankOf .fwd 0).st = .active ∧
    (let s := ((bare.setField .seqDbgAddr [0, 0] 12 12 1).setField .seqDbgAddr [0, 0] 11 0 511)
     s.field .seqDbgAddr [0, 0] 12 12 = 1 ∧ s.field .seqDbgAddr [0, 0] 11 0 < 512) ∧
    512 ≤ ((bare.setField .seqDbgAddr [0, 0] 12 12 1).setField .seqDbgAddr [0, 0] 11 0 512).field .seqDbgAddr [0, 0] 11 0 ∧
    ¬ ((run 0 .nop).core 0).st = .halted ∧ AMap.find? (bare.core 0).vec.rng 0 = none ∧
    ((bare.core 1).st ≠ .fusedOff ∧ (bare.core 1).st ≠ .idle ∧ (bare.core 1).st ≠ .outOfService) ∧ ((run 0 .nop).clusterCtx 0).isSome ∧
    AMap.find? ((base { st := .halted, vec := { rng := [(511, {})] } }).core 0).vec.rng 511 = some {} := by decide +kernel

/-- A wave of the host in progress, the regions still to capture, a trigger pending. -/
def waving (todo : List Nat) (p : Option WaveSrc) : State :=
  (base runner).modRind fun q => { q with cur := some ⟨4, none⟩, todo := todo, pending := p }

theorem witness_EventsHaltsAndWaves :
    (base runner).linked = true ∧ ((base runner).log 9).tail < 256 ∧ ((base runner).ctx 0).faults = [] ∧
    (((base runner).modCtx 0 fun x => { x with faults := [(1, 2, 3)] }).ctx 0).faults = (1, 2, 3) :: [] ∧
    (0 : BitVec 64).toNat % 2 = 0 ∧ (1 : BitVec 64).toNat % 2 = 1 ∧ (base runner).dev.rind.cur = none ∧ (waving [] none).dev.rind.cur ≠ none ∧
    (waving [] (some ⟨4, none⟩)).dev.rind.pending ≠ none ∧
    (let s := (base runner).modRind fun q => { q with started := true }
     s.dev.rind.started = true ∧ s.dev.tick < s.dev.rind.startTick + (s.setField .rindCfg [] 31 0 1).field .rindCfg [] 31 0) ∧
    (∀ c : CtxId, ((base runner).ctx c).arming = none) ∧
    (let s := (base runner).modCtx 0 fun x => { x with arming := some { src := 3, cls := 0, step := 0, once := true } }
     (s.ctx 0).arming = some { src := 3, cls := 0, step := 0, once := true }) ∧
    ((waving [18] none).modRind fun q => { q with cut := true }).dev.rind.cut = true ∧ (waving [18] none).dev.rind.cut = false ∧
    (waving [18] none).regionStopped 18 = false ∧ ((waving [18] none).setField .clkRegion [18] 2 2 1).regionStopped 18 = true ∧
    (∀ r ∈ (waving [18] none).dev.rind.todo, ((waving [18] none).setField .clkRegion [18] 2 2 1).regionStopped r = true) ∧
    (18 : Nat) ∈ (waving [18] none).dev.rind.todo ∧ (waving [18] none).field .clkRegion [18] 2 2 = 0 ∧
    (∀ r ∈ (waving [18] none).dev.rind.todo, ((waving [18] none).setField .clkRegion [18] 2 2 1).field .clkRegion [r] 2 2 = 1) := by decide +kernel

/-- The module without power, and at a state of start-up. -/
def dark : State := State.reset.modPower fun p => { p with rails := false, cause := 3 }
def hubAt (n : Nat) : State := State.reset.setField .hubState [] 2 0 n

theorem witness_StartUpRunsToReady :
    dark.nv.power.rails = false ∧ dark.nv.power.input = true ∧ dark.nv.power.trip = false ∧ dark.nv.power.pwrEn = true ∧
    (dark.modPower fun p => { p with input := false }).nv.power.input = false ∧
    (dark.modPower fun p => { p with pwrEn := false }).nv.power.pwrEn = false ∧
    (∀ n ∈ [0, ticks100ms - 1, ticks100ms], let s := dark.modPower fun p => { p with trip := true, low := n }
      s.nv.power.trip = true ∧ s.nv.power.low = n ∧ s.nv.power.rails = false ∧ s.nv.power.input = true) ∧
    dark.nv.power.low = 0 ∧
    (hubAt 1).nv.power.rails = true ∧ (hubAt 1).hubState = 1 ∧ (hubAt 1).fuseMapOk = true ∧ (withFuse (hubAt 1) 0 0xF).fuseMapOk = false ∧
    (hubAt 2).hubState = 2 ∧ ((hubAt 2).core 63).st ≠ .fusedOff ∧ (hubAt 3).hubState = 3 ∧ (hubAt 3).field .lnkPortCtrl [15] 0 0 = 1 ∧
    ((hubAt 3).port 15).st ≠ .up ∧ (((hubAt 3).modPort 15 fun _ => upPort).port 15).st = .up := by decide +kernel

/-- `hubAt n` with its supply as `f` makes it. -/
def supplied (n : Nat) (f : PowerS → PowerS) : State := (hubAt n).modPower f

theorem witness_StopsAndResetsKeepWhatTheyMust :
    ¬ dark.nv.power.rails = true ∧ (hubAt 4).nv.power.rails = true ∧ (hubAt 4).hubState ≠ 1 ∧ (hubAt 4).nv.power.lost = false ∧
    (hubAt 4).nv.power.stopAt = none ∧ (supplied 7 fun p => { p with lost := true }).nv.power.lost = true ∧
    (supplied 7 fun p => { p with stopAt := some 0 }).nv.power.stopAt = some 0 ∧
    (let s := supplied 7 fun p => { p with stopAt := some 0 }
     ({ s with dev := { s.dev with tick := 2 * ticks100ms } }).nv.power.stopAt = some 0 ∧ s.nv.power.lost = false ∧ s.nv.power.rails = true) ∧
    dark.nv.power.pwrEn = true ∧ dark.nv.power.trip = false ∧ (hubAt 1).hubState = 1 ∧
    (dark.modPower fun p => { p with trip := true }).nv.power.trip = true ∧ (4 : Nat) ≤ 4 ∧ dark.nv.eeprom.wf = true ∧
    (wired (hubAt 4)).linked = true ∧ (hubAt 4).linked = false := by decide +kernel

/-- A link that trains at once, bifurcated or not, and one that waits: before 100 ms after PWR_GOOD, at BOOT. -/
theorem witness_StopsAndResetsKeepWhatTheyMust_link :
    (∀ b ∈ [0, 1], let s := (supplied 4 fun p => { p with good := ticks100ms }).setField .hifCfg [] 0 0 b
      s.nv.power.rails = true ∧ ¬ s.nv.power.good < ticks100ms ∧ s.hubState ≠ 1 ∧ s.nv.power.trained = false ∧ s.field .hifCfg [] 0 0 = b) ∧
    (hubAt 4).nv.power.good < ticks100ms ∧ (supplied 1 fun p => { p with good := ticks100ms }).hubState = 1 := by decide +kernel

/-! ### Well-formedness: an ill-formed command for each check -/

def peer0 : Peer := { id := 7, endpoint := false, gen := 2, port := 0, credits := List.replicate 8 64 }
def frame0 : Frame := { dst := 1, src := 7, flow := 0, seq := 0, vc := 0, kind := 0, last := true, plen := 1, fidx := 0,
                        msg := 0, ttl := 63, data := List.replicate 32 0 }
def loc0 : RowLoc := ⟨0, 0, 0⟩

theorem smoke_well_formed : ∀ i ∈ [Instr.tileArrive 0 .cw (2 ^ 256 - 1) 0 [8191], .granuleMove (2 ^ 32 - 1), .sramAccess (2 ^ 48 - 1) .clean,
    .hbmRefresh ⟨7, 255⟩,
    .frameReceive 0 frame0 0 0 0 0, .portRetrain 0 0 peer0, .lcredit 0 0 65535, .thermtrip 0 1023, .finish true (2 ^ 32 - 1) true [],
    .registerWrite 0 (2 ^ 26 - 4) 4 0, .bar2Access 0 (2 ^ 40 - 1) (some [0]) 0, .selfTestComplete [] [] [] 7 true true,
    .perstDeassert 16 0 15, .resizableBarWrite 4, .portTableWrite 0x1FFF [0]], WellFormed i = true := by decide +kernel

theorem smoke_operands_out_of_range : ∀ i ∈ [Instr.tileArrive 0 .cw (2 ^ 256) 0 [], .tileArrive 0 .cw 0 0 [8192], .granuleMove (2 ^ 32),
    .stackedMemoryAccess 0 (2 ^ 48) loc0 .clean false, .sramAccess (2 ^ 48) .clean, .cellarAccess (2 ^ 48) false,
    .patrolScrubRead 0 (2 ^ 48) loc0 .clean false, .hbmRefresh ⟨0, 256⟩, .granuleRetire (2 ^ 32), .lcredit 0 0 65536, .meterInterval [] (List.replicate 16 0) 0,
    .meterInterval (List.replicate 12 0) [] 0, .thermalSample [], .thermalSample (List.replicate 19 1024), .thermtrip 0 1024,
    .getCertificate true 8 0 0, .getCertificate true 0 65536 0, .getCertificate true 0 0 65536, .challenge true 8 [],
    .getMeasurements true 256 [], .keyExchange true true (2 ^ 32) [], .finish true (2 ^ 32) true [], .heartbeat true (2 ^ 32),
    .keyUpdate true (2 ^ 32), .endSession true (2 ^ 32), .sessionHeartbeatTimeout (2 ^ 32)], WellFormed i = false := by decide +kernel

theorem smoke_accesses_out_of_range : ∀ i ∈ [Instr.bar2Access 0 (2 ^ 40) none 4, .bar2Access 0 0 (some []) 0, .bar2Access 0 0 (some [0]) 1,
    .bar2Access 0 0 none 0, .registerWrite 0 0 2 0, .registerWrite 0 4 8 0, .registerWrite 0 (2 ^ 26) 8 0, .registerReadClear 2 4,
    .counterSatClear 4, .selfTestComplete [] [] [] 1 true true, .selfTestComplete [] [] [] 8 true true, .perstDeassert 3 0 0,
    .perstDeassert 0 3 0, .perstDeassert 0 0 16, .resizableBarWrite 5, .portTableWrite 0xFFF [0], .portTableWrite 0x1FFF [0, 0]],
    WellFormed i = false := by decide +kernel

theorem smoke_peers_and_frames : (∀ q ∈ [{ peer0 with id := 4096 }, { peer0 with port := 16 }, { peer0 with gen := 256 },
      { peer0 with credits := [] }, { peer0 with credits := List.replicate 8 65536 }],
      WellFormed (.portTrainingComplete 0 0 q) = false ∧ WellFormed (.portRetrain 0 0 q) = false) ∧
    (∀ f ∈ [{ frame0 with pmask := 2 ^ 128 }, { frame0 with dst := 4096 }, { frame0 with src := 4096 }, { frame0 with flow := 16384 },
      { frame0 with seq := 2 ^ 24 }, { frame0 with vc := 4 }, { frame0 with kind := 8 }, { frame0 with plen := 256, data := List.replicate 8192 0 },
      { frame0 with fidx := 2 ^ 20 }, { frame0 with msg := 65536 }, { frame0 with ttl := 64 }, { frame0 with rsv := 512 },
      { frame0 with tail := 65536 }, { frame0 with data := List.replicate 8193 0 }], WellFormed (.frameReceive 0 f 0 0 0 0) = false) := by decide +kernel

/-! ### Instruction words written out from the tables of fields and operands -/

/-- Q registers that hold their own number; memory descriptor 1 (base 0x1000, stride 512), tag descriptor 2, key descriptor 3. -/
def env : DecEnv :=
  { q := fun n => n
    desc := fun i => if i = 1 then BitVec.ofNat 128 (1 * 2 ^ 124 + 0x1000 * 2 ^ 96 + 512 * 2 ^ 76)
      else if i = 2 then BitVec.ofNat 128 (2 * 2 ^ 124 + 9 * 2 ^ 100 + 5 * 2 ^ 80 + 6 * 2 ^ 60 + 3 * 2 ^ 56 + 1 * 2 ^ 55 + 2 * 2 ^ 50 + 1 * 2 ^ 45)
      else if i = 3 then BitVec.ofNat 128 (3 * 2 ^ 124 + 9 * 2 ^ 100 + 100 * 2 ^ 60 + 128 * 2 ^ 36 + 2 * 2 ^ 31 + 7)
      else 0
    two := false, folded := false, paced := false, streams := 64, harpBytes := 0 }

/-- Opcode, engine and OFFSET of a word. -/
def head (op engine offset : Nat) : Nat := op * 2 ^ 56 + engine * 2 ^ 52 + offset * 2 ^ 36

/-- The command of a word, or its refusal. -/
def got (v : DecEnv) (w : Nat) : Option Cmd := (v.resolve w).toOption
def refusal (v : DecEnv) (w : Nat) : Option Refuse := match v.resolve w with | .error r => some r | .ok _ => none

theorem test_fields_of_a_word : (opcodeOf (head 0x12 1 200), engineOf (head 0x12 1 200), offsetOf (head 0x12 1 200)) = (0x12, 1, 200) := by
  decide +kernel

/-- The gate and the MULX of the worked example of a late tile; a VADD of INT32 lanes; a VLD of vector 2; a DRAIN to a register. -/
theorem test_words :
    got env (head 0x01 0 200 + 1 * 2 ^ 33 + 2 * 2 ^ 25) =
      some (.gateArrive .cw false true ⟨9, 7, 7, 3, true⟩) ∧
    got env (head 0x12 1 2 + 0xFF * 2 ^ 28 + 127 * 2 ^ 17 + 3 * 2 ^ 13) =
      some (.mulx .special 128 .e4m3 false 0 0 .start) ∧
    got env (head 0x20 3 0 + 3 * 2 ^ 30 + 1 * 2 ^ 24 + 2 * 2 ^ 18 + 3 * 2 ^ 10) =
      some (.vec .add 3 1 2 0 .int32) ∧
    got env (head 0x2E 3 0 + 7 * 2 ^ 30 + 1 * 2 ^ 22 + 2 * 2 ^ 11) =
      some (.vld 7 ⟨false, 0x1400, 512, 0⟩) ∧
    got env (head 0x13 1 0 + 1 * 2 ^ 35 + 5 * 2 ^ 27 + 3 * 2 ^ 21 + 1 * 2 ^ 10 + 3 * 2 ^ 2) =
      some (.drain (.vreg 5) 4 .fp32 0 true ⟨9, 114, 128⟩) ∧
    got env (head 0x60 6 0 + 4 * 2 ^ 30 + 10 * 2 ^ 14 + 3 * 2 ^ 9 + 1) =
      some (.arm 4 13 2) ∧
    got env (head 0x53 5 0 + 1 * 2 ^ 35 + 9 * 2 ^ 11) =
      some (.retire .ccw 9) := by decide +kernel

/-- Words that R54, R57, R83 and the tables refuse with ILLEGAL_OP: an opcode of no row, a MUL with QW, a PASS of 0, a DRAIN with RND 2,
a VFMA of INT32 lanes, a memory operand of KIND 2; and an extent past local SRAM with ADDR_RANGE. -/
theorem test_refused_words :
    refusal env (head 0x15 1 0) = some (0x0105, 0) ∧ refusal env (head 0x11 1 0 + 1 * 2 ^ 28 + 1 * 2 ^ 7) = some (0x0105, 3) ∧
    refusal env (head 0x52 5 0) = some (0x0105, 3) ∧ refusal env (head 0x13 1 0 + 1 * 2 ^ 35 + 2 * 2 ^ 10 + 3 * 2 ^ 2) = some (0x0105, 3) ∧
    refusal env (head 0x23 3 0 + 3 * 2 ^ 10) = some (0x0105, 3) ∧ refusal env (head 0x2E 3 0 + 2 * 2 ^ 22) = some (0x0105, 3) ∧
    refusal ({ env with desc := fun _ => BitVec.ofNat 128 (1 * 2 ^ 124 + 0x17FFFC0 * 2 ^ 96) } : DecEnv) (head 0x2E 3 0) = some (0x0104, 3) := by
  decide +kernel

/-! ### The worked examples of the manual -/

/-- 15.3 in FP32. -/
def p153 : Val := fp32.decode 0x4174CCCD

/-- *The projection output across a saturated step*: 15.3 becomes 0x6F at CUR 3 and 0x47 at CUR −2; 90 × 8 saturates to 448. -/
theorem test_e4m3_codes : (Fmt.e4m3.convert .rne (p153.shift 3)).code = 0x6F ∧ (Fmt.e4m3.convert .rne (p153.shift (-2))).code = 0x47 ∧
    (Fmt.e4m3.convert .rne (Val.ofInt 90 3)).code = 0x7E ∧ (Fmt.e4m3.convert .rne (Val.ofInt 90 3)).sat = true := by decide +kernel

/-- The closure of step 10 and, 16 closures later, of step 26, in that example. -/
def step10 : RngEntry :=
  ({ managed := true, window := 15, headroom := 2, fmt := 3, cur := 3, amax := List.replicate 16 130, oElems := 4194304, oSat := 2048,
     oAmax := 133 } : RngEntry).close 11
def calm (e : RngEntry) : RngEntry := ({ e with oElems := 1, oAmax := 130 } : RngEntry).close (e.cstep + 2)

theorem test_range_closure : (step10.cur, step10.prev, step10.cstep, step10.elems, step10.sat, step10.camax, step10.cdrop) =
      (-2, 3, 10, 4194304, 2048, 133, 2) ∧ (calm step10).cur = 0 ∧
    ((List.range 15).foldl (fun e _ => calm e) step10).cur = 0 ∧ ((List.range 16).foldl (fun e _ => calm e) step10).cur = 3 := by
  decide +kernel

/-- *Statistics for long-sequence attention*: 2,089 beats of ROWSTAT, 3,112 of ROWAPPLY and 47 of the export. -/
def scores : RowRef := { base := 0, estride := 256, len := 4096, fmt := .bf16, rows := 128, stat := 0, qpos := 0, qq := 0, causal := true, eps := 0, oscale := 0 }

theorem test_harp_beats :
    (HarpCmd.mk 0 2 scores none 0 none 0).beats = 2089 ∧
    (HarpCmd.mk 1 0 scores (some { scores with fmt := .e4m3 }) 0 none 0).beats = 3112 ∧
    (HarpCmd.mk 0 4 { scores with len := 7, fmt := .fp32 } none 0 none 0).beats = 47 := by decide +kernel

/-- *One parameter with clipping and a cosine curve*: the group record and its curve. -/
def groupBytes : List Byte :=
  leBytes 8 5499 ++ leBytes 8 0x0BB191C11B7BEDF7 ++ leBytes 8 0x2680CE0844AEF672 ++ leBytes 8 0x3F33A92A30553261 ++ leBytes 8 0x3FECCCCCCCCCCCCD ++
  leBytes 8 0x3FEE666666666666 ++ leBytes 8 0x3FB999999999999A ++ leBytes 8 0x3FF0000000000000 ++ leBytes 4 0x322BCC77 ++ leBytes 4 0x3D800000 ++
  leBytes 2 0 ++ [0, 0] ++ leBytes 2 0 ++ [3, 0] ++ List.replicate 48 0 ++
  [2] ++ leBytes 7 1000 ++ leBytes 8 9000 ++ leBytes 8 0x3FF0000000000000 ++ leBytes 8 0x3FB999999999999A ++ [15] ++ List.replicate 31 0
def groupRd : Rd := fun o n => leNat ((groupBytes.drop o).take n)
def example8 : (Nat × Nat × Nat) × GroupC :=
  groupBegin groupRd { RipS.ofHeader groupRd 0 with groupOff := 0, curveOff := 128 } 0 0x4090000000000000

theorem test_group_begin : example8.1.1 = 5500 ∧ example8.2.g = 0x3D000000 ∧ example8.2.c2 = 0x3F800000 ∧ example8.2.a = 0x392D03DA ∧
    curveValue groupRd 128 5500 = 0x3FE199999999999A := by decide +kernel

theorem test_update : (let u := example8.2.update 0xBC4CCCCD 0x35C9539C 0x2C8CBCCC (fp32.round (Val.ofInt 69 (-20)))
    (Fmt.e4m3.convert .rne (fp32.decode u.1)).code) = 0x86 := by decide +kernel

/-! ### Published check values of the functions that the manual names -/

/-- The check values of the CRCs over the nine digits, the SHA-256 test vector "abc", and an HMAC test vector of RFC 4231 (case 2). -/
theorem test_digests :
    crc16 (asciiBytes "123456789") = 0x29B1 ∧ crc32 (asciiBytes "123456789") = 0xCBF43926 ∧
    sha256 (asciiBytes "abc") = beBytes 32 0xba7816bf8f01cfea414140de5dae2223b00361a396177a9cb410ff61f20015ad ∧
    hmac (asciiBytes "Jefe") (asciiBytes "what do ya want for nothing?") =
      beBytes 32 0x5bdcc146bf60754e6a042426089575c75a003f089d2739839dec58b964ec3843 := by decide +kernel

end Sys2Proof.Tests
end

section
/-!
PROOFS. What the host reads and writes over PCI Express: one lemma for each part of a BAR0 access (its size, the register
and half it reaches, the access codes) and of a BAR2 access (its reach, MEM_FAULT, the bytes of a write), and the statement
of R8, R148, R247, R248 and R289 from them.
-/
namespace Sys2Proof.Machine

/-! ### The rows -/

theorem exec_registerWrite (fn : Fin 2) (a size : Nat) (v : Word) (s : State) :
    exec (.registerWrite fn a size v) s = .next (s.barWrite fn a size v) := by rfl
theorem exec_registerReadClear (a size : Nat) (s : State) : exec (.registerReadClear a size) s = .next (s.barRead a size) := by rfl
theorem exec_counterSatClear (a : Nat) (s : State) : exec (.counterSatClear a) s = execCounterSatClear a s := by rfl
theorem exec_bar2Access (fn : Fin 2) (o : Nat) (w : Option (List Byte)) (n : Nat) (s : State) :
    exec (.bar2Access fn o w n) s = .next (s.bar2 fn o w n) := by rfl

/-! ### The link (R291) -/

theorem State.hosted_of_linked {s : State} (h : s.linked = true) (f : State → State) : s.hosted f = f s := if_pos h
theorem State.hosted_of_not_linked {s : State} (h : s.linked = false) (f : State → State) : s.hosted f = s :=
  if_neg (by simp [h])
theorem State.barWrite_of_not_linked {s : State} (h : s.linked = false) (fn a size : Nat) (v : BitVec 64) :
    s.barWrite fn a size v = s := if_pos (by simp [h])
theorem State.barRead_of_not_linked {s : State} (h : s.linked = false) (a size : Nat) : s.barRead a size = s :=
  if_pos (by simp [h])
theorem State.bar2_of_not_linked {s : State} (h : s.linked = false) (fn o : Nat) (w : Option (List Byte)) (n : Nat) :
    s.bar2 fn o w n = s := if_pos (by simp [h])

/-! ### Sizes and errors (R247) -/

theorem sizeOk_eq_false_iff (a size : Nat) : sizeOk a size = false ↔ (size ≠ 4 ∧ size ≠ 8) ∨ a % size ≠ 0 := by
  simp only [sizeOk, Bool.and_eq_false_iff, Bool.or_eq_false_iff, beq_eq_false_iff_ne]

theorem satInc_eq_min (w v : Nat) : satInc w v = min (2 ^ w - 1) (v + 1) := by
  unfold satInc
  split <;> omega

theorem State.barWrite_of_not_sizeOk {s : State} (hs : s.linked = true) {a size : Nat} (h : sizeOk a size = false) (fn : Nat)
    (v : BitVec 64) : s.barWrite fn a size v = s.hifErr false := by
  simp [State.barWrite, hs, h]

/-- An address outside the mailboxes of BAR0. -/
def outsideMailboxes (a : Nat) : Prop := a < 0x100000 ∨ 0x140000 ≤ a

theorem outsideMailboxes.not_in {a : Nat} (h : outsideMailboxes a) : ¬ (mailboxBase ≤ a ∧ a < mailboxBase + 0x40000) := by
  unfold outsideMailboxes at h
  unfold mailboxBase
  omega

theorem outsideMailboxes.high_half {a : Nat} (h : outsideMailboxes a) (ha : a % 8 = 0) : outsideMailboxes (a + 4) := by
  unfold outsideMailboxes at *
  omega

theorem State.barWrite_eight {s : State} (hs : s.linked = true) {a : Nat} (ha : a % 8 = 0) (ho : outsideMailboxes a) (fn : Nat)
    (v : BitVec 64) : s.barWrite fn a 8 v = s.write64 a v := by
  simp [State.barWrite, hs, sizeOk, ha, ho.not_in]

theorem State.barWrite_four {s : State} (hs : s.linked = true) {a : Nat} (ha : a % 4 = 0) (ho : outsideMailboxes a) (fn : Nat)
    (v : BitVec 64) : s.barWrite fn a 4 v = s.write32 a v.toNat := by
  simp [State.barWrite, hs, sizeOk, ha, ho.not_in]

/-! ### The register and the half that an address reaches -/

theorem reg32At_low {a : Nat} {n : RegName} {i : List Nat} (h : regAt a = some (n, i)) : reg32At a = some (n, i, false) := by
  simp [reg32At, h]

theorem reg32At_high {a : Nat} {n : RegName} {i : List Nat} (h : regAt a = some (n, i)) (h8 : (regRow n).size = 8)
    (ha : a % 8 = 0) (hn : regAt (a + 4) = none) : reg32At (a + 4) = some (n, i, true) := by
  have h4 : (a + 4) % 8 = 4 := by omega
  simp [reg32At, hn, h4, h, h8]

/-- The low half of a written word, under the mask of that half, is the word's. -/
theorem ofNat_mod_and_halfMask_false (v : BitVec 64) :
    BitVec.ofNat 64 (v.toNat % 2 ^ 32) &&& halfMask false = v &&& halfMask false := by
  apply BitVec.eq_of_toNat_eq
  have hm : (halfMask false).toNat = 2 ^ 32 - 1 := rfl
  rw [BitVec.toNat_and, BitVec.toNat_and, hm, Nat.and_two_pow_sub_one_eq_mod, Nat.and_two_pow_sub_one_eq_mod, BitVec.toNat_ofNat]
  omega

/-- A 32-bit word put into the high half. -/
theorem ofNat_high_half (v : BitVec 64) : BitVec.ofNat 64 (v.toNat % 2 ^ 32 * 2 ^ 32) = v <<< 32 := by
  apply BitVec.eq_of_toNat_eq
  rw [BitVec.toNat_ofNat, BitVec.toNat_shiftLeft, Nat.shiftLeft_eq]
  omega

theorem halfMask_false_or_true : halfMask false ||| halfMask true = BitVec.allOnes 64 := by decide

/-- What leaves both halves' bits of a mask cleared leaves the mask cleared. -/
theorem and_not_halves (x m : BitVec 64) : (x &&& ~~~(m &&& halfMask false)) &&& ~~~(m &&& halfMask true) = x &&& ~~~m := by
  rw [BitVec.and_assoc, ← BitVec.not_or, ← BitVec.and_or_distrib_left, halfMask_false_or_true, BitVec.and_allOnes]

/-! ### Writes by the access codes (R8) -/

/-- The registers whose writes have a rule of their own. -/
def ruledRegs : List RegName :=
  [.hubHoopCfg, .coreCtrl, .seqDbgData, .vecRngDef, .rngWord0, .rngWord1, .hrpSideData, .strListData, .bwrCfg, .lnkPortCtrl,
    .lnkPortCred0, .lnkPortCred1, .nrgModel, .clkStep, .evtPtr, .rindTrig, .nrgTriplog]

theorem isCounter_iff (n : RegName) : isCounter n = true ↔ (regRow n).fields = counterFields := beq_iff_eq

/-- A register with no rule of its own is written by its access codes. -/
theorem State.regWrite_plain (s : State) {n : RegName} (hn : n ∉ ruledRegs) (hc : (regRow n).fields ≠ counterFields) (i : List Nat)
    (v : BitVec 64) {mask : BitVec 64} (hm : mask ≠ 0) : s.regWrite n i v mask = s.plainWrite n i v mask := by
  have hcnt : ¬ isCounter n = true := by rwa [isCounter_iff]
  unfold State.regWrite
  dsimp only
  rw [if_neg hcnt]
  split
  -- the last arm is that of every register without a rule of its own
  case h_18 => exact if_pos (bne_iff_ne.2 hm)
  all_goals exact (hn (by decide)).elim

/-- The bits of `m`, RW bits take the value and W1C bits written 1 clear. -/
def storedBy (fs : List Field) (old x m : BitVec 64) : BitVec 64 :=
  ((old &&& ~~~(accMask (· == .rw) fs &&& m)) ||| (x &&& (accMask (· == .rw) fs &&& m))) &&& ~~~(accMask (· == .w1c) fs &&& m &&& x)

theorem State.plainWrite_eq (s : State) (n : RegName) (i : List Nat) (v mask : BitVec 64) :
    s.plainWrite n i v mask = s.setReg n i (storedBy (regRow n).fields (s.reg n i) v mask) := by
  simp only [State.plainWrite, storedBy, BitVec.and_assoc, BitVec.and_comm v mask]

/-- Only the bits of the mask of a written value count. -/
theorem State.plainWrite_congr (s : State) (n : RegName) (i : List Nat) {v w mask : BitVec 64} (h : v &&& mask = w &&& mask) :
    s.plainWrite n i v mask = s.plainWrite n i w mask := by
  have hrw (m : BitVec 64) : v &&& (m &&& mask) = w &&& (m &&& mask) := by
    rw [BitVec.and_comm m, ← BitVec.and_assoc, h, BitVec.and_assoc]
  simp only [State.plainWrite, BitVec.and_assoc, h, hrw]

section
variable (s : State) {n : RegName} {i : List Nat} {a : Nat} (hn : n ∉ ruledRegs) (hc : (regRow n).fields ≠ counterFields)
  (h8 : (regRow n).size = 8) (h : regAt a = some (n, i))
include hn hc h

include h8 in
theorem State.write64_plain (v : BitVec 64) : s.write64 a v = s.plainWrite n i v (BitVec.allOnes 64) := by
  simp only [State.write64, h, h8, if_true]
  exact s.regWrite_plain hn hc i v (by decide)

theorem State.write32_plain_low (v : BitVec 64) : s.write32 a v.toNat = s.plainWrite n i v (halfMask false) := by
  simp only [State.write32, reg32At_low h, Bool.false_eq_true, if_false]
  rw [s.regWrite_plain hn hc i _ (by decide), s.plainWrite_congr n i (ofNat_mod_and_halfMask_false v)]

include h8 in
theorem State.write32_plain_high (ha : a % 8 = 0) (h4 : regAt (a + 4) = none) (v : BitVec 64) :
    s.write32 (a + 4) v.toNat = s.plainWrite n i (v <<< 32) (halfMask true) := by
  simp only [State.write32, reg32At_high h h8 ha h4, if_true]
  rw [s.regWrite_plain hn hc i _ (by decide), ofNat_high_half]
end

/-! ### Counters (R289) -/

theorem State.satClear_counter (s : State) {n : RegName} (h : (regRow n).fields = counterFields) (i : List Nat) :
    s.satClear n i = s.setReg n i 0 := if_pos ((isCounter_iff n).2 h)
theorem State.satClear_other (s : State) {n : RegName} (h : (regRow n).fields ≠ counterFields) (i : List Nat) :
    s.satClear n i = s := if_neg fun hc => h ((isCounter_iff n).1 hc)

/-! ### Reads that clear (R8) -/

theorem leBytes_mod (n v : Nat) : leBytes n (v % 256 ^ n) = leBytes n v := by
  induction n generalizing v with
  | zero => rfl
  | succ n ih =>
    have hlow : BitVec.ofNat 8 (v % 256 ^ (n + 1)) = BitVec.ofNat 8 v := by
      apply BitVec.eq_of_toNat_eq
      simp only [BitVec.toNat_ofNat]
      exact Nat.mod_mod_of_dvd v (Nat.dvd_mul_left 256 (256 ^ n))
    have hhigh : v % 256 ^ (n + 1) / 256 = v / 256 % 256 ^ n := by
      rw [Nat.pow_succ, Nat.mul_comm, Nat.mod_mul_right_div_self]
    rw [leBytes, leBytes, hlow, hhigh, ih]

theorem leBytes_append (m n v : Nat) : leBytes m v ++ leBytes n (v / 256 ^ m) = leBytes (m + n) v := by
  induction m generalizing v with
  | zero => simp [leBytes]
  | succ m ih => rw [Nat.succ_add, leBytes, leBytes, List.cons_append, ← ih, Nat.div_div_eq_div_mul, Nat.pow_succ, Nat.mul_comm 256]

/-- The two halves of a word, one after the other, are its bytes. -/
theorem leBytes_halves (v : BitVec 64) : leBytes 4 (wbits v 31 0) ++ leBytes 4 (wbits v 63 32) = leBytes 8 v.toNat := by
  have hlow : wbits v 31 0 = v.toNat % 256 ^ 4 := by simp [wbits, bits]
  have hhigh : wbits v 63 32 = v.toNat / 256 ^ 4 % 256 ^ 4 := by simp [wbits, bits]
  rw [hlow, hhigh, leBytes_mod, leBytes_mod, leBytes_append]

theorem State.read32_eq (s : State) {a : Nat} {n : RegName} {i : List Nat} {hi : Bool} (h : reg32At a = some (n, i, hi)) :
    s.read32 a = if hi then wbits (s.read n i) 63 32 else wbits (s.read n i) 31 0 := by
  simp only [State.read32, h]

/-- A field list without the codes of `p` has no bit of them. -/
theorem accMask_eq_zero {p : Access → Bool} {fs : List Field} (h : ∀ f ∈ fs, p f.acc = false) : accMask p fs = 0 := by
  unfold accMask
  induction fs with
  | nil => rfl
  | cons f fs ih =>
    rw [List.foldl_cons, h f List.mem_cons_self, if_neg Bool.false_ne_true]
    exact ih fun g hg => h g (List.mem_cons_of_mem f hg)

/-- The RC bits of a register. -/
abbrev rcMask (n : RegName) : BitVec 64 := accMask (· == .rc) (regRow n).fields

/-- A read either clears nothing or stores one register. -/
theorem State.clearRc_cases (s : State) (a : Nat) : s.clearRc a = s ∨ ∃ n i v, s.clearRc a = s.setReg n i v := by
  unfold State.clearRc
  split
  · rename_i n i hi _
    dsimp only
    split
    · exact .inl rfl
    · exact .inr ⟨n, i, _, rfl⟩
  · exact .inl rfl

@[simp] theorem State.clearRc_mem (s : State) (a : Nat) : (s.clearRc a).mem = s.mem := by
  obtain h | ⟨n, i, v, h⟩ := s.clearRc_cases a <;> rw [h]; rfl
@[simp] theorem State.clearRc_host (s : State) (a : Nat) : (s.clearRc a).host = s.host := by
  obtain h | ⟨n, i, v, h⟩ := s.clearRc_cases a <;> rw [h]; rfl

section
variable (s : State) {a : Nat} {n : RegName} {i : List Nat} {hi : Bool} (h : reg32At a = some (n, i, hi))
include h

theorem State.reg_clearRc : (s.clearRc a).reg n i = s.reg n i &&& ~~~(rcMask n &&& halfMask hi) := by
  simp only [State.clearRc, h]
  split
  · rename_i hz
    rw [hz]
    exact BitVec.and_allOnes.symm
  · exact s.reg_setReg_self n i _

theorem State.clearRc_of_no_rc (hf : ∀ f ∈ (regRow n).fields, f.acc ≠ .rc) : s.clearRc a = s := by
  have hz : accMask (· == .rc) (regRow n).fields = 0 := accMask_eq_zero fun f hfm => beq_eq_false_iff_ne.2 (hf f hfm)
  simp [State.clearRc, h, hz]
end

/-- The state with the bytes that the host's read is answered. -/
def State.replied (s : State) (d : List Byte) : State := { s with host := { s.host with reply := d } }

/-- A 64-bit read of a 64-bit register. -/
theorem State.barRead_eight {s : State} (hs : s.linked = true) {a : Nat} {n : RegName} {i : List Nat} (h : regAt a = some (n, i))
    (h8 : (regRow n).size = 8) (ha : a % 8 = 0) (h4 : regAt (a + 4) = none) (ho : outsideMailboxes a) :
    s.barRead a 8 = ((s.replied (leBytes 8 (s.read n i).toNat)).clearRc a).clearRc (a + 4) := by
  have hd : leBytes 4 (s.read32 a) ++ leBytes 4 (s.read32 (a + 4)) = leBytes 8 (s.read n i).toNat := by
    rw [s.read32_eq (reg32At_low h), s.read32_eq (reg32At_high h h8 ha h4)]
    exact leBytes_halves _
  simp [State.barRead, hs, sizeOk, ha, ho.not_in, hd, State.replied]

/-! ### The reach of a BAR2 access (R148, R248) -/

theorem mem_gransOf {a n g : Nat} (hn : 0 < n) : g ∈ gransOf a n ↔ a / granBytes ≤ g ∧ g * granBytes < a + n := by
  have hlast : g * granBytes < a + n ↔ g ≤ (a + n - 1) / granBytes := by
    rw [Nat.le_div_iff_mul_le (by decide)]
    omega
  have hle : a / granBytes ≤ (a + n - 1) / granBytes := Nat.div_le_div_right (by omega)
  rw [gransOf, if_neg (by omega), hlast]
  simp only [List.mem_map, List.mem_range]
  constructor
  · rintro ⟨k, hk, rfl⟩; omega
  · rintro ⟨h1, h2⟩; exact ⟨g - a / granBytes, by omega, by omega⟩

@[simp] theorem State.memFault_mem (s : State) (code req ctx src cause addr : Nat) :
    (s.memFault code req ctx src cause addr).mem = s.mem := by
  unfold State.memFault
  split <;> rfl

/-- The first fault of a memory access is recorded, with its cause and address. -/
theorem State.memFault_recorded {s : State} (h : s.field .memFault [] 8 8 = 0) (code req ctx src cause addr : Nat) :
    s.memFault code req ctx src cause addr =
      (s.setReg .memFault [] (word [(code, 48), (req, 36), (ctx, 33), (src, 16), (1, 8), (cause, 0)])).setReg .memFaultAddr []
        (BitVec.ofNat 64 addr) := if_neg (by omega)

theorem State.hostMiss_fields {s : State} (h : s.field .memFault [] 8 8 = 0) (a : Nat) :
    (s.hostMiss 1 a).field .memFault [] 8 8 = 1 ∧ (s.hostMiss 1 a).field .memFault [] 7 0 = 1 ∧
      (s.hostMiss 1 a).reg .memFaultAddr [] = BitVec.ofNat 64 a := by
  have hreg : (s.hostMiss 1 a).reg .memFault [] = word [(0, 48), (4, 36), (0, 33), (0, 16), (1, 8), (1, 0)] := by
    rw [State.hostMiss, State.memFault_recorded h, State.reg_setReg_ne _ _ (by decide), State.reg_setReg_self]
  refine ⟨?_, ?_, ?_⟩
  · rw [State.field, hreg]; decide
  · rw [State.field, hreg]; decide
  · rw [State.hostMiss, State.memFault_recorded h, State.reg_setReg_self]

section
variable {s : State} (hs : s.linked = true) (fn o : Nat)
include hs

theorem State.bar2_write_miss {d : List Byte} (h : s.hostReachAll (s.winBase fn + o) d.length = false) (n : Nat) :
    s.bar2 fn o (some d) n = s.hostMiss 1 (s.winBase fn + o) := by
  simp [State.bar2, hs, h]

theorem State.bar2_read_miss {n : Nat} (h : s.hostReachAll (s.winBase fn + o) n = false) :
    s.bar2 fn o none n = (s.hostMiss 1 (s.winBase fn + o)).replied (List.replicate n 0xFF) := by
  simp [State.bar2, hs, h, State.replied]

theorem State.bar2_read {n : Nat} (h : s.hostReachAll (s.winBase fn + o) n = true) :
    s.bar2 fn o none n = s.replied (s.bytes (s.winBase fn + o) n) := by
  simp [State.bar2, hs, h, State.replied]
end

/-- Whether `[a, a + n)` touches a granule that resides in the cave. -/
def State.touchesCave (s : State) (a n : Nat) : Bool :=
  (gransOf a n).any fun g => match s.gran g with | some x => x.at_ == 10 | none => false

theorem State.touchesCave_iff (s : State) {a n : Nat} (hn : 0 < n) : s.touchesCave a n = true ↔
    ∃ g x, a / granBytes ≤ g ∧ g * granBytes < a + n ∧ s.gran g = some x ∧ x.at_ = 10 := by
  simp only [State.touchesCave, List.any_eq_true, mem_gransOf hn]
  constructor
  · rintro ⟨g, ⟨h1, h2⟩, hg⟩
    split at hg
    · rename_i x hx; exact ⟨g, x, h1, h2, hx, by simpa using hg⟩
    · cases hg
  · rintro ⟨g, x, h1, h2, hx, h10⟩
    exact ⟨g, ⟨h1, h2⟩, by simp [hx, h10]⟩

theorem State.touchesCave_eq_false {s : State} {a n : Nat}
    (h : ∀ g, a / granBytes ≤ g → g * granBytes < a + n → ∀ x, s.gran g = some x → x.at_ ≠ 10) : s.touchesCave a n = false := by
  obtain rfl | hn := Nat.eq_zero_or_pos n
  · rfl
  · rw [Bool.eq_false_iff, Ne, s.touchesCave_iff hn]
    rintro ⟨g, x, hlo, hhi, hx, h10⟩
    exact h g hlo hhi x hx h10

theorem State.inCave_eq_false {s : State} {a : Nat} (h : ∀ x, s.gran (a / granBytes) = some x → x.at_ ≠ 10) : s.inCave a = false := by
  unfold State.inCave
  split
  · rename_i x hx
    exact beq_eq_false_iff_ne.2 (h x hx)
  · rfl

section
variable {s : State} (hs : s.linked = true) (fn o : Nat) {d : List Byte} (h : s.hostReachAll (s.winBase fn + o) d.length = true)
include hs h

theorem State.bar2_write_refused (hro : s.caveRo = true) (hc : s.touchesCave (s.winBase fn + o) d.length = true) (n : Nat) :
    s.bar2 fn o (some d) n = s.hostMiss 4 (s.winBase fn + o) := by
  have hg : s.caveRo = true ∧ _ := ⟨hro, hc⟩
  simp only [State.bar2, hs, h, not_true_eq_false, if_false]
  exact if_pos hg

theorem State.bar2_write (hc : s.caveRo = false ∨ s.touchesCave (s.winBase fn + o) d.length = false) (n : Nat) :
    s.bar2 fn o (some d) n = s.farWrite (s.winBase fn + o) d [] .firmware := by
  simp only [State.bar2, hs, h, not_true_eq_false, if_false]
  refine if_neg ?_
  rintro ⟨hro, hg⟩
  obtain hf | hf := hc
  · rw [hf] at hro; cases hro
  · have ht : s.touchesCave (s.winBase fn + o) d.length = true := hg
    rw [hf] at ht; cases ht
end

/-! ### The pages of a write (R167) -/

/-- A write within one page is one part. -/
theorem pageParts_one {a : Nat} {d : List Byte} (hd : d ≠ []) (hp : a % pageBytes + d.length ≤ pageBytes) (w : Waiter) :
    pageParts a d [] w = [{ addr := a, data := d, bad := [], who := w }] := by
  have hlen : 0 < d.length := List.length_pos_iff.2 hd
  unfold pageBytes at hp
  have hone : (a + d.length - 1) / pageBytes - a / pageBytes + 1 = 1 := by unfold pageBytes; omega
  have hlo : max a (pageBytes * (a / pageBytes)) = a := by unfold pageBytes; omega
  have hhi : min (a + d.length) (pageBytes * (a / pageBytes + 1)) = a + d.length := by unfold pageBytes; omega
  simp [pageParts, hd, hone, hlo, hhi]

/-- A part of a write of `d` at `a`: it begins at or after `a` and holds the bytes of `d` from there. -/
def CaveW.within (p : CaveW) (a : Nat) (d : List Byte) : Prop := a ≤ p.addr ∧ ∃ k, p.data = (d.drop (p.addr - a)).take k

theorem CaveW.within.end_le {p : CaveW} {a : Nat} {d : List Byte} (h : p.within a d) (ha : p.addr ≤ a + d.length) :
    p.addr + p.data.length ≤ a + d.length := by
  obtain ⟨hlo, k, hk⟩ := h
  rw [hk, List.length_take, List.length_drop]
  omega

/-- Byte `x` of a part is byte `x - a` of the write. -/
theorem CaveW.within.byte {p : CaveW} {a x : Nat} {d : List Byte} (h : p.within a d) (hlo : p.addr ≤ x)
    (hhi : x < p.addr + p.data.length) : p.data.getD (x - p.addr) 0 = d.getD (x - a) 0 := by
  obtain ⟨ha, k, hk⟩ := h
  have hx : x - p.addr < k := by
    rw [hk, List.length_take] at hhi
    omega
  rw [hk, List.getD_eq_getElem?_getD, List.getD_eq_getElem?_getD, List.getElem?_take_of_lt hx, List.getElem?_drop,
    show p.addr - a + (x - p.addr) = x - a by omega]

theorem mem_pageParts {a : Nat} {d : List Byte} {bad : List Nat} {w : Waiter} {par : Option Bool} {p : CaveW}
    (h : p ∈ pageParts a d bad w par) : p.within a d ∧ p.addr < a + d.length := by
  unfold pageParts at h
  split at h
  · cases h
  · rename_i hd
    have hlen : 0 < d.length := List.length_pos_iff.2 (by simpa using hd)
    simp only [List.mem_map, List.mem_range] at h
    obtain ⟨i, hi, rfl⟩ := h
    refine ⟨⟨Nat.le_max_left _ _, _, rfl⟩, ?_⟩
    dsimp only
    unfold pageBytes at *
    omega

/-- Every byte of a write lies in one of its parts. -/
theorem pageParts_cover {a x : Nat} {d : List Byte} (bad : List Nat) (w : Waiter) (par : Option Bool) (hlo : a ≤ x)
    (hhi : x < a + d.length) : ∃ p ∈ pageParts a d bad w par, p.addr ≤ x ∧ x < p.addr + p.data.length := by
  have hd : d.isEmpty = false := by
    cases d with
    | nil => simp at hhi; omega
    | cons b bs => rfl
  have hpage : x / pageBytes - a / pageBytes < (a + d.length - 1) / pageBytes - a / pageBytes + 1 := by unfold pageBytes; omega
  simp only [pageParts, hd, Bool.false_eq_true, if_false]
  refine ⟨_, List.mem_map.2 ⟨x / pageBytes - a / pageBytes, List.mem_range.2 hpage, rfl⟩, ?_⟩
  simp only [List.length_take, List.length_drop, pageBytes]
  omega

/-- The parts of a write hold its bytes and no others. -/
theorem pageParts_cover_iff {a x : Nat} {d : List Byte} {bad : List Nat} {w : Waiter} {par : Option Bool} :
    (∃ p ∈ pageParts a d bad w par, p.addr ≤ x ∧ x < p.addr + p.data.length) ↔ a ≤ x ∧ x < a + d.length := by
  constructor
  · rintro ⟨p, hp, hlo, hhi⟩
    obtain ⟨hw, hlt⟩ := mem_pageParts hp
    have hend := hw.end_le (Nat.le_of_lt hlt)
    exact ⟨Nat.le_trans hw.1 hlo, Nat.lt_of_lt_of_le hhi hend⟩
  · rintro ⟨hlo, hhi⟩
    exact pageParts_cover bad w par hlo hhi

/-! ### The bytes of a write outside the cave -/

/-- Writing parts of `d` one after the other: each byte that a part holds is that of `d`, the others are as before. -/
theorem Mem.read_foldl_parts {a : Nat} {d : List Byte} (x : Nat) (ps : List CaveW) : ∀ {m : Mem}, m.wf = true →
    (∀ p ∈ ps, p.within a d) → Mem.read (ps.foldl (fun m p => Mem.writeN m p.addr p.data) m) x =
      if ∃ p ∈ ps, p.addr ≤ x ∧ x < p.addr + p.data.length then d.getD (x - a) 0 else Mem.read m x := by
  induction ps with
  | nil => intro m _ _; simp
  | cons p ps ih =>
    intro m hm hps
    rw [List.foldl_cons, ih (Mem.wf_writeN p.data p.addr hm) fun q hq => hps q (List.mem_cons_of_mem p hq),
      Mem.read_writeN p.data p.addr x hm]
    have hp := hps p List.mem_cons_self
    by_cases hin : p.addr ≤ x ∧ x < p.addr + p.data.length
    · rw [if_pos hin, hp.byte hin.1 hin.2, ite_self, if_pos ⟨p, List.mem_cons_self, hin⟩]
    · simp [hin]

@[simp] theorem State.gran_setGran_self (s : State) (g : Nat) (x : Gran) : (s.setGran g x).gran g = some x :=
  AMap.find?_set_self _ _ _
theorem State.gran_setGran_ne {s : State} {g j : Nat} (x : Gran) (h : j ≠ g) : (s.setGran g x).gran j = s.gran j :=
  AMap.find?_set_ne _ _ h

/-- A granule's parity bit does not say where it resides. -/
theorem State.inCave_setParity (s : State) (g : Nat) (b : Option Bool) (x : Nat) : (s.setParity g b).inCave x = s.inCave x := by
  unfold State.setParity
  split
  · rename_i y hy
    by_cases hx : x / granBytes = g
    · simp only [State.inCave, hx, State.gran_setGran_self, hy]
    · simp only [State.inCave, State.gran_setGran_ne _ hx]
  · rfl

theorem State.inCave_putPart (s : State) (p : CaveW) (x : Nat) : (s.putPart p).inCave x = s.inCave x :=
  (State.inCave_setParity _ _ _ x).trans rfl

theorem State.setParity_mem (s : State) (g : Nat) (b : Option Bool) : (s.setParity g b).mem = s.mem := by
  unfold State.setParity
  split <;> rfl

theorem State.putPart_mem (s : State) (p : CaveW) : (s.putPart p).mem = Mem.writeN s.mem p.addr p.data :=
  (State.setParity_mem _ _ _).trans rfl

/-- A write none of whose parts lies in the cave is performed at once, part by part. -/
theorem State.farWrite_mem {s : State} {a : Nat} {d : List Byte} {bad : List Nat} {w : Waiter} {par : Option Bool}
    (h : ∀ x, a ≤ x → x < a + d.length → s.inCave x = false) :
    (s.farWrite a d bad w par).mem = (pageParts a d bad w par).foldl (fun m p => Mem.writeN m p.addr p.data) s.mem := by
  have hps : ∀ p ∈ pageParts a d bad w par, s.inCave p.addr = false := fun p hp =>
    let ⟨hw, hlt⟩ := mem_pageParts hp
    h p.addr hw.1 hlt
  unfold State.farWrite
  generalize pageParts a d bad w par = ps at hps
  clear h
  induction ps generalizing s with
  | nil => rfl
  | cons p ps ih =>
    have hp : s.inCave p.addr = false := hps p List.mem_cons_self
    have hrest : ∀ q ∈ ps, (s.putPart p).inCave q.addr = false := fun q hq => by
      rw [State.inCave_putPart]
      exact hps q (List.mem_cons_of_mem p hq)
    rw [List.foldl_cons, List.foldl_cons, hp, if_neg Bool.false_ne_true, ih hrest, State.putPart_mem]

/-- A write outside the cave writes the bytes of `d` and no others. -/
theorem State.read_farWrite {s : State} (hm : s.mem.wf = true) {a : Nat} {d : List Byte}
    (h : ∀ x, a ≤ x → x < a + d.length → s.inCave x = false) (bad : List Nat) (w : Waiter) (par : Option Bool) (x : Nat) :
    Mem.read (s.farWrite a d bad w par).mem x = Mem.read (Mem.writeN s.mem a d) x := by
  rw [State.farWrite_mem h, Mem.read_foldl_parts x _ hm fun p hp => (mem_pageParts hp).1, Mem.read_writeN d a x hm]
  simp only [pageParts_cover_iff]

/-- A write within a page of the cave waits for its page to be programmed. -/
theorem State.farWrite_page {s : State} {a : Nat} {d : List Byte} (hd : d ≠ []) (hp : a % pageBytes + d.length ≤ pageBytes)
    (hc : s.inCave a = true) (w : Waiter) : s.farWrite a d [] w =
      { s with dev := { s.dev with caveQ := s.dev.caveQ ++ [.page { addr := a, data := d, bad := [], who := w }] } } := by
  rw [State.farWrite, pageParts_one hd hp, List.foldl_cons, List.foldl_nil, if_pos hc]

/-! ### The clauses of the statement -/

theorem exec_host_not_linked {s : State} (h : s.linked = false) (fn : Fin 2) (a n : Nat) (v : Word) (w : Option (List Byte)) :
    exec (.registerWrite fn a n v) s = .next s ∧ exec (.registerReadClear a n) s = .next s ∧ exec (.counterSatClear a) s = .next s ∧
      exec (.bar2Access fn a w n) s = .next s := by
  rw [exec_registerWrite, exec_registerReadClear, exec_counterSatClear, exec_bar2Access, State.barWrite_of_not_linked h,
    State.barRead_of_not_linked h, execCounterSatClear, State.hosted_of_not_linked h, State.bar2_of_not_linked h]
  exact ⟨rfl, rfl, rfl, rfl⟩

section
variable {s : State} (hs : s.linked = true)
include hs

theorem exec_registerWrite_missized {a size : Nat} (h : (size ≠ 4 ∧ size ≠ 8) ∨ a % size ≠ 0) (fn : Fin 2) (v : Word) :
    exec (.registerWrite fn a size v) s =
      .next (s.setField .hifErr [] 31 0 (min (2 ^ 32 - 1) (s.field .hifErr [] 31 0 + 1))) := by
  rw [exec_registerWrite, State.barWrite_of_not_sizeOk hs ((sizeOk_eq_false_iff a size).2 h), ← satInc_eq_min]
  rfl

theorem exec_registerWrite_plain (fn : Fin 2) (v : Word) {n : RegName} {i : List Nat} {a : Nat} (hn : n ∉ ruledRegs)
    (hc : (regRow n).fields ≠ counterFields) (h8 : (regRow n).size = 8) (h : regAt a = some (n, i)) (ha : a % 8 = 0)
    (ho : outsideMailboxes a) :
    exec (.registerWrite fn a 8 v) s = .next (s.setReg n i (storedBy (regRow n).fields (s.reg n i) v (BitVec.allOnes 64))) ∧
    exec (.registerWrite fn a 4 v) s = .next (s.setReg n i (storedBy (regRow n).fields (s.reg n i) v (halfMask false))) ∧
    (regAt (a + 4) = none → exec (.registerWrite fn (a + 4) 4 v) s =
      .next (s.setReg n i (storedBy (regRow n).fields (s.reg n i) (v <<< 32) (halfMask true)))) := by
  refine ⟨?_, ?_, fun h4 => ?_⟩
  · rw [exec_registerWrite, State.barWrite_eight hs ha ho, s.write64_plain hn hc h8 h, s.plainWrite_eq]
  · rw [exec_registerWrite, State.barWrite_four hs (by omega) ho, s.write32_plain_low hn hc h, s.plainWrite_eq]
  · rw [exec_registerWrite, State.barWrite_four hs (by omega) (ho.high_half ha), s.write32_plain_high hn hc h8 h ha h4,
      s.plainWrite_eq]

theorem exec_registerReadClear_eight {n : RegName} {i : List Nat} {a : Nat} (h : regAt a = some (n, i)) (h8 : (regRow n).size = 8)
    (ha : a % 8 = 0) (h4 : regAt (a + 4) = none) (ho : outsideMailboxes a) :
    ∃ u, exec (.registerReadClear a 8) s = .next u ∧ u.host.reply = leBytes 8 (s.read n i).toNat ∧ u.mem = s.mem ∧
      u.reg n i = s.reg n i &&& ~~~(accMask (· == .rc) (regRow n).fields) ∧
      ((∀ f ∈ (regRow n).fields, f.acc ≠ .rc) → u = s.replied (leBytes 8 (s.read n i).toNat)) := by
  have hlow := reg32At_low h
  have hhigh := reg32At_high h h8 ha h4
  rw [exec_registerReadClear, State.barRead_eight hs h h8 ha h4 ho]
  refine ⟨_, rfl, ?_, ?_, ?_, fun hf => ?_⟩
  · simp [State.replied]
  · simp [State.replied]
  · rw [State.reg_clearRc _ hhigh, State.reg_clearRc _ hlow, and_not_halves]
    rfl
  · rw [State.clearRc_of_no_rc _ hlow hf, State.clearRc_of_no_rc _ hhigh hf]

theorem exec_counterSatClear_counter {a : Nat} {n : RegName} {i : List Nat} (h : regAt a = some (n, i))
    (hc : (regRow n).fields = counterFields) : exec (.counterSatClear a) s = .next (s.setReg n i 0) := by
  simp only [exec_counterSatClear, execCounterSatClear, State.hosted_of_linked hs, h, s.satClear_counter hc]

theorem exec_counterSatClear_other {a : Nat} (h : ∀ n i, regAt a = some (n, i) → (regRow n).fields ≠ counterFields) :
    exec (.counterSatClear a) s = .next s := by
  rw [exec_counterSatClear, execCounterSatClear, State.hosted_of_linked hs]
  split
  · rename_i n i hr
    rw [s.satClear_other (h n i hr)]
  · rfl

section
variable (fn : Fin 2) (o : Nat) {d : List Byte}

theorem exec_bar2Access_write_miss (h : s.hostReachAll (s.winBase fn + o) d.length = false) :
    ∃ u, exec (.bar2Access fn o (some d) 0) s = .next u ∧ u.mem = s.mem ∧ (s.field .memFault [] 8 8 = 0 →
      u.field .memFault [] 8 8 = 1 ∧ u.field .memFault [] 7 0 = 1 ∧
        u.reg .memFaultAddr [] = BitVec.ofNat 64 (s.winBase fn + o)) :=
  ⟨s.hostMiss 1 (s.winBase fn + o), by rw [exec_bar2Access, State.bar2_write_miss hs fn o h], State.memFault_mem .., fun hf =>
    State.hostMiss_fields hf _⟩

variable (h : s.hostReachAll (s.winBase fn + o) d.length = true)
include h

theorem exec_bar2Access_write_refused (hro : s.caveRo = true) (hd : d ≠ []) (hg : ∃ g x, (s.winBase fn + o) / granBytes ≤ g ∧
    g * granBytes < s.winBase fn + o + d.length ∧ s.gran g = some x ∧ x.at_ = 10) :
    exec (.bar2Access fn o (some d) 0) s = .next (s.memFault 0 4 0 0 4 (s.winBase fn + o)) := by
  have hc := (s.touchesCave_iff (List.length_pos_iff.2 hd)).2 hg
  rw [exec_bar2Access, State.bar2_write_refused hs fn o h hro hc]
  rfl

theorem exec_bar2Access_write_page (hro : s.caveRo = false) (hd : d ≠ [])
    (hp : (s.winBase fn + o) % pageBytes + d.length ≤ pageBytes) (hc : s.inCave (s.winBase fn + o) = true) :
    exec (.bar2Access fn o (some d) 0) s = .next { s with dev := { s.dev with caveQ :=
      s.dev.caveQ ++ [.page { addr := s.winBase fn + o, data := d, bad := [], who := .firmware }] } } := by
  rw [exec_bar2Access, State.bar2_write hs fn o h (.inl hro), State.farWrite_page hd hp hc]

theorem exec_bar2Access_write (hm : s.mem.wf = true) (hg : ∀ g, (s.winBase fn + o) / granBytes ≤ g →
    g ≤ (s.winBase fn + o + d.length) / granBytes → ∀ x, s.gran g = some x → x.at_ ≠ 10) :
    ∃ u, exec (.bar2Access fn o (some d) 0) s = .next u ∧ u.bytes (s.winBase fn + o) d.length = d ∧
      ∀ b, b < s.winBase fn + o ∨ s.winBase fn + o + d.length ≤ b → Mem.read u.mem b = Mem.read s.mem b := by
  generalize ha : s.winBase fn + o = a at *
  have hcave : ∀ x, a ≤ x → x < a + d.length → s.inCave x = false := fun x hlo hhi =>
    State.inCave_eq_false (hg (x / granBytes) (Nat.div_le_div_right hlo) (Nat.div_le_div_right (Nat.le_of_lt hhi)))
  have htouch : s.touchesCave a d.length = false := State.touchesCave_eq_false fun g hlo hhi =>
    hg g hlo ((Nat.le_div_iff_mul_le (by decide)).2 (Nat.le_of_lt hhi))
  refine ⟨s.farWrite a d [] .firmware, ?_, ?_, fun b hb => ?_⟩
  · subst ha
    rw [exec_bar2Access, State.bar2_write hs fn o h (.inr htouch)]
  · exact (Mem.readN_congr d.length a fun x _ _ => State.read_farWrite hm hcave [] .firmware none x).trans (Mem.readN_writeN d a hm)
  · rw [State.read_farWrite hm hcave, Mem.read_writeN d a b hm, if_neg (by omega)]
end

theorem exec_bar2Access_read (fn : Fin 2) (o n : Nat) : ∃ u, exec (.bar2Access fn o none n) s = .next u ∧ u.mem = s.mem ∧
    u.dev.regs = (if s.hostReachAll (s.winBase fn + o) n then s else s.memFault 0 4 0 0 1 (s.winBase fn + o)).dev.regs ∧
    u.host.reply = if s.hostReachAll (s.winBase fn + o) n then s.bytes (s.winBase fn + o) n else List.replicate n 0xFF := by
  rw [exec_bar2Access]
  cases h : s.hostReachAll (s.winBase fn + o) n with
  | true =>
    rw [State.bar2_read hs fn o h]
    exact ⟨_, rfl, rfl, rfl, rfl⟩
  | false =>
    rw [State.bar2_read_miss hs fn o h]
    exact ⟨_, rfl, State.memFault_mem .., rfl, rfl⟩
end

/-- Settles O54: each clause is the lemma of its row, the write outside the cave by the pages that it is cut into. -/
theorem hostAccessesFollowTheirCodes : Obligations.HostAccessesFollowTheirCodes := by
  unfold Obligations.HostAccessesFollowTheirCodes
  refine ⟨fun s fn a n v w h => exec_host_not_linked h fn a n v w, fun s hs => ⟨?_, ?_, ?_, ?_, ?_, ?_, ?_⟩⟩
  · exact fun fn a size v h => exec_registerWrite_missized hs h fn v
  · exact fun fn v n i hn hc h8 h ha ho => exec_registerWrite_plain hs fn v hn hc h8 h ha ho
  · exact fun n i h h8 ha h4 ho => exec_registerReadClear_eight hs h h8 ha h4 ho
  · exact fun a n i h hc => exec_counterSatClear_counter hs h hc
  · exact fun a h => exec_counterSatClear_other hs h
  · exact fun fn o d => ⟨exec_bar2Access_write_miss hs fn o, exec_bar2Access_write_refused hs fn o, exec_bar2Access_write_page hs fn o,
      exec_bar2Access_write hs fn o⟩
  · exact fun fn o n => exec_bar2Access_read hs fn o n

end Sys2Proof.Machine
end

section
/-!
PROOFS. Shipments (R211) and the writes of landing frames (R204). The end of a shipment closes its flow, and closing a flow performs
the landing writes of other flows that nothing holds back any more: memory changes by it, which O51 denies.
-/
namespace Sys2Proof.Machine

/-! ### A landing write that a lost port leaves to be performed -/

/-- A message of 32 bytes of 1 for the context's RX flow 1, one frame. -/
def landingFrame (msg : Nat) : Frame :=
  { dst := 5, src := 7, flow := 1, seq := msg, vc := 0, kind := 0, last := true, plen := 1, fidx := 0, msg := msg, ttl := 5,
    data := List.replicate 32 1 }

/-- RX flow 1 of context 0: message 0 came on port 0 and message 1 on port 1, each for a granule of its own; neither is written. -/
def landingFlow : Flow :=
  { st := .opened, kind := 1, ctx := 0, peer := 7, base := stackBase, slotSize := granBytes, slots := 2, seq := 2, msg := 2, landed := 2,
    landings := [⟨0, some (0, 0), landingFrame 0, false⟩, ⟨1, some (1, 0), landingFrame 1, false⟩] }

/-- A standing request whose snapshot and manifest have been sent on flow 16,320. -/
def sentSnap : Snap :=
  { src := stackBase, len := 64, peer := 9, pflow := 3, every := 1, next := 4, mbox := none, stage := some cellarBase, flow := 16320,
    sent := 64 + 256 }

/-- The flow of that shipment: the peer has released the manifest's slot. -/
def sentFlow : Flow := { st := .opened, kind := 0, ctx := 0, fw := true, vc := 2, peer := 9, pflow := 3, credit := 1, slots := 1 }

/-- The granules of context 0: two of the landing area, in partitions 0 and 1, and the staging area. -/
def shipGrans : AMap Nat Gran :=
  [(stackBase / granBytes, { owner := some 0, home := 1, part := 0, at_ := 1 }),
   (stackBase / granBytes + 1, { owner := some 0, home := 1, part := 1, at_ := 1 }),
   (cellarBase / granBytes, { owner := some 0, home := 9, part := 0, at_ := 9 })]

/-- Message 0 waits for its tokens at partition 0; message 1, whose partition is bypassed (R158), waits only behind it. -/
def beforeLoss : State :=
  let s := State.reset.setCtx 0 { valid := true, first := 0, count := 1, snap := some sentSnap }
  let s := s.modMem fun m => { m with grans := shipGrans, regQ := [⟨0, 0, 1, .flow 1 0, .pass⟩], bwr := [((0, 0), 0)] }
  s.modLink fun l => { l with ports := [(0, { st := .up }), (1, { st := .up })], flows := [(1, landingFlow), (16320, sentFlow)] }

/-- Port 0 goes down, and message 0 is dropped with it (R208): nothing holds message 1 back any more. -/
def afterLoss : State := beforeLoss.linkLost 0

/-- The state of the refutation is one that LINK_DOWN leads to, from a state in which no landing write is left to be performed. -/
theorem linkDown_frees_landing : beforeLoss.settleLandings = beforeLoss ∧ exec (.linkDown 0) beforeLoss = .next afterLoss :=
  ⟨by decide +kernel, by rfl⟩

theorem exec_snapshotShipment (c : CtxId) (hint : Option Nat) (s : State) :
    exec (.snapshotShipment c hint) s = .next (s.shipment c hint) := by rfl

/-- The loss of the port leaves the shipment as it was: all is sent, and the manifest's slot is released. -/
theorem afterLoss_sent : (afterLoss.ctx 0).snap = some sentSnap ∧ (afterLoss.flow sentSnap.flow).credit ≠ 0 ∧ sentSnap.len < sentSnap.sent := by
  decide +kernel

/-- Where message 1 lands. -/
def landingAddr : Nat := stackBase + granBytes

theorem afterLoss_unwritten : Mem.read afterLoss.mem landingAddr = 0 := by decide +kernel

/-- The end of the shipment writes message 1. -/
theorem afterLoss_shipment_writes : Mem.read (afterLoss.shipment 0 none).mem landingAddr = 1 := by decide +kernel

/-- Refutes O51: the end of a shipment keeps memory as it was only while no frame of another flow waits to land. After a LINK_DOWN
that drops the first of two landing frames, the SNAPSHOT_SHIPMENT that ends a shipment closes the firmware's flow, and with it the
second frame lands. The clause has no hypothesis on the landings, such as FLOW_CLOSE has for the same closing of a flow. -/
theorem not_snapshotsAndCheckpointsGoOn : ¬ Obligations.SnapshotsAndCheckpointsGoOn := by
  unfold Obligations.SnapshotsAndCheckpointsGoOn
  rintro ⟨-, hrows⟩
  obtain ⟨-, -, hship, -⟩ := hrows 0 none afterLoss
  obtain ⟨hsnap, hslot⟩ := afterLoss_sent
  obtain ⟨-, -, hstaged⟩ := hship sentSnap hsnap
  obtain ⟨-, -, hend⟩ := hstaged cellarBase rfl
  obtain ⟨u, hu, hmem, -⟩ := hend (.inr hslot)
  rw [exec_snapshotShipment] at hu
  cases hu
  have hread := afterLoss_shipment_writes
  rw [Fin.val_zero] at hmem
  rw [hmem, afterLoss_unwritten] at hread
  exact absurd hread (by decide)

end Sys2Proof.Machine
end

section
/-!
PROOFS. What a fault of a core leaves, its tag record with it, and GATE.ARRIVE (R20, R62, R281).
-/
namespace Sys2Proof.Machine

/-! ### Recorded faults -/

theorem State.eventsOnly_captureTag (c : Nat) (t : Tag) (n : Nat) : ∀ s : State, s.eventsOnly (s.captureTag c t n) := by
  induction n with
  | zero => exact State.eventsOnly_refl
  | succ n ih => exact fun s => State.eventsOnly_trans (s.eventsOnly_setReg _ _ _) (ih _)

/-- A tag fault is recorded in register words. -/
theorem State.eventsOnly_hoopFault (s : State) (c cause : Nat) (d : Dir) (t : Tag) : s.eventsOnly (s.hoopFault c cause d t) := by
  unfold State.hoopFault
  split
  · exact s.eventsOnly_refl
  · exact State.eventsOnly_trans (s.eventsOnly_setReg _ _ _) (State.eventsOnly_captureTag _ _ _ _)

/-! ### A fault of a core (R281) -/

/-- A core that a fault of its own reaches: one that runs or is frozen enters FAULTED. -/
def Core.stopped (k : Core) : Core :=
  if k.live then { k with st := .faulted, seqr := { k.seqr with frz := none, decStop := true } } else k

theorem Core.live_iff (k : Core) : k.live = true ↔ k.st = .running ∨ k.st = .frozen := by
  simp [Core.live]

theorem Core.stopped_st {k : Core} (h : k.live = true) : k.stopped.st = .faulted := by simp [Core.stopped, h]
@[simp] theorem Core.stopped_queue (k : Core) (q : Nat) : k.stopped.seqr.queue q = k.seqr.queue q := by
  unfold Core.stopped; split <;> rfl
@[simp] theorem Core.stopped_hoop (k : Core) : k.stopped.hoop = k.hoop := by
  unfold Core.stopped; split <;> rfl

section
variable (s : State) (c code : Nat) (step : BitVec 64)

/-- Before the event of its code is raised, a fault of a core sets CORE_FAULT and stops the core. -/
theorem State.eventsOnly_coreFault :
    ((s.setReg .coreFault (coreIdx c) (word [(code, 48), ((s.core c).sbc % 2 ^ 48, 0)])).setCore c (s.core c).stopped).eventsOnly
      (s.coreFault c code step) := by
  have hstop : (s.core c).stopped = (match (s.core c).st with
      | .running | .frozen => { s.core c with st := .faulted, seqr := { (s.core c).seqr with frz := none, decStop := true } }
      | _ => s.core c) := by
    unfold Core.stopped Core.live
    cases (s.core c).st <;> rfl
  rw [hstop]
  exact State.eventsOnly_raise _ _ _

@[simp] theorem State.coreFault_mem : (s.coreFault c code step).mem = s.mem := (s.eventsOnly_coreFault c code step).mem
@[simp] theorem State.coreFault_bad : (s.coreFault c code step).bad = s.bad := (s.eventsOnly_coreFault c code step).bad
@[simp] theorem State.coreFault_air : (s.coreFault c code step).dev.air = s.dev.air := (s.eventsOnly_coreFault c code step).air
@[simp] theorem State.coreFault_period : (s.coreFault c code step).dev.period = s.dev.period :=
  (s.eventsOnly_coreFault c code step).period
@[simp] theorem State.coreFault_core_self : (s.coreFault c code step).core c = (s.core c).stopped :=
  ((s.eventsOnly_coreFault c code step).core c).trans (State.core_setCore_self _ c _)

theorem State.coreFault_reg :
    (s.coreFault c code step).reg .coreFault (coreIdx c) = word [(code, 48), ((s.core c).sbc % 2 ^ 48, 0)] := by
  unfold State.coreFault
  rw [State.reg_raise _ _ _ _ (by decide) (by decide), State.modCore_reg, State.reg_setReg_self]

theorem wbits_word_code {code b : Nat} (h : code < 2 ^ 16) (hb : b < 2 ^ 48) :
    wbits (word [(code, 48), (b, 0)]) 63 48 = code ∧ wbits (word [(code, 48), (b, 0)]) 47 0 = b := by
  simp only [wbits, bits, word, List.foldl_cons, List.foldl_nil, BitVec.toNat_ofNat]
  omega

/-- CORE_FAULT holds the code of the last fault, and its beat. -/
theorem State.coreFault_code (h : code < 2 ^ 16) : (s.coreFault c code step).field .coreFault (coreIdx c) 63 48 = code := by
  rw [State.field, State.coreFault_reg]
  exact (wbits_word_code h (Nat.mod_lt _ (by decide))).1
theorem State.coreFault_beat (h : code < 2 ^ 16) :
    (s.coreFault c code step).field .coreFault (coreIdx c) 47 0 = (s.core c).sbc % 2 ^ 48 := by
  rw [State.field, State.coreFault_reg]
  exact (wbits_word_code h (Nat.mod_lt _ (by decide))).2
end

/-! ### The command at the head of a queue -/

@[simp] theorem Core.taken_hoop (k : Core) (q : Nat) : (k.taken q).hoop = k.hoop := rfl
@[simp] theorem Core.taken_sbc (k : Core) (q : Nat) : (k.taken q).sbc = k.sbc := rfl
@[simp] theorem Core.taken_queue (k : Core) (q : Nat) : (k.taken q).seqr.queue q = (k.seqr.queue q).tail :=
  SeqS.queue_setQueue_self _ _ _

theorem State.popHead_taken (s : State) (c q : Nat) : s.popHead c q = s.setCore c ((s.core c).taken q) := rfl
theorem State.freeze_frozenOn (s : State) (c cause q : Nat) : s.freeze c cause q = s.setCore c ((s.core c).frozenOn cause q) := rfl

/-! ### GATE.ARRIVE (R20, R62) -/

/-- A tag is the one that a descriptor names, its format apart (R10, R20). -/
def Tag.sameTile (t : Tag) (r : TagRef) (step : BitVec 64) : Prop :=
  t.tensor = r.tensor ∧ t.row = r.row ∧ t.col = r.col ∧ (r.pchk = true → t.frozen = false → t.parity = (step.toNat % 2 == 1))

section
variable {t : Tag} {r : TagRef} {step : BitVec 64}

theorem Tag.sameTile_iff : t.sameTile r step ↔ ¬ (t.tensor ≠ r.tensor ∨ t.row ≠ r.row ∨ t.col ≠ r.col
    ∨ (r.pchk ∧ ¬ t.frozen ∧ t.parity ≠ (step.toNat % 2 == 1))) := by
  simp only [Tag.sameTile, not_or, not_and, ne_eq, Classical.not_not, Bool.not_eq_true]

theorem Tag.compare_mismatch (h : ¬ t.sameTile r step) : t.compare r step = .mismatch := by
  rw [Tag.sameTile_iff, Classical.not_not] at h
  exact if_pos h
theorem Tag.compare_format (h : t.sameTile r step) (hf : t.fmt ≠ r.fmt) : t.compare r step = .format := by
  rw [Tag.sameTile_iff] at h
  exact (if_neg h).trans (if_pos hf)
theorem Tag.compare_pass (h : t.sameTile r step) (hf : t.fmt = r.fmt) : t.compare r step = .pass := by
  rw [Tag.sameTile_iff] at h
  exact (if_neg h).trans (if_neg fun hn => hn hf)
end

section
variable {s : State} {c : CoreId} {e : QEntry} {d : Dir} {turn early : Bool} {r : TagRef}

theorem exec_gateArrive (hr : s.ready c 0 = some e) (hc : e.cmd = .gateArrive d turn early r) :
    exec (.gateArrive c) s = .next (s.gate c e) := by
  have hrow : exec (.gateArrive c) s = .next (s.gateStart c fun | .gateArrive _ _ _ _ => true | _ => false) := by rfl
  simp only [hrow, State.gateStart, hr, hc, if_true]

theorem State.gate_unmet (hc : e.cmd = .gateArrive d turn early r)
    (h : ∀ b, (s.core c).hoop.awaited d turn = some b → ¬ (early = true ∨ b.since + b.tile.flits ≤ s.dev.period)) :
    s.gate c e = s.freeze c 2 0 := by
  have hmet : s.gateMet c e.cmd = false := by
    cases hb : (s.core c).hoop.awaited d turn with
    | none => simp [State.gateMet, hc, hb]
    | some b =>
      have hn := h b hb
      rw [not_or, Bool.not_eq_true] at hn
      simp [State.gateMet, hc, hb, TBuf.complete, hn]
  rw [State.gate, hmet, hc]
  rfl

variable {b : TBuf}

theorem State.gate_met (hc : e.cmd = .gateArrive d turn early r) (hb : (s.core c).hoop.awaited d turn = some b)
    (h : early = true ∨ b.since + b.tile.flits ≤ s.dev.period) : s.gate c e = (s.popHead c 0).passGate c e.cmd e.step := by
  have hmet : s.gateMet c e.cmd = true := by simpa [State.gateMet, hc, hb, TBuf.complete] using h
  exact if_pos hmet

/-- Taking the gate leaves the awaited tile where it is. -/
theorem State.gateTag_popHead (hc : e.cmd = .gateArrive d turn early r) (hb : (s.core c).hoop.awaited d turn = some b) :
    (s.popHead c 0).gateTag c e.cmd = some (d, b.tile.tag, r) := by
  simp only [State.gateTag, hc, State.popHead_taken, State.core_setCore_self, Core.taken_hoop, hb, Option.map_some]

section
variable {t : State} {cmd : Cmd} {g : Tag} {step : BitVec 64} (h : t.gateTag c cmd = some (d, g, r))
include h
theorem State.passGate_pass (hg : g.compare r step = .pass) : t.passGate c cmd step = t := by
  simp only [State.passGate, h, hg]
theorem State.passGate_mismatch (hg : g.compare r step = .mismatch) :
    t.passGate c cmd step = (t.hoopFault c 0 d g).coreFault c 0x0101 step := by
  simp only [State.passGate, h, hg]
theorem State.passGate_format (hg : g.compare r step = .format) :
    t.passGate c cmd step = (t.hoopFault c 2 d g).coreFault c 0x0109 step := by
  simp only [State.passGate, h, hg]
end

/-- What a fault on the gate's beat leaves: the core in FAULTED with the gate taken, and the code and the beat in CORE_FAULT. -/
theorem State.gate_faulted (hr : s.ready c 0 = some e) (cause : Nat) (t : Tag) {code : Nat} (h16 : code < 2 ^ 16) :
    let u := ((s.popHead c 0).hoopFault c cause d t).coreFault c code e.step
    (u.core c).st = .faulted ∧ (u.core c).seqr.queue 0 = ((s.core c).seqr.queue 0).tail ∧ u.mem = s.mem ∧ u.bad = s.bad ∧
      u.field .coreFault (coreIdx c) 63 48 = code ∧ u.field .coreFault (coreIdx c) 47 0 = (s.core c).sbc % 2 ^ 48 := by
  have hev := (s.popHead c 0).eventsOnly_hoopFault c cause d t
  have hcore : ((s.popHead c 0).hoopFault c cause d t).core c = (s.core c).taken 0 := by
    rw [hev.core, State.popHead_taken, State.core_setCore_self]
  obtain ⟨hrun, -, -⟩ := State.ready_some hr
  refine ⟨?_, ?_, ?_, ?_, State.coreFault_code _ _ _ _ h16, ?_⟩
  · rw [State.coreFault_core_self, hcore]
    exact Core.stopped_st ((Core.live_iff _).2 (.inl hrun))
  · rw [State.coreFault_core_self, hcore, Core.stopped_queue, Core.taken_queue]
  · rw [State.coreFault_mem, hev.mem]; rfl
  · rw [State.coreFault_bad, hev.bad]; rfl
  · rw [State.coreFault_beat _ _ _ _ h16, hcore, Core.taken_sbc]
end

/-- Settles O8: the gate's three ways out are those of the comparison. -/
theorem gateArriveComparesTheTag : Obligations.GateArriveComparesTheTag := by
  unfold Obligations.GateArriveComparesTheTag
  intro c s e d turn early r hr hc
  rw [exec_gateArrive hr hc]
  refine ⟨fun h => ?_, fun b hb hmet => ⟨fun hsame hfmt => ?_, fun hother => ?_⟩⟩
  · rw [State.gate_unmet hc h, State.freeze_frozenOn]
  · rw [State.gate_met hc hb hmet, State.passGate_pass (State.gateTag_popHead hc hb) (Tag.compare_pass hsame hfmt), State.popHead_taken]
  · have htag := State.gateTag_popHead hc hb
    refine ⟨_, rfl, ?_⟩
    rw [State.gate_met hc hb hmet]
    by_cases hsame : b.tile.tag.sameTile r e.step
    · rw [State.passGate_format htag (Tag.compare_format hsame fun hf => hother ⟨hsame, hf⟩)]
      unfold Tag.sameTile at hsame
      rw [if_pos hsame]
      exact State.gate_faulted hr 2 _ (by decide)
    · rw [State.passGate_mismatch htag (Tag.compare_mismatch hsame)]
      unfold Tag.sameTile at hsame
      rw [if_neg hsame]
      exact State.gate_faulted hr 0 _ (by decide)

end Sys2Proof.Machine
end

section
/-!
PROOFS. RECV to memory in checked issue mode (R82, R313), and RANGE_ENTRY_WRITE of an entry that nothing has claimed (R116): two
statements that leave out a case, each refuted by a state that shows it.
-/
namespace Sys2Proof.Machine

/-! ### A RECV that overwrites what a PRESS still reads -/

/-- The 32 bytes at the start of local SRAM and those behind them. -/
def pressedMem : MemRef := { clm := false, base := 0, stride := 128 }

/-- The RECV that overwrites them, due on beat 100. -/
def overwritingRecv : QEntry :=
  { cmd := .recv .cw false 3 (some pressedMem), start := 100, stream := .fwd, step := 5, opcode := 0x51, engine := 5, pc := 1, bank := 0 }

/-- A PRESS of a block of INT8 from there, started on beat 99: it reads a row on each of 128 beats. -/
def readingPress : QEntry :=
  { cmd := .press (.mem pressedMem) false .int8 false, start := 99, stream := .fwd, step := 5, opcode := 0x10, engine := 1, pc := 0, bank := 0 }

/-- A complete tile of INT8, 32 bytes of it written out. -/
def arrivedTile : TBuf :=
  { uid := 1,
    tile := ⟨{ tensor := 9, row := 0, col := 0, fmt := 5, parity := false, frozen := false, poison := false, scaleExp := 0, hops := 0,
               check := 0 }, List.replicate 32 7, []⟩,
    since := 0, named := false, users := 0, freeAt := 0 }

/-- Core 0 in checked issue mode under HAZ_HALT, the reads of its PRESS recorded and the RECV at the head of queue 5. -/
def checkedCore : Core :=
  { st := .running, slot := some 0, sbc := 100,
    seqr := { checked := true, hazHalt := true, queues := [(5, [overwritingRecv])] },
    vec := { hazards := Core.accesses {} readingPress },
    hoop := { cw := [arrivedTile] } }

/-- Context 0, whose one slot core 0 holds, in period 50. -/
def checkedState : State :=
  let s := (State.reset.setCtx 0 { valid := true, first := 0, count := 1, loaded := true, running := true, slots := [0] }).setCore 0 checkedCore
  { s with dev := { s.dev with period := 50 } }

theorem checkedState_ready : checkedState.ready 0 5 = some overwritingRecv := by decide +kernel

theorem checkedState_idle : (∀ x, (checkedCore.arr x).drain = none) ∧ checkedCore.vec.pend = [] ∧ checkedCore.ldl.emits = [] :=
  ⟨fun x => by cases x <;> rfl, rfl, rfl⟩

theorem checkedState_tile : checkedCore.hoop.awaited .cw false = some arrivedTile ∧ arrivedTile.complete checkedState.dev.period = true ∧
    pressedMem.base + arrivedTile.tile.data.length ≤ 0x01800000 := by decide +kernel

theorem exec_recv (c : CoreId) (s : State) : exec (.recv c) s = .next (s.hoopStart c fun | .recv _ _ _ _ => true | _ => false) := by rfl

/-- The write is a hazard with the reads of the PRESS, and HAZ_HALT halts the context (R82). -/
theorem checkedState_recv_halts :
    ((checkedState.hoopStart 0 fun | .recv _ _ _ _ => true | _ => false).core 0).st = .halted := by decide +kernel

/-- Refutes O25: a RECV to memory does not always leave its core running. In checked issue mode its write can be a hazard, here with
the reads of a PRESS under way, and under HAZ_HALT the context, and with it the core, is halted. The clause has no hypothesis on
checked issue mode. -/
theorem not_recvPassRetire : ¬ Obligations.RecvPassRetire := by
  unfold Obligations.RecvPassRetire
  rintro ⟨-, hmemory⟩
  obtain ⟨hdrain, hpend, hemits⟩ := checkedState_idle
  obtain ⟨htile, hwhole, hfits⟩ := checkedState_tile
  obtain ⟨-, hwritten⟩ := hmemory 0 checkedState overwritingRecv .cw false pressedMem checkedState_ready rfl hdrain hpend hemits
  obtain ⟨hput, -⟩ := hwritten arrivedTile htile hwhole
  obtain ⟨u, hu, -, -, -, -, hrun⟩ := hput rfl hfits
  rw [exec_recv] at hu
  cases hu
  exact absurd (hrun.symm.trans checkedState_recv_halts) (by decide)

/-! ### A write of an unclaimed range entry -/

theorem exec_rangeEntryWrite (c : CoreId) (t : Option (Fin 512 × Bool)) (v : Word) {s : State} (h : s.linked = true) :
    exec (.rangeEntryWrite c t v) s = .next (s.rangeWrite c (t.map fun p => (p.1.val, p.2)) v) := by
  have hrow : exec (.rangeEntryWrite c t v) s = .next (s.hosted fun s => s.rangeWrite c (t.map fun p => (p.1.val, p.2)) v) := by rfl
  rw [hrow, State.hosted_of_linked h]

/-- The module after reset, the host's link trained. -/
def linkedReset : State := State.reset.modPower fun p => { p with perst := false, trained := true }

/-- No core is listed before the write, and core 0 is listed after it, in its reset value. -/
theorem linkedReset_cores : linkedReset.dev.cores = [] ∧ (linkedReset.rangeWrite 0 (some (0, false)) 0).dev.cores = [(0, {})] := by
  decide +kernel

/-- Refutes O57: the write of an unclaimed range entry differs in more than the register words from the state before it. It gives its
core the value that the core has, and where the map of cores does not list the core, as after reset, the map lists it from then on. What
the core holds is the same; the clause says that the map is. -/
theorem not_guardedWritesAreRefusedOrStored : ¬ Obligations.GuardedWritesAreRefusedOrStored := by
  unfold Obligations.GuardedWritesAreRefusedOrStored
  intro h
  have hl : linkedReset.linked = true := by decide
  obtain ⟨-, -, -, hrange, -⟩ := h linkedReset hl
  obtain ⟨-, -, -, -, hfree⟩ := hrange 0 (some (0, false)) 0
  obtain ⟨u, hu, honly, -⟩ := hfree (.inl rfl) 0 false rfl rfl
  rw [exec_rangeEntryWrite _ _ _ hl] at hu
  cases hu
  obtain ⟨hbefore, hafter⟩ := linkedReset_cores
  have hsame : (linkedReset.rangeWrite 0 (some (0, false)) 0).dev.cores = linkedReset.dev.cores := congrArg (·.dev.cores) honly
  rw [hbefore, hafter] at hsame
  exact List.cons_ne_nil _ _ hsame

end Sys2Proof.Machine
end

section
/-!
PROOFS. What of the hoop the shared operations keep: the ring of a context (its arc, JOIN and the cores in service), the tiles under
way, the clocks of the regions, and the hoop interface of each core; and what sending a tile does.
-/
namespace Sys2Proof.Machine

/-! ### The ring of a context -/

/-- The arc of a context: its first cluster, the count of its clusters, and whether it is folded. -/
def Ctx.arc (x : Ctx) : Nat × Nat × Bool := (x.first, x.count, x.folded)

/-- The rings of `s` and `t` are the same: arcs, JOIN, and the cores in service. -/
structure State.sameRing (s t : State) : Prop where
  arc : ∀ x, (t.ctx x).arc = (s.ctx x).arc
  join : t.reg .hubHoopCfg [] = s.reg .hubHoopCfg []
  service : ∀ j, (t.core j).inService = (s.core j).inService

theorem State.sameRing.ringNext {s t : State} (h : s.sameRing t) (x c : Nat) (d : Dir) : t.ringNext x c d = s.ringNext x c d := by
  have hjoined : t.joined = s.joined := by simp only [State.joined, State.field, h.join]
  have harc := h.arc x
  simp only [Ctx.arc, Prod.mk.injEq] at harc
  obtain ⟨hfirst, hcount, hfolded⟩ := harc
  have hpositions : t.positions (t.ctx x).first (t.ctx x).count = s.positions (s.ctx x).first (s.ctx x).count := by
    simp only [State.positions, h.service, hfirst, hcount]
  unfold State.ringNext
  dsimp only
  rw [hpositions, hjoined, hfolded]

/-- A change of a core that leaves it in service, or out of it, changes no ring. -/
theorem State.sameRing_setCore {s : State} {c : Nat} {k : Core} (h : k.inService = (s.core c).inService) : s.sameRing (s.setCore c k) := by
  refine ⟨fun _ => rfl, rfl, fun j => ?_⟩
  by_cases hj : j = c
  · subst hj; rw [State.core_setCore_self, h]
  · rw [State.core_setCore_ne _ _ hj]

/-! ### All of the hoop -/

/-- What the hoop is made of is the same in `s` and `t`, and so is memory. -/
structure State.sameHoop (s t : State) : Prop extends s.sameRing t where
  mem : t.mem = s.mem
  period : t.dev.period = s.dev.period
  air : t.dev.air = s.dev.air
  clock : ∀ r, t.reg .clkRegion [r] = s.reg .clkRegion [r]
  hoop : ∀ j, (t.core j).hoop = (s.core j).hoop

theorem State.sameHoop_refl (s : State) : s.sameHoop s :=
  ⟨⟨fun _ => rfl, rfl, fun _ => rfl⟩, rfl, rfl, rfl, fun _ => rfl, fun _ => rfl⟩

theorem State.sameHoop_trans {s t u : State} (h : s.sameHoop t) (k : t.sameHoop u) : s.sameHoop u :=
  ⟨⟨fun x => (k.arc x).trans (h.arc x), k.join.trans h.join, fun j => (k.service j).trans (h.service j)⟩, k.mem.trans h.mem,
    k.period.trans h.period, k.air.trans h.air, fun r => (k.clock r).trans (h.clock r), fun j => (k.hoop j).trans (h.hoop j)⟩

section
variable {s t : State} (h : s.sameHoop t)
include h

theorem State.sameHoop.airHead (c : Nat) (d : Dir) : t.airHead c d = s.airHead c d := by simp only [State.airHead, h.air]

theorem State.sameHoop.regionStopped (r : Nat) : t.regionStopped r = s.regionStopped r := by
  simp only [State.regionStopped, State.field, h.clock]

theorem State.sameHoop.hopFree (x c : Nat) (d : Dir) : t.hopFree x c d = s.hopFree x c d := by
  simp only [State.hopFree, h.hoop, h.period, h.ringNext, h.airHead, h.regionStopped]
end

theorem State.sameHoop_setCore {s : State} {c : Nat} {k : Core} (hh : k.hoop = (s.core c).hoop)
    (hs : k.inService = (s.core c).inService) : s.sameHoop (s.setCore c k) := by
  refine ⟨State.sameRing_setCore hs, rfl, rfl, rfl, fun _ => rfl, fun j => ?_⟩
  by_cases hj : j = c
  · subst hj; rw [State.core_setCore_self, hh]
  · rw [State.core_setCore_ne _ _ hj]

theorem State.sameHoop_modCore {s : State} {c : Nat} {f : Core → Core} (hh : (f (s.core c)).hoop = (s.core c).hoop)
    (hs : (f (s.core c)).inService = (s.core c).inService) : s.sameHoop (s.modCore c f) := State.sameHoop_setCore hh hs

theorem State.sameHoop_setReg (s : State) {n : RegName} (i : List Nat) (v : BitVec 64) (hj : n ≠ .hubHoopCfg) (hc : n ≠ .clkRegion) :
    s.sameHoop (s.setReg n i v) :=
  ⟨⟨fun _ => rfl, s.reg_setReg_ne v fun e => hj (congrArg Prod.fst e).symm, fun _ => rfl⟩, rfl, rfl, rfl,
    fun _ => s.reg_setReg_ne v fun e => hc (congrArg Prod.fst e).symm, fun _ => rfl⟩

theorem State.sameHoop_modCtx (s : State) (c : Nat) {f : Ctx → Ctx} (h : (f (s.ctx c)).arc = (s.ctx c).arc) :
    s.sameHoop (s.modCtx c f) := by
  refine ⟨⟨fun x => ?_, rfl, fun _ => rfl⟩, rfl, rfl, rfl, fun _ => rfl, fun _ => rfl⟩
  by_cases hx : x = c
  · subst hx; rw [State.modCtx, State.ctx_setCtx_self, h]
  · rw [State.modCtx, State.ctx_setCtx_ne _ _ hx]

theorem State.sameHoop_recordFault (s : State) {n : RegName} (i : List Nat) (valid : Nat) (w : BitVec 64) (hj : n ≠ .hubHoopCfg)
    (hc : n ≠ .clkRegion) : s.sameHoop (s.recordFault n i valid w) := by
  unfold State.recordFault
  split
  · exact s.sameHoop_refl
  · exact s.sameHoop_setReg i _ hj hc

/-! ### Events -/

theorem State.arc_classTriggers (l g : Nat) (cs : List Nat) (x : Nat) : ∀ s : State, ((s.classTriggers l g cs).ctx x).arc = (s.ctx x).arc := by
  induction cs with
  | nil => exact fun _ => rfl
  | cons c cs ih =>
    intro s
    have harm (a : Arming) : ((s.armTrigger c a).ctx x).arc = (s.ctx x).arc := 
      (s.sameHoop_modCtx c (f := fun x => { x with arming := some { a with fired := true } }) rfl).arc x
    rw [State.classTriggers, ih]
    split
    · split
      · exact harm _
      · rfl
    · rfl

theorem State.arc_record (s : State) (code : Nat) (o : Origin) (x : Nat) : ((s.record code o).ctx x).arc = (s.ctx x).arc := by
  unfold State.record
  dsimp only
  split
  · rw [State.arc_classTriggers]
    split
    · rfl
    · split <;> rfl
  · rfl

theorem State.sameHoop_of_events {s t : State} (h : s.eventsOnly t) (ha : ∀ x, (t.ctx x).arc = (s.ctx x).arc)
    (hj : t.reg .hubHoopCfg [] = s.reg .hubHoopCfg []) (hc : ∀ r, t.reg .clkRegion [r] = s.reg .clkRegion [r]) : s.sameHoop t :=
  ⟨⟨ha, hj, fun j => congrArg Core.inService (h.core j)⟩, h.mem, h.period, h.air, hc, fun j => congrArg Core.hoop (h.core j)⟩

theorem State.sameHoop_record (s : State) (code : Nat) (o : Origin) : s.sameHoop (s.record code o) :=
  State.sameHoop_of_events (s.eventsOnly_record code o) (s.arc_record code o) (s.reg_record _ _ _ (by decide))
    fun _ => s.reg_record _ _ _ (by decide)

/-- A counter that is not one of the two registers changes nothing of the hoop. -/
theorem State.sameHoop_bump (s : State) {n : RegName} (i : List Nat) (k : Nat) (x : Option Nat) (kind index : Nat)
    (hj : n ≠ .hubHoopCfg) (hc : n ≠ .clkRegion) : s.sameHoop (s.bump n i k x kind index) := by
  unfold State.bump
  split
  · exact s.sameHoop_refl
  · dsimp only
    refine State.sameHoop_trans (s.sameHoop_setReg i (ctrAdd (s.reg n i) k) hj hc) ?_
    split
    · exact State.sameHoop_record _ _ _
    · exact State.sameHoop_refl _

theorem State.sameHoop_taint (s : State) (c : Nat) (step : BitVec 64) : s.sameHoop (s.taint c step) :=
  State.sameHoop_trans (s.sameHoop_modCtx c rfl) (State.sameHoop_bump _ _ _ _ _ _ (by decide) (by decide))

theorem State.sameHoop_raise (s : State) (code : Nat) (o : Origin) : s.sameHoop (s.raise code o) := by
  unfold State.raise
  dsimp only
  refine State.sameHoop_trans (s.sameHoop_record code o) ?_
  generalize s.record code o = t
  split
  · exact t.sameHoop_refl
  · rename_i c _
    have hfault (u : State) : u.sameHoop (u.modCtx c fun x => { x with faults := x.faults ++ [(code, o.kind, o.srci)] }) :=
      u.sameHoop_modCtx c rfl
    split <;> split
    · exact State.sameHoop_trans (t.sameHoop_taint c _) (hfault _)
    · exact hfault t
    · exact t.sameHoop_taint c _
    · exact t.sameHoop_refl

/-! ### Hazards (R82) -/

theorem Core.halt_hoop (k : Core) : k.halt.hoop = k.hoop := by
  unfold Core.halt; split <;> rfl
theorem Core.halt_inService (k : Core) : k.halt.inService = k.inService := by
  unfold Core.halt Core.inService
  cases h : k.st <;> simp [h]

theorem State.sameHoop_haltCores (cs : List Nat) : ∀ s : State, s.sameHoop (s.haltCores cs) := by
  induction cs with
  | nil => exact State.sameHoop_refl
  | cons c cs ih => exact fun s => State.sameHoop_trans (State.sameHoop_setCore (Core.halt_hoop _) (Core.halt_inService _)) (ih _)

theorem State.sameHoop_eventHalt (s : State) (c : Nat) : s.sameHoop (s.eventHalt c) :=
  State.sameHoop_trans (State.sameHoop_trans (s.sameHoop_haltCores (s.slotCores c)) (State.sameHoop_modCtx _ c rfl))
    (State.sameHoop_modCtx _ c rfl)

theorem State.sameHoop_reportHazard (s : State) (c : Nat) (e : QEntry) (old new : HazAcc) (kind : Nat) :
    s.sameHoop (s.reportHazard c e old new kind) := by
  unfold State.reportHazard
  dsimp only
  have hreported (w : BitVec 64) (o : Origin) : s.sameHoop ((s.recordFault .seqHazard (coreIdx c) 9 w).raise 0x0108 o) :=
    State.sameHoop_trans (s.sameHoop_recordFault _ _ w (by decide) (by decide)) (State.sameHoop_raise _ _ _)
  split
  · split
    · exact State.sameHoop_trans (hreported _ _) (State.sameHoop_eventHalt _ _)
    · exact hreported _ _
  · exact hreported _ _

theorem State.sameHoop_reportHazards (c : Nat) (e : QEntry) (hs : List (HazAcc × HazAcc × Nat)) :
    ∀ s : State, s.sameHoop (s.reportHazards c e hs) := by
  induction hs with
  | nil => exact State.sameHoop_refl
  | cons h hs ih => exact fun s => State.sameHoop_trans (s.sameHoop_reportHazard c e h.1 h.2.1 h.2.2) (ih _)

/-- What a command notes of its accesses, hazards reported, changes nothing of the hoop. -/
theorem State.sameHoop_hazards (s : State) (c : Nat) (e : QEntry) : s.sameHoop (s.hazards c e) := by
  unfold State.hazards
  dsimp only
  split
  · refine State.sameHoop_trans ?_ (State.sameHoop_reportHazards _ _ _ _)
    exact State.sameHoop_trans (State.sameHoop_modCore rfl rfl) (State.sameHoop_modCore rfl rfl)
  · exact State.sameHoop_modCore rfl rfl

/-! ### The period of what lands on a beat -/

@[simp] theorem State.bump_period (s : State) (n : RegName) (i : List Nat) (k : Nat) (x : Option Nat) (kind index : Nat) :
    (s.bump n i k x kind index).dev.period = s.dev.period := (s.eventsOnly_bump n i k x kind index).period
@[simp] theorem State.bumpCore_period (s : State) (n : RegName) (i : List Nat) (k c : Nat) :
    (s.bumpCore n i k c).dev.period = s.dev.period := s.bump_period _ _ _ _ _ _
@[simp] theorem State.record_period (s : State) (code : Nat) (o : Origin) : (s.record code o).dev.period = s.dev.period :=
  (s.eventsOnly_record code o).period
@[simp] theorem State.hazards_period (s : State) (c : Nat) (e : QEntry) : (s.hazards c e).dev.period = s.dev.period :=
  (s.sameHoop_hazards c e).period

@[simp] theorem State.countConv_period (s : State) (c tensor : Nat) (hit : Bool) (f : Option Fmt) (k : Counts) :
    (s.countConv c tensor hit f k).dev.period = s.dev.period := by
  unfold State.countConv
  simp only [State.bumpCore_period]
  split
  · split
    · split
      · rw [State.record_period]; rfl
      · rfl
    · rfl
  · rfl

theorem State.drainStep_period (s : State) (c : Nat) (x : Side) : (s.drainStep c x).dev.period = s.dev.period := by
  have hone (j : DrainJob) (o : OutVec) : (s.drainOne c x j o).dev.period = s.dev.period := by
    unfold State.drainOne State.modArr
    dsimp only
    split
    · simp [State.bumpSide]
    · split
      · simp
      · simp
  unfold State.drainStep
  split
  · split
    · exact hone _ _
    · rfl
  · rfl

theorem State.recvMem_period (s : State) (c : Nat) (e : QEntry) (d : Dir) (turn : Bool) (m : MemRef) :
    (s.recvMem c e d turn m).dev.period = s.dev.period := by
  unfold State.recvMem
  split
  · rfl
  · split
    · rfl
    · split
      · rw [State.seqFault, State.coreFault_period]
        exact (State.sameHoop_recordFault _ _ _ _ (by decide) (by decide)).period
      · simp [State.popHead]

theorem State.recvStep_period (s : State) (c : Nat) : (s.recvStep c).dev.period = s.dev.period := by
  unfold State.recvStep
  split
  · split
    · exact s.recvMem_period _ _ _ _ _
    · rfl
  · rfl

theorem State.clmStore_period (s : State) (c a : Nat) (d : List Byte) (p : Bool) : (s.clmStore c a d p).dev.period = s.dev.period := by
  unfold State.clmStore
  generalize words64 a d.length = ws
  induction ws generalizing s with
  | nil => rfl
  | cons w ws ih =>
    rw [List.foldl_cons, ih]
    split <;> rfl

theorem State.landAll_period (c : Nat) (ps : List Pend) : ∀ s : State, (s.landAll c ps).dev.period = s.dev.period := by
  induction ps with
  | nil => exact fun _ => rfl
  | cons p ps ih =>
    intro s
    rw [State.landAll, ih]
    cases p with
    | reg due start v val poison => rfl
    | mem due start addr data poison clm =>
      rw [State.landOne]
      split
      · exact s.clmStore_period _ _ _ _
      · rfl

/-- The writes of a beat land within its period. -/
theorem State.land_period (s : State) (c : Nat) : (s.land c).dev.period = s.dev.period := by
  rw [State.land, State.landDue, State.landEmits, State.modCore_dev_period, State.landAll_period, State.modCore_dev_period,
    State.recvStep_period, State.drainStep_period, State.drainStep_period]

/-! ### The hoop interface of a core -/

section
variable (h : HoopS) (d : Dir) (n : Nat)

@[simp] theorem HoopS.setHeld_held : h.setHeld d (h.held d) = h := by cases d <;> rfl
@[simp] theorem HoopS.pass_setHeld : (h.setHeld d n).pass d = h.pass d := by cases d <;> rfl
@[simp] theorem HoopS.buf_setHeld : (h.setHeld d n).buf d = h.buf d := by cases d <;> rfl
@[simp] theorem HoopS.turnBuf_setHeld : (h.setHeld d n).turnBuf d = h.turnBuf d := by cases d <;> rfl
@[simp] theorem HoopS.pass_setBusy : (h.setBusy d n).pass d = h.pass d := by cases d <;> rfl
@[simp] theorem HoopS.buf_setBusy : (h.setBusy d n).buf d = h.buf d := by cases d <;> rfl
@[simp] theorem HoopS.turnBuf_setBusy : (h.setBusy d n).turnBuf d = h.turnBuf d := by cases d <;> rfl
@[simp] theorem HoopS.pass_setPass : (h.setPass d n).pass d = n := by cases d <;> rfl
@[simp] theorem HoopS.buf_setPass : (h.setPass d n).buf d = h.buf d := by cases d <;> rfl
@[simp] theorem HoopS.turnBuf_setPass : (h.setPass d n).turnBuf d = h.turnBuf d := by cases d <;> rfl

variable (l : List TBuf)

@[simp] theorem HoopS.buf_setBuf : (h.setBuf d l).buf d = l := by cases d <;> rfl
@[simp] theorem HoopS.turnBuf_setBuf : (h.setBuf d l).turnBuf d = h.turnBuf d := by cases d <;> rfl
@[simp] theorem HoopS.pass_setBuf : (h.setBuf d l).pass d = h.pass d := by cases d <;> rfl
@[simp] theorem HoopS.buf_setTurnBuf : (h.setTurnBuf d l).buf d = h.buf d := by cases d <;> rfl
@[simp] theorem HoopS.turnBuf_setTurnBuf : (h.setTurnBuf d l).turnBuf d = l := by cases d <;> rfl
@[simp] theorem HoopS.pass_setTurnBuf : (h.setTurnBuf d l).pass d = h.pass d := by cases d <;> rfl
end

/-! ### Sending a tile (R21, R23) -/

/-- Without a next position no hop is free. -/
theorem State.ringNext_of_hopFree {s : State} {x c : Nat} {d : Dir} (h : s.hopFree x c d = true) :
    ∃ n lat, s.ringNext x c d = some (n, lat) := by
  cases hn : s.ringNext x c d with
  | none => simp [State.hopFree, hn] at h
  | some p => exact ⟨p.1, p.2, rfl⟩

section
variable {s : State} {x c : Nat} {d : Dir} {n lat : Nat} (hn : s.ringNext x c d = some (n, lat)) (origin : Nat) (retire : Bool) (t : Tile)

theorem State.send_mem : (s.send x c d origin retire t).mem = s.mem := by
  unfold State.send
  split <;> rfl

theorem State.send_cluster (k : Nat) : (s.send x c d origin retire t).cluster k = s.cluster k := by
  unfold State.send
  split <;> rfl

include hn

/-- The tile is under way behind all others. -/
theorem State.send_air :
    (s.send x c d origin retire t).dev.air = s.dev.air ++ [⟨n, d, t, x, origin, s.dev.period + lat, false, retire⟩] := by
  simp only [State.send, hn]
  rfl

/-- The outgoing hop is busy for as many periods as the tile has flits. -/
theorem State.send_core_self : ∃ h, (s.send x c d origin retire t).core c =
    { s.core c with hoop := ((s.core c).hoop.setHeld d h).setBusy d (s.dev.period + t.flits) } := by
  simp only [State.send, hn, State.core_modCore_self, State.modCore_dev_period]
  by_cases hc : c = n
  · subst hc
    exact ⟨_, by rw [State.core_modCore_self]; rfl⟩
  · exact ⟨(s.core c).hoop.held d, by rw [State.core_modCore_ne _ _ hc, HoopS.setHeld_held]; rfl⟩

/-- Of the other cores at most the fill of an elastic buffer changes. -/
theorem State.send_core_ne {j : Nat} (hj : j ≠ c) :
    ∃ h, (s.send x c d origin retire t).core j = { s.core j with hoop := (s.core j).hoop.setHeld d h } := by
  simp only [State.send, hn]
  rw [State.core_modCore_ne _ _ hj]
  by_cases hc : j = n
  · subst hc
    exact ⟨_, by rw [State.core_modCore_self]; rfl⟩
  · exact ⟨(s.core j).hoop.held d, by rw [State.core_modCore_ne _ _ hc, HoopS.setHeld_held]; rfl⟩
end

end Sys2Proof.Machine
end

section
/-!
PROOFS. INJECT and TURN on their beat (R17, R18, R21, R23, R32, R184): the ways out of the command, one lemma each, and what the tile
that it sends is made of.
-/
namespace Sys2Proof.Machine

/-! ### The command on its beat -/

/-- A command that acts on its beat is performed in the state in which the beat's writes have landed. -/
theorem State.startWith_acts {s : State} {c q : Nat} {e : QEntry} (h : s.acts c q e) {p : Cmd → Bool} (hp : p e.cmd = true)
    (f : State → QEntry → State) : s.startWith c q p f = f (s.land c) e := by
  obtain ⟨hready, hlanded⟩ := h
  simp only [State.startWith, hready, hp, hlanded, if_true]

theorem exec_inject (c : CoreId) (s : State) : exec (.inject c) s = .next (s.hoopStart c fun | .inject i => !i.turn | _ => false) := by rfl
theorem exec_turn (c : CoreId) (s : State) : exec (.turn c) s = .next (s.hoopStart c fun | .inject i => i.turn | _ => false) := by rfl

/-- The row of the command, TURN or INJECT. -/
theorem exec_injectRow {c : CoreId} {s : State} {e : QEntry} {i : InjCmd} (h : s.acts c 5 e) (hc : e.cmd = .inject i) :
    exec (if i.turn then .turn c else .inject c) s = .next ((s.land c).inject c e i) := by
  have hcmd (t : State) : t.hoopCmd c e = t.inject c e i := by rw [State.hoopCmd, hc]
  cases hi : i.turn with
  | true =>
    rw [if_pos rfl, exec_turn, State.hoopStart, State.startWith_acts h (by rw [hc]; exact hi), hcmd]
  | false =>
    rw [if_neg Bool.false_ne_true, exec_inject, State.hoopStart, State.startWith_acts h (by rw [hc]; simp [hi]), hcmd]

/-! ### What stops it -/

/-- A TURN would put more turning flits on the ring than 32 for each cluster (R32). -/
def State.turnOverfull (s : State) (c : Nat) (i : InjCmd) (f : Fmt) : Prop :=
  i.turn = true ∧ 32 * (s.ctx (s.core c).ctx).count < s.turningFlits (s.core c).ctx i.dir + f.flits

/-- The runs in the injection port of a core. -/
def State.portRuns (s : State) (c : Nat) : List PortRun := AMap.get (s.cluster (clusterOf c)).ports [] (c % 4)

/-- The outgoing hop is busy or without credit, or a tile is about to be forwarded on it (R23). -/
def State.hopHeldUp (s : State) (c : Nat) (d : Dir) : Prop := s.hopFree (s.core c).ctx c d = false ∨ s.forwardWaits c d = true

section
variable {s : State} {c : Nat} {i : InjCmd}

theorem State.injectBlocked_empty (h : i.src = .special ∧ s.portRuns c = []) : s.injectBlocked c i = some 3 :=
  if_pos ⟨h.1, List.isEmpty_iff.2 h.2⟩

theorem State.injectBlocked_nonempty (h : ¬ (i.src = .special ∧ s.portRuns c = [])) :
    s.injectBlocked c i = if ¬ s.hopFree (s.core c).ctx c i.dir ∨ s.forwardWaits c i.dir then some 8 else none :=
  if_neg fun hp => h ⟨hp.1, List.isEmpty_iff.1 hp.2⟩

theorem State.hopHeldUp_iff (d : Dir) : s.hopHeldUp c d ↔ (¬ s.hopFree (s.core c).ctx c d ∨ s.forwardWaits c d) := by
  rw [State.hopHeldUp, Bool.not_eq_true]

theorem State.injectBlocked_hop (h : ¬ (i.src = .special ∧ s.portRuns c = [])) (hb : s.hopHeldUp c i.dir) :
    s.injectBlocked c i = some 8 := by
  rw [State.injectBlocked_nonempty h, if_pos ((State.hopHeldUp_iff _).1 hb)]

theorem State.injectBlocked_none (h : ¬ (i.src = .special ∧ s.portRuns c = [])) (hb : ¬ s.hopHeldUp c i.dir) :
    s.injectBlocked c i = none := by
  rw [State.injectBlocked_nonempty h, if_neg (mt (State.hopHeldUp_iff _).2 hb)]

theorem State.hopFree_of_not_blocked {d : Dir} (h : ¬ s.hopHeldUp c d) : s.hopFree (s.core c).ctx c d = true := by
  rw [State.hopHeldUp, not_or, Bool.not_eq_false] at h
  exact h.1

variable {e : QEntry} {f : Fmt} (hf : Fmt.ofCode i.tag.fmt = some f)
include hf

theorem State.inject_overfull (h : s.turnOverfull c i f) : s.inject c e i = (s.popHead c 5).coreFault c 0x0105 e.step := by
  simp only [State.inject, hf]
  exact if_pos h

variable (ho : ¬ s.turnOverfull c i f)
include ho

theorem State.inject_frozen {cause : Nat} (h : s.injectBlocked c i = some cause) : s.inject c e i = s.freeze c cause 5 := by
  simp only [State.inject, hf, h]
  exact if_neg ho

variable (hb : s.injectBlocked c i = none)
include hb

theorem State.inject_mem {m : MemRef} (hs : i.src = .mem m) :
    s.inject c e i =
      ((s.hazards c e).popHead c 5).send (s.core c).ctx c i.dir c false
        ⟨i.builtTag e.step none !((s.badIn (m.addr c 0) (f.payload + f.scales)).map (· - m.addr c 0 / 32)).isEmpty,
          s.bytes (m.addr c 0) (f.payload + f.scales), (s.badIn (m.addr c 0) (f.payload + f.scales)).map (· - m.addr c 0 / 32)⟩ := by
  simp only [State.inject, hf, hb, hs]
  exact if_neg ho

variable {r : PortRun} {rs : List PortRun} (hs : i.src = .special) (hp : s.portRuns c = r :: rs)
include hs hp

theorem State.inject_port_mismatch (hl : r.data.length ≠ f.payload + f.scales) :
    s.inject c e i =
      ((s.popHead c 5).hoopFault c 2 i.dir (i.builtTag e.step r.gpar !r.bad.isEmpty)).coreFault c 0x0109 e.step := by
  rw [State.portRuns] at hp
  simp only [State.inject, hf, hb, hs, hp, ne_eq, hl, not_false_eq_true, if_true]
  exact if_neg ho

theorem State.inject_port (hl : r.data.length = f.payload + f.scales) :
    s.inject c e i =
      ((s.modCluster (clusterOf c) fun q => { q with ports := AMap.set q.ports (c % 4) rs }).popHead c 5).send (s.core c).ctx c i.dir c
        false ⟨i.builtTag e.step r.gpar !r.bad.isEmpty, r.data, r.bad⟩ := by
  rw [State.portRuns] at hp
  simp only [State.inject, hf, hb, hs, hp, ne_eq, hl, not_true_eq_false, if_false]
  exact if_neg ho
end

/-- What a fault on the beat leaves: the core in FAULTED, no tile sent, memory as it was. -/
theorem State.coreFault_refuses {s w : State} {c : Nat} (hrun : (w.core c).st = .running) (hair : w.dev.air = s.dev.air)
    (hmem : w.mem = s.mem) {code : Nat} (h16 : code < 2 ^ 16) (step : BitVec 64) :
    ((w.coreFault c code step).core c).st = .faulted ∧ (w.coreFault c code step).dev.air = s.dev.air ∧
      (w.coreFault c code step).mem = s.mem ∧ (w.coreFault c code step).field .coreFault (coreIdx c) 63 48 = code := by
  refine ⟨?_, by rw [State.coreFault_air, hair], by rw [State.coreFault_mem, hmem], State.coreFault_code _ _ _ _ h16⟩
  rw [State.coreFault_core_self]
  exact Core.stopped_st ((Core.live_iff _).2 (.inl hrun))

/-! ### The tile that it sends -/

/-- What a CRC covers does not include CHECK (R18). -/
theorem Tag.crc_congr {t g : Tag}
    (h : ({ t with hops := 0, poison := false, check := 0 } : Tag) = { g with hops := 0, poison := false, check := 0 }) : t.crc = g.crc := by
  unfold Tag.crc
  rw [h]
theorem Tag.crc_withCheck (t : Tag) (n : Nat) : ({ t with check := n } : Tag).crc = t.crc := Tag.crc_congr rfl
theorem Tag.seal_check (t : Tag) : t.seal.check = t.seal.crc := by
  rw [Tag.seal, Tag.crc_withCheck t t.crc]

/-- A built tag is the descriptor's, with HOPS and FROZEN of the command, no reserved bit and its own CHECK (R17). -/
theorem InjCmd.builtTag_fields (i : InjCmd) (step : BitVec 64) (gpar : Option Bool) (poison : Bool) :
    let t := i.builtTag step gpar poison
    t.tensor = i.tag.tensor ∧ t.row = i.tag.row ∧ t.col = i.tag.col ∧ t.fmt = i.tag.fmt ∧ t.hops = i.hops ∧ t.frozen = i.frozen ∧
      t.check = t.crc ∧ t.rsv = 0 :=
  ⟨rfl, rfl, rfl, rfl, rfl, rfl, Tag.seal_check _, rfl⟩

theorem InjCmd.builtTag_parity (i : InjCmd) (step : BitVec 64) (gpar : Option Bool) (poison : Bool) :
    (i.builtTag step gpar poison).parity = gpar.getD (xor (step.toNat % 2 == 1) i.par) := by
  cases gpar <;> rfl

/-- A tile sent over a free hop from a state whose hoop is that of `s`. -/
theorem State.sameHoop.sends {s w : State} (h : s.sameHoop w) {x c : Nat} {d : Dir} (hfree : s.hopFree x c d = true) {t : Tile} {f : Fmt}
    (hf : Fmt.ofCode t.tag.fmt = some f) {k : Core} (hk : w.core c = k) :
    (w.send x c d c false t).mem = s.mem ∧
      (∃ n lat, s.ringNext x c d = some (n, lat) ∧
        (w.send x c d c false t).dev.air = s.dev.air ++ [⟨n, d, t, x, c, s.dev.period + lat, false, false⟩]) ∧
      ∃ g, (w.send x c d c false t).core c =
        { k with hoop := ((s.core c).hoop.setHeld d g).setBusy d (s.dev.period + f.flits) } := by
  subst hk
  obtain ⟨n, lat, hn⟩ := State.ringNext_of_hopFree hfree
  have hw : w.ringNext x c d = some (n, lat) := (h.ringNext x c d).trans hn
  refine ⟨(State.send_mem _ _ _).trans h.mem, ⟨n, lat, hn, ?_⟩, ?_⟩
  · rw [State.send_air hw, h.air, h.period]
  · obtain ⟨g, hg⟩ := State.send_core_self hw c false t
    have hflits : t.flits = f.flits := by rw [Tile.flits, hf]
    exact ⟨g, by rw [hg, h.hoop, h.period, hflits]⟩

theorem State.sameHoop_popHead (s : State) (c q : Nat) : s.sameHoop (s.popHead c q) := State.sameHoop_modCore rfl rfl
theorem State.sameHoop_modCluster (s : State) (k : Nat) (f : Cluster → Cluster) : s.sameHoop (s.modCluster k f) :=
  ⟨⟨fun _ => rfl, rfl, fun _ => rfl⟩, rfl, rfl, rfl, fun _ => rfl, fun _ => rfl⟩

/-- Settles O24: the ways out of the command, in the order in which it checks for them. -/
theorem injectSendsItsTile : Obligations.InjectSendsItsTile := by
  unfold Obligations.InjectSendsItsTile
  intro c s e i f hacts hc hf
  dsimp only
  rw [exec_injectRow hacts hc]
  have hperiod := s.land_period c
  obtain ⟨hrun, -, -⟩ := State.ready_some hacts.2
  have hbeat : s.onBeat c e = (s.land c).hazards c e := rfl
  rw [← hperiod, hbeat]
  generalize s.land c = v at *
  refine ⟨fun hover => ⟨_, rfl, ?_⟩, fun hover hempty => ?_, fun hover hempty hblocked => ?_, fun hover hblocked =>
    ⟨fun m hs => ?_, fun r rs hs hp => ⟨fun hl => ⟨_, rfl, ?_⟩, fun hl => ?_⟩⟩⟩
  · rw [State.inject_overfull hf hover]
    exact State.coreFault_refuses (by rw [State.popHead_taken, State.core_setCore_self]; exact hrun) rfl rfl (by decide) _
  · rw [State.inject_frozen hf hover (State.injectBlocked_empty hempty), State.freeze_frozenOn]
  · rw [State.inject_frozen hf hover (State.injectBlocked_hop hempty hblocked), State.freeze_frozenOn]
  · have hnone := State.injectBlocked_none (fun h => by rw [hs] at h; cases h.1) hblocked
    rw [State.inject_mem hf hover hnone hs]
    have hsame := State.sameHoop_trans (v.sameHoop_hazards c e) (State.sameHoop_popHead _ c 5)
    obtain ⟨hmem, hair, hcore⟩ := hsame.sends (State.hopFree_of_not_blocked hblocked)
      (t := ⟨i.builtTag e.step none _, v.bytes (m.addr c 0) (f.payload + f.scales), _⟩) hf (State.core_setCore_self _ _ _)
    exact ⟨_, _, rfl, ⟨hmem, hair, i.builtTag_fields _ _ _⟩, rfl, i.builtTag_parity _ _ _, hcore⟩
  · have hnone := State.injectBlocked_none (fun h => by rw [State.portRuns, hp] at h; cases h.2) hblocked
    rw [State.inject_port_mismatch hf hover hnone hs hp hl]
    have hev := (v.popHead c 5).eventsOnly_hoopFault c 2 i.dir (i.builtTag e.step r.gpar !r.bad.isEmpty)
    refine State.coreFault_refuses ?_ hev.air hev.mem (by decide) _
    rw [hev.core, State.popHead_taken, State.core_setCore_self]
    exact hrun
  · have hnone := State.injectBlocked_none (fun h => by rw [State.portRuns, hp] at h; cases h.2) hblocked
    rw [State.inject_port hf hover hnone hs hp hl]
    have hsame := State.sameHoop_trans (v.sameHoop_modCluster (clusterOf c) fun q => { q with ports := AMap.set q.ports (c % 4) rs })
      (State.sameHoop_popHead _ c 5)
    obtain ⟨hmem, hair, hcore⟩ := hsame.sends (State.hopFree_of_not_blocked hblocked) (t := ⟨i.builtTag e.step r.gpar _, r.data, r.bad⟩) hf
      (State.core_setCore_self _ _ _)
    refine ⟨_, _, rfl, ⟨hmem, hair, i.builtTag_fields _ _ _⟩, rfl, rfl, ?_, ?_, hcore⟩
    · rw [i.builtTag_parity]
      cases r.gpar <;> rfl
    · rw [State.send_cluster, State.popHead, State.modCore_cluster, State.modCluster, State.cluster_setCluster_self, AMap.get_set_self]

end Sys2Proof.Machine
end

section
/-!
PROOFS. A tile at a position (R18, R21, R22, R32, R33): what the position does with it, its way into the tile buffer, over the next hop
or into the elastic buffer, and the tag that stops it.
-/
namespace Sys2Proof.Machine

/-! ### What a position does -/

/-- The action on a tile with HOPS not yet used up and not turning. -/
theorem State.actOn_straight {s : State} {c : Nat} {a : Air} (h : a.tile.tag.hops < 255) :
    s.actOn c a = hoopAct (s.core c).slot.isSome false (a.origin == c && a.retire) ((s.core c).turnWanted a.dir) (a.tile.tag.hops - 1)
      ((s.core c).hoop.pass a.dir) := by
  have hturn : a.tile.tag.turning = false := beq_eq_false_iff_ne.2 (by omega)
  rw [State.actOn, hturn]

theorem State.actOn_turning {s : State} {c : Nat} {a : Air} (h : a.tile.tag.hops = 255) :
    s.actOn c a = if (a.origin == c && a.retire) = true then ⟨false, false, true, false⟩
      else ⟨(s.core c).slot.isSome && (s.core c).turnWanted a.dir, true, false, false⟩ := by
  have hturn : a.tile.tag.turning = true := beq_iff_eq.2 h
  rw [State.actOn, hturn, hoopAct, if_pos rfl]

/-- R21, R22, R32 and R33: the six cases of a tile at a position. -/
theorem State.actOn_cases (s : State) (c : Nat) (a : Air) :
    (a.tile.tag.hops = 255 → a.origin = c → a.retire = true → s.actOn c a = ⟨false, false, true, false⟩) ∧
    (a.tile.tag.hops = 255 → a.origin ≠ c ∨ a.retire = false →
      s.actOn c a = ⟨(s.core c).slot.isSome && (s.core c).turnWanted a.dir, true, false, false⟩) ∧
    (1 ≤ a.tile.tag.hops → a.tile.tag.hops < 255 → (s.core c).slot = none →
      s.actOn c a = ⟨false, a.tile.tag.hops != 1, a.tile.tag.hops == 1, false⟩) ∧
    (a.tile.tag.hops = 1 → (s.core c).slot.isSome → s.actOn c a = ⟨true, false, true, false⟩) ∧
    (2 ≤ a.tile.tag.hops → a.tile.tag.hops < 255 → (s.core c).slot.isSome → 0 < (s.core c).hoop.pass a.dir →
      s.actOn c a = ⟨false, true, false, true⟩) ∧
    (2 ≤ a.tile.tag.hops → a.tile.tag.hops < 255 → (s.core c).slot.isSome → (s.core c).hoop.pass a.dir = 0 →
      s.actOn c a = ⟨true, true, false, false⟩) := by
  refine ⟨fun h ho hr => ?_, fun h ho => ?_, fun h1 h hs => ?_, fun h hs => ?_, fun h2 h hs hp => ?_, fun h2 h hs hp => ?_⟩
  · rw [State.actOn_turning h, if_pos (by simp [ho, hr])]
  · have haway : ¬ (a.origin == c && a.retire) = true := by
      rw [Bool.and_eq_true, beq_iff_eq]
      exact fun hh => ho.elim (fun hne => hne hh.1) fun hr => Bool.false_ne_true (hr.symm.trans hh.2)
    rw [State.actOn_turning h, if_neg haway]
  · have hlast : (a.tile.tag.hops - 1 == 0) = (a.tile.tag.hops == 1) := by
      rw [Bool.eq_iff_iff, beq_iff_eq, beq_iff_eq]
      omega
    rw [State.actOn_straight h, hs]
    simp only [hoopAct, Option.isSome_none, Bool.false_eq_true, not_false_eq_true, if_false, if_true, bne, hlast]
  · rw [State.actOn_straight (by omega), hs, h]
    simp [hoopAct]
  · have hmore : a.tile.tag.hops - 1 ≠ 0 := by omega
    rw [State.actOn_straight h, hs]
    simp [hoopAct, hmore, hp]
  · have hmore : a.tile.tag.hops - 1 ≠ 0 := by omega
    rw [State.actOn_straight h, hs]
    simp [hoopAct, hmore, hp]

/-! ### Into the tile buffer -/

/-- The hoop interface of a position after its action on a tile: a copy taken, a PASS used up. -/
def HoopS.takeIn (h : HoopS) (act : HoopAct) (d : Dir) (t : Tile) (period : Nat) : HoopS :=
  let h := if act.copy then h.copy d t period else h
  if act.pass then h.setPass d (h.pass d - 1) else h

/-- The copy that a position takes, if it takes one. -/
def HoopS.copied (h : HoopS) (act : HoopAct) (t : Tile) (period : Nat) : List TBuf :=
  if act.copy then [⟨h.uid, t, period, false, 0, 0⟩] else []

section
variable (h : HoopS) (act : HoopAct) (d : Dir) (t : Tile) (period : Nat)

theorem HoopS.pass_copy : (h.copy d t period).pass d = h.pass d := by
  unfold HoopS.copy
  dsimp only
  split
  · rw [HoopS.pass_setTurnBuf]; cases d <;> rfl
  · rw [HoopS.pass_setBuf]; cases d <;> rfl

theorem HoopS.pass_takeIn : (h.takeIn act d t period).pass d = h.pass d - if act.pass then 1 else 0 := by
  have hcopy : (if act.copy then h.copy d t period else h).pass d = h.pass d := by
    split
    · exact h.pass_copy d t period
    · rfl
  unfold HoopS.takeIn
  dsimp only
  split
  · rw [HoopS.pass_setPass, hcopy]
  · rw [hcopy]; rfl

theorem HoopS.bufs_copy :
    if t.tag.hops = 255 then
      (h.copy d t period).turnBuf d = h.turnBuf d ++ [⟨h.uid, t, period, false, 0, 0⟩] ∧ (h.copy d t period).buf d = h.buf d
    else (h.copy d t period).buf d = h.buf d ++ [⟨h.uid, t, period, false, 0, 0⟩] ∧ (h.copy d t period).turnBuf d = h.turnBuf d := by
  have hturn : t.tag.turning = true ↔ t.tag.hops = 255 := beq_iff_eq
  unfold HoopS.copy
  dsimp only
  by_cases ht : t.tag.hops = 255
  · rw [if_pos ht, if_pos (hturn.2 ht), HoopS.turnBuf_setTurnBuf, HoopS.buf_setTurnBuf]
    cases d <;> exact ⟨rfl, rfl⟩
  · rw [if_neg ht, if_neg (mt hturn.1 ht), HoopS.turnBuf_setBuf, HoopS.buf_setBuf]
    cases d <;> exact ⟨rfl, rfl⟩

/-- A copy stands behind the tiles of its kind, a turning tile's with the copies of turning tiles. -/
theorem HoopS.bufs_takeIn :
    if t.tag.hops = 255 then
      (h.takeIn act d t period).turnBuf d = h.turnBuf d ++ h.copied act t period ∧ (h.takeIn act d t period).buf d = h.buf d
    else (h.takeIn act d t period).buf d = h.buf d ++ h.copied act t period ∧ (h.takeIn act d t period).turnBuf d = h.turnBuf d := by
  have hbuf : (h.takeIn act d t period).buf d = (if act.copy then h.copy d t period else h).buf d := by
    unfold HoopS.takeIn
    dsimp only
    split
    · exact HoopS.buf_setPass _ _ _
    · rfl
  have hturn : (h.takeIn act d t period).turnBuf d = (if act.copy then h.copy d t period else h).turnBuf d := by
    unfold HoopS.takeIn
    dsimp only
    split
    · exact HoopS.turnBuf_setPass _ _ _
    · rfl
  rw [hbuf, hturn, HoopS.copied]
  by_cases hc : act.copy = true
  · simp only [if_pos hc]
    exact h.bufs_copy d t period
  · simp only [if_neg hc, List.append_nil, and_self, ite_self]
end

/-! ### Over the next hop, or not yet -/

/-- A tile has to wait in the elastic buffer: for room in the tile buffer, or for the outgoing hop (R22). -/
def State.mustWait (s : State) (c : Nat) (a : Air) : Prop :=
  ((s.actOn c a).copy = true ∧ (s.core c).hoop.room a.dir a.tile.hopped = false) ∨
    ((s.actOn c a).forward = true ∧ s.hopFree a.ctx c a.dir = false)

/-- A tile that does not wait, off the way to its position and copied there. -/
def State.takenIn (s : State) (c : Nat) (a : Air) : State :=
  (s.setAirHead c a.dir none).modCore c fun k => { k with hoop := k.hoop.takeIn (s.actOn c a) a.dir a.tile.hopped s.dev.period }

/-- The same, and on its way to the next position if this one forwards it. -/
def State.movedOn (s : State) (c : Nat) (a : Air) : State :=
  if (s.actOn c a).forward then (s.takenIn c a).send a.ctx c a.dir a.origin a.retire a.tile.hopped else s.takenIn c a

section
variable {s : State} {c : Nat} {a : Air}

theorem State.enter_waits (h : s.mustWait c a) : s.enter c a = s.setAirHead c a.dir (some { a with stalled := true }) := by
  simp only [State.mustWait, ← Bool.not_eq_true] at h
  exact if_pos h

/-- A tile that does not wait moves on, and is counted. -/
theorem State.enter_moves (h : ¬ s.mustWait c a) : (s.movedOn c a).eventsOnly (s.enter c a) := by
  simp only [State.mustWait, ← Bool.not_eq_true] at h
  have hentered : ∃ x, s.enter c a =
      (((s.movedOn c a).bump .hoopCntIn (coreIdx c) (b2n (s.actOn c a).copy) x 0 c).bump .hoopCntFwd (coreIdx c)
        (b2n (s.actOn c a).forward) x 0 c).bump .hoopCntRet (coreIdx c) (b2n (s.actOn c a).retired) x 0 c := ⟨_, if_neg h⟩
  obtain ⟨x, hx⟩ := hentered
  rw [hx]
  exact State.eventsOnly_trans (State.eventsOnly_trans (State.eventsOnly_bump _ _ _ _ _ _ _) (State.eventsOnly_bump _ _ _ _ _ _ _))
    (State.eventsOnly_bump _ _ _ _ _ _ _)

theorem State.takenIn_core_self : (s.takenIn c a).core c =
    { s.core c with hoop := (s.core c).hoop.takeIn (s.actOn c a) a.dir a.tile.hopped s.dev.period } := State.core_modCore_self _ _ _
theorem State.takenIn_core_ne {j : Nat} (hj : j ≠ c) : (s.takenIn c a).core j = s.core j := State.core_modCore_ne _ _ hj
theorem State.takenIn_air : (s.takenIn c a).dev.air = airReplace c a.dir none s.dev.air := rfl

/-- The tile taken in, the ring is what it was. -/
theorem State.takenIn_ringNext (x : Nat) (d : Dir) : (s.takenIn c a).ringNext x c d = s.ringNext x c d := by
  have hair : s.sameRing (s.setAirHead c a.dir none) := ⟨fun _ => rfl, rfl, fun _ => rfl⟩
  have hcopy : (s.setAirHead c a.dir none).sameRing (s.takenIn c a) := State.sameRing_setCore rfl
  exact (hcopy.ringNext x c d).trans (hair.ringNext x c d)

theorem State.movedOn_of_kept (h : (s.actOn c a).forward = false) : s.movedOn c a = s.takenIn c a := if_neg (by simp [h])
theorem State.movedOn_of_sent (h : (s.actOn c a).forward = true) :
    s.movedOn c a = (s.takenIn c a).send a.ctx c a.dir a.origin a.retire a.tile.hopped := if_pos h

theorem State.movedOn_mem : (s.movedOn c a).mem = s.mem := by
  unfold State.movedOn
  split
  · exact State.send_mem _ _ _
  · rfl

/-- A tile that is forwarded has a next position. -/
theorem State.ringNext_of_moves (h : ¬ s.mustWait c a) (hf : (s.actOn c a).forward = true) :
    ∃ n lat, s.ringNext a.ctx c a.dir = some (n, lat) := by
  rw [State.mustWait, not_or] at h
  have hfree : s.hopFree a.ctx c a.dir = true := Bool.of_not_eq_false fun hb => h.2 ⟨hf, hb⟩
  exact State.ringNext_of_hopFree hfree

variable (h : ¬ s.mustWait c a)
include h

theorem State.movedOn_air_of_sent (hf : (s.actOn c a).forward = true) :
    ∃ n lat, s.ringNext a.ctx c a.dir = some (n, lat) ∧ (s.movedOn c a).dev.air = airReplace c a.dir none s.dev.air ++
      [⟨n, a.dir, a.tile.hopped, a.ctx, a.origin, s.dev.period + lat, false, a.retire⟩] := by
  obtain ⟨n, lat, hn⟩ := State.ringNext_of_moves h hf
  refine ⟨n, lat, hn, ?_⟩
  rw [State.movedOn_of_sent hf, State.send_air ((State.takenIn_ringNext _ _).trans hn)]
  rfl

/-- The position has the tile in its buffer if it copies it, and a PASS less if one covers it. -/
theorem State.movedOn_core : ∃ g : HoopS, (s.movedOn c a).core c = { s.core c with hoop := g } ∧
    let k := (s.core c).hoop.takeIn (s.actOn c a) a.dir a.tile.hopped s.dev.period
    g.pass a.dir = k.pass a.dir ∧ g.buf a.dir = k.buf a.dir ∧ g.turnBuf a.dir = k.turnBuf a.dir := by
  cases hf : (s.actOn c a).forward with
  | false =>
    rw [State.movedOn_of_kept hf]
    exact ⟨_, State.takenIn_core_self, rfl, rfl, rfl⟩
  | true =>
    obtain ⟨n, lat, hn⟩ := State.ringNext_of_moves h hf
    obtain ⟨m, hm⟩ := State.send_core_self ((State.takenIn_ringNext _ _).trans hn) a.origin a.retire a.tile.hopped
    rw [State.movedOn_of_sent hf, hm, State.takenIn_core_self]
    exact ⟨_, rfl, by simp, by simp, by simp⟩

theorem State.movedOn_core_ne {j : Nat} (hj : j ≠ c) :
    ∃ m, (s.movedOn c a).core j = { s.core j with hoop := (s.core j).hoop.setHeld a.dir m } := by
  cases hf : (s.actOn c a).forward with
  | false =>
    rw [State.movedOn_of_kept hf, State.takenIn_core_ne hj]
    exact ⟨(s.core j).hoop.held a.dir, by rw [HoopS.setHeld_held]⟩
  | true =>
    obtain ⟨n, lat, hn⟩ := State.ringNext_of_moves h hf
    obtain ⟨m, hm⟩ := State.send_core_ne ((State.takenIn_ringNext _ _).trans hn) a.origin a.retire a.tile.hopped hj
    rw [State.takenIn_core_ne hj] at hm
    exact ⟨m, by rw [State.movedOn_of_sent hf, hm]⟩
end

/-- What becomes of an intact tile `a` that has reached position `c`, from `s` to `u`. -/
def State.enters (s : State) (c : Nat) (a : Air) (u : State) : Prop :=
  u.mem = s.mem ∧ (∀ j, j ≠ c → ∃ h, u.core j = { s.core j with hoop := (s.core j).hoop.setHeld a.dir h }) ∧
  (s.mustWait c a → u.dev.air = airReplace c a.dir (some { a with stalled := true }) s.dev.air ∧ u.core c = s.core c) ∧
  (¬ s.mustWait c a → u.core c = { s.core c with hoop := (u.core c).hoop } ∧
    (u.core c).hoop.pass a.dir = (s.core c).hoop.pass a.dir - (if (s.actOn c a).pass then 1 else 0) ∧
    (let new := (s.core c).hoop.copied (s.actOn c a) a.tile.hopped s.dev.period
     if a.tile.hopped.tag.hops = 255 then
       (u.core c).hoop.turnBuf a.dir = (s.core c).hoop.turnBuf a.dir ++ new ∧ (u.core c).hoop.buf a.dir = (s.core c).hoop.buf a.dir
     else (u.core c).hoop.buf a.dir = (s.core c).hoop.buf a.dir ++ new ∧ (u.core c).hoop.turnBuf a.dir = (s.core c).hoop.turnBuf a.dir) ∧
    ((s.actOn c a).forward = false → u.dev.air = airReplace c a.dir none s.dev.air) ∧
    ((s.actOn c a).forward = true → ∃ n lat, s.ringNext a.ctx c a.dir = some (n, lat) ∧
      u.dev.air = airReplace c a.dir none s.dev.air ++
        [⟨n, a.dir, a.tile.hopped, a.ctx, a.origin, s.dev.period + lat, false, a.retire⟩]))

/-- What a position does with a tile at its entry. -/
theorem State.enters_enter (s : State) (c : Nat) (a : Air) : s.enters c a (s.enter c a) := by
  by_cases h : s.mustWait c a
  · rw [State.enter_waits h]
    exact ⟨rfl, fun j _ => ⟨(s.core j).hoop.held a.dir, by rw [HoopS.setHeld_held]; rfl⟩, fun _ => ⟨rfl, rfl⟩, fun hn => (hn h).elim⟩
  · have hev := State.enter_moves h
    obtain ⟨g, hcore, hpass, hbuf, hturn⟩ := State.movedOn_core h
    refine ⟨hev.mem.trans State.movedOn_mem, fun j hj => ?_, fun hw => (h hw).elim, fun _ => ⟨?_, ?_, ?_, fun hf => ?_, fun hf => ?_⟩⟩
    · rw [hev.core]
      exact State.movedOn_core_ne h hj
    · rw [hev.core, hcore]
    · rw [hev.core, hcore, hpass, HoopS.pass_takeIn]
    · rw [hev.core, hcore, hbuf, hturn]
      exact HoopS.bufs_takeIn _ _ _ _ _
    · rw [hev.air, State.movedOn_of_kept hf, State.takenIn_air]
    · rw [hev.air]
      exact State.movedOn_air_of_sent h hf

/-- The counters of a tile's errors have no part in it. -/
theorem State.enters_of_counted {s t u : State} (hs : s.sameHoop t) (he : s.eventsOnly t) {c : Nat} {a : Air} (h : t.enters c a u) :
    s.enters c a u := by
  have hact : t.actOn c a = s.actOn c a := by simp only [State.actOn, he.core]
  have hwait : t.mustWait c a ↔ s.mustWait c a := by simp only [State.mustWait, hact, he.core, hs.hopFree]
  simpa only [State.enters, hwait, hact, he.core, he.mem, he.air, he.period, hs.ringNext] using h

/-! ### TILE_ARRIVE and TILE_BUFFER_ADMIT -/

theorem exec_tileArrive (c : CoreId) (d : Dir) (flips ce : Nat) (ue : List Nat) (s : State) :
    exec (.tileArrive c d flips ce ue) s = .next (s.tileArrive c d flips ce ue) := by rfl
theorem exec_tileBufferAdmit (c : CoreId) (d : Dir) (s : State) : exec (.tileBufferAdmit c d) s = .next (s.tileAdmit c d) := by rfl

/-- The uncorrectable words that lie in the payload. -/
def Tile.badWords (t : Tile) (ue : List Nat) : List Nat := (ue.filter fun w => decide (w < t.data.length / 8)).foldl insertNat []

/-- The state with a tile's corrected and uncorrectable words counted. -/
def State.eccCounted (s : State) (c ce ue : Nat) (x : Option Nat) : State :=
  (s.bump .hoopEccCe (coreIdx c) ce x 0 c).bump .hoopEccUe (coreIdx c) ue x 0 c

theorem State.eventsOnly_eccCounted (s : State) (c ce ue : Nat) (x : Option Nat) : s.eventsOnly (s.eccCounted c ce ue x) :=
  State.eventsOnly_trans (State.eventsOnly_bump _ _ _ _ _ _ _) (State.eventsOnly_bump _ _ _ _ _ _ _)
theorem State.sameHoop_eccCounted (s : State) (c ce ue : Nat) (x : Option Nat) : s.sameHoop (s.eccCounted c ce ue x) :=
  State.sameHoop_trans (State.sameHoop_bump _ _ _ _ _ _ (by decide) (by decide)) (State.sameHoop_bump _ _ _ _ _ _ (by decide) (by decide))

/-- The state with a tile whose tag is not intact off the ring, its errors counted and its tag recorded. -/
def State.tagStopped (s : State) (c : Nat) (d : Dir) (flips ce : Nat) (ue : List Nat) (a : Air) : State :=
  ((s.eccCounted c ce (a.tile.badWords ue).length (s.posCtx c a)).setAirHead c d none).hoopFault c 1 d (a.tile.tag.flip flips)

theorem State.eventsOnly_tagStopped (s : State) (c : Nat) (d : Dir) (flips ce : Nat) (ue : List Nat) (a : Air) :
    (s.setAirHead c d none).eventsOnly (s.tagStopped c d flips ce ue a) := by
  refine State.eventsOnly_trans ?_ (State.eventsOnly_hoopFault _ _ _ _ _)
  obtain ⟨heq, hhost⟩ := s.eventsOnly_eccCounted c ce (a.tile.badWords ue).length (s.posCtx c a)
  exact ⟨by rw [heq]; rfl, hhost⟩

section
variable {s : State} {c : Nat} {d : Dir}

theorem State.airHead_dir {a : Air} (h : s.airHead c d = some a) : a.dir = d := by
  have hp := List.find?_some h
  rw [Bool.and_eq_true, beq_iff_eq, beq_iff_eq] at hp
  exact hp.2

theorem State.tileArrive_none (h : s.airHead c d = none) (flips ce : Nat) (ue : List Nat) : s.tileArrive c d flips ce ue = s := by
  rw [State.tileArrive, h]
theorem State.tileAdmit_none (h : s.airHead c d = none) : s.tileAdmit c d = s := by
  rw [State.tileAdmit, h]

variable {a : Air} (h : s.airHead c d = some a)
include h

theorem State.tileAdmit_idle (hw : a.stalled = false ∨ s.regionStopped (clusterOf c) = true) : s.tileAdmit c d = s := by
  rw [State.tileAdmit, h]
  exact if_neg fun hn => hw.elim (fun hs => by simp [hs] at hn) hn.2
theorem State.tileAdmit_enter (hs : a.stalled = true) (hr : s.regionStopped (clusterOf c) = false) :
    s.tileAdmit c d = s.enter c { a with stalled := false } := by
  rw [State.tileAdmit, h]
  exact if_pos ⟨hs, by simp [hr]⟩

variable (flips ce : Nat) (ue : List Nat)

theorem State.tileArrive_idle (hw : a.stalled = true ∨ s.dev.period < a.readyAt ∨ s.regionStopped (clusterOf c) = true) :
    s.tileArrive c d flips ce ue = s := by
  rw [State.tileArrive, h]
  exact if_pos hw

variable (hs : a.stalled = false) (hp : a.readyAt ≤ s.dev.period) (hr : s.regionStopped (clusterOf c) = false)
include hs hp hr

/-- An intact tile is counted and enters the position. -/
theorem State.tileArrive_intact (hc : (a.tile.tag.flip flips).crc = (a.tile.tag.flip flips).check) (hv : (a.tile.tag.flip flips).rsv = 0) :
    s.tileArrive c d flips ce ue = (s.eccCounted c ce (a.tile.badWords ue).length (s.posCtx c a)).enter c
      { a with tile := ({ a.tile with tag := a.tile.tag.flip flips } : Tile).spoil (a.tile.badWords ue) } := by
  rw [State.tileArrive, h]
  exact (if_neg (by simp [hs, hr, hp])).trans (if_neg (by simp [hc, hv]))

variable (hb : (a.tile.tag.flip flips).crc ≠ (a.tile.tag.flip flips).check ∨ (a.tile.tag.flip flips).rsv ≠ 0)
include hb

/-- A tag that is not intact is the fault of an assigned core, and of no core otherwise. -/
theorem State.tileArrive_stopped :
    ((s.core c).slot.isSome = true ∧ ∃ step, s.tileArrive c d flips ce ue = (s.tagStopped c d flips ce ue a).coreFault c 0x0101 step) ∨
    ((s.core c).slot = none ∧ ∃ o, s.tileArrive c d flips ce ue = (s.tagStopped c d flips ce ue a).raise 0x0101 o) := by
  have hcome : ¬ (a.stalled = true ∨ s.dev.period < a.readyAt ∨ s.regionStopped (clusterOf c) = true) := by simp [hs, hr, hp]
  have howner : ((s.tagStopped c d flips ce ue a).core c).owner = if (s.core c).slot.isSome then some (s.core c).ctx else none :=
    congrArg Core.owner ((s.eventsOnly_tagStopped c d flips ce ue a).core c)
  have hstopped : s.tileArrive c d flips ce ue =
      match ((s.tagStopped c d flips ce ue a).core c).owner with
      | some _ => (s.tagStopped c d flips ce ue a).coreFault c 0x0101
          (((s.tagStopped c d flips ce ue a).core c).seqr.strm ((s.tagStopped c d flips ce ue a).core c).seqr.cur).step
      | none => (s.tagStopped c d flips ce ue a).raise 0x0101 { kind := 0, index := c, ctx := s.posCtx c a } := by
    rw [State.tileArrive, h]
    exact (if_neg hcome).trans (if_pos hb)
  rw [howner] at hstopped
  cases hslot : (s.core c).slot with
  | none =>
    rw [hslot] at hstopped
    exact .inr ⟨rfl, _, hstopped⟩
  | some x =>
    rw [hslot] at hstopped
    exact .inl ⟨rfl, _, hstopped⟩

/-- The tile is gone, the tile buffers are as they were, and an assigned core is FAULTED with TAG_MISMATCH (R18). -/
theorem State.tileArrive_stops :
    (s.tileArrive c d flips ce ue).mem = s.mem ∧ (s.tileArrive c d flips ce ue).dev.air = airReplace c d none s.dev.air ∧
      ((s.tileArrive c d flips ce ue).core c).hoop = (s.core c).hoop ∧
      ((s.core c).slot.isSome → (s.core c).live = true → ((s.tileArrive c d flips ce ue).core c).st = .faulted ∧
        (s.tileArrive c d flips ce ue).field .coreFault (coreIdx c) 63 48 = 0x0101) := by
  have hev := s.eventsOnly_tagStopped c d flips ce ue a
  have hcore : (s.tagStopped c d flips ce ue a).core c = s.core c := hev.core c
  obtain ⟨-, step, hfault⟩ | ⟨hslot, o, hraise⟩ := State.tileArrive_stopped h flips ce ue hs hp hr hb
  · rw [hfault]
    refine ⟨State.coreFault_mem _ _ _ _ |>.trans hev.mem, State.coreFault_air _ _ _ _ |>.trans hev.air, ?_, fun _ hlive => ⟨?_, ?_⟩⟩
    · rw [State.coreFault_core_self, Core.stopped_hoop, hcore]
    · rw [State.coreFault_core_self, hcore]
      exact Core.stopped_st hlive
    · exact State.coreFault_code _ _ _ _ (by decide)
  · have hall := State.eventsOnly_trans hev ((s.tagStopped c d flips ce ue a).eventsOnly_raise 0x0101 o)
    rw [hraise]
    exact ⟨hall.mem, hall.air, congrArg Core.hoop (hall.core c), fun h => by simp [hslot] at h⟩
end

/-- Settles O26: a tile at the head of its hop does nothing, stops, or enters, and what a position does with it is that of the six cases. -/
theorem tilesArriveOnTheirLastHop : Obligations.TilesArriveOnTheirLastHop := by
  unfold Obligations.TilesArriveOnTheirLastHop
  refine ⟨fun c d s => ?_, fun c s a => s.actOn_cases c a⟩
  dsimp only
  simp only [exec_tileArrive, exec_tileBufferAdmit]
  refine ⟨fun h flips ce ue => ⟨?_, ?_⟩, fun a h => ?_⟩
  · rw [State.tileArrive_none h]
  · rw [State.tileAdmit_none h]
  obtain rfl := State.airHead_dir h
  refine ⟨fun flips ce ue => ⟨fun hw => ?_, fun hs hp hr => ⟨fun hb => ⟨_, rfl, ?_⟩, fun hc hv => ⟨_, rfl, ?_⟩⟩⟩, fun hw => ?_,
    fun hs hr => ⟨_, rfl, ?_⟩⟩
  · rw [State.tileArrive_idle h flips ce ue hw]
  · exact State.tileArrive_stops h flips ce ue hs hp hr hb
  · rw [State.tileArrive_intact h flips ce ue hs hp hr hc hv]
    exact State.enters_of_counted (State.sameHoop_eccCounted _ _ _ _ _) (State.eventsOnly_eccCounted _ _ _ _ _) (State.enters_enter _ _ _)
  · rw [State.tileAdmit_idle h hw]
  · rw [State.tileAdmit_enter h hs hr]
    exact State.enters_enter _ _ _

end Sys2Proof.Machine
end

section
/-!
PROOFS. Facts that the commands of the mailboxes share: a command whose turn has come is served, what an answer leaves as it was (R254),
fields of a word that is put, and what a fold keeps.
-/
namespace Sys2Proof.Machine

/-! ### Serving and answering -/

section
variable {s : State} {m op : Nat} {a : Accepted}

theorem State.serve_of_serves (h : s.serves m op a) (f : Accepted → State → State) : s.serve m op f = f a s := by
  obtain ⟨hcmd, hop, hturn⟩ := h
  rw [State.serve, hcmd]
  exact if_pos ⟨hop, hturn⟩

theorem State.serveCtx_of_serves {c : Nat} (h : s.serves m op a) (ho : (s.mbox m).owner = some c)
    (f : Nat → Accepted → State → State) : s.serveCtx m op f = f c a s := by
  rw [State.serveCtx, State.serve_of_serves h, ho]
end

section
variable (s : State) (m : Nat) (a : Accepted) (status : Nat) (payload : List Byte)

/-- An answer touches the mailboxes and the host's vectors only. -/
theorem State.answer_frame : s.answer m a status payload =
    { s with dev := { s.dev with mbox := (s.answer m a status payload).dev.mbox }, host := (s.answer m a status payload).host } := by
  obtain ⟨f, hf⟩ := s.answer_only m a status payload
  rw [hf]; rfl

@[simp] theorem State.answer_pending : (s.answer m a status payload).pending = s.pending :=
  (congrArg State.pending (s.answer_frame m a status payload)).trans rfl
@[simp] theorem State.answer_mem : (s.answer m a status payload).mem = s.mem :=
  (congrArg State.mem (s.answer_frame m a status payload)).trans rfl
@[simp] theorem State.answer_nv : (s.answer m a status payload).nv = s.nv :=
  (congrArg State.nv (s.answer_frame m a status payload)).trans rfl
@[simp] theorem State.answer_reg (n : RegName) (i : List Nat) : (s.answer m a status payload).reg n i = s.reg n i :=
  (congrArg (State.reg · n i) (s.answer_frame m a status payload)).trans rfl
@[simp] theorem State.answer_ctx (c : Nat) : (s.answer m a status payload).ctx c = s.ctx c :=
  (congrArg (State.ctx · c) (s.answer_frame m a status payload)).trans rfl
@[simp] theorem State.answer_rind : (s.answer m a status payload).dev.rind = s.dev.rind :=
  (congrArg (·.dev.rind) (s.answer_frame m a status payload)).trans rfl
@[simp] theorem State.answer_clk : (s.answer m a status payload).dev.clk = s.dev.clk :=
  (congrArg (·.dev.clk) (s.answer_frame m a status payload)).trans rfl
@[simp] theorem State.answer_link : (s.answer m a status payload).dev.link = s.dev.link :=
  (congrArg (·.dev.link) (s.answer_frame m a status payload)).trans rfl
@[simp] theorem State.answer_field (n : RegName) (i : List Nat) (hi lo : Nat) :
    (s.answer m a status payload).field n i hi lo = s.field n i hi lo := by
  rw [State.field, State.answer_reg, State.field]
@[simp] theorem State.answer_fuse (n : Nat) : (s.answer m a status payload).fuse n = s.fuse n := by
  rw [State.fuse, State.answer_nv, State.fuse]
@[simp] theorem State.answer_moduleId : (s.answer m a status payload).moduleId = s.moduleId := State.answer_field ..
end

/-! ### Fields of a word -/

theorem wput_toNat (w : BitVec 64) {hi lo : Nat} (v : Nat) (hlo : lo ≤ hi) (hhi : hi < 64) :
    (wput w hi lo v).toNat =
      2 ^ lo * (2 ^ (hi + 1 - lo) * (w.toNat / 2 ^ lo / 2 ^ (hi + 1 - lo)) + v % 2 ^ (hi + 1 - lo)) + w.toNat % 2 ^ lo := by
  have hW : w.toNat < 2 ^ lo * (2 ^ (hi + 1 - lo) * 2 ^ (63 - hi)) := by
    rw [← Nat.pow_add, ← Nat.pow_add, show lo + (hi + 1 - lo + (63 - hi)) = 64 by omega]
    exact w.isLt
  have h64 : (2 : Nat) ^ 64 = 2 ^ lo * (2 ^ (hi + 1 - lo) * 2 ^ (63 - hi)) := by
    rw [← Nat.pow_add, ← Nat.pow_add]
    congr 1
    omega
  have hlow : w.toNat % 2 ^ lo < 2 ^ lo := Nat.mod_lt _ (Nat.two_pow_pos lo)
  have hnew : v % 2 ^ (hi + 1 - lo) < 2 ^ (hi + 1 - lo) := Nat.mod_lt _ (Nat.two_pow_pos _)
  have hhigh : w.toNat / 2 ^ lo / 2 ^ (hi + 1 - lo) < 2 ^ (63 - hi) := Nat.div_lt_of_lt_mul (Nat.div_lt_of_lt_mul hW)
  have hsplit := Nat.div_add_mod w.toNat (2 ^ lo)
  have hfield := Nat.div_add_mod (w.toNat / 2 ^ lo) (2 ^ (hi + 1 - lo))
  rw [wput, BitVec.toNat_ofNat, bits, h64]
  generalize w.toNat = W at *
  generalize W % 2 ^ lo = r at *
  generalize W / 2 ^ lo = x at *
  generalize x % 2 ^ (hi + 1 - lo) = b at *
  generalize x / 2 ^ (hi + 1 - lo) = q at *
  generalize v % 2 ^ (hi + 1 - lo) = n at *
  generalize (2 : Nat) ^ lo = L at *
  generalize (2 : Nat) ^ (hi + 1 - lo) = K at *
  generalize (2 : Nat) ^ (63 - hi) = H at *
  have hkept : W - b * L + n * L = L * (K * q + n) + r := by
    rw [← hsplit, ← hfield, Nat.mul_add, Nat.mul_add, Nat.mul_comm b L, Nat.mul_comm n L]
    omega
  have hlt : L * (K * q + n) + r < L * (K * H) :=
    calc L * (K * q + n) + r < L * (K * q + n) + L := by omega
      _ = L * (K * q + n + 1) := (Nat.mul_succ _ _).symm
      _ ≤ L * (K * (q + 1)) := Nat.mul_le_mul_left L (by rw [Nat.mul_succ]; omega)
      _ ≤ L * (K * H) := Nat.mul_le_mul_left L (Nat.mul_le_mul_left K hhigh)
  rw [hkept, Nat.mod_eq_of_lt hlt]

/-- A field that has been put reads back. -/
theorem wbits_wput_self (w : BitVec 64) {hi lo : Nat} (v : Nat) (hlo : lo ≤ hi) (hhi : hi < 64) :
    wbits (wput w hi lo v) hi lo = v % 2 ^ (hi + 1 - lo) := by
  rw [wbits, bits, wput_toNat w v hlo hhi, Nat.mul_add_div (Nat.two_pow_pos lo),
    Nat.div_eq_of_lt (Nat.mod_lt _ (Nat.two_pow_pos lo)), Nat.add_zero, Nat.mul_add_mod, Nat.mod_mod]

/-- A field below the one that has been put is as it was. -/
theorem wbits_wput_below (w : BitVec 64) {hi lo hi' lo' : Nat} (v : Nat) (h : hi < lo') (hlo : lo ≤ hi) (hlo' : lo' ≤ hi')
    (hhi : hi' < 64) : wbits (wput w hi' lo' v) hi lo = wbits w hi lo := by
  have hdvd : 2 ^ lo * 2 ^ (hi + 1 - lo) ∣ 2 ^ lo' := by
    rw [← Nat.pow_add]
    exact Nat.pow_dvd_pow 2 (by omega)
  simp only [wbits, bits]
  rw [← Nat.mod_mul_right_div_self, ← Nat.mod_mul_right_div_self, wput_toNat w v hlo' hhi,
    ← Nat.mod_mod_of_dvd _ hdvd, Nat.mul_add_mod, Nat.mod_mod, Nat.mod_mod_of_dvd _ hdvd]

/-! ### Folds -/

/-- What no step of a fold changes, the fold does not change. -/
theorem foldl_keeps {σ α β : Type} {f : σ → α → σ} (P : σ → β) (h : ∀ s x, P (f s x) = P s) (l : List α) (s : σ) :
    P (l.foldl f s) = P s := by
  induction l generalizing s with
  | nil => rfl
  | cons x l ih => exact (ih _).trans (h s x)

end Sys2Proof.Machine
end

section
/-!
PROOFS. The information, ledger, fuse, budget, route, rind and reset commands (R95, R235, R264, R267, R268, R286, R295, R311): what each
does once its turn has come, and what of the routes the drops of a lost port keep.
-/
namespace Sys2Proof.Machine

/-! ### The rows -/

theorem exec_getInfo (m : MboxId) (s : State) : exec (.getInfo m) s = .next (s.getInfo m) := by rfl
theorem exec_getFeatures (m : MboxId) (s : State) : exec (.getFeatures m) s = .next (s.getFeatures m) := by rfl
theorem exec_getLedger (m : MboxId) (s : State) : exec (.getLedger m) s = .next (s.getLedger m) := by rfl
theorem exec_fuseRead (m : MboxId) (s : State) : exec (.fuseRead m) s = .next (s.fuseRead m) := by rfl
theorem exec_fuseProgram (m : MboxId) (s : State) : exec (.fuseProgram m) s = .next (s.fuseProgram m) := by rfl
theorem exec_setBudget (m : MboxId) (s : State) : exec (.setBudget m) s = .next (s.setBudget m) := by rfl
theorem exec_routeSet (m : MboxId) (s : State) : exec (.routeSet m) s = .next (s.routeSet m) := by rfl
theorem exec_rindArm (m : MboxId) (s : State) : exec (.rindArm m) s = .next (s.rindArmCmd m) := by rfl
theorem exec_reset (m : MboxId) (s : State) : exec (.reset m) s = .next (s.resetCmd m) := by rfl

/-! ### Information and fuses (R95, R268) -/

section
variable {s : State} {m : Nat} {a : Accepted}

theorem State.getInfo_served (h : s.serves m 0x01 a) :
    s.getInfo m = s.answer m a 0 (leBytes 8 (s.read .hubId []).toNat ++ leBytes 8 (s.read .featGen []).toNat ++
      leBytes 4 (s.read .hubState []).toNat ++ leBytes 8 (s.fuse 2).toNat ++ leBytes 8 (s.fuse 3).toNat ++ leBytes 12 0) :=
  State.serve_of_serves h _

theorem State.getFeatures_served (h : s.serves m 0x02 a) :
    s.getFeatures m = s.answer m a 0 (s.featBytes ++ leBytes 4 (s.read .hubHoopCfg []).toNat) := State.serve_of_serves h _

/-- The answer of GET_LEDGER with the energy and the share of what it is asked about. -/
def State.ledger (s : State) (m : Nat) (a : Accepted) (energy : Word) (share : Nat) : State :=
  s.answer m a 0 (leBytes 8 (s.read .nrgRail [0]).toNat ++ leBytes 8 energy.toNat ++ leBytes 4 (wbits s.nrgStatus 31 0) ++
    leBytes 4 share ++ leBytes 8 (wbits s.nrgWear 31 0) ++ leBytes 4 (wbits s.clkStatus 4 0) ++
    leBytes 4 (wbits (s.reg .nrgCntEmerg []) 31 0))

/-- The context of mailbox `m`'s GET_LEDGER: the one that mailbox 0 names, else its owner. -/
def State.ledgerNames (s : State) (m : Nat) (a : Accepted) (d : Nat) : Prop :=
  (m = 0 ∧ d = a.at_ 0 1 ∧ a.at_ 0 1 ≤ 7 ∧ (s.ctx (a.at_ 0 1)).valid = true) ∨ (m ≠ 0 ∧ (s.mbox m).owner = some d)

theorem State.getLedger_refused (h : s.serves m 0x41 a)
    (hno : ¬ if m = 0 then a.at_ 0 1 = 0xFF ∨ (a.at_ 0 1 ≤ 7 ∧ (s.ctx (a.at_ 0 1)).valid = true) else (s.mbox m).owner.isSome) :
    s.getLedger m = s.answer m a 0x20 [] := by
  rw [State.getLedger, State.serve_of_serves h]
  by_cases hm : m = 0
  · rw [if_pos hm, not_or] at hno
    simp only [if_pos hm, if_neg hno.1, if_neg hno.2]
  · rw [if_neg hm, Option.not_isSome_iff_eq_none] at hno
    simp only [if_neg hm, hno, Option.map_none]

theorem State.getLedger_idle (h : s.serves m 0x41 a) (hm : m = 0) (hc : a.at_ 0 1 = 0xFF) :
    s.getLedger m = s.ledger m a (s.read .nrgIdle []) 0 := by
  rw [State.getLedger, State.serve_of_serves h]
  simp only [if_pos hm, if_pos hc, State.ledger]

theorem State.getLedger_context (h : s.serves m 0x41 a) {d : Nat} (hd : s.ledgerNames m a d) :
    s.getLedger m = s.ledger m a (s.read .nrgCtx [d]) (wbits (s.nrgShare d) 31 0) := by
  rw [State.getLedger, State.serve_of_serves h]
  obtain ⟨hm, rfl, hle, hvalid⟩ | ⟨hm, howner⟩ := hd
  · simp only [if_pos hm, if_neg (show ¬ a.at_ 0 1 = 0xFF by omega), if_pos (And.intro hle hvalid), State.ledger]
  · simp only [if_neg hm, howner, Option.map_some, State.ledger]

theorem State.fuseRead_served (h : s.serves m 0xF0 a) :
    s.fuseRead m = if 71 < a.at_ 0 4 then s.answer m a 0x19 []
      else s.answer m a 0 (leBytes 8 (if a.at_ 0 4 < 32 ∨ 35 < a.at_ 0 4 then (s.fuse (a.at_ 0 4)).toNat else 0)) := by
  rw [State.fuseRead, State.serve_of_serves h]
  have hsecret : (32 ≤ a.at_ 0 4 ∧ a.at_ 0 4 ≤ 35) ↔ ¬ (a.at_ 0 4 < 32 ∨ 35 < a.at_ 0 4) := by omega
  simp only [gt_iff_lt, hsecret, ite_not]

/-- The state with bits of a fuse word set. -/
def State.programFuse (s : State) (n : Nat) (v : BitVec 64) : State :=
  { s with nv := { s.nv with fuses := AMap.set s.nv.fuses n (s.fuse n ||| v) } }

theorem State.fuse_programFuse_self (s : State) (n : Nat) (v : BitVec 64) : (s.programFuse n v).fuse n = s.fuse n ||| v :=
  AMap.get_set_self _ _ _ _
theorem State.fuse_programFuse_ne (s : State) {n j : Nat} (v : BitVec 64) (h : j ≠ n) : (s.programFuse n v).fuse j = s.fuse j :=
  AMap.get_set_ne _ _ _ h

theorem State.fuseProgram_served (h : s.serves m 0xF1 a) :
    s.fuseProgram m = if a.at_ 0 4 < 64 then s.answer m a 0xF0 [] else if 71 < a.at_ 0 4 then s.answer m a 0x19 []
      else (s.programFuse (a.at_ 0 4) (BitVec.ofNat 64 (a.at_ 8 8))).answer m a 0
        (leBytes 8 (s.fuse (a.at_ 0 4) ||| BitVec.ofNat 64 (a.at_ 8 8)).toNat) := State.serve_of_serves h _
end

/-! ### SET_BUDGET (R235, R311) -/

theorem State.setStep_mem (s : State) (k : Nat) : (s.setStep k).mem = s.mem := by
  unfold State.setStep
  split <;> rfl
theorem State.setStep_level (s : State) (k : Nat) : (s.setStep k).dev.clk.level = s.dev.clk.level := by
  unfold State.setStep
  split <;> rfl
theorem State.setStep_reg (s : State) (k : Nat) {n : RegName} (i : List Nat) (h : n ≠ .clkStatus) : (s.setStep k).reg n i = s.reg n i := by
  unfold State.setStep
  split
  · rfl
  · exact State.reg_setReg_ne _ _ fun e => h (congrArg Prod.fst e)

/-- A planning point counts itself and sets the step, or notes the present one. -/
theorem State.planPoint_cases (s : State) :
    let t := s.segsEnd.bump .nrgCntPlans [] 1 none 9 0
    (∃ k, s.planPoint = ((t.modClk fun c => { c with elec := none }).setField .clkStep [] 12 8 k).setStep k) ∨
      ∃ k, s.planPoint = t.setField .clkStep [] 12 8 k := by
  dsimp only
  rw [State.planPoint]
  dsimp only
  split
  · exact .inl ⟨_, rfl⟩
  · exact .inr ⟨_, rfl⟩

theorem State.planPoint_mem (s : State) : s.planPoint.mem = s.mem := by
  have hcount := (s.segsEnd.eventsOnly_bump .nrgCntPlans [] 1 none 9 0).mem
  obtain ⟨k, hk⟩ | ⟨k, hk⟩ := s.planPoint_cases
  · rw [hk, State.setStep_mem]
    exact hcount
  · rw [hk]
    exact hcount
theorem State.planPoint_level (s : State) : s.planPoint.dev.clk.level = s.dev.clk.level := by
  have hcount := congrArg ClkS.level (s.segsEnd.eventsOnly_bump .nrgCntPlans [] 1 none 9 0).clk
  obtain ⟨k, hk⟩ | ⟨k, hk⟩ := s.planPoint_cases
  · rw [hk, State.setStep_level]
    exact hcount
  · rw [hk]
    exact hcount
theorem State.planPoint_reg (s : State) {n : RegName} (i : List Nat) (h : n ∉ [RegName.hubAlert, .nrgCntPlans, .clkStep, .clkStatus]) :
    s.planPoint.reg n i = s.reg n i := by
  simp only [List.mem_cons, List.not_mem_nil, or_false, not_or] at h
  obtain ⟨halert, hplans, hstep, hstatus⟩ := h
  have hcount : (s.segsEnd.bump .nrgCntPlans [] 1 none 9 0).reg n i = s.reg n i :=
    State.reg_bump _ _ _ _ _ _ _ _ halert fun e => hplans (congrArg Prod.fst e)
  have hput (t : State) (hi lo v : Nat) : (t.setField .clkStep [] hi lo v).reg n i = t.reg n i :=
    State.reg_setReg_ne _ _ fun e => hstep (congrArg Prod.fst e)
  obtain ⟨k, hk⟩ | ⟨k, hk⟩ := s.planPoint_cases
  · rw [hk, State.setStep_reg _ _ _ hstatus, hput]
    exact hcount
  · rw [hk, hput, hcount]

theorem State.planPoint_field (s : State) {n : RegName} (i : List Nat) (hi lo : Nat)
    (h : n ∉ [RegName.hubAlert, .nrgCntPlans, .clkStep, .clkStatus]) : s.planPoint.field n i hi lo = s.field n i hi lo := by
  rw [State.field, s.planPoint_reg i h, State.field]

/-! A share of a context. -/

section
variable (s : State) (c w : Nat)

theorem State.setShare_mem : (s.setShare c w).mem = s.mem := rfl
theorem State.setShare_level : (s.setShare c w).dev.clk.level = s.dev.clk.level := rfl
theorem State.setShare_reg {n : RegName} (i : List Nat) (h : n ≠ .nrgShare) : (s.setShare c w).reg n i = s.reg n i :=
  State.reg_setReg_ne s _ fun e => h (congrArg Prod.fst e)
theorem State.shareW_setShare_self : (s.setShare c w).shareW c = w % 2 ^ 12 := by
  have hreg : (s.setShare c w).reg .nrgShare [c] = wput (s.reg .nrgShare [c]) 43 32 w := State.reg_setReg_self _ _ _ _
  rw [State.shareW, State.field, hreg, wbits_wput_self _ _ (by decide) (by decide)]
theorem State.shareW_setShare_ne {d : Nat} (h : d ≠ c) : (s.setShare c w).shareW d = s.shareW d := by
  have hreg : (s.setShare c w).reg .nrgShare [d] = s.reg .nrgShare [d] :=
    State.reg_setReg_ne s _ fun e => h (List.head_eq_of_cons_eq (congrArg Prod.snd e))
  rw [State.shareW, State.field, hreg, State.shareW, State.field]
end

/-- Every context of a list that is given shares has its share. -/
theorem State.shareW_setShares (g : Nat → Nat) {c : Nat} (l : List Nat) (s : State) (h : c ∈ l ∨ s.shareW c = g c % 2 ^ 12) :
    (l.foldl (fun s d => s.setShare d (g d)) s).shareW c = g c % 2 ^ 12 := by
  induction l generalizing s with
  | nil => exact h.resolve_left List.not_mem_nil
  | cons d l ih =>
    apply ih
    by_cases hd : c = d
    · subst hd
      exact .inr (s.shareW_setShare_self c (g c))
    · rw [s.shareW_setShare_ne d (g d) hd]
      exact h.imp_left fun hm => (List.mem_cons.1 hm).resolve_left hd

/-- The state with a budget's power limits, capacity and shares in force. -/
def State.budgeted (s : State) (a : Accepted) : State :=
  (List.range 8).foldl (fun s c => s.setShare c ((budgetShares a).getD c 0))
    ((s.setReg .nrgCfg [] (word [(a.at_ 8 4, 36), (a.at_ 4 4, 24), (a.at_ 0 4, 12)])).modClk fun k =>
      { k with level := min k.level (a.at_ 4 4 * 1000000 : Nat) })

section
variable (s : State) (a : Accepted)

theorem State.budgeted_mem : (s.budgeted a).mem = s.mem := by
  unfold State.budgeted
  exact foldl_keeps State.mem (fun t c => t.setShare_mem c _) _ _
theorem State.budgeted_level : (s.budgeted a).dev.clk.level = min s.dev.clk.level (a.at_ 4 4 * 1000000 : Nat) := by
  unfold State.budgeted
  exact foldl_keeps (fun t : State => t.dev.clk.level) (fun t c => t.setShare_level c _) _ _
theorem State.budgeted_cfg : (s.budgeted a).reg .nrgCfg [] = word [(a.at_ 8 4, 36), (a.at_ 4 4, 24), (a.at_ 0 4, 12)] := by
  unfold State.budgeted
  rw [foldl_keeps (fun t : State => t.reg .nrgCfg []) (fun t c => t.setShare_reg c _ [] (by decide))]
  exact State.reg_setReg_self _ _ _ _
theorem State.budgeted_share (c : CtxId) : (s.budgeted a).shareW c = a.at_ (16 + 4 * c) 4 % 2 ^ 12 := by
  have hshare : (budgetShares a).getD c 0 = a.at_ (16 + 4 * c) 4 := by
    simp [budgetShares, List.getD_eq_getElem?_getD, c.isLt]
  rw [State.budgeted, State.shareW_setShares (fun d => (budgetShares a).getD d 0) _ _ (.inl (List.mem_range.2 c.isLt)), hshare]
end

theorem wbits_budget {x y z : Nat} (hx : x < 2 ^ 12) (hy : y < 2 ^ 12) (hz : z < 2 ^ 12) :
    wbits (word [(x, 36), (y, 24), (z, 12)]) 23 12 = z ∧ wbits (word [(x, 36), (y, 24), (z, 12)]) 35 24 = y ∧
      wbits (word [(x, 36), (y, 24), (z, 12)]) 47 36 = x := by
  simp only [wbits, bits, word, List.foldl_cons, List.foldl_nil, BitVec.toNat_ofNat]
  omega

/-- Core Lean has no such lemma for the sum of a list of numbers. -/
theorem le_sum_of_mem {x : Nat} {l : List Nat} (h : x ∈ l) : x ≤ l.sum := by
  induction l with
  | nil => exact absurd h List.not_mem_nil
  | cons y l ih =>
    rw [List.sum_cons]
    obtain rfl | htail := List.mem_cons.1 h
    · exact Nat.le_add_right x l.sum
    · exact Nat.le_trans (ih htail) (Nat.le_add_left l.sum y)

/-- The fields of a budget in range fit theirs. -/
theorem fields_lt_of_budgetOk {a : Accepted} (h : budgetOk a = true) :
    a.at_ 0 4 < 2 ^ 12 ∧ a.at_ 4 4 < 2 ^ 12 ∧ a.at_ 8 4 < 2 ^ 12 ∧ ∀ c : CtxId, a.at_ (16 + 4 * c) 4 < 2 ^ 12 := by
  simp only [budgetOk, Bool.and_eq_true, decide_eq_true_eq] at h
  obtain ⟨⟨⟨⟨-, hs, hr, -, hb⟩, -⟩, -⟩, hsum⟩ := h
  refine ⟨by omega, by omega, by omega, fun c => ?_⟩
  have hmem : a.at_ (16 + 4 * c) 4 ∈ budgetShares a := List.mem_map.2 ⟨c, List.mem_range.2 c.isLt, rfl⟩
  have hle := le_sum_of_mem hmem
  rw [← List.sum_eq_foldl] at hsum
  omega

section
variable {s : State} {m : Nat} {a : Accepted} (h : s.serves m 0x40 a)
include h

theorem State.setBudget_refused (hb : budgetOk a = false) : s.setBudget m = s.answer m a 0x50 [] := by
  rw [State.setBudget, State.serve_of_serves h]
  exact if_pos (by simp [hb])
theorem State.setBudget_served (hb : budgetOk a = true) : s.setBudget m = (s.budgeted a).planPoint.answer m a 0 [] := by
  rw [State.setBudget, State.serve_of_serves h]
  exact if_neg (by simp [hb])

/-- A budget in range is in force, every share with it. -/
theorem State.setBudget_effect (hb : budgetOk a = true) :
    let u := s.setBudget m
    u.mem = s.mem ∧ u.field .nrgCfg [] 23 12 = a.at_ 0 4 ∧ u.field .nrgCfg [] 35 24 = a.at_ 4 4 ∧ u.field .nrgCfg [] 47 36 = a.at_ 8 4 ∧
      u.dev.clk.level = min s.dev.clk.level (a.at_ 4 4 * 1000000 : Nat) ∧
      ∀ c : CtxId, u.field .nrgShare [c] 43 32 = a.at_ (16 + 4 * c) 4 := by
  obtain ⟨hsust, hres, hburst, hshare⟩ := fields_lt_of_budgetOk hb
  obtain ⟨hs, hr, hx⟩ := wbits_budget hburst hres hsust
  dsimp only
  rw [State.setBudget_served h hb]
  have hcfg (hi lo : Nat) : ((s.budgeted a).planPoint.answer m a 0 []).field .nrgCfg [] hi lo =
      wbits (word [(a.at_ 8 4, 36), (a.at_ 4 4, 24), (a.at_ 0 4, 12)]) hi lo := by
    rw [State.answer_field, State.planPoint_field _ _ _ _ (by decide), State.field, State.budgeted_cfg]
  refine ⟨?_, (hcfg _ _).trans hs, (hcfg _ _).trans hr, (hcfg _ _).trans hx, ?_, fun c => ?_⟩
  · rw [State.answer_mem, State.planPoint_mem, State.budgeted_mem]
  · rw [State.answer_clk, State.planPoint_level, State.budgeted_level]
  · rw [State.answer_field, State.planPoint_field _ _ _ _ (by decide)]
    exact (s.budgeted_share a c).trans (Nat.mod_eq_of_lt (hshare c))
end

/-! ### What the fabric keeps when frames are dropped (R207, R208) -/

/-- Memory, the forwarding table and LNK_CFG, which holds the module's id. -/
def State.routes (s : State) : Mem × AMap Nat (BitVec 32) × BitVec 64 := (s.mem, s.dev.link.fwd, s.reg .lnkCfg [])

theorem State.routes_eq_iff {s t : State} :
    t.routes = s.routes ↔ t.mem = s.mem ∧ t.dev.link.fwd = s.dev.link.fwd ∧ t.reg .lnkCfg [] = s.reg .lnkCfg [] := by
  simp only [State.routes, Prod.mk.injEq]

theorem State.routes_foldl {α : Type} {f : State → α → State} (h : ∀ t x, (f t x).routes = t.routes) (l : List α) (s : State) :
    (l.foldl f s).routes = s.routes := foldl_keeps State.routes h l s

section
variable (s : State)

theorem State.routes_modPort (p : Nat) (f : PortS → PortS) : (s.modPort p f).routes = s.routes := rfl
theorem State.routes_modFlow (f : Nat) (g : Flow → Flow) : (s.modFlow f g).routes = s.routes := rfl
theorem State.routes_setReg {n : RegName} (h : n ≠ .lnkCfg) (i : List Nat) (v : BitVec 64) : (s.setReg n i v).routes = s.routes :=
  State.routes_eq_iff.2 ⟨rfl, rfl, State.reg_setReg_ne _ _ fun e => h (congrArg Prod.fst e).symm⟩
theorem State.routes_bump {n : RegName} (h : n ≠ .lnkCfg) (i : List Nat) (k : Nat) (c : Option Nat) (kind index : Nat) :
    (s.bump n i k c kind index).routes = s.routes := by
  have hev := s.eventsOnly_bump n i k c kind index
  exact State.routes_eq_iff.2 ⟨hev.mem, congrArg LinkS.fwd hev.link,
    State.reg_bump _ _ _ _ _ _ _ _ (by decide) fun e => h (congrArg Prod.fst e).symm⟩
theorem State.routes_raise (code : Nat) (o : Origin) : (s.raise code o).routes = s.routes := by
  have hev := s.eventsOnly_raise code o
  exact State.routes_eq_iff.2 ⟨hev.mem, congrArg LinkS.fwd hev.link, State.reg_raise _ _ _ _ (by decide) (by decide)⟩

theorem State.routes_drop (cause : Nat) (f : Frame) (port : Nat) (ctx : Option Nat) :
    (s.drop cause f port ctx).routes = s.routes := by
  have hfail : (s.failShipment f).routes = s.routes := by
    unfold State.failShipment
    split <;> rfl
  have hcount : ((s.failShipment f).bump .lnkCntDrop [] 1 none 7 0).routes = s.routes :=
    (State.routes_bump _ (by decide) _ _ _ _ _).trans hfail
  unfold State.drop
  dsimp only
  split
  · exact hcount
  · rw [State.routes_raise, State.routes_setReg _ (by decide), hcount]

theorem State.routes_lcredit (inp : Option (Nat × Nat)) (units : Nat) : (s.lcredit inp units).routes = s.routes := by
  unfold State.lcredit
  split
  · split <;> rfl
  · rfl

theorem State.routes_dropWaiting (f cause : Nat) (ls : List Landing) : (s.dropWaiting f cause ls).routes = s.routes := by
  refine (State.routes_foldl (fun t x => ?_) _ _).trans ?_
  · exact State.routes_drop _ _ _ _ _
  · rfl

theorem State.routes_dropLandings (p f : Nat) : (s.dropLandings p f).routes = s.routes := by
  unfold State.dropLandings
  split
  · rfl
  · exact State.routes_dropWaiting _ _ _ _

theorem State.routes_dropBuffers (p : Nat) : (s.dropBuffers p).routes = s.routes := by
  have hheld (t : State) : (t.modLink fun l => { l with held := l.held.filter fun h => h.1 != p }).routes = t.routes := rfl
  refine (State.routes_foldl (fun t (h : Nat × Frame) => t.routes_drop 2 h.2 p none) _ _).trans ((hheld _).trans ?_)
  refine (State.routes_foldl (fun t (q : Nat × Flow) => t.routes_dropLandings p q.1) _ _).trans ?_
  refine (State.routes_foldl (fun t w => ?_) _ _).trans ?_
  · dsimp only
    split
    · split
      · exact State.routes_drop _ _ _ _ _
      · rw [State.routes_lcredit, State.routes_drop]
    · exact State.routes_drop _ _ _ _ _
  exact State.routes_foldl (fun t (f : Sent) => t.routes_drop 2 f.frame p f.ctx) _ _

theorem State.routes_linkDown (p cause : Nat) : (s.linkDown p cause).routes = s.routes := by
  rw [State.linkDown, State.routes_raise, State.routes_dropBuffers, State.routes_modPort]

theorem State.routes_recheckPeers : s.recheckPeers.routes = s.routes := by
  refine foldl_keeps State.routes (fun t p => ?_) _ _
  split
  · split
    · rfl
    · exact State.routes_linkDown _ _ _
  · rfl
end

/-! ### ROUTE_SET (R264) -/

/-- Forwarding entries set one after the other. -/
def setRoutes (es : List (Nat × Nat × Nat)) (fwd : AMap Nat (BitVec 32)) : AMap Nat (BitVec 32) :=
  es.foldl (fun f e => AMap.set f e.1 (BitVec.ofNat 32 e.2.2)) fwd

theorem get_setRoutes_of_not_mem {es : List (Nat × Nat × Nat)} {d : Nat} (h : ∀ e ∈ es, e.1 ≠ d) (fwd : AMap Nat (BitVec 32)) :
    AMap.get (setRoutes es fwd) 0 d = AMap.get fwd 0 d := by
  induction es generalizing fwd with
  | nil => rfl
  | cons e es ih =>
    obtain ⟨he, hes⟩ := List.forall_mem_cons.1 h
    exact (ih hes _).trans (AMap.get_set_ne _ _ _ he.symm)

theorem get_setRoutes_of_mem {es : List (Nat × Nat × Nat)} (hn : (es.map (·.1)).Nodup) {e : Nat × Nat × Nat} (he : e ∈ es)
    (fwd : AMap Nat (BitVec 32)) : AMap.get (setRoutes es fwd) 0 e.1 = BitVec.ofNat 32 e.2.2 := by
  induction es generalizing fwd with
  | nil => exact absurd he List.not_mem_nil
  | cons e' es ih =>
    obtain ⟨hnot, hes⟩ := List.nodup_cons.1 hn
    obtain rfl | hmem := List.mem_cons.1 he
    · have hlater : ∀ x ∈ es, x.1 ≠ e.1 := fun x hx hxe => hnot (List.mem_map.2 ⟨x, hx, hxe⟩)
      exact (get_setRoutes_of_not_mem hlater _).trans (AMap.get_set_self _ _ _ _)
    · exact ih hes hmem _

/-- LNK_CFG after a ROUTE_SET: the id with its VALID bit, and TTL, where the flags name them. -/
def routedCfg (a : Accepted) (w : BitVec 64) : BitVec 64 :=
  let w := if bit (a.at_ 2 1) 0 then wput (wput w 11 0 (a.at_ 0 2)) 12 12 1 else w
  if bit (a.at_ 2 1) 2 then wput w 21 16 (a.at_ 3 1) else w

theorem wbits_routedCfg (a : Accepted) (w : BitVec 64) :
    wbits (routedCfg a w) 11 0 = if bit (a.at_ 2 1) 0 then a.at_ 0 2 % 2 ^ 12 else wbits w 11 0 := by
  have httl (v : BitVec 64) : wbits (if bit (a.at_ 2 1) 2 then wput v 21 16 (a.at_ 3 1) else v) 11 0 = wbits v 11 0 := by
    split
    · exact wbits_wput_below _ _ (by decide) (by decide) (by decide) (by decide)
    · rfl
  rw [routedCfg, httl]
  split
  · rw [wbits_wput_below _ _ (by decide) (by decide) (by decide) (by decide), wbits_wput_self _ _ (by decide) (by decide)]
  · rfl

/-- The state with what a ROUTE_SET names in place, before the identity exchange. -/
def State.routed (s : State) (a : Accepted) : State :=
  let flags := a.at_ 2 1
  let s := if bit flags 0 then (s.setField .lnkCfg [] 11 0 (a.at_ 0 2)).setField .lnkCfg [] 12 12 1 else s
  let s := if bit flags 2 then s.setField .lnkCfg [] 21 16 (a.at_ 3 1) else s
  let s := if bit flags 1 then
      (List.range 16).foldl (fun s p =>
        s.setReg .lnkPortCfg [p] (word [(bits (a.at_ (8 + p) 1) 2 2, 7), (bits (a.at_ (8 + p) 1) 1 0, 4)])) s else s
  s.modLink fun l => { l with fwd := setRoutes (routeEntries a) l.fwd }

theorem State.routes_setField_cfg (s : State) (hi lo v : Nat) :
    (s.setField .lnkCfg [] hi lo v).routes = (s.routes.1, s.routes.2.1, wput s.routes.2.2 hi lo v) :=
  congrArg (fun w => (s.mem, s.dev.link.fwd, w)) (State.reg_setReg_self _ _ _ _)

theorem State.routes_routed (s : State) (a : Accepted) :
    (s.routed a).routes = (s.mem, setRoutes (routeEntries a) s.dev.link.fwd, routedCfg a (s.reg .lnkCfg [])) := by
  have hid : (if bit (a.at_ 2 1) 0 then (s.setField .lnkCfg [] 11 0 (a.at_ 0 2)).setField .lnkCfg [] 12 12 1 else s).routes =
      (s.mem, s.dev.link.fwd, if bit (a.at_ 2 1) 0 then wput (wput (s.reg .lnkCfg []) 11 0 (a.at_ 0 2)) 12 12 1 else s.reg .lnkCfg []) := by
    split
    · rw [State.routes_setField_cfg, State.routes_setField_cfg]; rfl
    · rfl
  have httl (t : State) : (if bit (a.at_ 2 1) 2 then t.setField .lnkCfg [] 21 16 (a.at_ 3 1) else t).routes =
      (t.routes.1, t.routes.2.1, if bit (a.at_ 2 1) 2 then wput t.routes.2.2 21 16 (a.at_ 3 1) else t.routes.2.2) := by
    split
    · exact t.routes_setField_cfg _ _ _
    · rfl
  have hports (t : State) : (if bit (a.at_ 2 1) 1 then (List.range 16).foldl (fun s p =>
      s.setReg .lnkPortCfg [p] (word [(bits (a.at_ (8 + p) 1) 2 2, 7), (bits (a.at_ (8 + p) 1) 1 0, 4)])) t else t).routes = t.routes := by
    split
    · exact State.routes_foldl (fun t p => t.routes_setReg (by decide) _ _) _ _
    · rfl
  have hfwd (t : State) : (t.modLink fun l => { l with fwd := setRoutes (routeEntries a) l.fwd }).routes =
      (t.routes.1, setRoutes (routeEntries a) t.routes.2.1, t.routes.2.2) := rfl
  unfold State.routed routedCfg
  dsimp only
  rw [hfwd, hports, httl, hid]

section
variable {s : State} {m : Nat} {a : Accepted} (h : s.serves m 0x62 a)
include h

theorem State.routeSet_refused (hr : routeOk a = false) : s.routeSet m = s.answer m a 0x63 [] := by
  rw [State.routeSet, State.serve_of_serves h]
  exact if_pos (by simp [hr])

/-- A well-formed ROUTE_SET puts in place what it names, and may repeat the identity exchange. -/
theorem State.routeSet_served (hr : routeOk a = true) :
    ∃ t : State, t.routes = (s.routed a).routes ∧ s.routeSet m = t.answer m a 0 [] := by
  have hserved : s.routeSet m = (if (bit (a.at_ 2 1) 0 && (a.at_ 0 2 != s.moduleId || s.field .lnkCfg [] 12 12 == 0)) = true
      then (s.routed a).recheckPeers else s.routed a).answer m a 0 [] := by
    rw [State.routeSet, State.serve_of_serves h]
    exact if_neg (by simp [hr])
  refine ⟨_, ?_, hserved⟩
  split
  · exact State.routes_recheckPeers _
  · rfl

theorem State.routeSet_effect (hr : routeOk a = true) (hn : ((routeEntries a).map (·.1)).Nodup) :
    let u := s.routeSet m
    u.mem = s.mem ∧ (bit (a.at_ 2 1) 0 = true → u.moduleId = a.at_ 0 2) ∧ (bit (a.at_ 2 1) 0 = false → u.moduleId = s.moduleId) ∧
      (∀ e ∈ routeEntries a, AMap.get u.dev.link.fwd 0 e.1 = BitVec.ofNat 32 e.2.2) ∧
      ∀ d, (∀ e ∈ routeEntries a, e.1 ≠ d) → AMap.get u.dev.link.fwd 0 d = AMap.get s.dev.link.fwd 0 d := by
  obtain ⟨t, ht, hserved⟩ := State.routeSet_served h hr
  rw [State.routes_routed, State.routes, Prod.mk.injEq, Prod.mk.injEq] at ht
  obtain ⟨hmem, hfwd, hcfg⟩ := ht
  have hid : t.moduleId = if bit (a.at_ 2 1) 0 then a.at_ 0 2 % 2 ^ 12 else s.moduleId := by
    rw [State.moduleId, State.field, hcfg, wbits_routedCfg]
    rfl
  dsimp only
  rw [hserved, State.answer_mem, State.answer_moduleId, State.answer_link, hfwd]
  refine ⟨hmem, fun hb => ?_, fun hb => ?_, fun e he => get_setRoutes_of_mem hn he _, fun d hd => get_setRoutes_of_not_mem hd _⟩
  · have hlt : a.at_ 0 2 < 0xFFF := by
      simp only [routeOk, Bool.and_eq_true, hb, Bool.not_true, Bool.false_or, decide_eq_true_eq] at hr
      omega
    rw [hid, if_pos hb, Nat.mod_eq_of_lt (by omega)]
  · rw [hid, if_neg (by simp [hb])]
end

/-! ### RIND_ARM (R286) -/

/-- The arming that a RIND_ARM with SRC 1 to 3 asks for. -/
def Accepted.armed (a : Accepted) : Arming :=
  { src := a.at_ 0 1, cls := a.at_ 1 1, step := BitVec.ofNat 64 (a.at_ 8 8), once := a.at_ 2 1 != 0 }

section
variable {s : State} {m c : Nat} {a : Accepted} (h : s.serves m 0x52 a) (ho : (s.mbox m).owner = some c)
include h ho

theorem State.rindArmCmd_refused (hb : 3 < a.at_ 0 1 ∨ (a.at_ 0 1 = 2 ∧ ¬ (1 ≤ a.at_ 1 1 ∧ a.at_ 1 1 ≤ 8))) :
    s.rindArmCmd m = s.answer m a 0x19 [] := by
  rw [State.rindArmCmd, State.serveCtx_of_serves h ho]
  exact if_pos hb

theorem State.rindArmCmd_arms (hb : a.at_ 0 1 = 1 ∨ a.at_ 0 1 = 3 ∨ (a.at_ 0 1 = 2 ∧ 1 ≤ a.at_ 1 1 ∧ a.at_ 1 1 ≤ 8)) :
    let u := s.rindArmCmd m
    u.mem = s.mem ∧ u.dev.rind = s.dev.rind ∧ (u.ctx c).arming = some a.armed := by
  have hserved : s.rindArmCmd m = (s.modCtx c fun x => { x with arming := some a.armed }).answer m a 0 [] := by
    rw [State.rindArmCmd, State.serveCtx_of_serves h ho]
    dsimp only
    rw [if_neg (by omega), if_neg (by omega), Accepted.armed]
  dsimp only
  rw [hserved, State.answer_mem, State.answer_rind, State.answer_ctx]
  exact ⟨rfl, rfl, congrArg Ctx.arming (State.ctx_setCtx_self _ _ _)⟩

/-- SRC 0 clears the arming and triggers, which starts a wave where none is in progress (assumption log 75, R287). -/
theorem State.rindArmCmd_triggers (hsrc : a.at_ 0 1 = 0) (hcur : s.dev.rind.cur = none) :
    let u := s.rindArmCmd m
    (u.ctx c).arming = none ∧ u.dev.rind.cur = some ⟨0, some c⟩ ∧ u.dev.rind.wave = (s.dev.rind.wave + 1) % 65536 ∧
      u.dev.rind.todo = List.range 19 ∧ u.dev.rind.cut = false := by
  have hserved : s.rindArmCmd m = ((s.modCtx c fun x => { x with arming := none }).trigger ⟨0, some c⟩).answer m a 0 [] := by
    rw [State.rindArmCmd, State.serveCtx_of_serves h ho]
    dsimp only
    rw [if_neg (by omega), if_pos hsrc]
  have hwave : ((s.modCtx c fun x => { x with arming := none }).trigger ⟨0, some c⟩).dev.rind =
      s.dev.rind.start ⟨0, some c⟩ s.dev.tick := by
    rw [State.trigger]
    show s.dev.rind.trigger _ s.dev.tick = _
    rw [Rind.trigger, hcur]
  dsimp only
  rw [hserved, State.answer_rind, State.answer_ctx, hwave]
  exact ⟨congrArg Ctx.arming (State.ctx_setCtx_self s c { s.ctx c with arming := none }), rfl, rfl, rfl, rfl⟩
end

/-! ### RESET (R267, R295) -/

/-- KIND 0: the hub is at BOOT with the cave's bytes and the saved wear, and nothing volatile is left but the mailboxes' bytes. -/
theorem State.resetModule_effect (s : State) :
    let u := s.resetModule
    u.hubState = 1 ∧ u.field .hubReset [] 3 0 = 2 ∧ u.nv.wear = s.dev.clk.wear ∧ u.dev.ctxs = [] ∧ u.dev.cores = [] ∧
      u.pending = s.pending ∧ ∀ x, Mem.read u.mem x = if 2 ^ 48 ≤ x then Mem.read s.mem x else 0 := by
  refine ⟨?_, ?_, rfl, rfl, rfl, rfl, fun x => ?_⟩
  · have hreg : s.resetModule.reg .hubState [] = regReset .hubState := by
      rw [State.resetModule, State.reg_setReg_ne _ _ (by decide)]
      exact State.reg_setReg_ne _ _ (by decide)
    rw [State.hubState, State.field, hreg]
    decide
  · have hreg : s.resetModule.reg .hubReset [] = wput (regReset .hubReset) 3 0 2 := by
      rw [State.resetModule, State.reg_setReg_ne _ _ (by decide)]
      exact State.reg_setReg_self _ _ _ _
    rw [State.field, hreg]
    decide
  · have hmem : s.resetModule.mem = s.mem.filter fun p => decide (2 ^ 48 ≤ p.1) := rfl
    rw [hmem, Mem.read_filter fun q => decide (2 ^ 48 ≤ q)]
    simp only [decide_eq_true_eq]
    rfl

theorem State.haltCores_ctx (cs : List Nat) (c : Nat) : ∀ s : State, (s.haltCores cs).ctx c = s.ctx c := by
  induction cs with
  | nil => exact fun _ => rfl
  | cons k ks ih => exact fun s => ih _
theorem State.haltCores_mem (cs : List Nat) : ∀ s : State, (s.haltCores cs).mem = s.mem := by
  induction cs with
  | nil => exact fun _ => rfl
  | cons k ks ih => exact fun s => ih _

theorem State.haltCtx_mem (s : State) (c : Nat) : (s.haltCtx c).mem = s.mem := State.haltCores_mem _ _
theorem State.haltCtx_ctx_self (s : State) (c : Nat) : (s.haltCtx c).ctx c = { s.ctx c with halted := true } := by
  rw [State.haltCtx, State.modCtx, State.ctx_setCtx_self, State.haltCores_ctx]
theorem State.haltCtx_ctx_ne (s : State) {c d : Nat} (h : d ≠ c) : (s.haltCtx c).ctx d = s.ctx d := by
  rw [State.haltCtx, State.modCtx, State.ctx_setCtx_ne _ _ h, State.haltCores_ctx]

/-- The contexts of a list that exist are halted one after the other. -/
def State.haltAll (s : State) (l : List Nat) : State := l.foldl (fun s c => if (s.ctx c).valid then s.haltCtx c else s) s

theorem State.haltAll_mem (s : State) (l : List Nat) : (s.haltAll l).mem = s.mem := by
  refine foldl_keeps State.mem (fun t c => ?_) l s
  split
  · exact t.haltCtx_mem c
  · rfl

theorem State.haltAll_halted {c : Nat} (l : List Nat) (s : State) (hv : (s.ctx c).valid = true)
    (h : c ∈ l ∨ (s.ctx c).halted = true) : ((s.haltAll l).ctx c).halted = true := by
  induction l generalizing s with
  | nil => exact h.resolve_left List.not_mem_nil
  | cons d l ih =>
    have hcons : s.haltAll (d :: l) = (if (s.ctx d).valid then s.haltCtx d else s).haltAll l := rfl
    rw [hcons]
    by_cases hd : c = d
    · subst hd
      rw [if_pos hv]
      apply ih <;> rw [State.haltCtx_ctx_self]
      · exact hv
      · exact .inr rfl
    · have hkept : (if (s.ctx d).valid then s.haltCtx d else s).ctx c = s.ctx c := by
        split
        · exact s.haltCtx_ctx_ne hd
        · rfl
      apply ih <;> rw [hkept]
      · exact hv
      · exact h.imp_left fun hm => (List.mem_cons.1 hm).resolve_left hd

/-- Every accepted command is lost, and its mailbox given back. -/
def State.dropCommands (s : State) : State := (List.range 64).foldl (fun s m => s.modMbox m fun b => { b with cmd := none, own := false }) s

theorem State.dropCommands_mem (s : State) : s.dropCommands.mem = s.mem := by
  unfold State.dropCommands
  exact foldl_keeps State.mem (fun t m => t.modMbox_mem m _) _ _
theorem State.dropCommands_ctx (s : State) (c : Nat) : s.dropCommands.ctx c = s.ctx c := by
  unfold State.dropCommands
  exact foldl_keeps (fun t : State => t.ctx c) (fun t m => t.modMbox_ctx m _ c) _ _

/-- KIND 1: the hub is RESETTING, memory is as it was, and every context is halted. -/
theorem State.resetContexts_effect (s : State) :
    let u := s.resetContexts
    u.hubState = 6 ∧ u.mem = s.mem ∧ ∀ c : CtxId, (s.ctx c).valid = true → (u.ctx c).halted = true := by
  have hreset : s.resetContexts = (s.dropCommands.haltAll (List.range 8)).goHub 6 := rfl
  dsimp only
  rw [hreset]
  refine ⟨?_, ?_, fun c hv => ?_⟩
  · rw [State.hubState, State.field, State.goHub, State.setField, State.reg_setReg_self]
    exact (wbits_wput_self _ _ (by decide) (by decide)).trans (by decide)
  · rw [State.goHub, State.setField_mem, State.haltAll_mem, State.dropCommands_mem]
  · rw [State.goHub, State.setField_ctx]
    exact State.haltAll_halted _ _ (by rw [State.dropCommands_ctx]; exact hv) (.inl (List.mem_range.2 c.isLt))

section
variable {s : State} {m : Nat} {a : Accepted} (h : s.serves m 0xA0 a)
include h

theorem State.resetCmd_module (hk : a.at_ 0 1 = 0) : s.resetCmd m = (s.answer m a 0 []).resetModule := by
  rw [State.resetCmd, State.serve_of_serves h, hk]
  rfl
theorem State.resetCmd_contexts (hk : a.at_ 0 1 = 1) : s.resetCmd m = (s.answer m a 0 []).resetContexts := by
  rw [State.resetCmd, State.serve_of_serves h, hk]
  rfl
theorem State.resetCmd_refused (hk : 1 < a.at_ 0 1) : s.resetCmd m = s.answer m a 0x19 [] := by
  rw [State.resetCmd, State.serve_of_serves h]
  split
  · omega
  · omega
  · rfl
end

/-! ### The statement -/

/-- Settles O49: each command is served by one lemma above, a refusal and an effect where there are both. -/
theorem moduleCommandsTakeEffect : Obligations.ModuleCommandsTakeEffect := by
  unfold Obligations.ModuleCommandsTakeEffect
  intro m s a
  refine ⟨fun h => ?_, fun h => ?_, fun h => ⟨fun hno => ?_, fun hm hc => ?_, fun d hd => ?_⟩, fun h => ?_,
    fun h => ⟨fun hn => ?_, fun hn => ?_, fun hlo hhi => ⟨_, exec_fuseProgram m s, ?_⟩⟩,
    fun h => ⟨fun hb => ?_, fun hb => ⟨_, exec_setBudget m s, State.setBudget_effect h hb⟩⟩,
    fun h => ⟨fun hr => ?_, fun hr hn => ⟨_, exec_routeSet m s, State.routeSet_effect h hr hn⟩⟩,
    fun c h ho => ⟨fun hb => ?_, fun hb => ⟨_, exec_rindArm m s, State.rindArmCmd_arms h ho hb⟩,
      fun hsrc hcur => ⟨_, exec_rindArm m s, State.rindArmCmd_triggers h ho hsrc hcur⟩⟩,
    fun h => ⟨fun hk => ⟨_, exec_reset m s, ?_⟩, fun hk => ⟨_, exec_reset m s, ?_⟩, fun hk => ?_⟩⟩
  · rw [exec_getInfo, State.getInfo_served h]
  · rw [exec_getFeatures, State.getFeatures_served h]
  · rw [exec_getLedger, State.getLedger_refused h hno]
  · rw [exec_getLedger, State.getLedger_idle h hm hc]
    rfl
  · rw [exec_getLedger, State.getLedger_context (d := d) h]
    · rfl
    · obtain ⟨hm, rfl, hc⟩ | hd := hd
      · exact .inl ⟨hm, rfl, hc⟩
      · exact .inr hd
  · rw [exec_fuseRead, State.fuseRead_served h]
  · rw [exec_fuseProgram, State.fuseProgram_served h, if_pos hn]
  · rw [exec_fuseProgram, State.fuseProgram_served h, if_neg (by omega), if_pos hn]
  · rw [State.fuseProgram_served h, if_neg (by omega), if_neg (by omega), State.answer_mem, State.answer_fuse]
    refine ⟨rfl, State.fuse_programFuse_self _ _ _, fun j hj => ?_⟩
    rw [State.answer_fuse, State.fuse_programFuse_ne _ _ hj]
  · rw [exec_setBudget, State.setBudget_refused h hb]
  · rw [exec_routeSet, State.routeSet_refused h hr]
  · rw [exec_rindArm, State.rindArmCmd_refused h ho hb]
  · have heffect := (s.answer m a 0 []).resetModule_effect
    simpa only [State.resetCmd_module h hk, State.answer_clk, State.answer_pending, State.answer_mem] using heffect
  · have heffect := (s.answer m a 0 []).resetContexts_effect
    simpa only [State.resetCmd_contexts h hk, State.answer_mem, State.answer_ctx] using heffect
  · rw [exec_reset, State.resetCmd_refused h hk]

end Sys2Proof.Machine
end

section
/-!
PROOFS. FLOW_CLOSE of a reduction flow (R210, R223): it frees the flow's slab, and where the slab lies in the cave its bytes change by
it, which O50 denies.
-/
namespace Sys2Proof.Machine

/-- FLOW_CLOSE of flow 0. -/
def closeFlowZero : Accepted := { fn := 0, seq := 1, tick := 0, op := 0x61, payload := leBytes 4 0, counter := 0, key := none }

/-- An open ring reduction of context 0 in INT8, its slab at the start of the cave. -/
def caveSlabFlow : Flow :=
  { st := .opened, kind := 2, ctx := 0, vc := 1, slots := 1, red := some { cfg :=
    { coll := 0, tree := false, int16 := false, fp32 := false, g := 2, rank := 0, members := 0, tensor := 1, normId := 0xFF, ibase := 0,
      slots := 1, count := 32, headroom := 0, decay := 0, haltPoison := false, x0 := 0, src := stackBase, res := stackBase + 64,
      scale := stackBase + 128, start := hubBase, step0 := 0, root := 0, ids := [1, 2], parents := [], slab := caveBase, crc := 0 } } }

/-- Context 0 has mailbox 5, which holds that command. A byte of the slab is 1. -/
def caveSlabState : State :=
  let s := State.reset.setCtx 0 { valid := true, first := 0, count := 1 }
  let s := s.modMbox 5 fun b => { b with owner := some 0, own := true, cmd := some closeFlowZero }
  (s.setFlow 0 caveSlabFlow).put caveBase [1] false

theorem exec_flowClose (m : MboxId) (s : State) : exec (.flowClose m) s = .next (s.flowClose m) := by rfl

theorem caveSlabState_serves : caveSlabState.serves 5 0x61 closeFlowZero := by
  unfold State.serves
  decide +kernel

/-- Closing the flow frees the slab, and the byte reads 0 from then on (R156, R257). -/
theorem caveSlabState_flowClose_clears :
    Mem.read caveSlabState.mem caveBase = 1 ∧ Mem.read (caveSlabState.flowClose 5).mem caveBase = 0 := by
  decide +kernel

/-- Refutes O50: FLOW_CLOSE keeps memory as it was only while the slab of a reduction flow lies outside the cave. Closing the flow frees
the slab's granules, and freed granules of the cave read zero (`State.forgetScratch`). The clause speaks of every state and asks only that
no frame waits to land; it has no hypothesis on where the slab lies. FLOW_OPEN takes a slab from the hub cache, where freeing it
changes no byte. -/
theorem not_contextCommandsTakeEffect : ¬ Obligations.ContextCommandsTakeEffect := by
  unfold Obligations.ContextCommandsTakeEffect
  intro h
  obtain ⟨-, -, -, hclose, -⟩ := h 5 none [] caveSlabState closeFlowZero 0 (by decide +kernel)
  obtain ⟨-, heffect⟩ := hclose caveSlabState_serves
  obtain ⟨u, hu, hmem, -⟩ := heffect (by decide +kernel) (by decide +kernel) (by decide +kernel) (by decide +kernel)
  rw [exec_flowClose] at hu
  cases hu
  have hkept := hmem (by decide +kernel) (by decide +kernel)
  obtain ⟨hbefore, hafter⟩ := caveSlabState_flowClose_clears
  rw [← hkept] at hbefore
  exact absurd (hafter.symm.trans hbefore) (by decide)

end Sys2Proof.Machine
end

section
/-!
PROOFS. The lanes of a vector register, and the INT32 operations on them (R105): a lane of a result is the lane operation on that lane of
each source, and the lane operation is arithmetic of 32-bit words.
-/
namespace Sys2Proof.Machine

/-! ### Lanes of a register -/

/-- Lane `i` of a number packed from lanes of `w` bits; beyond the last lane it is 0. -/
theorem packLanes_div_mod (w : Nat) (cs : List Nat) (i : Nat) :
    cs.foldr (fun c a => c % 2 ^ w + 2 ^ w * a) 0 / 2 ^ (w * i) % 2 ^ w = cs.getD i 0 % 2 ^ w := by
  induction cs generalizing i with
  | nil => simp
  | cons c cs ih =>
    rw [List.foldr_cons]
    cases i with
    | zero => simp
    | succ i =>
      have hlane : c % 2 ^ w / 2 ^ w = 0 := Nat.div_eq_of_lt (Nat.mod_lt _ (Nat.two_pow_pos w))
      rw [Nat.mul_succ, Nat.add_comm (w * i), Nat.pow_add, ← Nat.div_div_eq_div_mul, Nat.add_mul_div_left _ _ (Nat.two_pow_pos w), hlane,
        Nat.zero_add, ih, List.getD_cons_succ]

theorem ofNat_extractLsb' {m k w : Nat} (v : Nat) (h : k + w ≤ m) :
    (BitVec.ofNat m v).extractLsb' k w = BitVec.ofNat w (v / 2 ^ k) := by
  apply BitVec.eq_of_toNat_eq
  obtain ⟨d, rfl⟩ := Nat.exists_eq_add_of_le h
  rw [BitVec.extractLsb'_toNat, Nat.shiftRight_eq_div_pow, BitVec.toNat_ofNat, BitVec.toNat_ofNat, Nat.add_assoc, Nat.pow_add,
    Nat.mod_mul_right_div_self, Nat.mod_mod_of_dvd _ (Nat.pow_dvd_pow 2 (Nat.le_add_right w d))]

/-- Reading a lane of a packed register. -/
theorem regOfLanes_extractLsb' {w i : Nat} (cs : List Nat) (h : w * i + w ≤ 4096) :
    (regOfLanes w cs).extractLsb' (w * i) w = BitVec.ofNat w (cs.getD i 0) := by
  apply BitVec.eq_of_toNat_eq
  rw [regOfLanes, ofNat_extractLsb' _ h, BitVec.toNat_ofNat, BitVec.toNat_ofNat, packLanes_div_mod]

theorem regLanes_getElem? {w n i : Nat} (r : BitVec 4096) (h : i < n) :
    (regLanes w n r)[i]? = some (r.extractLsb' (w * i) w).toNat := by
  rw [regLanes, List.getElem?_map, List.getElem?_range h, Option.map_some, BitVec.extractLsb'_toNat, Nat.shiftRight_eq_div_pow]

/-- A lane of an INT32 result is a function of the same lane of each source. -/
theorem VOp.apply_int32_lane (o : VOp) (a b c : BitVec 4096) {i : Nat} (h : i < 128) :
    (o.apply .int32 a b c).extractLsb' (32 * i) 32 = BitVec.ofNat 32 (o.intLane (a.extractLsb' (32 * i) 32).toNat
      (b.extractLsb' (32 * i) 32).toNat (c.extractLsb' (32 * i) 32).toNat) := by
  have happly : o.apply .int32 a b c = regOfLanes 32 (((regLanes 32 128 a).zip ((regLanes 32 128 b).zip (regLanes 32 128 c))).map
    fun p => o.intLane p.1 p.2.1 p.2.2) := rfl
  rw [happly, regOfLanes_extractLsb' _ (by omega)]
  simp only [List.getD_eq_getElem?_getD, List.getElem?_map, List.zip_eq_zipWith, List.getElem?_zipWith,
    regLanes_getElem? _ h, Option.map_some, Option.getD_some]

/-! ### The lane operations -/

theorem sint_toNat (x : BitVec 32) : sint 32 x.toNat = x.toInt := by
  have hx := x.isLt
  rw [sint, Nat.mod_eq_of_lt hx, BitVec.toInt_eq_toNat_cond]
  split <;> split <;> omega

section
variable (x y z : BitVec 32)

theorem VOp.intLane_add : BitVec.ofNat 32 (VOp.add.intLane x.toNat y.toNat z.toNat) = x + y := by
  apply BitVec.eq_of_toNat_eq
  simp [VOp.intLane]
theorem VOp.intLane_sub : BitVec.ofNat 32 (VOp.sub.intLane x.toNat y.toNat z.toNat) = x - y := by
  apply BitVec.eq_of_toNat_eq
  rw [VOp.intLane, BitVec.toNat_ofNat, Nat.mod_mod, BitVec.toNat_sub, Nat.add_comm, Nat.sub_add_comm (Nat.le_of_lt y.isLt)]
theorem VOp.intLane_mul : BitVec.ofNat 32 (VOp.mul.intLane x.toNat y.toNat z.toNat) = x * y := by
  apply BitVec.eq_of_toNat_eq
  simp [VOp.intLane]

/-- A lane operation that chooses one of its operands. -/
theorem ofNat_ite_toNat (p : Prop) [Decidable p] : BitVec.ofNat 32 (if p then x.toNat else y.toNat) = if p then x else y := by
  rw [apply_ite (BitVec.ofNat 32), BitVec.ofNat_toNat, BitVec.ofNat_toNat, BitVec.setWidth_eq, BitVec.setWidth_eq]

theorem VOp.intLane_max :
    BitVec.ofNat 32 (VOp.max.intLane x.toNat y.toNat z.toNat) = if x.toInt ≤ y.toInt then y else x := by
  rw [VOp.intLane, sint_toNat, sint_toNat, ofNat_ite_toNat]
theorem VOp.intLane_min :
    BitVec.ofNat 32 (VOp.min.intLane x.toNat y.toNat z.toNat) = if x.toInt ≤ y.toInt then x else y := by
  rw [VOp.intLane, sint_toNat, sint_toNat, ofNat_ite_toNat]
theorem VOp.intLane_sel :
    BitVec.ofNat 32 (VOp.sel.intLane x.toNat y.toNat z.toNat) = if z.toInt < 0 then y else x := by
  rw [VOp.intLane, sint_toNat, ofNat_ite_toNat, ← ite_not]
  simp only [Int.not_le]
end

/-! ### The statement -/

/-- Settles O22: a lane of the result is the lane operation on its own lanes, and each lane operation is one on 32-bit words. -/
theorem int32LanesAreModular : Obligations.Int32LanesAreModular := by
  unfold Obligations.Int32LanesAreModular
  intro a b c i hi x y z
  simp only [VOp.apply_int32_lane _ a b c hi]
  exact ⟨VOp.intLane_add x y z, VOp.intLane_sub x y z, VOp.intLane_mul x y z, VOp.intLane_max x y z, VOp.intLane_min x y z,
    VOp.intLane_sel x y z⟩

end Sys2Proof.Machine
end

section
/-!
PROOFS. The side doors of a cluster: HRP_SIDE_DATA and STR_LIST_DATA as they read, and as they are written (R132, R187).
-/
namespace Sys2Proof.Machine

/-! ### Reading -/

/-- The word of a store entry is 64 of its bits. -/
theorem State.storeWord_eq_extractLsb' (s : State) (k e w : Nat) :
    s.storeWord k e w = (AMap.get (s.cluster k).store 0 e).extractLsb' (64 * w) 64 := by
  apply BitVec.eq_of_toNat_eq
  rw [State.storeWord, BitVec.toNat_ofNat, BitVec.extractLsb'_toNat, Nat.shiftRight_eq_div_pow]

theorem State.read_strListData (s : State) (k : Nat) : s.read .strListData [k] =
    (AMap.get (s.cluster k).store 0 (s.field .strListAddr [k] 15 0)).extractLsb' (64 * s.field .strListAddr [k] 19 18) 64 :=
  s.storeWord_eq_extractLsb' _ _ _

theorem State.read_hrpSideData (s : State) (k : Nat) : s.read .hrpSideData [k] =
    (AMap.get (s.cluster k).records {} (s.field .hrpSideAddr [k] 16 0)).word (s.field .hrpSideAddr [k] 19 18) := rfl

/-- The two bits that select a word hold less than 4. -/
theorem State.field_select_lt_four (s : State) (n : RegName) (i : List Nat) : s.field n i 19 18 < 4 :=
  Nat.mod_lt _ (by decide)

/-! ### Whether a write is taken -/

theorem State.clusterRuns_iff (s : State) (k : Nat) : s.clusterRuns k = true ↔
    ∃ j, j < 4 ∧ ((s.core (4 * k + j)).st = .running ∨ (s.core (4 * k + j)).st = .frozen) := by
  simp only [State.clusterRuns, List.any_eq_true, List.mem_range, Core.live_iff]

/-! ### A cluster that has been changed -/

theorem State.onlyCluster_modCluster (s : State) (k : Nat) (f : Cluster → Cluster) : s.onlyCluster (s.modCluster k f) k := by
  rw [State.onlyCluster, State.modCluster, State.cluster_setCluster_self]
theorem State.cluster_modCluster_self (s : State) (k : Nat) (f : Cluster → Cluster) : (s.modCluster k f).cluster k = f (s.cluster k) :=
  State.cluster_setCluster_self s k _

theorem State.read_strListData_modCluster (s : State) (k : Nat) (f : Cluster → Cluster) : (s.modCluster k f).read .strListData [k] =
    (AMap.get (f (s.cluster k)).store 0 (s.field .strListAddr [k] 15 0)).extractLsb' (64 * s.field .strListAddr [k] 19 18) 64 := by
  rw [State.read_strListData, State.cluster_modCluster_self]; rfl
theorem State.read_hrpSideData_modCluster (s : State) (k : Nat) (f : Cluster → Cluster) : (s.modCluster k f).read .hrpSideData [k] =
    (AMap.get (f (s.cluster k)).records {} (s.field .hrpSideAddr [k] 16 0)).word (s.field .hrpSideAddr [k] 19 18) := by
  rw [State.read_hrpSideData, State.cluster_modCluster_self]; rfl

/-! ### A word of a harp record -/

/-- A word made of two halves. -/
theorem word_halves (v : BitVec 64) : word [(wbits v 63 32, 32), (wbits v 31 0, 0)] = v := by
  apply BitVec.eq_of_toNat_eq
  have hv := v.isLt
  simp only [word, wbits, bits, List.foldl_cons, List.foldl_nil, BitVec.toNat_ofNat]
  omega

/-- The top bit of a word, as the number that its field is. -/
theorem b2n_wbits_top (v : BitVec 64) : b2n (wbits v 63 63 == 1) = v.toNat / 2 ^ 63 := by
  have hfield : wbits v 63 63 = v.toNat / 2 ^ 63 := Nat.mod_eq_of_lt (Nat.div_lt_of_lt_mul v.isLt)
  have hbit : v.toNat / 2 ^ 63 < 2 := Nat.div_lt_of_lt_mul v.isLt
  rw [hfield]
  generalize v.toNat / 2 ^ 63 = b at hbit
  match b, hbit with
  | 0, _ => rfl
  | 1, _ => rfl

/-- POISON and COUNT are what a record keeps of its last word. -/
theorem word_poison_count (v : BitVec 64) : word [(b2n (wbits v 63 63 == 1), 63), (wbits v 24 0, 0)] = v &&& 0x8000000001FFFFFF := by
  have hmask : ∀ i < 64, BitVec.getLsbD (0x8000000001FFFFFF : BitVec 64) i = decide (i < 25 ∨ i = 63) := by decide
  have hcount : wbits v 24 0 = v.toNat % 2 ^ 25 := by rw [wbits, bits, Nat.pow_zero, Nat.div_one]
  have hword : word [(b2n (wbits v 63 63 == 1), 63), (wbits v 24 0, 0)] =
      BitVec.ofNat 64 (2 ^ 63 * (v.toNat / 2 ^ 63) + v.toNat % 2 ^ 25) := by
    rw [b2n_wbits_top, hcount]
    simp only [word, List.foldl_cons, List.foldl_nil, Nat.zero_add, Nat.pow_zero, Nat.mul_one]
    rw [Nat.mul_comm]
  apply BitVec.eq_of_getLsbD_eq
  intro i hi
  rw [BitVec.getLsbD_and, hmask i hi, hword, BitVec.getLsbD_ofNat, Nat.testBit_two_pow_mul_add _ (by omega), Nat.testBit_mod_two_pow,
    Nat.testBit_div_two_pow, BitVec.getLsbD]
  by_cases htop : i = 63
  · subst htop; simp
  · rw [if_pos (by omega)]
    simp [hi, htop, Bool.and_comm]

theorem HarpRec.word_setWord (r : HarpRec) (v : BitVec 64) {i : Nat} (h : i < 4) :
    (r.setWord i v).word i = if i = 3 then v &&& 0x8000000001FFFFFF else v :=
  match i, h with
  | 0, _ => word_halves v
  | 1, _ => word_halves v
  | 2, _ => word_halves v
  | 3, _ => word_poison_count v

/-! ### A word of a store entry -/

/-- An entry of the descriptor store with word `w` replaced. -/
def putEntryWord (old : BitVec 256) (w : Nat) (v : BitVec 64) : BitVec 256 :=
  BitVec.ofNat 256 (old.toNat % 2 ^ (64 * w) + v.toNat * 2 ^ (64 * w) + old.toNat / 2 ^ (64 * w + 64) * 2 ^ (64 * w + 64))

/-- Its bits: those of the new word in their place, and the old ones below and above. -/
theorem getLsbD_putEntryWord (old : BitVec 256) (w : Nat) (v : BitVec 64) {i : Nat} (hi : i < 256) :
    (putEntryWord old w v).getLsbD i = if i < 64 * w then old.getLsbD i else
      if i < 64 * w + 64 then v.getLsbD (i - 64 * w) else old.getLsbD i := by
  have hparts : old.toNat % 2 ^ (64 * w) + v.toNat * 2 ^ (64 * w) + old.toNat / 2 ^ (64 * w + 64) * 2 ^ (64 * w + 64) =
      2 ^ (64 * w) * (2 ^ 64 * (old.toNat / 2 ^ (64 * w + 64)) + v.toNat) + old.toNat % 2 ^ (64 * w) := by
    rw [Nat.mul_add, ← Nat.mul_assoc, ← Nat.pow_add, Nat.mul_comm v.toNat, Nat.mul_comm (_ / _), Nat.add_assoc,
      Nat.add_comm (_ % _), Nat.add_comm (_ * v.toNat)]
  rw [putEntryWord, BitVec.getLsbD_ofNat, hparts, Nat.testBit_two_pow_mul_add _ (Nat.mod_lt _ (Nat.two_pow_pos _)),
    Nat.testBit_two_pow_mul_add _ v.isLt, Nat.testBit_mod_two_pow, Nat.testBit_div_two_pow]
  simp only [hi, decide_true, Bool.true_and, BitVec.getLsbD]
  by_cases hbelow : i < 64 * w
  · rw [if_pos hbelow, if_pos hbelow, decide_eq_true hbelow, Bool.true_and]
  · rw [if_neg hbelow, if_neg hbelow]
    by_cases hin : i < 64 * w + 64
    · rw [if_pos hin, if_pos (by omega)]
    · rw [if_neg hin, if_neg (by omega), show i - 64 * w - 64 + (64 * w + 64) = i by omega]

theorem extractLsb'_putEntryWord_self (old : BitVec 256) {w : Nat} (v : BitVec 64) (hw : w < 4) :
    (putEntryWord old w v).extractLsb' (64 * w) 64 = v := by
  apply BitVec.eq_of_getLsbD_eq
  intro i hi
  rw [BitVec.getLsbD_extractLsb', getLsbD_putEntryWord _ _ _ (by omega), if_neg (by omega), if_pos (by omega), Nat.add_sub_cancel_left]
  simp [hi]

theorem extractLsb'_putEntryWord_ne (old : BitVec 256) {w x : Nat} (v : BitVec 64) (hx : x < 4) (h : x ≠ w) :
    (putEntryWord old w v).extractLsb' (64 * x) 64 = old.extractLsb' (64 * x) 64 := by
  apply BitVec.eq_of_getLsbD_eq
  intro i hi
  have hbit : (putEntryWord old w v).getLsbD (64 * x + i) = old.getLsbD (64 * x + i) := by
    rw [getLsbD_putEntryWord _ _ _ (by omega)]
    split
    · rfl
    · rw [if_neg (by omega)]
  rw [BitVec.getLsbD_extractLsb', BitVec.getLsbD_extractLsb', hbit]

/-! ### The two writes -/

section
variable {s : State} {k : ClusterId} (v : Word) (hl : s.linked = true)
include hl

theorem exec_harpSideWrite : exec (.harpSideWrite k v) s = .next (s.sideWrite k v) := by
  have hrow : exec (.harpSideWrite k v) s = .next (s.hosted fun s => s.sideWrite k v) := by rfl
  rw [hrow, State.hosted_of_linked hl]

theorem exec_streamListWrite : exec (.streamListWrite k v) s = .next (s.listWrite k v) := by
  have hrow : exec (.streamListWrite k v) s = .next (s.hosted fun s => s.listWrite k v) := by rfl
  rw [hrow, State.hosted_of_linked hl]
end

section
variable {s : State} {k : Nat} (v : BitVec 64)

theorem State.sideWrite_refused (h : s.clusterRuns k = true) : s.sideWrite k v = s.setField .hrpSideAddr [k] 20 20 1 := if_pos h
theorem State.listWrite_refused (h : s.clusterRuns k = true) : s.listWrite k v = s.setField .strListAddr [k] 20 20 1 := if_pos h

/-- The cluster with the selected word of the selected record written. -/
theorem State.sideWrite_taken (h : ¬ s.clusterRuns k = true) : s.sideWrite k v = s.modCluster k fun q =>
    { q with
      records := AMap.set q.records (s.field .hrpSideAddr [k] 16 0)
        ((AMap.get q.records {} (s.field .hrpSideAddr [k] 16 0)).setWord (s.field .hrpSideAddr [k] 19 18) v) } := if_neg h

/-- The cluster with the selected word of the selected entry written. -/
theorem State.listWrite_taken (h : ¬ s.clusterRuns k = true) : s.listWrite k v = s.modCluster k fun q =>
    { q with
      store := AMap.set q.store (s.field .strListAddr [k] 15 0)
        (putEntryWord (AMap.get q.store 0 (s.field .strListAddr [k] 15 0)) (s.field .strListAddr [k] 19 18) v) } := if_neg h
end

/-- HARP_SIDE_WRITE that is taken: the word reads back, and every other record is as it was. -/
theorem State.sideWrite_effect {s : State} {k : Nat} (v : BitVec 64) (h : ¬ s.clusterRuns k = true) :
    s.onlyCluster (s.sideWrite k v) k ∧
      (s.sideWrite k v).read .hrpSideData [k] = (if s.field .hrpSideAddr [k] 19 18 = 3 then v &&& 0x8000000001FFFFFF else v) ∧
      ∀ j, j ≠ s.field .hrpSideAddr [k] 16 0 →
        AMap.get ((s.sideWrite k v).cluster k).records {} j = AMap.get (s.cluster k).records {} j := by
  rw [State.sideWrite_taken v h]
  refine ⟨s.onlyCluster_modCluster k _, ?_, fun j hj => ?_⟩
  · rw [State.read_hrpSideData_modCluster, AMap.get_set_self]
    exact HarpRec.word_setWord _ _ (s.field_select_lt_four _ _)
  · rw [State.cluster_modCluster_self, AMap.get_set_ne _ _ _ hj]

/-- STREAM_LIST_WRITE that is taken: the word reads back, and every other entry and every other word of its entry is as it was. -/
theorem State.listWrite_effect {s : State} {k : Nat} (v : BitVec 64) (h : ¬ s.clusterRuns k = true) :
    let e := s.field .strListAddr [k] 15 0
    let w := s.field .strListAddr [k] 19 18
    let old := (s.cluster k).store
    let new := ((s.listWrite k v).cluster k).store
    s.onlyCluster (s.listWrite k v) k ∧ (s.listWrite k v).read .strListData [k] = v ∧
      (∀ j, j ≠ e → AMap.get new 0 j = AMap.get old 0 j) ∧
      ∀ x, x < 4 → x ≠ w → (AMap.get new 0 e).extractLsb' (64 * x) 64 = (AMap.get old 0 e).extractLsb' (64 * x) 64 := by
  dsimp only
  rw [State.listWrite_taken v h]
  refine ⟨s.onlyCluster_modCluster k _, ?_, fun j hj => ?_, fun x hx hw => ?_⟩
  · rw [State.read_strListData_modCluster, AMap.get_set_self]
    exact extractLsb'_putEntryWord_self _ _ (s.field_select_lt_four _ _)
  · rw [State.cluster_modCluster_self, AMap.get_set_ne _ _ _ hj]
  · rw [State.cluster_modCluster_self, AMap.get_set_self]
    exact extractLsb'_putEntryWord_ne _ _ hx hw

/-- Settles O56: the reads are the views of the two words, a write is refused by what `clusterRuns` says, and else has its effect. -/
theorem sideDoorsOfACluster : Obligations.SideDoorsOfACluster := by
  unfold Obligations.SideDoorsOfACluster
  intro k v s
  simp only [← State.clusterRuns_iff]
  refine ⟨s.read_strListData k, s.read_hrpSideData k, fun hl hruns => ?_, fun hl hrests =>
    ⟨⟨_, exec_harpSideWrite v hl, State.sideWrite_effect v hrests⟩, ⟨_, exec_streamListWrite v hl, State.listWrite_effect v hrests⟩⟩⟩
  rw [exec_harpSideWrite v hl, exec_streamListWrite v hl, State.sideWrite_refused v hruns, State.listWrite_refused v hruns]
  exact ⟨rfl, rfl⟩

end Sys2Proof.Machine
end

section
/-!
PROOFS. HARP_COMMAND_COMPLETE of a ROWGRAD whose MODE is none of those that R123 lists.
-/
namespace Sys2Proof.Machine

/-- One element of FP32 at the start of cluster memory, masked: Q[QPOS] is above Q[QQ] (R126). -/
def maskedElement : RowRef :=
  { base := 0, estride := 4, len := 1, fmt := .fp32, rows := 1, stat := 0, qpos := 1, qq := 0, causal := true, eps := 0, oscale := 0 }

/-- A ROWGRAD of it in MODE 8. -/
def unlistedRowgrad : HarpQ :=
  { port := 0, core := 0, start := 0, ready := some 0, step := 0,
    cmd := { op := 2, mode := 8, d1 := maskedElement, d2 := none, r := 0, key := none, flag := 0 } }

/-- The harp of cluster 0 at the last beat of that command. The first byte of the element is 1. -/
def unlistedState : State := (State.reset.setCluster 0 { harpCur := some (unlistedRowgrad, 0) }).put (clusterAddr 0 0) [1] false

theorem exec_harpCommandComplete (k : ClusterId) (s : State) : exec (.harpCommandComplete k) s = .next (s.harpComplete k) := by rfl

/-- The command writes its masked element as 0 (R126). -/
theorem unlistedState_harpComplete_writes : Mem.read unlistedState.mem (clusterAddr 0 0) = 1 ∧
    Mem.read (unlistedState.harpComplete 0).mem (clusterAddr 0 0) = 0 := by
  decide +kernel

theorem unlistedState_runs : (unlistedState.cluster 0).harpCur = some (unlistedRowgrad, 0) ∧ unlistedState.regionStopped 0 = false ∧
    unlistedState.mem.wf = true := by
  decide +kernel

/-- Refutes O33: HARP_COMMAND_COMPLETE does not keep memory as it was outside the rows of `HarpCmd.outputs` in every state. The
clause speaks of every command at the harp and asks nothing of its MODE. A ROWGRAD of MODE 8 has no outputs by `HarpCmd.outputs`, which
lists those of MODE 4 to 6, while `State.harpRow` writes a row for every MODE above 3 but 7. No core hands such a command over: R123 refuses
a MODE that its table does not list, and `DecEnv.harp` decodes none. What the clause lacks is that hypothesis. -/
theorem not_harpCommandsRunInOrder : ¬ Obligations.HarpCommandsRunInOrder := by
  unfold Obligations.HarpCommandsRunInOrder
  rintro ⟨-, hcomplete⟩
  obtain ⟨hcur, hclock, hwf⟩ := unlistedState_runs
  obtain ⟨-, hends⟩ := hcomplete 0 unlistedState unlistedRowgrad 0 hcur
  obtain ⟨u, hu, -, -, -, -, hrows, -⟩ := hends (Nat.zero_le _) hclock
  rw [exec_harpCommandComplete] at hu
  cases hu
  have hoff : ∀ o ∈ unlistedRowgrad.cmd.outputs, clusterAddr 0 0 < clusterAddr 0 o.1 ∨
      clusterAddr 0 o.1 + maskedElement.rows * o.2 ≤ clusterAddr 0 0 := List.forall_mem_nil _
  have hkept := hrows (by decide) rfl hwf _ hoff
  obtain ⟨hbefore, hafter⟩ := unlistedState_harpComplete_writes
  rw [← hkept] at hbefore
  exact absurd (hafter.symm.trans hbefore) (by decide)

end Sys2Proof.Machine
end

section
/-!
PROOFS. Accesses of tier space by a requester that is no stream: what they leave as it was, when they pass at once or wait at a
regulator, and what a write that passes at once leaves in memory (R157, R167).
-/
namespace Sys2Proof.Machine

/-! ### What accesses leave as it was -/

/-- Who has a granule, its partition, and the unit in which it resides. -/
def Gran.place (x : Gran) : Option Nat × Nat × Nat := (x.owner, x.part, x.at_)

/-- `t` differs from `s` at most in what accesses by the ripeners change: bytes and their marks, the update streams, the stamps, counts
and parities of granules, and what waits at the regulators. -/
def State.accessOnly (s t : State) : Prop :=
  t = { s with
    mem := t.mem
    bad := t.bad
    dev := { s.dev with
      clm := t.dev.clm
      rips := t.dev.rips
      memS := { s.dev.memS with grans := t.dev.memS.grans, moves := t.dev.memS.moves, regQ := t.dev.memS.regQ } } } ∧
  ∀ g, (t.gran g).map Gran.place = (s.gran g).map Gran.place

theorem State.accessOnly_refl (s : State) : s.accessOnly s := ⟨rfl, fun _ => rfl⟩

theorem State.accessOnly.trans {s t u : State} (h : s.accessOnly t) (k : t.accessOnly u) : s.accessOnly u := by
  obtain ⟨h1, h2⟩ := h
  obtain ⟨k1, k2⟩ := k
  refine ⟨?_, fun g => (k2 g).trans (h2 g)⟩
  rw [k1, h1]

section
variable {s t : State} (h : s.accessOnly t)
include h
theorem State.accessOnly.ctx (c : Nat) : t.ctx c = s.ctx c := by rw [h.1]; rfl
theorem State.accessOnly.reg (n : RegName) (i : List Nat) : t.reg n i = s.reg n i := by rw [h.1]; rfl
theorem State.accessOnly.flow (f : Nat) : t.flow f = s.flow f := by rw [h.1]; rfl
theorem State.accessOnly.regionStopped (r : Nat) : t.regionStopped r = s.regionStopped r := by rw [h.1]; rfl
theorem State.accessOnly.unreg (c p : Nat) : t.unreg c p = s.unreg c p := by rw [h.1]; rfl
theorem State.accessOnly.space (a : Nat) : t.space a = s.space a := by rw [h.1]; rfl
theorem State.accessOnly.heldBack (c : Nat) (r : RipS) (a n : Nat) : t.heldBack c r a n = s.heldBack c r a n := by rw [h.1]; rfl

/-- With the same requests at the regulators, the same waiters wait. -/
theorem State.accessOnly.waits (hq : t.dev.memS.regQ = s.dev.memS.regQ) (w : Waiter) : t.waits w = s.waits w := by
  rw [h.1, hq]; rfl

/-- A granule is in both states or in neither, with one owner, one partition and one residence. -/
theorem State.accessOnly.gran_cases (g : Nat) : (s.gran g = none ∧ t.gran g = none) ∨
    ∃ x y, s.gran g = some x ∧ t.gran g = some y ∧ y.owner = x.owner ∧ y.part = x.part ∧ y.at_ = x.at_ := by
  have hplace := h.2 g
  cases hs : s.gran g with
  | none =>
    rw [hs] at hplace
    exact .inl ⟨rfl, Option.map_eq_none_iff.1 hplace⟩
  | some x =>
    rw [hs] at hplace
    obtain ⟨y, hy, hxy⟩ := Option.map_eq_some_iff.1 hplace
    simp only [Gran.place, Prod.mk.injEq] at hxy
    exact .inr ⟨x, y, rfl, hy, hxy⟩

theorem State.accessOnly.inCave (a : Nat) : t.inCave a = s.inCave a := by
  obtain ⟨hs, ht⟩ | ⟨x, y, hs, ht, -, -, hat⟩ := h.gran_cases (a / granBytes)
  · simp only [State.inCave, hs, ht]
  · simp only [State.inCave, hs, ht, hat]

theorem State.accessOnly.regulator (c a : Nat) : t.regulator c a = s.regulator c a := by
  obtain ⟨hs, ht⟩ | ⟨x, y, hs, ht, -, hpart, hat⟩ := h.gran_cases (a / granBytes)
  · simp only [State.regulator, hs, ht]
  · simp only [State.regulator, hs, ht, hpart, hat, h.unreg]

theorem State.accessOnly.reachGran (via : Option Nat) (c a : Nat) : t.reachGran via c a = s.reachGran via c a := by
  obtain ⟨hs, ht⟩ | ⟨x, y, hs, ht, howner, -, -⟩ := h.gran_cases (a / granBytes)
  · simp only [State.reachGran, h.space, h.ctx, hs, ht]
  · simp only [State.reachGran, h.space, h.ctx, hs, ht, howner]

theorem State.accessOnly.reach (c a n : Nat) : t.reach c a n = s.reach c a n := by
  simp only [State.reach, State.reachVia, h.reachGran]

theorem State.accessOnly.direct {c a n : Nat} (hd : s.direct c a n) : t.direct c a n := fun x hlo hhi => by
  rw [h.regulator, h.inCave]
  exact hd x hlo hhi
end

theorem State.accessOnly_modRip (s : State) (n c : Nat) (f : RipS → RipS) : s.accessOnly (s.modRip n c f) := by
  unfold State.modRip
  split
  · exact ⟨rfl, fun _ => rfl⟩
  · exact s.accessOnly_refl

/-- Storing a descriptor with the granule's place kept. -/
theorem State.accessOnly_setGran {s : State} {g : Nat} {x y : Gran} (hg : s.gran g = some x) (hp : y.place = x.place) :
    s.accessOnly (s.setGran g y) := by
  refine ⟨rfl, fun j => ?_⟩
  by_cases hj : j = g
  · subst hj
    rw [State.gran_setGran_self, hg, Option.map_some, Option.map_some, hp]
  · rw [State.gran_setGran_ne _ hj]

/-! ### Accesses that move no byte -/

/-- Nothing but stamps of granules, and perhaps requests at the regulators, has changed. -/
structure State.Passed (s t : State) : Prop where
  only : s.accessOnly t
  mem : t.mem = s.mem
  bad : t.bad = s.bad
  rips : t.dev.rips = s.dev.rips

theorem State.Passed.refl (s : State) : s.Passed s := ⟨s.accessOnly_refl, rfl, rfl, rfl⟩

theorem State.Passed.trans {s t u : State} (h : s.Passed t) (k : t.Passed u) : s.Passed u :=
  ⟨h.only.trans k.only, k.mem.trans h.mem, k.bad.trans h.bad, k.rips.trans h.rips⟩

/-- An access stamps its granule. -/
theorem State.touchGran_passed (s : State) (g : Nat) :
    s.Passed (s.touchGran g) ∧ (s.touchGran g).dev.memS.regQ = s.dev.memS.regQ := by
  unfold State.touchGran
  split
  · exact ⟨.refl s, rfl⟩
  · rename_i x hx
    dsimp only
    generalize (if (x.at_ != x.home) = true then min 15 (x.hits + 1) else 0) = hits
    have hstamp : s.Passed (s.setGran g { x with stamp := s.dev.memS.now, hits := hits }) :=
      ⟨State.accessOnly_setGran hx rfl, rfl, rfl, rfl⟩
    split
    · exact ⟨hstamp.trans ⟨⟨rfl, fun _ => rfl⟩, rfl, rfl, rfl⟩, rfl⟩
    · exact ⟨hstamp, rfl⟩

theorem State.touch_passed (s : State) (a n : Nat) : s.Passed (s.touch a n) ∧ (s.touch a n).dev.memS.regQ = s.dev.memS.regQ := by
  unfold State.touch
  refine List.foldlRecOn (motive := fun t => s.Passed t ∧ t.dev.memS.regQ = s.dev.memS.regQ) _ _ ⟨.refl s, rfl⟩ fun t ht g _ => ?_
  obtain ⟨hp, hq⟩ := t.touchGran_passed g
  exact ⟨ht.1.trans hp, hq.trans ht.2⟩

/-- The requests that one part of an access puts at the regulator of a partition. -/
def partRequests (c p : Nat) (w : Waiter) (act : Nat → Nat → RegAct) (g : Nat × Nat) : List RegReq :=
  (piecesOf g.1 g.2).map fun q => ⟨c, p, q.2, w, act q.1 (min (g.1 + g.2) (2048 * (q.1 / 2048 + 1)) - q.1)⟩

/-- One part of an access, as `State.regulate` takes it: it waits at its regulator, or is issued at once. -/
def State.regulatePart (c : Nat) (w : Waiter) (act : Nat → Nat → RegAct) (s : State) (g : Nat × Nat) : State :=
  match s.regulator c g.1 with
  | some p => s.modMem fun m => { m with regQ := m.regQ ++ partRequests c p w act g }
  | none => s.issue w g.1 (act g.1 g.2)

theorem State.regulate_eq (s : State) (c a n : Nat) (w : Waiter) (act : Nat → Nat → RegAct) :
    s.regulate c a n w act = (granParts a n).foldl (State.regulatePart c w act) s := rfl

theorem State.regulatePart_waits {s : State} {c p : Nat} {g : Nat × Nat} (h : s.regulator c g.1 = some p) (w : Waiter)
    (act : Nat → Nat → RegAct) : s.regulatePart c w act g =
      s.modMem fun m => { m with regQ := m.regQ ++ partRequests c p w act g } := by
  unfold State.regulatePart
  rw [h]

/-- A ripener's part that passes no regulator is performed, while the memory's region has its clock. -/
theorem State.regulatePart_direct {s : State} {c : Nat} {g : Nat × Nat} (h : s.regulator c g.1 = none)
    (hr : s.regionStopped 17 = false) (n d : Nat) (act : Nat → Nat → RegAct) :
    s.regulatePart c (.ripener n d) act g = s.perform (.ripener n d) (act g.1 g.2) := by
  unfold State.regulatePart
  rw [h]
  exact if_neg fun hi => by rw [hr] at hi; exact absurd hi.2 Bool.false_ne_true

theorem mem_granParts {a n : Nat} {g : Nat × Nat} (h : g ∈ granParts a n) : a ≤ g.1 ∧ g.1 < a + n ∧ g.1 + g.2 ≤ a + n := by
  unfold granParts at h
  obtain ⟨i, hi, rfl⟩ := List.mem_map.1 h
  have hn : 0 < n := by
    refine Nat.pos_of_ne_zero fun h0 => ?_
    simp [gransOf, h0] at hi
  obtain ⟨hlo, hhi⟩ := (mem_gransOf hn).1 hi
  dsimp only
  unfold granBytes at *
  omega

/-- Every byte of a range lies in one of its parts, in the granule of the part's first byte. -/
theorem granParts_cover {a n x : Nat} (hlo : a ≤ x) (hhi : x < a + n) :
    ∃ g ∈ granParts a n, g.1 ≤ x ∧ x < g.1 + g.2 ∧ g.1 / granBytes = x / granBytes := by
  have hmem : x / granBytes ∈ gransOf a n := (mem_gransOf (by omega)).2 (by unfold granBytes; omega)
  refine ⟨_, List.mem_map.2 ⟨x / granBytes, hmem, rfl⟩, ?_⟩
  dsimp only
  unfold granBytes
  omega

/-! ### Accesses that only pass the regulators -/

section
variable {s : State} (hr : s.regionStopped 17 = false) (n c : Nat)
include hr

theorem State.regulatePart_pass (g : Nat × Nat) : s.Passed (s.regulatePart c (.ripener n c) (fun _ _ => .pass) g) := by
  cases h : s.regulator c g.1 with
  | none =>
    rw [State.regulatePart_direct h hr]
    exact .refl s
  | some p =>
    rw [State.regulatePart_waits h]
    exact ⟨⟨rfl, fun _ => rfl⟩, rfl, rfl, rfl⟩

theorem State.ripPass_passed (es : List (Nat × Nat)) : s.Passed (s.ripPass n c es) := by
  unfold State.ripPass
  refine List.foldlRecOn (motive := s.Passed) _ _ (.refl s) fun t ht e _ => ?_
  refine ht.trans ((t.touch_passed e.1 e.2).1.trans ?_)
  have htouch := ht.trans (t.touch_passed e.1 e.2).1
  generalize t.touch e.1 e.2 = u at *
  rw [State.regulate_eq]
  refine List.foldlRecOn (motive := u.Passed) _ _ (.refl u) fun v hv g _ => hv.trans (State.regulatePart_pass ?_ n c g)
  rw [(htouch.trans hv).only.regionStopped, hr]

/-- An access of which no byte passes a regulator has nothing to wait for. -/
theorem State.regulate_pass_unregulated {a len : Nat} (hu : s.unregulated c a len) :
    s.regulate c a len (.ripener n c) (fun _ _ => .pass) = s := by
  rw [State.regulate_eq]
  refine List.foldlRecOn (motive := (· = s)) _ _ rfl fun t ht g hg => ?_
  subst ht
  obtain ⟨hlo, hhi, -⟩ := mem_granParts hg
  exact State.regulatePart_direct (hu g.1 hlo hhi) hr n c _

theorem State.ripPass_unregulated {es : List (Nat × Nat)} (hu : ∀ e ∈ es, s.unregulated c e.1 e.2) :
    (s.ripPass n c es).dev.memS.regQ = s.dev.memS.regQ := by
  unfold State.ripPass
  refine (List.foldlRecOn (motive := fun t => s.Passed t ∧ t.dev.memS.regQ = s.dev.memS.regQ) _ _ ⟨.refl s, rfl⟩
    fun t ht e he => ?_).2
  obtain ⟨htouch, hq⟩ := t.touch_passed e.1 e.2
  have hpassed := ht.1.trans htouch
  have hfree : (t.touch e.1 e.2).unregulated c e.1 e.2 := fun x hlo hhi => by
    rw [hpassed.only.regulator]
    exact hu e he x hlo hhi
  rw [State.regulate_pass_unregulated (by rw [hpassed.only.regionStopped, hr]) n c hfree]
  exact ⟨hpassed, hq.trans ht.2⟩
end

/-- A fold that keeps `I` comes to `P` if one of its elements brings `P` about and the others keep it. -/
theorem foldl_reaches {σ α : Type} {f : σ → α → σ} {I P : σ → Prop} (hI : ∀ s x, I s → I (f s x))
    (hP : ∀ s x, I s → P s → P (f s x)) {l : List α} {x : α} (hx : x ∈ l) (hdo : ∀ s, I s → P (f s x)) {s : σ} (hs : I s) :
    P (l.foldl f s) := by
  obtain ⟨l₁, l₂, rfl⟩ := List.append_of_mem hx
  rw [List.foldl_append, List.foldl_cons]
  have hbefore : I (l₁.foldl f s) := List.foldlRecOn (motive := I) _ _ hs fun t ht y _ => hI t y ht
  exact (List.foldlRecOn (motive := fun t => I t ∧ P t) _ _ ⟨hI _ x hbefore, hdo _ hbefore⟩
    fun t ht y _ => ⟨hI t y ht.1, hP t y ht.1 ht.2⟩).2

/-- A request of `w` waits at a regulator. -/
def State.queued (s : State) (w : Waiter) : Prop := ∃ r ∈ s.dev.memS.regQ, r.who = w

theorem State.waits_of_queued {s : State} {w : Waiter} (h : s.queued w) : s.waits w = true := by
  obtain ⟨r, hr, hw⟩ := h
  have hany : (s.dev.memS.regQ.any fun r => r.who == w) = true := List.any_eq_true.2 ⟨r, hr, by simp [hw]⟩
  simp [State.waits, hany]

theorem piecesOf_ne_nil {a n : Nat} (h : 0 < n) : piecesOf a n ≠ [] := by
  simp [piecesOf, Nat.ne_of_gt h]

section
variable {s : State} (hr : s.regionStopped 17 = false) (n c : Nat)
include hr

theorem State.queued_regulatePart_pass {w : Waiter} (g : Nat × Nat) (h : s.queued w) :
    (s.regulatePart c (.ripener n c) (fun _ _ => .pass) g).queued w := by
  cases hg : s.regulator c g.1 with
  | none =>
    rw [State.regulatePart_direct hg hr]
    exact h
  | some p =>
    rw [State.regulatePart_waits hg]
    obtain ⟨r, hmem, hw⟩ := h
    exact ⟨r, List.mem_append_left _ hmem, hw⟩

omit hr in
/-- A part behind a regulator makes at least one request there. -/
theorem State.regulatePart_pass_queued {g : Nat × Nat} (hlen : 0 < g.2) (h : s.regulator c g.1 ≠ none) :
    (s.regulatePart c (.ripener n c) (fun _ _ => .pass) g).queued (.ripener n c) := by
  obtain ⟨p, hp⟩ := Option.ne_none_iff_exists'.1 h
  obtain ⟨q, qs, hq⟩ := List.exists_cons_of_ne_nil (piecesOf_ne_nil (a := g.1) hlen)
  rw [State.regulatePart_waits hp]
  exact ⟨⟨c, p, q.2, .ripener n c, .pass⟩, List.mem_append_right _ (by simp [partRequests, hq]), rfl⟩

theorem State.regulate_pass_queued {a len x : Nat} (hlo : a ≤ x) (hhi : x < a + len) (h : s.regulator c x ≠ none) :
    (s.regulate c a len (.ripener n c) fun _ _ => .pass).queued (.ripener n c) := by
  obtain ⟨g, hg, hg1, hg2, hgran⟩ := granParts_cover hlo hhi
  have hreg (t : State) : t.regulator c g.1 = t.regulator c x := by unfold State.regulator; rw [hgran]
  have hrun {t : State} (ht : s.Passed t) : t.regionStopped 17 = false := by rw [ht.only.regionStopped, hr]
  rw [State.regulate_eq]
  refine foldl_reaches (I := s.Passed) (fun t e ht => ht.trans (State.regulatePart_pass (hrun ht) n c e))
    (fun t e ht => State.queued_regulatePart_pass (hrun ht) n c e) hg (fun t ht => ?_) (.refl s)
  refine State.regulatePart_pass_queued n c (by omega) ?_
  rw [hreg, ht.only.regulator]
  exact h

theorem State.queued_regulate_pass {w : Waiter} (a len : Nat) (h : s.queued w) :
    (s.regulate c a len (.ripener n c) fun _ _ => .pass).queued w := by
  rw [State.regulate_eq]
  refine (List.foldlRecOn (motive := fun t => s.Passed t ∧ t.queued w) _ _ ⟨.refl s, h⟩ fun t ht g _ => ?_).2
  have hrun : t.regionStopped 17 = false := by rw [ht.1.only.regionStopped, hr]
  exact ⟨ht.1.trans (State.regulatePart_pass hrun n c g), State.queued_regulatePart_pass hrun n c g ht.2⟩

/-- Accesses one byte of which lies behind a regulator wait. -/
theorem State.ripPass_queued {es : List (Nat × Nat)}
    (h : ∃ e ∈ es, ∃ a, e.1 ≤ a ∧ a < e.1 + e.2 ∧ s.regulator c a ≠ none) : (s.ripPass n c es).queued (.ripener n c) := by
  obtain ⟨e, he, a, hlo, hhi, ha⟩ := h
  have hstep {t : State} (ht : s.Passed t) (x : Nat × Nat) : s.Passed (t.touch x.1 x.2) ∧
      (t.touch x.1 x.2).regionStopped 17 = false := by
    have hp := ht.trans (t.touch_passed x.1 x.2).1
    exact ⟨hp, by rw [hp.only.regionStopped, hr]⟩
  unfold State.ripPass
  refine foldl_reaches (I := s.Passed) (P := (State.queued · (.ripener n c))) (fun t x ht => ?_)
    (fun t x ht hq => ?_) he (fun t ht => ?_) (.refl s)
  · exact ht.trans (State.ripPass_passed (by rw [ht.only.regionStopped, hr]) n c [x])
  · obtain ⟨r, hmem, hw⟩ := hq
    refine State.queued_regulate_pass (hstep ht x).2 n c _ _ ⟨r, ?_, hw⟩
    rwa [(t.touch_passed x.1 x.2).2]
  · refine State.regulate_pass_queued (hstep ht e).2 n c hlo hhi ?_
    rwa [(hstep ht e).1.only.regulator]
end

end Sys2Proof.Machine
end

section
/-!
PROOFS. The update streams of the ripeners as they move on from one command to the next: UPD_COMPLETE, PASS_END and UPDATE_NOP
(R135, R144).
-/
namespace Sys2Proof.Machine

/-! ### The rows -/

theorem exec_updComplete (n : RipId) (c : CtxId) (s : State) : exec (.updComplete n c) s = .next (s.updComplete n c) := by rfl
theorem exec_passEnd (n : RipId) (c : CtxId) (s : State) : exec (.passEnd n c) s = .next (s.passEnd n c) := by rfl
theorem exec_updateNop (n : RipId) (c : CtxId) (s : State) : exec (.updateNop n c) s = .next (s.updateNop n c) := by rfl

/-! ### An update stream -/

@[simp] theorem State.modRip_mem (s : State) (n c : Nat) (f : RipS → RipS) : (s.modRip n c f).mem = s.mem := by
  unfold State.modRip; split <;> rfl
@[simp] theorem State.modRip_bad (s : State) (n c : Nat) (f : RipS → RipS) : (s.modRip n c f).bad = s.bad := by
  unfold State.modRip; split <;> rfl
@[simp] theorem State.modRip_ctx (s : State) (n c : Nat) (f : RipS → RipS) (d : Nat) : (s.modRip n c f).ctx d = s.ctx d :=
  (State.accessOnly_modRip s n c f).ctx d
@[simp] theorem State.modRip_memS (s : State) (n c : Nat) (f : RipS → RipS) : (s.modRip n c f).dev.memS = s.dev.memS := by
  unfold State.modRip; split <;> rfl

theorem State.rip_modRip {s : State} {n c : Nat} {r : RipS} (h : s.rip n c = some r) (f : RipS → RipS) :
    (s.modRip n c f).rip n c = some (f r) := by
  unfold State.modRip
  rw [h]
  exact AMap.find?_set_self _ _ _

theorem State.Passed.rip {s t : State} (h : s.Passed t) (n c : Nat) : t.rip n c = s.rip n c := by
  rw [State.rip, h.rips, State.rip]

theorem State.regionStopped_of_ripRuns {s : State} {c : Nat} {r : RipS} (h : s.ripRuns c r = true) : s.regionStopped 17 = false := by
  unfold State.ripRuns at h
  simpa using (Bool.and_eq_true_iff.1 h).2

/-- The stream at its next command: at the end it goes on at CYCLE, or stops. -/
theorem RipS.advance_eq (r : RipS) :
    r.advance =
      let last : Bool := decide (r.ncmd ≤ r.cmd + 1)
      let ends : Bool := last && r.cycle == 0xFFFFFFFF
      { r with
        started := none
        done := 0
        remote := []
        raised := false
        st := if ends then .stopped else .running
        cmd := if last && !ends then r.cycle else r.cmd + 1 } := by
  unfold RipS.advance
  by_cases hlast : r.ncmd ≤ r.cmd + 1
  · by_cases hcycle : r.cycle = 0xFFFFFFFF
    · simp [hlast, hcycle, Nat.not_lt.2 hlast]
    · simp [hlast, hcycle, Nat.not_lt.2 hlast]
  · simp [hlast, Nat.lt_of_not_le hlast]

section
variable {s : State} {n c : Nat} {r : RipS} (h : s.rip n c = some r)
include h

/-! ### UPD_COMPLETE (R144) -/

theorem State.updComplete_done {u : Upd} (hruns : s.ripRuns c r = true) (hs : r.started = some u) (hd : r.done = u.count)
    (hw : s.waits (.ripener n c) = false) :
    s.updComplete n c = if u.post then (s.modRip n c RipS.advance).modCtx c fun x => { x with prog := (x.prog + 1) % 2 ^ 32 }
      else s.modRip n c RipS.advance := by
  have hgo : s.ripRuns c r = true ∧ r.done = u.count ∧ ¬ s.waits (.ripener n c) = true := ⟨hruns, hd, by simp [hw]⟩
  simp only [State.updComplete, h, hs]
  exact if_pos hgo

/-- With its parameters done and its traffic performed, an UPD makes way for the next command. -/
theorem State.updComplete_effect {u : Upd} (hruns : s.ripRuns c r = true) (hs : r.started = some u) (hd : r.done = u.count)
    (hw : s.waits (.ripener n c) = false) :
    (s.updComplete n c).mem = s.mem ∧ (s.updComplete n c).rip n c = some r.advance ∧
      ((s.updComplete n c).ctx c).prog = if u.post then ((s.ctx c).prog + 1) % 2 ^ 32 else (s.ctx c).prog := by
  have hrip := State.rip_modRip h RipS.advance
  rw [State.updComplete_done h hruns hs hd hw]
  cases u.post with
  | false => exact ⟨s.modRip_mem n c _, hrip, by simp⟩
  | true => exact ⟨s.modRip_mem n c _, hrip, by simp [State.modCtx]⟩

theorem State.updComplete_idle
    (hi : s.ripRuns c r = false ∨ s.waits (.ripener n c) = true ∨ ∀ u, r.started = some u → r.done ≠ u.count) :
    s.updComplete n c = s := by
  simp only [State.updComplete, h]
  split
  · rfl
  · rename_i u hs
    refine if_neg ?_
    rintro ⟨hruns, hdone, hw⟩
    obtain hstopped | hwaits | hmore := hi
    · rw [hstopped] at hruns; cases hruns
    · exact hw hwaits
    · exact hmore u hs hdone

/-! ### PASS_END and UPDATE_NOP (R135) -/

theorem State.passEnd_started (hs : r.started.isSome) : s.passEnd n c = s := by
  simp only [State.passEnd, h]
  exact if_neg fun hgo => by simp [hgo.2.1] at hs

theorem State.updateNop_started (hs : r.started.isSome) : s.updateNop n c = s := by
  simp only [State.updateNop, h]
  exact if_neg fun hgo => by simp [hgo.2.1] at hs

section
variable (hruns : s.ripRuns c r = true) (hs : r.started = none) (hcmd : r.cmd < r.ncmd) (hw : s.waits (.ripener n c) = false)
include hruns

/-- Reading the command's record moves no byte, and the stream is then changed as its command says. -/
theorem State.ripPass_modRip (es : List (Nat × Nat)) (f : RipS → RipS) :
    ((s.ripPass n c es).modRip n c f).mem = s.mem ∧ ((s.ripPass n c es).modRip n c f).rip n c = some (f r) := by
  have hpass := State.ripPass_passed (State.regionStopped_of_ripRuns hruns) n c es
  exact ⟨((s.ripPass n c es).modRip_mem n c f).trans hpass.mem, State.rip_modRip ((hpass.rip n c).trans h) f⟩

include hs hcmd hw

theorem State.passEnd_effect (hop : s.ripOp r = 2) :
    (s.passEnd n c).mem = s.mem ∧ (s.passEnd n c).rip n c = some { r.advance with step := r.step + 1, begun := [] } := by
  have hgo : s.ripRuns c r = true ∧ r.started = none ∧ r.cmd < r.ncmd ∧ s.ripOp r = 2 ∧ ¬ s.waits (.ripener n c) = true :=
    ⟨hruns, hs, hcmd, hop, by simp [hw]⟩
  simp only [State.passEnd, h, if_pos hgo]
  exact State.ripPass_modRip h hruns _ _

theorem State.updateNop_effect (hop : s.ripOp r = 0) :
    (s.updateNop n c).mem = s.mem ∧ (s.updateNop n c).rip n c = some r.advance := by
  have hgo : s.ripRuns c r = true ∧ r.started = none ∧ r.cmd < r.ncmd ∧ s.ripOp r = 0 ∧ ¬ s.waits (.ripener n c) = true :=
    ⟨hruns, hs, hcmd, hop, by simp [hw]⟩
  simp only [State.updateNop, h, if_pos hgo]
  exact State.ripPass_modRip h hruns _ _
end
end

/-- Settles O36: each row moves the stream by `RipS.advance`, which is the next command that the statement writes out. -/
theorem updateStreamsMoveOn : Obligations.UpdateStreamsMoveOn := by
  unfold Obligations.UpdateStreamsMoveOn
  intro n c s r h
  dsimp only
  refine ⟨fun u hruns hs hd hw => ⟨_, exec_updComplete n c s, ?_⟩, fun hs => ⟨?_, ?_⟩, fun hruns hs hcmd hw => ⟨fun hop =>
    ⟨_, exec_passEnd n c s, ?_⟩, fun hop => ⟨_, exec_updateNop n c s, ?_⟩⟩, fun hi => ?_⟩
  · rw [← r.advance_eq]
    exact State.updComplete_effect h hruns hs hd hw
  · rw [exec_passEnd, State.passEnd_started h hs]
  · rw [exec_updateNop, State.updateNop_started h hs]
  · obtain ⟨hmem, hrip⟩ := State.passEnd_effect h hruns hs hcmd hw hop
    rw [r.advance_eq] at hrip
    exact ⟨hmem, hrip⟩
  · rw [← r.advance_eq]
    exact State.updateNop_effect h hruns hs hcmd hw hop
  · rw [exec_updComplete, State.updComplete_idle h hi]

end Sys2Proof.Machine
end

section
/-!
PROOFS. Writes of a ripener that pass no regulator and touch no granule of the cave: they are performed at once, part by part, and
leave the bytes of the data in memory (R157, R167).
-/
namespace Sys2Proof.Machine

/-! ### Little-endian bytes, and runs of them -/

@[simp] theorem length_leBytes (n : Nat) : ∀ v, (leBytes n v).length = n := by
  induction n with
  | zero => intro v; rfl
  | succ n ih => intro v; simp [leBytes, ih]

theorem leNat_leBytes (n : Nat) : ∀ v, leNat (leBytes n v) = v % 2 ^ (8 * n) := by
  induction n with
  | zero => intro v; simp [leBytes, leNat, Nat.mod_one]
  | succ n ih =>
    intro v
    have hpow : 2 ^ (8 * (n + 1)) = 256 * 2 ^ (8 * n) := by rw [Nat.mul_succ, Nat.pow_add, Nat.mul_comm]
    rw [leBytes, leNat, ih, BitVec.toNat_ofNat, hpow, Nat.mod_mul]

theorem Mem.writeN_append (d e : List Byte) : ∀ (m : Mem) (a : Nat),
    Mem.writeN m a (d ++ e) = Mem.writeN (Mem.writeN m a d) (a + d.length) e := by
  induction d with
  | nil => intro m a; rfl
  | cons b bs ih =>
    intro m a
    rw [List.cons_append, Mem.writeN, ih, Mem.writeN, List.length_cons, Nat.add_right_comm, Nat.add_assoc]

/-- A run within a written run reads back. -/
theorem Mem.readN_writeN_within {m : Mem} (h : m.wf = true) (a : Nat) (d e f : List Byte) :
    Mem.readN (Mem.writeN m a (d ++ (e ++ f))) (a + d.length) e.length = e := by
  have hd := Mem.wf_writeN d a h
  rw [Mem.writeN_append, Mem.writeN_append]
  refine (Mem.readN_congr e.length _ fun x _ hx => ?_).trans (Mem.readN_writeN e _ hd)
  rw [Mem.read_writeN f _ x (Mem.wf_writeN e _ hd), if_neg (by omega)]

theorem length_flatten_map_of_forall {α : Type} {f : α → List Byte} {k : Nat} (h : ∀ x, (f x).length = k) (l : List α) :
    (l.map f).flatten.length = k * l.length := by
  induction l with
  | nil => rfl
  | cons x xs ih => rw [List.map_cons, List.flatten_cons, List.length_append, h, ih, List.length_cons, Nat.mul_succ, Nat.add_comm]

/-- The bytes of the `j`-th element of a list among those of all. -/
theorem flatten_map_split {α : Type} (f : α → List Byte) {l : List α} {j : Nat} (h : j < l.length) :
    (l.map f).flatten = ((l.take j).map f).flatten ++ (f l[j] ++ ((l.drop (j + 1)).map f).flatten) := by
  calc (l.map f).flatten = ((l.take j ++ l.drop j).map f).flatten := by rw [List.take_append_drop]
    _ = ((l.take j).map f).flatten ++ (f l[j] ++ ((l.drop (j + 1)).map f).flatten) := by
      rw [List.drop_eq_getElem_cons h, List.map_append, List.flatten_append, List.map_cons, List.flatten_cons]

/-! ### Storing bytes -/

/-- Bytes and their marks, parities and stamps of granules alone have changed. -/
structure State.Stored (s t : State) : Prop where
  only : s.accessOnly t
  rips : t.dev.rips = s.dev.rips
  regQ : t.dev.memS.regQ = s.dev.memS.regQ
  wf : s.mem.wf = true → t.mem.wf = true

theorem State.Stored.refl (s : State) : s.Stored s := ⟨s.accessOnly_refl, rfl, rfl, id⟩

theorem State.Stored.trans {s t u : State} (h : s.Stored t) (k : t.Stored u) : s.Stored u :=
  ⟨h.only.trans k.only, k.rips.trans h.rips, k.regQ.trans h.regQ, fun hm => k.wf (h.wf hm)⟩

theorem State.touch_stored (s : State) (a n : Nat) : s.Stored (s.touch a n) := by
  obtain ⟨hp, hq⟩ := s.touch_passed a n
  exact ⟨hp.only, hp.rips, hq, fun hm => by rw [hp.mem, hm]⟩

theorem State.putPart_stored (s : State) (p : CaveW) : s.Stored (s.putPart p) := by
  unfold State.putPart
  have hput : s.Stored (s.putWithShared p.addr p.data (p.bad.map (· - p.addr / 32))) :=
    ⟨⟨rfl, fun _ => rfl⟩, rfl, rfl, fun hm =>
      State.wf_putWith hm p.addr p.data (p.bad.map (· - p.addr / 32))⟩
  generalize s.putWithShared _ _ _ = t at hput ⊢
  refine hput.trans ?_
  unfold State.setParity
  split
  · rename_i x _ hx
    exact ⟨State.accessOnly_setGran hx rfl, rfl, rfl, id⟩
  · exact .refl t

/-- A write outside the cave is performed at once. -/
theorem State.farWrite_stored {s : State} {a : Nat} {d : List Byte} (h : ∀ x, a ≤ x → x < a + d.length → s.inCave x = false)
    (bad : List Nat) (w : Waiter) (par : Option Bool) : s.Stored (s.farWrite a d bad w par) := by
  unfold State.farWrite
  refine List.foldlRecOn (motive := s.Stored) _ _ (.refl s) fun t ht p hp => ?_
  obtain ⟨hw, hlt⟩ := mem_pageParts hp
  have hout : t.inCave p.addr = false := by rw [ht.only.inCave, h p.addr hw.1 hlt]
  rw [hout, if_neg Bool.false_ne_true]
  exact ht.trans (t.putPart_stored p)

/-- The bytes of `d` have been written at `a`, and no others. -/
structure State.Wrote (s t : State) (a : Nat) (d : List Byte) : Prop where
  stored : s.Stored t
  read : ∀ x, Mem.read t.mem x = Mem.read (Mem.writeN s.mem a d) x

section
variable {s t : State} {a : Nat} {d : List Byte} (h : s.Wrote t a d) (hm : s.mem.wf = true)
include h hm

theorem State.Wrote.read_outside {x : Nat} (hx : x < a ∨ a + d.length ≤ x) : Mem.read t.mem x = Mem.read s.mem x := by
  rw [h.read, Mem.read_writeN d a x hm, if_neg (by omega)]

theorem State.Wrote.bytes_outside {lo n : Nat} (hx : lo + n ≤ a ∨ a + d.length ≤ lo) : t.bytes lo n = s.bytes lo n :=
  Mem.readN_congr n lo fun x h1 h2 => h.read_outside hm (by omega)

theorem State.Wrote.bytes_within {d₁ e d₂ : List Byte} (hd : d = d₁ ++ (e ++ d₂)) :
    t.bytes (a + d₁.length) e.length = e := by
  subst hd
  exact (Mem.readN_congr _ _ fun x _ _ => h.read x).trans (Mem.readN_writeN_within hm a d₁ e d₂)
end

section
variable {s : State} {c a : Nat} {d : List Byte} (hm : s.mem.wf = true) (hr : s.regionStopped 17 = false) (n : Nat)
include hr hm

/-- One part of a write, and its bytes. -/
theorem State.regulatePart_put (hd : s.direct c a d.length) (bad : List Nat) (par : Nat → Nat → Option Bool) {g : Nat × Nat}
    (hg : a ≤ g.1 ∧ g.1 < a + d.length ∧ g.1 + g.2 ≤ a + d.length) :
    s.Wrote (s.regulatePart c (.ripener n c) (writePart a d bad par) g) g.1 ((d.drop (g.1 - a)).take g.2) := by
  obtain ⟨hlo, hhi, hend⟩ := hg
  have hcave : ∀ x, g.1 ≤ x → x < g.1 + ((d.drop (g.1 - a)).take g.2).length → s.inCave x = false := fun x h1 h2 => by
    rw [List.length_take, List.length_drop] at h2
    exact (hd x (by omega) (by omega)).2
  rw [State.regulatePart_direct (hd g.1 hlo hhi).1 hr]
  exact ⟨State.farWrite_stored hcave _ _ _, State.read_farWrite hm hcave _ _ _⟩

end

/-- The parts of a write leave the bytes that they hold, and no others. -/
theorem State.foldl_regulatePart_put {c a : Nat} {d : List Byte} (n : Nat) (bad : List Nat) (par : Nat → Nat → Option Bool)
    (gs : List (Nat × Nat)) : ∀ {s : State}, s.mem.wf = true → s.regionStopped 17 = false → s.direct c a d.length →
    (∀ g ∈ gs, a ≤ g.1 ∧ g.1 < a + d.length ∧ g.1 + g.2 ≤ a + d.length) →
    s.Stored (gs.foldl (State.regulatePart c (.ripener n c) (writePart a d bad par)) s) ∧
      ∀ x, Mem.read (gs.foldl (State.regulatePart c (.ripener n c) (writePart a d bad par)) s).mem x =
        if ∃ g ∈ gs, g.1 ≤ x ∧ x < g.1 + g.2 then d.getD (x - a) 0 else Mem.read s.mem x := by
  induction gs with
  | nil => intro s _ _ _ _; exact ⟨.refl s, by simp⟩
  | cons g gs ih =>
    intro s hm hr hd hgs
    have hg := hgs g List.mem_cons_self
    have hput := State.regulatePart_put hm hr n hd bad par hg
    rw [List.foldl_cons]
    generalize State.regulatePart c (.ripener n c) (writePart a d bad par) s g = t at hput
    obtain ⟨hstored, hread⟩ := ih (hput.stored.wf hm) ((hput.stored.only.regionStopped 17).trans hr) (hput.stored.only.direct hd)
      fun q hq => hgs q (List.mem_cons_of_mem g hq)
    refine ⟨hput.stored.trans hstored, fun x => ?_⟩
    obtain ⟨hlo, hhi, hend⟩ := hg
    have hlen : ((d.drop (g.1 - a)).take g.2).length = g.2 := by
      rw [List.length_take, List.length_drop]
      omega
    rw [hread, hput.read, Mem.read_writeN _ _ _ hm, hlen]
    by_cases hin : g.1 ≤ x ∧ x < g.1 + g.2
    · have hbyte : ((d.drop (g.1 - a)).take g.2).getD (x - g.1) 0 = d.getD (x - a) 0 := by
        rw [List.getD_eq_getElem?_getD, List.getD_eq_getElem?_getD, List.getElem?_take_of_lt (by omega), List.getElem?_drop,
          show g.1 - a + (x - g.1) = x - a by omega]
      rw [if_pos hin, hbyte, ite_self, if_pos ⟨g, List.mem_cons_self, hin⟩]
    · simp only [List.mem_cons, or_and_right, exists_or, exists_eq_left, hin, false_or, if_false]

/-- A read-only cave refuses no write that stays outside it. -/
theorem State.roRefuses_of_direct {s : State} {c a n : Nat} (hd : s.direct c a n) : s.roRefuses a n = none := by
  unfold State.roRefuses
  split
  · refine List.find?_eq_none.2 fun x hx => ?_
    obtain ⟨g, hg, rfl⟩ := List.mem_map.1 hx
    have hn : 0 < n := Nat.pos_of_ne_zero fun h0 => by simp [gransOf, h0] at hg
    obtain ⟨-, hhi⟩ := (mem_gransOf hn).1 hg
    rw [(hd _ (Nat.le_max_left ..) (by omega)).2]
    exact Bool.false_ne_true
  · rfl

/-- A ripener's write that passes no regulator and touches no granule of the cave is performed at once. -/
theorem State.ripWrite_wrote {s : State} {c a : Nat} {d : List Byte} (hm : s.mem.wf = true) (hr : s.regionStopped 17 = false)
    (hd : s.direct c a d.length) (n : Nat) (step : BitVec 64) (bad : List Nat) (par : Nat → Nat → Option Bool) :
    s.Wrote (s.ripWrite n c step a d bad par) a d := by
  have htouch := s.touch_stored a d.length
  have hmem := (s.touch_passed a d.length).1.mem
  rw [State.ripWrite, State.roRefuses_of_direct hd]
  dsimp only
  generalize s.touch a d.length = t at *
  obtain ⟨hstored, hread⟩ := State.foldl_regulatePart_put n bad par (granParts a d.length) (htouch.wf hm)
    ((htouch.only.regionStopped 17).trans hr) (htouch.only.direct hd) fun g hg => mem_granParts hg
  refine ⟨htouch.trans hstored, fun x => (hread x).trans ?_⟩
  have hcover : (∃ g ∈ granParts a d.length, g.1 ≤ x ∧ x < g.1 + g.2) ↔ a ≤ x ∧ x < a + d.length := by
    constructor
    · rintro ⟨g, hg, hlo, hhi⟩
      have := mem_granParts hg
      omega
    · rintro ⟨hlo, hhi⟩
      obtain ⟨g, hg, h1, h2, -⟩ := granParts_cover hlo hhi
      exact ⟨g, hg, h1, h2⟩
  rw [Mem.read_writeN d a x hm, hmem]
  simp only [hcover]

end Sys2Proof.Machine
end

section
/-!
PROOFS. UPD at its start: its reads asked for, then a refusal, a wait, or a start that steps the group at its first UPD of a pass
(R134, R136, R137).
-/
namespace Sys2Proof.Machine

theorem exec_upd (n : RipId) (c : CtxId) (s : State) : exec (.upd n c) s = .next (s.updStart n c) := by rfl

/-! ### Asking for reads -/

/-- A stream has asked for its reads: nothing but that, stamps of granules and requests at the regulators differs. -/
structure State.Asked (s t : State) (n c : Nat) (r : RipS) : Prop where
  only : s.accessOnly t
  mem : t.mem = s.mem
  bad : t.bad = s.bad
  rip : t.rip n c = some { r with asked := true }

/-- A stream that has not asked yet for what its step reads does so. -/
def State.asking (s : State) (n c : Nat) (r : RipS) (es : List (Nat × Nat)) : State := if r.asked then s else s.ripAsk n c es

section
variable {s : State} {n c : Nat} {r : RipS} (hr : s.regionStopped 17 = false) {es : List (Nat × Nat)}
include hr

/-- Where no read passes a regulator, nothing new waits. -/
theorem State.asking_waits_of_unregulated (hu : r.asked = true ∨ ∀ e ∈ es, s.unregulated c e.1 e.2) (w : Waiter) :
    (s.asking n c r es).waits w = s.waits w := by
  unfold State.asking
  split
  · rfl
  · rename_i ha
    have hpass := (State.ripPass_passed hr n c es).only
    refine (hpass.trans (State.accessOnly_modRip _ n c _)).waits ?_ w
    rw [State.modRip_memS, State.ripPass_unregulated hr n c (hu.resolve_left ha)]

/-- Where one does, the stream waits. -/
theorem State.asking_waits_of_regulated (ha : r.asked = false)
    (hreg : ∃ e ∈ es, ∃ a, e.1 ≤ a ∧ a < e.1 + e.2 ∧ s.regulator c a ≠ none) :
    (s.asking n c r es).waits (.ripener n c) = true := by
  obtain ⟨q, hq, hw⟩ := State.ripPass_queued hr n c hreg
  refine State.waits_of_queued ⟨q, ?_, hw⟩
  rwa [State.asking, ha, if_neg Bool.false_ne_true, State.ripAsk, State.modRip_memS]

theorem State.asking_asked (h : s.rip n c = some r) (es : List (Nat × Nat)) : s.Asked (s.asking n c r es) n c r := by
  unfold State.asking
  split
  · rename_i ha
    have hself : r = { r with asked := true } := by
      cases r
      simp only at ha
      rw [ha]
    exact ⟨s.accessOnly_refl, rfl, rfl, h.trans (congrArg some hself)⟩
  · have hpass := State.ripPass_passed hr n c es
    exact ⟨hpass.only.trans (State.accessOnly_modRip _ n c _), (State.modRip_mem ..).trans hpass.mem,
      (State.modRip_bad ..).trans hpass.bad, State.rip_modRip ((hpass.rip n c).trans h) _⟩
end

section
variable {s t : State} {n c : Nat} {r : RipS} (h : s.Asked t n c r)
include h

theorem State.Asked.rd (base : Nat) : t.rd base = s.rd base := by
  funext o len
  rw [State.rd, State.rd, State.bytes, State.bytes, h.mem]

theorem State.Asked.updOk (u : Upd) : t.updOk r u = s.updOk r u := by
  simp only [State.updOk, h.rd]

theorem State.Asked.ruleOf (u : Upd) : t.ruleOf r u = s.ruleOf r u := by
  simp only [State.ruleOf, h.rd]

theorem State.Asked.updWaits (u : Upd) : t.updWaits r u = s.updWaits r u := by
  simp only [State.updWaits, h.rd, h.only.flow, State.field, h.only.reg]
end

/-! ### What a started, waiting or refused UPD leaves -/

theorem State.eventsOnly.rip {s t : State} (h : s.eventsOnly t) (n c : Nat) : t.rip n c = s.rip n c := by
  rw [State.rip, h.rips, State.rip]

theorem State.eventsOnly_recordFault (s : State) (n : RegName) (i : List Nat) (valid : Nat) (w : BitVec 64) :
    s.eventsOnly (s.recordFault n i valid w) := by
  unfold State.recordFault
  split
  · exact s.eventsOnly_refl
  · exact s.eventsOnly_setReg _ _ _

theorem State.eventsOnly_memFault (s : State) (code req ctx src cause addr : Nat) :
    s.eventsOnly (s.memFault code req ctx src cause addr) := by
  unfold State.memFault
  split
  · exact s.eventsOnly_refl
  · exact State.eventsOnly_trans (s.eventsOnly_setReg _ _ _) (State.eventsOnly_setReg _ _ _ _)

/-- A fault of an update stream moves no byte, and the stream is FAULTED. -/
theorem State.ripFault_effect {s : State} {n c : Nat} {x : RipS} (h : s.rip n c = some x) (code cause : Nat) (r : RipS) (addr : Nat) :
    (s.ripFault n c code cause r addr).mem = s.mem ∧
      (s.ripFault n c code cause r addr).rip n c = some { x with st := .faulted } := by
  unfold State.ripFault
  dsimp only
  have hrec := s.eventsOnly_recordFault .ripFault [n] 8 (word [(code, 48), (r.cmd, 16), (c, 13), (cause, 0)])
  generalize s.recordFault _ _ _ _ = t at hrec ⊢
  have hraise := (t.modRip n c fun r => { r with st := .faulted }).eventsOnly_raise code
    { kind := 3, index := n, ctx := some c, step := r.step, detail := BitVec.ofNat 64 addr }
  refine ⟨hraise.mem.trans ((t.modRip_mem n c _).trans hrec.mem), (hraise.rip n c).trans ?_⟩
  exact State.rip_modRip ((hrec.rip n c).trans h) _

/-- Why an UPD is refused at its start (R134, R145): a record that is not well formed, a frozen tensor, or an extent out of reach. -/
def State.updRefused (s : State) (c : Nat) (r : RipS) (u : Upd) : Prop :=
  s.updOk r u = false ∨ bit u.tensor 22 = true ∨
    ∃ e ∈ u.extents (s.ruleOf r u).1 (s.ruleOf r u).2, s.reach c e.1 e.2 ≠ none

theorem State.Asked.updRefused {s t : State} {n c : Nat} {r : RipS} (h : s.Asked t n c r) (u : Upd) :
    t.updRefused c r u ↔ s.updRefused c r u := by
  simp only [State.updRefused, h.updOk, h.ruleOf, h.only.reach]

section
variable {s : State} {n c : Nat} {r x : RipS} {u : Upd} (hu : Upd.read (s.rd r.base) r.at_ = u)
include hu

/-- An UPD that is not refused waits, is held back, or starts. -/
theorem State.startUpd_of_not_refused (h : ¬ s.updRefused c r u) :
    s.startUpd n c r = if s.updWaits r u then s.modRip n c fun r => { r with st := .waiting }
      else if s.groupHeld c r u then s.modRip n c fun r => { r with st := .running }
      else (s.beginGroup n c r u.group).modRip n c fun r => { r with started := some u, done := 0, asked := false, st := .running } := by
  have hok : s.updOk r u = true := by
    cases ho : s.updOk r u with
    | true => rfl
    | false => exact absurd (.inl ho) h
  have hthawed : bit u.tensor 22 = false := Bool.eq_false_iff.2 fun ht => h (.inr (.inl ht))
  have hreach : ((u.extents (s.ruleOf r u).1 (s.ruleOf r u).2).findSome? fun e => s.reach c e.1 e.2) = none :=
    List.findSome?_eq_none_iff.2 fun e he => Classical.not_not.1 fun hne => h (.inr (.inr ⟨e, he, hne⟩))
  simp only [State.startUpd, hu, hok, hreach, hthawed, not_true_eq_false, Bool.false_eq_true, if_false]

theorem State.startUpd_refused (hx : s.rip n c = some x) (h : s.updRefused c r u) :
    (s.startUpd n c r).mem = s.mem ∧ (s.startUpd n c r).rip n c = some { x with st := .faulted } := by
  simp only [State.startUpd, hu]
  split
  · exact State.ripFault_effect hx _ _ _ _
  · rename_i hok
    split
    · rename_i a q _
      have hfault := s.eventsOnly_memFault 0x0104 1 c n q a
      obtain ⟨hmem, hrip⟩ := State.ripFault_effect ((hfault.rip n c).trans hx) 0x0104 1 r a
      exact ⟨hmem.trans hfault.mem, hrip⟩
    · rename_i hnone
      have hfrozen : bit u.tensor 22 = true := by
        obtain hbad | hfrozen | ⟨e, he, hne⟩ := h
        · exact absurd hbad (by simpa using hok)
        · exact hfrozen
        · exact absurd (List.findSome?_eq_none_iff.1 hnone e he) hne
      rw [if_pos hfrozen]
      exact State.ripFault_effect hx _ _ _ _

section
variable (hx : s.rip n c = some x) (h : ¬ s.updRefused c r u)
include hx h

theorem State.startUpd_waits (hw : s.updWaits r u = true) :
    (s.startUpd n c r).mem = s.mem ∧ (s.startUpd n c r).rip n c = some { x with st := .waiting } := by
  rw [State.startUpd_of_not_refused hu h, if_pos hw]
  exact ⟨s.modRip_mem n c _, State.rip_modRip hx _⟩

variable (hw : s.updWaits r u = false)
include hw

theorem State.startUpd_begun (hb : (AMap.find? r.begun u.group).isSome) :
    (s.startUpd n c r).mem = s.mem ∧
      (s.startUpd n c r).rip n c = some { x with started := some u, done := 0, asked := false, st := .running } := by
  obtain ⟨k, hk⟩ := Option.isSome_iff_exists.1 hb
  have hfree : ¬ s.groupHeld c r u = true := by simp [State.groupHeld, hk]
  have hsame : s.beginGroup n c r u.group = s := by simp only [State.beginGroup, hk]
  rw [State.startUpd_of_not_refused hu h, hw, if_neg Bool.false_ne_true, if_neg hfree, hsame]
  exact ⟨s.modRip_mem n c _, State.rip_modRip hx _⟩

/-- The first UPD of its group in a pass writes the group's T, P1 and P2 and starts. -/
theorem State.startUpd_begins (hb : AMap.find? r.begun u.group = none)
    (hheld : s.heldBack c r (r.base + (r.groupOff + 128 * u.group)) 128 = false) (hr : s.regionStopped 17 = false)
    (hm : s.mem.wf = true) (hd : s.direct c (r.base + (r.groupOff + 128 * u.group)) 24) :
    ∃ k p, (s.startUpd n c r).rip n c =
        some { x with begun := AMap.set x.begun u.group k, started := some u, done := 0, asked := false, st := .running } ∧
      p.length = 16 ∧ ∃ t, (s.startUpd n c r).mem = t.mem ∧ s.Wrote t (r.base + (r.groupOff + 128 * u.group))
        (leBytes 8 ((s.rd r.base (r.groupOff + 128 * u.group) 8 + 1) % 2 ^ 64) ++ p) := by
  have hfree : ¬ s.groupHeld c r u = true := by simp [State.groupHeld, hheld]
  rw [State.startUpd_of_not_refused hu h, hw, if_neg Bool.false_ne_true, if_neg hfree]
  simp only [State.beginGroup, hb, Nat.add_assoc r.base]
  obtain ⟨p1, hp1⟩ : ∃ p, p = (groupBegin (s.rd r.base) r u.group (s.normWord r u.group)).1.2.1 := ⟨_, rfl⟩
  obtain ⟨p2, hp2⟩ : ∃ p, p = (groupBegin (s.rd r.base) r u.group (s.normWord r u.group)).1.2.2 := ⟨_, rfl⟩
  have ht : (groupBegin (s.rd r.base) r u.group (s.normWord r u.group)).1.1 =
    (s.rd r.base (r.groupOff + 128 * u.group) 8 + 1) % 2 ^ 64 := rfl
  rw [ht, ← hp1, ← hp2, List.append_assoc]
  generalize hdata : leBytes 8 ((s.rd r.base (r.groupOff + 128 * u.group) 8 + 1) % 2 ^ 64) ++ (leBytes 8 p1 ++ leBytes 8 p2) = d
  have hlen : d.length = 24 := by simp [← hdata]
  have hwrote := State.ripWrite_wrote hm hr (hlen ▸ hd) n r.step [] fun _ _ => none
  generalize s.ripWrite n c r.step (r.base + (r.groupOff + 128 * u.group)) d [] (fun _ _ => none) = t at hwrote ⊢
  have hrip : t.rip n c = some x := by rw [State.rip, hwrote.stored.rips]; exact hx
  refine ⟨_, leBytes 8 p1 ++ leBytes 8 p2, State.rip_modRip (State.rip_modRip hrip _) _, by simp, t, by simp, ?_⟩
  rw [hdata]
  exact hwrote
end
end

/-! ### The statement -/

section
variable {s : State} {n c : Nat} {r : RipS} (h : s.rip n c = some r) (hruns : s.ripRuns c r = true) (hs : r.started = none)
  (h0 : s.ripOp r ≠ 0) (h2 : s.ripOp r ≠ 2) (hw : s.waits (.ripener n c) = false)
include h hruns hs h0 h2 hw

/-- UPD asks for what it reads, and starts unless it has to wait for it. -/
theorem State.updStart_eq : s.updStart n c =
    if (s.asking n c r (s.startReads r)).waits (.ripener n c) then s.asking n c r (s.startReads r)
    else (s.asking n c r (s.startReads r)).startUpd n c r := by
  have hgo : ¬ (¬ s.ripRuns c r = true ∨ r.started.isSome = true ∨ s.ripOp r = 0 ∨ s.ripOp r = 2 ∨
      s.waits (.ripener n c) = true) := by
    simp [hruns, hs, h0, h2, hw]
  simp only [State.updStart, h, if_neg hgo]
  rfl

theorem State.updStart_of_reads (ha : r.asked = true ∨ ∀ e ∈ s.startReads r, s.unregulated c e.1 e.2) :
    s.updStart n c = (s.asking n c r (s.startReads r)).startUpd n c r := by
  have hfree : (s.asking n c r (s.startReads r)).waits (.ripener n c) = false := by
    rw [State.asking_waits_of_unregulated (State.regionStopped_of_ripRuns hruns) ha, hw]
  rw [State.updStart_eq h hruns hs h0 h2 hw, hfree, if_neg Bool.false_ne_true]

theorem State.updStart_asks (ha : r.asked = false)
    (hreg : ∃ e ∈ s.startReads r, ∃ a, e.1 ≤ a ∧ a < e.1 + e.2 ∧ s.regulator c a ≠ none) :
    (s.updStart n c).mem = s.mem ∧ (s.updStart n c).rip n c = some { r with asked := true } ∧
      (s.updStart n c).waits (.ripener n c) = true := by
  have hr := State.regionStopped_of_ripRuns hruns
  have hwaits := State.asking_waits_of_regulated (n := n) hr ha hreg
  have hasked := State.asking_asked hr h (s.startReads r)
  rw [State.updStart_eq h hruns hs h0 h2 hw, if_pos hwaits]
  exact ⟨hasked.mem, hasked.rip, hwaits⟩
end

/-- Settles O34: the reads have been asked for, and what `startUpd` then finds is what the state before shows. -/
theorem updStartsItsGroup : Obligations.UpdStartsItsGroup := by
  unfold Obligations.UpdStartsItsGroup
  intro n c s r
  dsimp only
  intro h hruns hs h0 h2 hw
  have hr := State.regionStopped_of_ripRuns hruns
  have hasked := State.asking_asked hr h (s.startReads r)
  refine ⟨fun ha => ?_, fun ha hreg => ⟨_, exec_upd n c s, State.updStart_asks h hruns hs h0 h2 hw ha hreg⟩⟩
  rw [exec_upd, State.updStart_of_reads h hruns hs h0 h2 hw ha]
  generalize s.asking n c r (s.startReads r) = v at hasked
  have hu : Upd.read (v.rd r.base) r.at_ = Upd.read (s.rd r.base) r.at_ := by rw [hasked.rd]
  generalize Upd.read (s.rd r.base) r.at_ = u at hu ⊢
  rw [← hasked.mem, ← hasked.updWaits u, ← hasked.rd]
  refine ⟨fun href => ⟨_, rfl, ?_⟩, fun href hwait => ⟨_, rfl, ?_⟩, fun href hgo hb => ⟨_, rfl, ?_⟩,
    fun href hgo hb hheld hm hd => ?_⟩
  · exact State.startUpd_refused hu hasked.rip ((hasked.updRefused u).2 href)
  · exact State.startUpd_waits hu hasked.rip (fun hv => href ((hasked.updRefused u).1 hv)) hwait
  · exact (State.startUpd_begun hu hasked.rip (fun hv => href ((hasked.updRefused u).1 hv)) hgo hb :)
  · obtain ⟨k, p, hrip, hp, t, hmem, hwrote⟩ := State.startUpd_begins hu hasked.rip
      (fun hv => href ((hasked.updRefused u).1 hv)) hgo hb (by rw [hasked.only.heldBack, hheld])
      (by rw [hasked.only.regionStopped, hr]) hm (hasked.only.direct hd)
    refine ⟨_, k, rfl, hrip, ?_, fun a ha => ?_⟩
    · have hbytes := hwrote.bytes_within hm (d₁ := []) (List.nil_append _).symm
      rw [length_leBytes] at hbytes
      rw [State.bytes, hmem]
      exact (congrArg leNat hbytes).trans ((leNat_leBytes 8 _).trans (Nat.mod_mod _ _))
    · rw [hmem]
      exact hwrote.read_outside hm (by simpa [hp] using ha)

end Sys2Proof.Machine
end

section
/-!
PROOFS. RIP_GRANULE_UPDATE: the one ready stream is picked, its reads are asked for, and the granule's weights, averages and working
copies are written (R135, R140 to R143).
-/
namespace Sys2Proof.Machine

theorem exec_ripGranuleUpdate (n : RipId) (s : State) : exec (.ripGranuleUpdate n) s = .next (s.ripUpdate n) := by rfl

/-! ### The stream that is picked (R135) -/

/-- A ready stream is the context's, and the memory's region has its clock. -/
theorem State.ripReady_some {s : State} {n c : Nat} {r : RipS} {u : Upd} {k : GroupC} (h : s.ripReady n c = some (r, u, k)) :
    s.rip n c = some r ∧ s.regionStopped 17 = false := by
  unfold State.ripReady at h
  cases hrip : s.rip n c with
  | none => simp [hrip] at h
  | some x =>
    cases hs : x.started with
    | none => simp [hrip, hs] at h
    | some v =>
      cases hb : AMap.find? x.begun v.group with
      | none => simp [hrip, hs, hb] at h
      | some g =>
        simp only [hrip, hs, hb, Option.ite_none_right_eq_some, Option.some.injEq, Prod.mk.injEq] at h
        obtain ⟨⟨hgo, -⟩, rfl, -, -⟩ := h
        refine ⟨rfl, ?_⟩
        obtain hruns | ⟨-, hclock⟩ := hgo
        · exact State.regionStopped_of_ripRuns hruns
        · simpa using hclock

theorem findSome?_eq_of_unique {α β : Type} {f : α → Option β} {l : List α} {a : α} {b : β} (ha : a ∈ l) (hb : f a = some b)
    (hother : ∀ x ∈ l, x ≠ a → f x = none) : l.findSome? f = some b := by
  cases hf : l.findSome? f with
  | none => rw [List.findSome?_eq_none_iff.1 hf a ha] at hb; cases hb
  | some d =>
    obtain ⟨x, hx, hfx⟩ := List.exists_of_findSome?_eq_some hf
    by_cases hxa : x = a
    · rw [hxa, hb] at hfx; exact hfx.symm
    · rw [hother x hx hxa] at hfx; cases hfx

/-- The round robin over the eight contexts comes past each of them. -/
theorem mem_roundRobin (last : Nat) (c : CtxId) : c.val ∈ (List.range 8).map fun i => (last + 1 + i) % 8 := by
  refine List.mem_map.2 ⟨(c.val + 7 * (last + 1)) % 8, List.mem_range.2 (Nat.mod_lt _ (by decide)), ?_⟩
  omega

/-- What the round robin takes of a context: its ready stream, unless it waits. -/
def State.ripCandidate (s : State) (n c : Nat) : Option (Nat × RipS × Upd × GroupC) :=
  match s.ripReady n c with
  | some (r, u, k) => if (¬ r.asked ∧ s.snapWaits c r u k) ∨ s.waits (.ripener n c) then none else some (c, r, u, k)
  | none => none

theorem State.ripUpdate_of_pick {s : State} {n c : Nat} {r : RipS} {u : Upd} {k : GroupC}
    (h : ((List.range 8).map fun i => (AMap.get s.dev.ripTurn 7 n + 1 + i) % 8).findSome? (s.ripCandidate n) = some (c, r, u, k)) :
    s.ripUpdate n =
      if (s.asking n c r (u.reads k r.done (u.granule r.done))).waits (.ripener n c)
      then s.asking n c r (u.reads k r.done (u.granule r.done))
      else (s.asking n c r (u.reads k r.done (u.granule r.done))).ripGranule n c r u k := by
  unfold State.ripUpdate
  dsimp only
  split
  · rename_i c' r' u' k' hpick
    cases h.symm.trans hpick
    rfl
  · rename_i hpick
    cases h.symm.trans hpick

section
variable {s : State} {n : RipId} {c : CtxId} {r : RipS} {u : Upd} {k : GroupC} (h : s.ripReady n c = some (r, u, k))
  (hw : s.waits (.ripener n c) = false) (hone : ∀ d : CtxId, d ≠ c → s.ripReady n d = none)
include h hw hone

/-- The one ready stream asks for what its granule reads, and updates it unless it has to wait for it. -/
theorem State.ripUpdate_eq (hsnap : r.asked = true ∨ s.snapWaits c r u k = false) :
    s.ripUpdate n =
      if (s.asking n c r (u.reads k r.done (u.granule r.done))).waits (.ripener n c)
      then s.asking n c r (u.reads k r.done (u.granule r.done))
      else (s.asking n c r (u.reads k r.done (u.granule r.done))).ripGranule n c r u k := by
  have hgo : ¬ ((¬ r.asked = true ∧ s.snapWaits c r u k = true) ∨ s.waits (.ripener n c) = true) := by
    rintro (⟨hnot, hheld⟩ | hwaits)
    · rw [hsnap.resolve_left hnot] at hheld; cases hheld
    · rw [hw] at hwaits; cases hwaits
  refine State.ripUpdate_of_pick (findSome?_eq_of_unique (mem_roundRobin _ c) ?_ fun d hd hne => ?_)
  · simp only [State.ripCandidate, h, if_neg hgo]
  · obtain ⟨i, -, rfl⟩ := List.mem_map.1 hd
    have hnone := hone ⟨_, Nat.mod_lt _ (by decide)⟩ fun he => hne (congrArg Fin.val he)
    simp only at hnone
    simp only [State.ripCandidate, hnone]

theorem State.ripUpdate_of_reads
    (ha : r.asked = true ∨ (s.snapWaits c r u k = false ∧ ∀ e ∈ u.reads k r.done (u.granule r.done), s.unregulated c e.1 e.2)) :
    s.ripUpdate n = (s.asking n c r (u.reads k r.done (u.granule r.done))).ripGranule n c r u k := by
  have hfree : (s.asking n c r (u.reads k r.done (u.granule r.done))).waits (.ripener n c) = false := by
    rw [State.asking_waits_of_unregulated (State.ripReady_some h).2 (ha.imp_right And.right), hw]
  rw [State.ripUpdate_eq h hw hone (ha.imp_right And.left), hfree, if_neg Bool.false_ne_true]

theorem State.ripUpdate_asks (ha : r.asked = false) (hsnap : s.snapWaits c r u k = false)
    (hreg : ∃ e ∈ u.reads k r.done (u.granule r.done), ∃ a, e.1 ≤ a ∧ a < e.1 + e.2 ∧ s.regulator c a ≠ none) :
    (s.ripUpdate n).mem = s.mem ∧ (s.ripUpdate n).rip n c = some { r with asked := true } ∧
      (s.ripUpdate n).waits (.ripener n c) = true := by
  obtain ⟨hrip, hr⟩ := State.ripReady_some h
  have hwaits := State.asking_waits_of_regulated (n := n) hr ha hreg
  have hasked := State.asking_asked hr hrip (u.reads k r.done (u.granule r.done))
  rw [State.ripUpdate_eq h hw hone (.inr hsnap), if_pos hwaits]
  exact ⟨hasked.mem, hasked.rip, hwaits⟩
end

/-- What an update reads is as it was before the stream asked for it. -/
theorem State.Asked.paramOut {s t : State} {n c : Nat} {r : RipS} (h : s.Asked t n c r) (u : Upd) (k : GroupC) (i : Nat) :
    t.paramOut c r u k i = s.paramOut c r u k i := by
  have hbytes : t.bytes = s.bytes := by funext a len; rw [State.bytes, h.mem, State.bytes]
  have hbad : t.badIn = s.badIn := by funext a len; rw [State.badIn, h.bad, State.badIn]
  have helem : t.gradElem = s.gradElem := by
    funext u k i
    unfold State.gradElem
    rw [hbytes, hbad]
  have hgrad : t.gradient u i = s.gradient u i := by
    unfold State.gradient
    rw [helem]
  simp only [State.paramOut, hbytes, hgrad, h.only.ctx]

/-! ### What a granule writes -/

/-- The bytes within those of the `j`-th of elements of `k` bytes, once they have been written. -/
theorem State.Wrote.element {s t : State} {a k : Nat} {ps : List ParamOut} {f : ParamOut → List Byte}
    (h : s.Wrote t a (ps.map f).flatten) (hm : s.mem.wf = true) (hf : ∀ p, (f p).length = k) {j : Nat} (hj : j < ps.length)
    {d₁ e d₂ : List Byte} (hd : f ps[j] = d₁ ++ (e ++ d₂)) : t.bytes (a + k * j + d₁.length) e.length = e := by
  have hlen : (((ps.take j).map f).flatten ++ d₁).length = k * j + d₁.length := by
    rw [List.length_append, length_flatten_map_of_forall hf, List.length_take, Nat.min_eq_left (Nat.le_of_lt hj)]
  have hbytes := h.bytes_within hm (d₁ := ((ps.take j).map f).flatten ++ d₁) (e := e)
    (d₂ := d₂ ++ ((ps.drop (j + 1)).map f).flatten) (by rw [flatten_map_split f hj, hd]; simp)
  rwa [hlen, ← Nat.add_assoc] at hbytes

theorem State.Wrote.whole_element {s t : State} {a k : Nat} {ps : List ParamOut} {f : ParamOut → List Byte}
    (h : s.Wrote t a (ps.map f).flatten) (hm : s.mem.wf = true) (hf : ∀ p, (f p).length = k) {j : Nat} (hj : j < ps.length) :
    t.bytes (a + k * j) k = f ps[j] := by
  have hbytes := h.element hm hf hj (d₁ := []) (e := f ps[j]) (d₂ := []) (by simp)
  rwa [hf] at hbytes

/-- The averages of a parameter as they are stored: m alone for SGDM, else m and v. -/
def ParamOut.averages (rule : Nat) (p : ParamOut) : List Byte := leBytes 4 p.m ++ (if rule = 2 then [] else leBytes 4 p.v)

theorem ParamOut.length_averages (rule : Nat) (p : ParamOut) : (p.averages rule).length = avgBytes rule := by
  unfold ParamOut.averages avgBytes
  split <;> simp

/-- The weights, the averages and the working copies of the parameters of `ps` have been written, in this order, into three ranges. -/
def State.WroteParams (s t : State) (rule wb wa aa ca : Nat) (ps : List ParamOut) : Prop :=
  ∃ t₁ t₂, s.Wrote t₁ wa (ps.map fun p => leBytes 4 p.w).flatten ∧
    t₁.Wrote t₂ aa (ps.map (ParamOut.averages rule)).flatten ∧
    t₂.Wrote t ca (ps.map fun p => leBytes wb p.copy.code).flatten

theorem State.writeParams_wrote {s : State} {c : Nat} {u : Upd} {k : GroupC} {i : Nat} {ps : List ParamOut} (hm : s.mem.wf = true)
    (hr : s.regionStopped 17 = false) (hwa : s.direct c (u.master + 4 * i) (4 * ps.length))
    (haa : s.direct c (u.avg + avgBytes k.rule * i) (avgBytes k.rule * ps.length))
    (hca : s.direct c (u.wcopy + wfmtBytes k.wfmt * i) (wfmtBytes k.wfmt * ps.length)) (n : Nat) (step : BitVec 64)
    (left : List (Nat × Nat)) :
    s.WroteParams (s.writeParams n c step u k i ps left) k.rule (wfmtBytes k.wfmt) (u.master + 4 * i)
      (u.avg + avgBytes k.rule * i) (u.wcopy + wfmtBytes k.wfmt * i) ps := by
  rw [← length_flatten_map_of_forall (f := fun p : ParamOut => leBytes 4 p.w) (fun p => length_leBytes _ _) ps] at hwa
  rw [← length_flatten_map_of_forall (ParamOut.length_averages k.rule) ps] at haa
  rw [← length_flatten_map_of_forall (f := fun p : ParamOut => leBytes (wfmtBytes k.wfmt) p.copy.code)
    (fun p => length_leBytes _ _) ps] at hca
  have h₁ := fun bad => State.ripWrite_wrote hm hr hwa n step bad fun _ _ => none
  have h₂ := fun {t : State} (hst : s.Stored t) bad => State.ripWrite_wrote (hst.wf hm) ((hst.only.regionStopped 17).trans hr)
    (hst.only.direct haa) n step bad fun _ _ => none
  have h₃ := fun {t : State} (hst : s.Stored t) par => State.ripWrite_wrote (hst.wf hm) ((hst.only.regionStopped 17).trans hr)
    (hst.only.direct hca) n step [] par
  exact ⟨_, _, h₁ _, h₂ (h₁ _).stored _, h₃ ((h₁ _).stored.trans (h₂ (h₁ _).stored _).stored) _⟩

section
variable {s t : State} {rule wb wa aa ca : Nat} {ps : List ParamOut} (h : s.WroteParams t rule wb wa aa ca ps)
  (hm : s.mem.wf = true)
include h

theorem State.WroteParams.stored : s.Stored t := by
  obtain ⟨t₁, t₂, hw, ha, hc⟩ := h
  exact (hw.stored.trans ha.stored).trans hc.stored

include hm

theorem State.WroteParams.read_outside {x : Nat} (hxw : x < wa ∨ wa + 4 * ps.length ≤ x)
    (hxa : x < aa ∨ aa + avgBytes rule * ps.length ≤ x) (hxc : x < ca ∨ ca + wb * ps.length ≤ x) :
    Mem.read t.mem x = Mem.read s.mem x := by
  obtain ⟨t₁, t₂, hw, ha, hc⟩ := h
  have hm₁ := hw.stored.wf hm
  rw [hc.read_outside (ha.stored.wf hm₁), ha.read_outside hm₁, hw.read_outside hm]
  · rwa [length_flatten_map_of_forall fun p => length_leBytes _ _]
  · rwa [length_flatten_map_of_forall (ParamOut.length_averages rule)]
  · rwa [length_flatten_map_of_forall fun p => length_leBytes _ _]
end

/-! ### What reads back -/

section
variable {s t : State} {rule wb wa aa ca : Nat} {ps : List ParamOut} (h : s.WroteParams t rule wb wa aa ca ps)
  (hm : s.mem.wf = true) (hwa : wa + 4 * ps.length ≤ aa ∨ aa + avgBytes rule * ps.length ≤ wa)
  (hwc : wa + 4 * ps.length ≤ ca ∨ ca + wb * ps.length ≤ wa)
  (hac : aa + avgBytes rule * ps.length ≤ ca ∨ ca + wb * ps.length ≤ aa) {j : Nat} (hj : j < ps.length)
include h hm hj

include hwa hwc in
theorem State.WroteParams.weight : leNat (t.bytes (wa + 4 * j) 4) = ps[j].w % 2 ^ 32 := by
  obtain ⟨t₁, t₂, hw, ha, hc⟩ := h
  have hm₁ := hw.stored.wf hm
  have hread := hw.whole_element hm (fun p => length_leBytes 4 p.w) hj
  rw [hc.bytes_outside (ha.stored.wf hm₁), ha.bytes_outside hm₁]
  · exact (congrArg leNat hread).trans (leNat_leBytes 4 _)
  · rw [length_flatten_map_of_forall (ParamOut.length_averages rule)]
    omega
  · rw [length_flatten_map_of_forall fun p => length_leBytes _ _]
    omega

include hac in
theorem State.WroteParams.average {i : Nat} {d₁ d₂ : List Byte} {x : Nat} (hi : d₁.length = i)
    (hd : ps[j].averages rule = d₁ ++ (leBytes 4 x ++ d₂)) : leNat (t.bytes (aa + avgBytes rule * j + i) 4) = x % 2 ^ 32 := by
  obtain ⟨t₁, t₂, hw, ha, hc⟩ := h
  have hm₁ := hw.stored.wf hm
  have hread := ha.element hm₁ (ParamOut.length_averages rule) hj hd
  have hlen := congrArg List.length hd
  have hfit : avgBytes rule * (j + 1) ≤ avgBytes rule * ps.length := Nat.mul_le_mul_left _ hj
  rw [Nat.mul_succ] at hfit
  rw [ParamOut.length_averages, List.length_append, List.length_append, length_leBytes] at hlen
  rw [length_leBytes, hi] at hread
  rw [hc.bytes_outside (ha.stored.wf hm₁)]
  · exact (congrArg leNat hread).trans (leNat_leBytes 4 _)
  · rw [length_flatten_map_of_forall fun p => length_leBytes _ _]
    omega

theorem State.WroteParams.copy : leNat (t.bytes (ca + wb * j) wb) = ps[j].copy.code % 2 ^ (8 * wb) := by
  obtain ⟨t₁, t₂, hw, ha, hc⟩ := h
  have hread := hc.whole_element (ha.stored.wf (hw.stored.wf hm)) (fun p => length_leBytes wb p.copy.code) hj
  exact (congrArg leNat hread).trans (leNat_leBytes wb _)
end

/-! ### One granule -/

/-- The parameters that the next granule of a stream updates, as they are afterwards. -/
def State.granuleOut (s : State) (c : Nat) (r : RipS) (u : Upd) (k : GroupC) : List ParamOut :=
  (List.range (u.granule r.done)).map fun j => s.paramOut c r u k (r.done + j)

theorem State.eventsOnly.bump {s t : State} (h : s.eventsOnly t) (n : RegName) (i : List Nat) (k : Nat) (c : Option Nat)
    (kind index : Nat) : s.eventsOnly (t.bump n i k c kind index) := State.eventsOnly_trans h (t.eventsOnly_bump n i k c kind index)

/-- After its writes, a granule counts and reports, notes what it has done in its stream, and passes the turn on. -/
theorem State.ripGranule_eq (s : State) (n c : Nat) (r : RipS) (u : Upd) (k : GroupC) : ∃ e f,
    (s.writeParams n c r.step u k r.done (s.granuleOut c r u k)
      (s.wcopyLeft n c { r with done := r.done + u.granule r.done })).eventsOnly e ∧
    (∀ x : RipS, (f x).done = r.done + u.granule r.done ∧ (f x).cmd = x.cmd ∧ (f x).asked = false) ∧
    s.ripGranule n c r u k = { e.modRip n c f with
      dev := { (e.modRip n c f).dev with ripTurn := AMap.set (e.modRip n c f).dev.ripTurn n c } } := by
  refine ⟨_, _, ?_, ?_, rfl⟩
  · have hcounts (t : State) (m far held sat flush nan : Nat) := (((((t.eventsOnly_refl.bump .ripCntParams [n] m (some c) 3 n).bump
      .ripCntRemote [n] far (some c) 3 n).bump .ripCntHold [n] held (some c) 3 n).bump .ripCntSat [n] sat (some c) 3 n).bump
      .ripCntFlush [n] flush (some c) 3 n).bump .ripCntNan [n] nan (some c) 3 n
    split
    · exact State.eventsOnly_trans (hcounts _ _ _ _ _ _ _) (State.eventsOnly_raise _ _ _)
    · exact hcounts _ _ _ _ _ _ _
  · exact fun x => ⟨rfl, rfl, rfl⟩

theorem State.ripGranule_effect {s : State} {n c : Nat} {x : RipS} (h : s.rip n c = some x) (r : RipS) (u : Upd) (k : GroupC)
    (hm : s.mem.wf = true) (hr : s.regionStopped 17 = false)
    (hwa : s.direct c (u.master + 4 * r.done) (4 * u.granule r.done))
    (haa : s.direct c (u.avg + avgBytes k.rule * r.done) (avgBytes k.rule * u.granule r.done))
    (hca : s.direct c (u.wcopy + wfmtBytes k.wfmt * r.done) (wfmtBytes k.wfmt * u.granule r.done)) :
    ∃ t y, (s.ripGranule n c r u k).mem = t.mem ∧ (s.ripGranule n c r u k).rip n c = some y ∧
      y.done = r.done + u.granule r.done ∧ y.cmd = x.cmd ∧ y.asked = false ∧
      s.WroteParams t k.rule (wfmtBytes k.wfmt) (u.master + 4 * r.done) (u.avg + avgBytes k.rule * r.done)
        (u.wcopy + wfmtBytes k.wfmt * r.done) (s.granuleOut c r u k) := by
  have hlen : (s.granuleOut c r u k).length = u.granule r.done := by simp [State.granuleOut]
  obtain ⟨e, f, he, hf, heq⟩ := s.ripGranule_eq n c r u k
  have hwrote := State.writeParams_wrote hm hr (hlen ▸ hwa) (hlen ▸ haa) (hlen ▸ hca) n r.step
    (s.wcopyLeft n c { r with done := r.done + u.granule r.done })
  have hrip : e.rip n c = some x := by
    rw [he.rip, State.rip, hwrote.stored.rips]
    exact h
  obtain ⟨hdone, hcmd, hasked⟩ := hf x
  rw [heq]
  exact ⟨_, f x, (e.modRip_mem n c f).trans he.mem, State.rip_modRip hrip f, hdone, hcmd, hasked, hwrote⟩

/-- Settles O35: the picked stream's reads have been asked for, and its granule then writes what the state before shows. -/
theorem ripenerUpdatesOneGranule : Obligations.RipenerUpdatesOneGranule := by
  unfold Obligations.RipenerUpdatesOneGranule
  intro n c s r u k h hw hone
  dsimp only
  obtain ⟨hrip, hr⟩ := State.ripReady_some h
  refine ⟨fun ha hwa haa hca hm hwa_aa hwa_ca haa_ca => ?_, fun ha hsnap hreg =>
    ⟨_, exec_ripGranuleUpdate n s, State.ripUpdate_asks h hw hone ha hsnap hreg⟩⟩
  rw [exec_ripGranuleUpdate, State.ripUpdate_of_reads h hw hone ha]
  have hasked := State.asking_asked hr hrip (u.reads k r.done (u.granule r.done))
  generalize s.asking n c r (u.reads k r.done (u.granule r.done)) = v at hasked
  have hvm : v.mem.wf = true := by rw [hasked.mem, hm]
  obtain ⟨t, x, hmem, hx, hdone, hcmd, hnot, hwrote⟩ := State.ripGranule_effect hasked.rip r u k hvm
    (by rw [hasked.only.regionStopped, hr]) (hasked.only.direct hwa) (hasked.only.direct haa) (hasked.only.direct hca)
  have hlen : (v.granuleOut c r u k).length = u.granule r.done := by simp [State.granuleOut]
  refine ⟨_, x, rfl, hx, hdone, hcmd, hnot, fun j hj => ?_, fun a hxw hxa hxc => ?_⟩
  · rw [← hlen] at hwa_aa hwa_ca haa_ca hj
    have hout : (v.granuleOut c r u k)[j] = s.paramOut c r u k (r.done + j) := by simp [State.granuleOut, hasked.paramOut]
    rw [← hout]
    simp only [State.bytes, hmem]
    refine ⟨hwrote.weight hvm hwa_aa hwa_ca hj, hwrote.average hvm haa_ca hj (d₁ := []) rfl rfl, fun hrule => ?_, hwrote.copy hvm hj⟩
    exact hwrote.average hvm haa_ca hj (d₁ := leBytes 4 (v.granuleOut c r u k)[j].m) (d₂ := [])
      (length_leBytes 4 _) (by simp [ParamOut.averages, hrule])
  · rw [hmem, ← hasked.mem]
    rw [← hlen] at hxw hxa hxc
    exact hwrote.read_outside hvm hxw hxa hxc

end Sys2Proof.Machine
end

section
/-!
PROOFS. The record of a stream's fault, STR_FAULT. `word` adds its fields up and cuts none of them, so that a stream number of more than six
bits, or an entry number of more than sixteen, carries into CODE. O28 and O29 speak of every such number; no
ARM that R175 lets pass gives one.
-/
namespace Sys2Proof.Machine

/-! ### ARM of a stream that does not exist (R175, R176) -/

/-- A second ARM of stream 64. -/
def armStream64 : QEntry :=
  { cmd := .arm 64 0 1, start := 0, stream := .fwd, step := 0, opcode := 0x60, engine := 6, pc := 0, bank := 0 }

/-- Core 0 runs with that command at the head of its stream queue. Stream 64 of its cluster is at work and holds a pending arm. -/
def overrunState : State :=
  (State.reset.setCore 0 { st := .running, slot := some 0, seqr := { queues := [(6, [armStream64])] } }).setCluster 0
    { streams := [(64, { st := .running, pend := some (0, 1) })] }

theorem exec_arm (c : CoreId) (s : State) : exec (.arm c) s = .next (s.streamStart c fun | .arm _ _ _ => true | _ => false) := by rfl

theorem overrunState_acts : overrunState.acts (0 : CoreId) 6 armStream64 := by
  unfold State.acts
  decide +kernel

theorem overrunState_land : ((overrunState.land 0).stream 0 64).st = .running ∧ ((overrunState.land 0).stream 0 64).pend ≠ none ∧
    (overrunState.land 0).field .strFault [0] 8 8 = 0 := by
  decide +kernel

/-- The record of ARM_OVERRUN, 0x0201, with STREAM 64 shows CODE 0x0202, which is STREAM_DEADLOCK's. -/
theorem overrunState_code :
    (overrunState.streamStart 0 fun | .arm _ _ _ => true | _ => false).field .strFault [0] 63 48 = 0x0202 := by
  decide +kernel

/-- Refutes O28: ARM_OVERRUN is recorded with its own code only for a stream below 64. STREAM of STR_FAULT has six bits below CODE, and
the number 64 carries into CODE. The statement speaks of every number in the command; `DecEnv.resolve` takes the six bits of
STREAM, so that no decoded ARM names a stream above 63. What the statement lacks is that hypothesis. -/
theorem not_armsAndArmWaits : ¬ Obligations.ArmsAndArmWaits := by
  unfold Obligations.ArmsAndArmWaits
  intro h
  obtain ⟨harm, -⟩ := h 0 overrunState armStream64 64 overrunState_acts
  obtain ⟨u, hu, -, -, -, -, hwork⟩ := harm 0 1 rfl
  obtain ⟨hst, hpend, hvalid⟩ := overrunState_land
  have hcode := (hwork (.inr (.inl hst))).2 hpend hvalid
  rw [exec_arm] at hu
  cases hu
  exact absurd (hcode.symm.trans overrunState_code) (by decide)

/-! ### An entry that does not exist (R173) -/

/-- Context 0 runs on cluster 0, whose stream 2 is armed at entry 2 ^ 22. The descriptor store has no such entry and shows entry 0
(`Cluster.entry`), which reads 0: a GATHER of no bytes, against R173. -/
def misnumberedState : State :=
  let s := State.reset.setCtx 0 { valid := true, first := 0, count := 1 }
  let s := s.setCluster 0 { streams := [(2, { st := .armed, next := 2 ^ 22, left := 1 })] }
  { s with dev := { s.dev with period := 1 } }

theorem exec_streamEntryBegin (k : ClusterId) (x : Fin 64) (s : State) : exec (.streamEntryBegin k x) s = .next (s.entryBegin k x) := by rfl

/-- The entry is due: its stream is at work in a running context. -/
theorem misnumberedState_due : misnumberedState.clusterCtx 0 = some 0 ∧ misnumberedState.regionStopped 0 = false ∧
    (misnumberedState.ctx 0).halted = false ∧ (misnumberedState.stream 0 2).pending = true ∧
    (misnumberedState.stream 0 2).armedAt < misnumberedState.dev.period ∧ misnumberedState.laterBegan 0 2 = false := by
  decide +kernel

/-- Nothing makes the entry wait, and its form is wrong. -/
theorem misnumberedState_refused :
    let e := (misnumberedState.cluster 0).entry (misnumberedState.stream 0 2).next
    misnumberedState.waitHolds 0 e = true ∧ misnumberedState.armHolds 0 (misnumberedState.stream 0 2) = true ∧ e.fence = false ∧
      (misnumberedState.stream 0 2).inFlight < 8 ∧ (misnumberedState.cluster 0).inFlight < 256 ∧
      misnumberedState.dev.link.sends = [] ∧ e.formatOk = false ∧ misnumberedState.field .strFault [0] 8 8 = 0 := by
  decide +kernel

/-- The record of BLOCKLIST_FORMAT, 0x0203, with ENTRY 2 ^ 22 shows CODE 0x0204. -/
theorem misnumberedState_code : (misnumberedState.entryBegin 0 2).field .strFault [0] 63 48 = 0x0204 := by
  decide +kernel

/-- Refutes O29: an entry that breaks the form of R173 is recorded with its own code only while its number fits in ENTRY of STR_FAULT,
sixteen bits. The clause speaks of every number that a stream can hold as its next entry, and 2 ^ 22 carries through STREAM into
CODE. A decoded ARM keeps first entry and count within the 65,536 of the store (R175). What the clause lacks is that hypothesis. -/
theorem not_streamEntriesBegin : ¬ Obligations.StreamEntriesBegin := by
  unfold Obligations.StreamEntriesBegin
  intro h
  obtain ⟨hctx, hclock, hhalt, hpending, harmed, hlater⟩ := misnumberedState_due
  obtain ⟨hwait, harm, hfence, hroom, hall, hsends, hform, hvalid⟩ := misnumberedState_refused
  obtain ⟨-, hdue⟩ := h 0 2 misnumberedState 0 hctx hclock hhalt hpending harmed hlater
  obtain ⟨hrefused, -⟩ := hdue (.inr hwait) harm (fun hf => absurd (hfence.symm.trans hf) (by decide)) hroom hall
    (fun r hr => by rw [hsends] at hr; exact absurd hr List.not_mem_nil)
  obtain ⟨u, hu, -, -, hcode⟩ := hrefused hform
  rw [exec_streamEntryBegin] at hu
  cases hu
  exact absurd ((hcode hvalid).symm.trans misnumberedState_code) (by decide)

end Sys2Proof.Machine
end

section
/-!
PROOFS. STREAM_ENTRY_COMPLETE (R176, R179): which entries of a stream are complete, how many of them leave it, and what becomes of the
stream after the last one of its arm.
-/
namespace Sys2Proof.Machine

theorem exec_streamEntryComplete (k : ClusterId) (x : Fin 64) (s : State) :
    exec (.streamEntryComplete k x) s = .next (s.entryComplete k x) := by rfl

theorem State.stream_modStream_self (s : State) (k x : Nat) (f : StreamS → StreamS) :
    (s.modStream k x f).stream k x = f (s.stream k x) := by
  simp only [State.stream, State.modStream, State.cluster_modCluster_self, AMap.get_set_self]

theorem State.stream_modStream_ne (s : State) {k x y : Nat} (f : StreamS → StreamS) (h : y ≠ x) :
    (s.modStream k x f).stream k y = s.stream k y := by
  simp only [State.stream, State.modStream, State.cluster_modCluster_self, AMap.get_set_ne _ _ _ h]

theorem State.eventsOnly.stream {s t : State} (h : s.eventsOnly t) (k x : Nat) : t.stream k x = s.stream k x := by
  rw [State.stream, h.cluster, State.stream]

/-! ### Counting the entries of a stream -/

/-- The number of complete entries at the front of a stream's order. -/
def StreamS.ready (t : StreamS) : Nat := (t.begun.takeWhile (·.complete)).length

/-- Before its state changes: the complete entries at its front have left a stream and are counted. -/
def StreamS.counted (t : StreamS) : StreamS := { t with begun := t.begun.drop t.ready, doneCnt := (t.doneCnt + t.ready) % 65536 }

theorem StreamS.count_eq (t : StreamS) (period : Nat) : t.count period =
    if t.st = .draining ∧ t.begun.drop t.ready = [] then
      match t.pend with
      | some (e, n) => t.counted.takeArm e n period
      | none => { t.counted with st := .done }
    else t.counted := by rfl

theorem StreamS.begun_drop_ready_eq_nil_iff (t : StreamS) : t.begun.drop t.ready = [] ↔ t.ready = t.begun.length := by
  have hle : t.ready ≤ t.begun.length := (List.takeWhile_sublist _).length_le
  rw [List.drop_eq_nil_iff]
  omega

section
variable {t : StreamS} (period : Nat)

theorem StreamS.count_counts : (t.count period).begun = t.begun.drop t.ready ∧
    (t.count period).doneCnt = (t.doneCnt + t.ready) % 65536 := by
  rw [StreamS.count_eq]
  split
  · split <;> exact ⟨rfl, rfl⟩
  · exact ⟨rfl, rfl⟩

theorem StreamS.count_of_left (h : t.st ≠ .draining ∨ t.ready < t.begun.length) : (t.count period).st = t.st := by
  rw [StreamS.count_eq, if_neg]
  · rfl
  · rw [t.begun_drop_ready_eq_nil_iff]
    rintro ⟨hst, hall⟩
    exact h.elim (absurd hst) (by omega)

variable (hst : t.st = .draining) (hall : t.ready = t.begun.length)
include hst hall

theorem StreamS.count_of_last (hp : t.pend = none) : (t.count period).st = .done := by
  rw [StreamS.count_eq, if_pos ⟨hst, t.begun_drop_ready_eq_nil_iff.2 hall⟩, hp]

theorem StreamS.count_of_last_pending {e n : Nat} (hp : t.pend = some (e, n)) : t.count period = t.counted.takeArm e n period := by
  rw [StreamS.count_eq, if_pos ⟨hst, t.begun_drop_ready_eq_nil_iff.2 hall⟩, hp]
end

/-! ### The entries whose work is done (R179) -/

/-- Whether a begun entry of a stream is complete by now. -/
def State.begunDone (s : State) (k x : Nat) (b : Begun) : Bool := b.complete || s.entryDone k x b.seq

/-- A stream with its entries marked that are complete by now. -/
def State.marked (s : State) (k x : Nat) : StreamS :=
  { s.stream k x with begun := (s.stream k x).begun.map fun b => { b with complete := s.begunDone k x b } }

theorem State.ready_marked (s : State) (k x : Nat) :
    (s.marked k x).ready = ((s.stream k x).begun.takeWhile (s.begunDone k x)).length := by
  simp only [StreamS.ready, State.marked, List.takeWhile_map, List.length_map]
  rfl

/-- Settling a stream marks its entries and counts; what else changes is an event's. -/
theorem State.settle_effect (s : State) (k x : Nat) :
    (s.settle k x).mem = s.mem ∧ (s.settle k x).stream k x = (s.marked k x).count s.dev.period := by
  have hcount := s.eventsOnly_bump .strCntEntries [k]
    ((s.stream k x).begun.filter fun b => !b.complete && s.entryDone k x b.seq).length (s.clusterCtx k) 1 k
  refine ⟨hcount.mem, ?_⟩
  unfold State.settle
  rw [State.stream_modStream_self, hcount.stream, hcount.period, State.marked]
  congr 2
  refine List.map_congr_left fun b hb => ?_
  obtain ⟨n, seq, complete⟩ := b
  cases complete with
  | true => simp [State.begunDone]
  | false => cases hd : s.entryDone k x seq <;> simp [hb, hd, State.begunDone]

/-- With no run waiting at a port, none enters one. -/
theorem State.pumpPorts_of_none {s : State} {k : Nat} (h : ∀ p, AMap.get (s.cluster k).portWait [] p = []) : s.pumpPorts k = s := by
  have hport (p : Nat) : State.pumpPort k p (AMap.get (s.cluster k).portWait [] p).length s = s := by rw [h]; rfl
  unfold State.pumpPorts
  exact List.foldlRecOn (motive := fun t => t = s) _ _ rfl fun t ht p _ => by rw [ht, hport]

/-- Settles O30: the entries are marked and the stream is counted, as `StreamS.count` has it by cases. -/
theorem streamEntriesComplete : Obligations.StreamEntriesComplete := by
  unfold Obligations.StreamEntriesComplete
  intro k x s
  dsimp only
  intro hclock hports
  have hexec : exec (.streamEntryComplete k x) s = .next (s.settle k x) := by
    rw [exec_streamEntryComplete, State.entryComplete, hclock, State.pumpPorts_of_none hports]
    rfl
  obtain ⟨hmem, hstream⟩ := s.settle_effect k x
  have hn := s.ready_marked k x
  have hlen : (s.marked k x).begun.length = (s.stream k x).begun.length := List.length_map _
  obtain ⟨hbegun, hdone⟩ := StreamS.count_counts (t := s.marked k x) s.dev.period
  refine ⟨_, hexec, hmem, ?_, ?_, fun hst hall hp => ?_, fun hst hall e n hp => ?_, fun hleft => ?_⟩ <;> rw [hstream]
  · rw [hdone, hn]; rfl
  · rw [hbegun, hn]; exact (List.map_drop ..).symm
  · exact StreamS.count_of_last _ hst (by rw [hn, hlen]; exact hall) hp
  · rw [StreamS.count_of_last_pending (t := s.marked k x) _ hst (by rw [hn, hlen]; exact hall) hp]
    exact ⟨rfl, rfl, rfl⟩
  · exact StreamS.count_of_left _ (hleft.imp_right fun h => by rw [hn, hlen]; exact h)

end Sys2Proof.Machine
end

section
/-!
PROOFS. What events keep of a context beside its marks: its extent, its program and its state (R281, R284, R286).
-/
namespace Sys2Proof.Machine

/-- A context without what events mark in it: its arming, the faults that wait for CONTEXT_FAULT_HALT, and its taint. -/
def Ctx.unmarked (x : Ctx) : Ctx := { x with arming := none, faults := [], tainted := false, taintFirst := 0, taintLast := 0 }

/-- `t` differs from `s` in events, and no context in more than what they mark in it. -/
structure State.noted (s t : State) : Prop where
  events : s.eventsOnly t
  unmarked : ∀ x, (t.ctx x).unmarked = (s.ctx x).unmarked

theorem State.noted_refl (s : State) : s.noted s := ⟨s.eventsOnly_refl, fun _ => rfl⟩

theorem State.noted.trans {s t u : State} (h : s.noted t) (k : t.noted u) : s.noted u :=
  ⟨State.eventsOnly_trans h.events k.events, fun x => (k.unmarked x).trans (h.unmarked x)⟩

theorem State.noted_setReg (s : State) (n : RegName) (i : List Nat) (v : BitVec 64) : s.noted (s.setReg n i v) :=
  ⟨s.eventsOnly_setReg n i v, fun _ => rfl⟩

theorem State.noted_modCtx {s : State} {c : Nat} {f : Ctx → Ctx} (h : (f (s.ctx c)).unmarked = (s.ctx c).unmarked) :
    s.noted (s.modCtx c f) := by
  refine ⟨s.eventsOnly_modCtx c f, fun x => ?_⟩
  by_cases hx : x = c
  · subst hx; rw [State.modCtx, State.ctx_setCtx_self, h]
  · rw [State.modCtx, State.ctx_setCtx_ne _ _ hx]

theorem State.noted_recordFault (s : State) (n : RegName) (i : List Nat) (valid : Nat) (w : BitVec 64) :
    s.noted (s.recordFault n i valid w) := by
  unfold State.recordFault
  split
  · exact s.noted_refl
  · exact s.noted_setReg _ _ _

theorem State.noted_armTrigger (s : State) (c : Nat) (a : Arming) : s.noted (s.armTrigger c a) :=
  ⟨s.eventsOnly_armTrigger c a,
    (State.noted_modCtx (s := s) (c := c) (f := fun x => { x with arming := some { a with fired := true } }) rfl).unmarked⟩

theorem State.noted_classTriggers (l g : Nat) (cs : List Nat) : ∀ s : State, s.noted (s.classTriggers l g cs) := by
  induction cs with
  | nil => exact State.noted_refl
  | cons c cs ih =>
    intro s
    rw [State.classTriggers]
    split
    · split
      · exact (s.noted_armTrigger c _).trans (ih _)
      · exact ih s
    · exact ih s

theorem State.noted_record (s : State) (code : Nat) (o : Origin) : s.noted (s.record code o) := by
  refine ⟨s.eventsOnly_record code o, fun x => ?_⟩
  unfold State.record
  dsimp only
  split
  · rw [(State.noted_classTriggers _ _ _ _).unmarked]
    split
    · rfl
    · split <;> rfl
  · rfl

theorem State.noted_bump (s : State) (n : RegName) (i : List Nat) (k : Nat) (c : Option Nat) (kind index : Nat) :
    s.noted (s.bump n i k c kind index) := by
  unfold State.bump
  split
  · exact s.noted_refl
  · dsimp only
    refine (s.noted_setReg n i (ctrAdd (s.reg n i) k)).trans ?_
    split
    · exact State.noted_record _ _ _
    · exact State.noted_refl _

theorem State.noted_taint (s : State) (c : Nat) (step : BitVec 64) : s.noted (s.taint c step) :=
  (State.noted_modCtx rfl).trans (State.noted_bump _ _ _ _ _ _ _)

theorem State.noted_raise (s : State) (code : Nat) (o : Origin) : s.noted (s.raise code o) := by
  unfold State.raise
  dsimp only
  refine (s.noted_record code o).trans ?_
  generalize s.record code o = t
  split
  · exact t.noted_refl
  · rename_i c _
    have hfault (u : State) : u.noted (u.modCtx c fun x => { x with faults := x.faults ++ [(code, o.kind, o.srci)] }) :=
      State.noted_modCtx rfl
    split <;> split
    · exact (t.noted_taint c _).trans (hfault _)
    · exact hfault t
    · exact t.noted_taint c _
    · exact t.noted_refl

theorem State.noted_streamFault (s : State) (k code cause stream entry addr : Nat) :
    s.noted (s.streamFault k code cause stream entry addr) :=
  (s.noted_recordFault _ _ _ _).trans (State.noted_raise _ _ _)

/-! ### The context of a cluster -/

/-- What says which clusters belong to a context. -/
def Ctx.extent (x : Ctx) : Bool × Nat × Nat := (x.valid, x.first, x.count)

theorem State.clusterCtx_congr {s t : State} (h : ∀ x, (t.ctx x).extent = (s.ctx x).extent) (k : Nat) :
    t.clusterCtx k = s.clusterCtx k := by
  have hctx (x : Nat) : (t.ctx x).valid = (s.ctx x).valid ∧ (t.ctx x).first = (s.ctx x).first ∧ (t.ctx x).count = (s.ctx x).count := by
    simpa [Ctx.extent] using h x
  unfold State.clusterCtx
  congr 1
  funext x
  obtain ⟨hv, hf, hc⟩ := hctx x
  simp only [hv, hf, hc]

section
variable {s t : State} (h : s.noted t)
include h
/-- What of a context has nothing to do with its marks is kept. -/
theorem State.noted.keeps {α : Type} {g : Ctx → α} (hg : ∀ x : Ctx, g x.unmarked = g x) (x : Nat) : g (t.ctx x) = g (s.ctx x) := by
  rw [← hg, h.unmarked, hg]
theorem State.noted.extent (x : Nat) : (t.ctx x).extent = (s.ctx x).extent := h.keeps (fun _ => rfl) x
theorem State.noted.clusterCtx (k : Nat) : t.clusterCtx k = s.clusterCtx k := State.clusterCtx_congr h.extent k
theorem State.noted.prog (x : Nat) : (t.ctx x).prog = (s.ctx x).prog := h.keeps (g := Ctx.prog) (fun _ => rfl) x
theorem State.noted.slots (x : Nat) : (t.ctx x).slots = (s.ctx x).slots := h.keeps (g := Ctx.slots) (fun _ => rfl) x
theorem State.noted.paceAt (x : Nat) : (t.ctx x).paceAt = (s.ctx x).paceAt := h.keeps (g := Ctx.paceAt) (fun _ => rfl) x
theorem State.noted.halted (x : Nat) : (t.ctx x).halted = (s.ctx x).halted := h.keeps (g := Ctx.halted) (fun _ => rfl) x
theorem State.noted.evhalt (x : Nat) : (t.ctx x).evhalt = (s.ctx x).evhalt := h.keeps (g := Ctx.evhalt) (fun _ => rfl) x
theorem State.noted.stream (k x : Nat) : t.stream k x = s.stream k x := h.events.stream k x
end

/-! ### Event halts (R282) -/

theorem State.haltCores_cluster (cs : List Nat) (k : Nat) : ∀ s : State, (s.haltCores cs).cluster k = s.cluster k := by
  induction cs with
  | nil => exact fun _ => rfl
  | cons c cs ih => exact fun s => ih _

theorem State.haltCores_reg (cs : List Nat) (n : RegName) (i : List Nat) : ∀ s : State, (s.haltCores cs).reg n i = s.reg n i := by
  induction cs with
  | nil => exact fun _ => rfl
  | cons c cs ih => exact fun s => ih _

theorem Core.halt_seqr (k : Core) : k.halt.seqr = k.seqr := by unfold Core.halt; split <;> rfl
theorem Core.halt_sbc (k : Core) : k.halt.sbc = k.sbc := by unfold Core.halt; split <;> rfl

theorem State.haltCores_core (cs : List Nat) (d : Nat) : ∀ s : State, ((s.haltCores cs).core d).seqr = (s.core d).seqr ∧
    ((s.haltCores cs).core d).sbc = (s.core d).sbc ∧ (d ∉ cs → (s.haltCores cs).core d = s.core d) := by
  induction cs with
  | nil => exact fun _ => ⟨rfl, rfl, fun _ => rfl⟩
  | cons c cs ih =>
    intro s
    obtain ⟨hseqr, hsbc, hkept⟩ := ih (s.modCore c Core.halt)
    rw [State.haltCores, hseqr, hsbc]
    by_cases hd : d = c
    · subst hd
      rw [State.core_modCore_self]
      exact ⟨Core.halt_seqr _, Core.halt_sbc _, fun h => absurd List.mem_cons_self h⟩
    · rw [State.core_modCore_ne _ _ hd] at *
      exact ⟨rfl, rfl, fun h => hkept fun hm => h (List.mem_cons_of_mem c hm)⟩

section
variable (s : State) (c : Nat)

theorem State.eventHalt_mem : (s.eventHalt c).mem = s.mem := s.haltCtx_mem c
theorem State.eventHalt_cluster (k : Nat) : (s.eventHalt c).cluster k = s.cluster k := State.haltCores_cluster _ _ _
theorem State.eventHalt_reg (n : RegName) (i : List Nat) : (s.eventHalt c).reg n i = s.reg n i := State.haltCores_reg _ _ _ _
theorem State.eventHalt_core (d : Nat) : ((s.eventHalt c).core d).seqr = (s.core d).seqr ∧
    ((s.eventHalt c).core d).sbc = (s.core d).sbc ∧ (d ∉ (s.ctx c).slots → (s.eventHalt c).core d = s.core d) :=
  State.haltCores_core _ _ _
theorem State.eventHalt_ctx_self : (s.eventHalt c).ctx c = { s.ctx c with halted := true, evhalt := true } := by
  rw [State.eventHalt, State.modCtx, State.ctx_setCtx_self, State.haltCtx_ctx_self]
theorem State.eventHalt_ctx_ne {d : Nat} (h : d ≠ c) : (s.eventHalt c).ctx d = s.ctx d := by
  rw [State.eventHalt, State.modCtx, State.ctx_setCtx_ne _ _ h, State.haltCtx_ctx_ne _ h]
theorem State.eventHalt_extent (d : Nat) : ((s.eventHalt c).ctx d).extent = (s.ctx d).extent := by
  by_cases hd : d = c
  · subst hd; rw [State.eventHalt_ctx_self]; rfl
  · rw [State.eventHalt_ctx_ne _ _ hd]
end

end Sys2Proof.Machine
end

section
/-!
PROOFS. Deadlocks of streams (R185), boundaries of paced contexts (R188), and refreshes (R162).
-/
namespace Sys2Proof.Machine

theorem exec_deadlockScan (k : ClusterId) (s : State) : exec (.deadlockScan k) s = .next (s.deadlockScan k) := by rfl
theorem exec_paceBoundary (c : CtxId) (s : State) : exec (.paceBoundary c) s = .next (s.paceBoundary c) := by rfl
theorem exec_hbmRefresh (n : StackId) (temp : Nat) (s : State) :
    exec (.hbmRefresh ⟨n, temp⟩) s = .next (s.powered fun s => s.refresh n temp) := by rfl

/-! ### The wait-for records (R185) -/

section
variable {s t : State} (h : s.noted t) (k : Nat)
include h

theorem State.noted.waitHolds (e : Entry) : t.waitHolds k e = s.waitHolds k e := by
  unfold State.waitHolds
  simp only [h.stream, h.clusterCtx, h.prog, h.events.flow]

theorem State.noted.armHolds (z : StreamS) : t.armHolds k z = s.armHolds k z := by
  unfold State.armHolds
  simp only [h.stream]

/-- Events change no edge of a wait-for record. -/
theorem State.noted.waitEdges : t.waitEdges k = s.waitEdges k := by
  funext x
  simp only [State.waitEdges, h.stream, h.events.cluster, h.waitHolds, h.armHolds]

theorem State.noted.cycle : t.cycle k = s.cycle k := by
  have hfrom (n : Nat) : ∀ l, t.awaitedFrom k n l = s.awaitedFrom k n l := by
    induction n with
    | zero => exact fun _ => rfl
    | succ n ih => intro l; rw [State.awaitedFrom, State.awaitedFrom, h.waitEdges, ih]
  have hawaits : t.awaits k = s.awaits k := by
    funext x
    rw [State.awaits, h.waitEdges, hfrom, State.awaits]
  funext x
  unfold State.cycle
  rw [hawaits]
end

/-! ### Reporting a cycle (R185) -/

/-- The streams of a list enter FAULTED. -/
def State.faultStreams (s : State) (k : Nat) (l : List Nat) : State :=
  l.foldl (fun t y => t.modStream k y fun z => { z with st := .faulted }) s

theorem State.faultStreams_mem (s : State) (k : Nat) (l : List Nat) : (s.faultStreams k l).mem = s.mem := by
  unfold State.faultStreams
  refine foldl_keeps State.mem (fun _ _ => ?_) l s
  rfl
theorem State.faultStreams_ctx (s : State) (k : Nat) (l : List Nat) (c : Nat) : (s.faultStreams k l).ctx c = s.ctx c := by
  unfold State.faultStreams
  refine foldl_keeps (fun t : State => t.ctx c) (fun _ _ => ?_) l s
  rfl

/-- Streams in FAULTED stay there, and those of the list enter it. -/
theorem State.faultStreams_faulted {s : State} {k y : Nat} {l : List Nat} (h : y ∈ l ∨ (s.stream k y).st = .faulted) :
    ((s.faultStreams k l).stream k y).st = .faulted := by
  induction l generalizing s with
  | nil => exact h.resolve_left List.not_mem_nil
  | cons z l ih =>
    refine ih ?_
    by_cases hy : y = z
    · subst hy; exact .inr (by rw [State.stream_modStream_self])
    · rw [State.stream_modStream_ne _ _ hy]
      exact h.imp_left fun hm => (List.mem_cons.1 hm).resolve_left hy

/-- A context has been halted by an event (R282). -/
def State.eventHalted (s : State) (c : Nat) : Prop := (s.ctx c).evhalt = true ∧ (s.ctx c).halted = true

/-- An event halts the context of its source, if the source has one. -/
def State.haltOwner (s : State) : Option Nat → State
  | some c => s.eventHalt c
  | none => s

section
variable (s : State) (o : Option Nat)

theorem State.haltOwner_mem : (s.haltOwner o).mem = s.mem := by
  cases o with
  | none => rfl
  | some c => exact s.eventHalt_mem c

theorem State.haltOwner_stream (k x : Nat) : (s.haltOwner o).stream k x = s.stream k x := by
  cases o with
  | none => rfl
  | some c => rw [State.haltOwner, State.stream, State.eventHalt_cluster, State.stream]

theorem State.haltOwner_extent (d : Nat) : ((s.haltOwner o).ctx d).extent = (s.ctx d).extent := by
  cases o with
  | none => rfl
  | some c => exact s.eventHalt_extent c d

theorem State.haltOwner_halts (c : Nat) : (s.haltOwner (some c)).eventHalted c := by
  rw [State.haltOwner, State.eventHalted, State.eventHalt_ctx_self]
  exact ⟨rfl, rfl⟩

variable {s} in
theorem State.haltOwner_eventHalted {d : Nat} (h : s.eventHalted d) : (s.haltOwner o).eventHalted d := by
  cases o with
  | none => exact h
  | some c =>
    by_cases hd : d = c
    · subst hd; exact s.haltOwner_halts d
    · rw [State.haltOwner, State.eventHalted, State.eventHalt_ctx_ne _ _ hd]
      exact h
end

/-- A cycle `l` with stream `x` as its lowest: its streams are FAULTED, and STREAM_DEADLOCK is raised. -/
def State.raiseDeadlock (s : State) (k x : Nat) (l : List Nat) : State := (s.faultStreams k l).streamFault k 0x0202 3 x 0

/-- It is reported, and the context of the cluster halts. -/
def State.reportDeadlock (s : State) (k x : Nat) (l : List Nat) : State :=
  (s.raiseDeadlock k x l).haltOwner ((s.raiseDeadlock k x l).clusterCtx k)

section
variable (s : State) (k x : Nat) (l : List Nat)

theorem State.noted_raiseDeadlock : (s.faultStreams k l).noted (s.raiseDeadlock k x l) := State.noted_streamFault _ _ _ _ _ _ _

theorem State.reportDeadlock_mem : (s.reportDeadlock k x l).mem = s.mem := by
  rw [State.reportDeadlock, State.haltOwner_mem, (s.noted_raiseDeadlock k x l).events.mem, State.faultStreams_mem]

theorem State.raiseDeadlock_extent (c : Nat) : ((s.raiseDeadlock k x l).ctx c).extent = (s.ctx c).extent := by
  rw [(s.noted_raiseDeadlock k x l).extent, State.faultStreams_ctx]

theorem State.reportDeadlock_extent (c : Nat) : ((s.reportDeadlock k x l).ctx c).extent = (s.ctx c).extent := by
  rw [State.reportDeadlock, State.haltOwner_extent, State.raiseDeadlock_extent]

theorem State.reportDeadlock_stream (y : Nat) : (s.reportDeadlock k x l).stream k y = (s.faultStreams k l).stream k y := by
  rw [State.reportDeadlock, State.haltOwner_stream, (s.noted_raiseDeadlock k x l).stream]

variable {s k}

theorem State.reportDeadlock_halts {c : Nat} (h : s.clusterCtx k = some c) : (s.reportDeadlock k x l).eventHalted c := by
  rw [State.reportDeadlock, State.clusterCtx_congr (s.raiseDeadlock_extent k x l) k, h]
  exact State.haltOwner_halts _ c

theorem State.reportDeadlock_eventHalted {c : Nat} (h : s.eventHalted c) : (s.reportDeadlock k x l).eventHalted c := by
  have hnoted := s.noted_raiseDeadlock k x l
  refine State.haltOwner_eventHalted _ ?_
  rw [State.eventHalted, hnoted.evhalt, hnoted.halted, State.faultStreams_ctx]
  exact h
end

/-! ### The scan (R185) -/

/-- The scan of `s` comes to stream `x`, in state `t`. -/
def State.scanStream (s : State) (k : Nat) (t : State) (x : Nat) : State :=
  if s.cycle k x ≠ [] ∧ (s.cycle k x).all (fun y => decide (x ≤ y)) then t.reportDeadlock k x (s.cycle k x) else t

/-- The scan is counted; then every stream's record is looked at, as it was before the scan. -/
theorem State.deadlockScan_eq {s : State} {k : Nat} (h : s.regionStopped k = false) :
    ∃ t, s.noted t ∧ s.deadlockScan k = (List.range 64).foldl (s.scanStream k) t := by
  have hcounted := s.noted_bump .strCntScans [k] 1 (s.clusterCtx k) 1 k
  refine ⟨_, hcounted, ?_⟩
  have hstep : s.scanStream k = (s.bump .strCntScans [k] 1 (s.clusterCtx k) 1 k).scanStream k := by
    funext t x
    rw [State.scanStream, State.scanStream, hcounted.cycle]
  rw [hstep, State.deadlockScan, if_neg (by rw [h]; decide)]
  generalize s.bump .strCntScans [k] 1 (s.clusterCtx k) 1 k = t
  generalize List.range 64 = l
  unfold State.scanStream State.reportDeadlock State.raiseDeadlock State.faultStreams
  refine congrArg (fun f => l.foldl f t) (funext fun u => funext fun x => ?_)
  dsimp only
  generalize State.streamFault _ k 0x0202 3 x 0 = v
  cases v.clusterCtx k <;> rfl

section
variable (s t : State) (k x : Nat)

theorem State.scanStream_mem : (s.scanStream k t x).mem = t.mem := by
  unfold State.scanStream
  split
  · exact t.reportDeadlock_mem k x _
  · rfl

theorem State.scanStream_clusterCtx : (s.scanStream k t x).clusterCtx k = t.clusterCtx k := by
  unfold State.scanStream
  split
  · exact State.clusterCtx_congr (t.reportDeadlock_extent k x _) k
  · rfl

variable {s t k x}

theorem State.scanStream_of_no_cycle (h : s.cycle k x = []) : s.scanStream k t x = t := if_neg fun hc => hc.1 h

theorem State.scanStream_of_lowest (h : s.cycle k x ≠ []) (hx : ∀ y ∈ s.cycle k x, x ≤ y) :
    s.scanStream k t x = t.reportDeadlock k x (s.cycle k x) := if_pos ⟨h, List.all_eq_true.2 fun y hy => decide_eq_true (hx y hy)⟩

/-- No later report takes a stream out of FAULTED. -/
theorem State.scanStream_faulted {y : Nat} (h : (t.stream k y).st = .faulted) : ((s.scanStream k t x).stream k y).st = .faulted := by
  unfold State.scanStream
  split
  · rw [State.reportDeadlock_stream]
    exact State.faultStreams_faulted (.inr h)
  · exact h

theorem State.scanStream_eventHalted {c : Nat} (h : t.eventHalted c) : (s.scanStream k t x).eventHalted c := by
  unfold State.scanStream
  split
  · exact State.reportDeadlock_eventHalted x _ h
  · exact h
end

section
variable {s : State} {k : Nat} (h : s.regionStopped k = false)
include h

theorem State.deadlockScan_mem : (s.deadlockScan k).mem = s.mem := by
  obtain ⟨t, hnoted, heq⟩ := State.deadlockScan_eq h
  rw [heq, foldl_keeps State.mem (fun u x => s.scanStream_mem u k x), hnoted.events.mem]

theorem State.deadlockScan_of_no_cycle (hnone : ∀ x, x < 64 → s.cycle k x = []) : (s.deadlockScan k).cluster k = s.cluster k := by
  obtain ⟨t, hnoted, heq⟩ := State.deadlockScan_eq h
  have hscan : (List.range 64).foldl (s.scanStream k) t = t :=
    List.foldlRecOn (motive := fun u => u = t) _ _ rfl fun u hu x hx => by
      rw [hu, State.scanStream_of_no_cycle (hnone x (List.mem_range.1 hx))]
  rw [heq, hscan, hnoted.events.cluster]

/-- The report of a cycle, when the scan comes to its lowest stream, stands to the end of the scan. -/
theorem State.deadlockScan_of_cycle {x : Nat} (hx : x < 64) (hcycle : s.cycle k x ≠ []) (hlow : ∀ y ∈ s.cycle k x, x ≤ y) :
    (∀ y ∈ s.cycle k x, ((s.deadlockScan k).stream k y).st = .faulted) ∧
      ∀ c, s.clusterCtx k = some c → (s.deadlockScan k).eventHalted c := by
  obtain ⟨t, hnoted, heq⟩ := State.deadlockScan_eq h
  rw [heq]
  refine foldl_reaches (I := fun u : State => u.clusterCtx k = s.clusterCtx k)
    (P := fun u => (∀ y ∈ s.cycle k x, (u.stream k y).st = .faulted) ∧ ∀ c, s.clusterCtx k = some c → u.eventHalted c)
    (fun u z hu => (s.scanStream_clusterCtx u k z).trans hu) (fun u z _ hu => ?_) (List.mem_range.2 hx) (fun u hu => ?_)
    (hnoted.clusterCtx k)
  · obtain ⟨hfaulted, hhalted⟩ := hu
    exact ⟨fun y hy => State.scanStream_faulted (hfaulted y hy), fun c hc => State.scanStream_eventHalted (hhalted c hc)⟩
  · rw [State.scanStream_of_lowest hcycle hlow]
    refine ⟨fun y hy => ?_, fun c hc => State.reportDeadlock_halts x _ (hu.trans hc)⟩
    rw [State.reportDeadlock_stream]
    exact State.faultStreams_faulted (.inl hy)
end

/-! ### Boundaries of a paced context (R188) -/

theorem State.core_foldl_modCore {f : Core → Core} {l : List Nat} (hn : l.Nodup) (d : Nat) (s : State) :
    (l.foldl (fun s k => s.modCore k f) s).core d = if d ∈ l then f (s.core d) else s.core d := by
  induction l generalizing s with
  | nil => rfl
  | cons c l ih =>
    obtain ⟨hc, hn⟩ := List.nodup_cons.1 hn
    rw [List.foldl_cons, ih hn]
    by_cases hd : d = c
    · subst hd
      rw [if_neg hc, if_pos List.mem_cons_self, State.core_modCore_self]
    · simp only [State.core_modCore_ne _ _ hd, List.mem_cons, hd, false_or]

theorem State.paceBoundary_of_not_due {s : State} {c : Nat} (h : s.paceDue c = false) : s.paceBoundary c = s :=
  if_pos (by rw [h]; decide)

/-- The next boundary of a context is counted, and reaches every core of the context. -/
def State.issueBoundary (s : State) (c : Nat) : State :=
  (s.ctx c).slots.foldl (fun s k => s.modCore k Core.boundary)
    ((s.modCtx c fun x => { x with paceAt := x.paceAt + x.period }).setField .paceBound [c] 47 0 (s.field .paceBound [c] 47 0 + 1))

section
variable (s : State) (c : Nat)

theorem State.issueBoundary_mem : (s.issueBoundary c).mem = s.mem := by
  unfold State.issueBoundary
  rw [foldl_keeps State.mem fun _ _ => State.modCore_mem _ _ _]
  rfl

theorem State.issueBoundary_ctx : (s.issueBoundary c).ctx c = { s.ctx c with paceAt := (s.ctx c).paceAt + (s.ctx c).period } := by
  unfold State.issueBoundary
  rw [foldl_keeps (fun t : State => t.ctx c) fun _ _ => State.modCore_ctx _ _ _ _, State.setField_ctx]
  exact State.ctx_setCtx_self _ _ _

theorem State.issueBoundary_count :
    wbits ((s.issueBoundary c).reg .paceBound [c]) 47 0 = (s.field .paceBound [c] 47 0 + 1) % 2 ^ 48 := by
  unfold State.issueBoundary
  rw [foldl_keeps (fun t : State => t.reg .paceBound [c]) fun _ _ => State.modCore_reg _ _ _ _ _, State.setField, State.reg_setReg_self]
  exact wbits_wput_self _ _ (by decide) (by decide)

variable {s c}

theorem State.issueBoundary_core (hn : (s.ctx c).slots.Nodup) (d : Nat) :
    (s.issueBoundary c).core d = if d ∈ (s.ctx c).slots then (s.core d).boundary else s.core d := State.core_foldl_modCore hn d _

/-- Boundary `b` has found the core of a slot late (R190): it is counted, recorded and raised. -/
def State.lateBoundary (s : State) (c slot b : Nat) : State :=
  ((s.bump .paceMiss [c] 1 (some c) 10 0).recordFault .paceLate [c] 63 (word [(slot, 48), (b % 2 ^ 48, 0)])).raise 0x0701
    { kind := 10, index := 0, ctx := some c }

theorem State.noted_lateBoundary (s : State) (c slot b : Nat) : s.noted (s.lateBoundary c slot b) :=
  ((s.noted_bump _ _ _ _ _ _).trans (State.noted_recordFault _ _ _ _ _)).trans (State.noted_raise _ _ _)

theorem State.lateBoundary_count (s : State) (c slot b : Nat) : (s.lateBoundary c slot b).reg .paceBound [c] = s.reg .paceBound [c] := by
  have hrecord (t : State) (w : BitVec 64) : (t.recordFault .paceLate [c] 63 w).reg .paceBound [c] = t.reg .paceBound [c] := by
    unfold State.recordFault
    split
    · rfl
    · exact t.reg_setReg_ne _ (by simp)
  rw [State.lateBoundary, State.reg_raise _ _ _ _ (by decide) (by decide), hrecord, State.reg_bump _ _ _ _ _ _ _ _ (by decide) (by simp)]

/-- A boundary that finds a core late is an event too, and halts the context where PACE_CFG asks for it (R190). -/
theorem State.paceBoundary_cases (h : s.paceDue c = true) : ∃ t, (s.issueBoundary c).noted t ∧
    t.reg .paceBound [c] = (s.issueBoundary c).reg .paceBound [c] ∧ (s.paceBoundary c = t ∨ s.paceBoundary c = t.eventHalt c) := by
  unfold State.paceBoundary
  dsimp only
  rw [if_neg (by rw [h]; decide)]
  split
  · exact ⟨_, State.noted_refl _, rfl, .inl rfl⟩
  · rename_i slot _ _
    refine ⟨_, State.noted_lateBoundary _ c slot (s.field .paceBound [c] 47 0 + 1), State.lateBoundary_count _ _ _ _, ?_⟩
    split
    · exact .inr rfl
    · exact .inl rfl
end

/-- Lateness, and the halt that may follow, take nothing back of the boundary. -/
theorem State.paceBoundary_effect {s : State} {c : Nat} (h : s.paceDue c = true) :
    (s.paceBoundary c).mem = (s.issueBoundary c).mem ∧
      ((s.paceBoundary c).ctx c).paceAt = ((s.issueBoundary c).ctx c).paceAt ∧
      (s.paceBoundary c).reg .paceBound [c] = (s.issueBoundary c).reg .paceBound [c] ∧
      ∀ d, ((s.paceBoundary c).core d).seqr = ((s.issueBoundary c).core d).seqr ∧
        ((s.paceBoundary c).core d).sbc = ((s.issueBoundary c).core d).sbc ∧
        (d ∉ (s.ctx c).slots → (s.paceBoundary c).core d = (s.issueBoundary c).core d) := by
  obtain ⟨t, hnoted, hreg, heq⟩ := State.paceBoundary_cases h
  have hslots : (t.ctx c).slots = (s.ctx c).slots := by rw [hnoted.slots, State.issueBoundary_ctx]
  rw [← hnoted.events.mem, ← hnoted.paceAt, ← hreg, ← hslots]
  simp only [← hnoted.events.core]
  obtain heq | heq := heq <;> rw [heq]
  · exact ⟨rfl, rfl, rfl, fun d => ⟨rfl, rfl, fun _ => rfl⟩⟩
  · exact ⟨t.eventHalt_mem c, by rw [State.eventHalt_ctx_self], t.eventHalt_reg c _ _, t.eventHalt_core c⟩

/-! ### Refresh (R162) -/

/-- A field above the one that has been put is as it was. -/
theorem wbits_wput_above (w : BitVec 64) {hi lo hi' lo' : Nat} (v : Nat) (h : hi' < lo) (hlo' : lo' ≤ hi') (hhi : hi' < 64) :
    wbits (wput w hi' lo' v) hi lo = wbits w hi lo := by
  have hsplit : 2 ^ lo = 2 ^ lo' * 2 ^ (hi' + 1 - lo') * 2 ^ (lo - (hi' + 1)) := by
    rw [← Nat.pow_add, ← Nat.pow_add]
    congr 1
    omega
  simp only [wbits, bits]
  rw [hsplit, ← Nat.div_div_eq_div_mul, ← Nat.div_div_eq_div_mul, ← Nat.div_div_eq_div_mul, ← Nat.div_div_eq_div_mul,
    wput_toNat w v hlo' hhi, Nat.mul_add_div (Nat.two_pow_pos lo'), Nat.div_eq_of_lt (Nat.mod_lt _ (Nat.two_pow_pos lo')), Nat.add_zero,
    Nat.mul_add_div (Nat.two_pow_pos _), Nat.div_eq_of_lt (Nat.mod_lt _ (Nat.two_pow_pos _)), Nat.add_zero]

/-- What of a core a delay of memory keeps: its beat, its state, its vector unit and its queues. -/
def Core.undelayed (q : Core) : Nat × CoreSt × VecS × AMap Nat (List QEntry) := (q.sbc, q.st, q.vec, q.seqr.queues)

/-- A delay of memory moves no data and writes no register; of a core it touches the origin of its freeze (R61). -/
theorem State.delay_keeps (s : State) (origin : Nat) (p : Nat → Bool) :
    (s.delay origin p).mem = s.mem ∧ (s.delay origin p).bad = s.bad ∧ (s.delay origin p).nv = s.nv ∧
      (∀ n i, (s.delay origin p).reg n i = s.reg n i) ∧ ∀ d, ((s.delay origin p).core d).undelayed = (s.core d).undelayed := by
  have hkeeps {β : Type} (P : State → β)
      (h : ∀ (t : State) c, P (t.modCore c fun q => q.modSeq fun z => { z with frz := z.frz.map fun f => { f with origin := some origin } }) = P t) :
      P (s.delay origin p) = P s := by
    unfold State.delay
    refine foldl_keeps P (fun t c => ?_) _ s
    split
    · exact h t c
    · rfl
  refine ⟨hkeeps State.mem fun _ _ => rfl, hkeeps State.bad fun _ _ => rfl, hkeeps State.nv fun _ _ => rfl,
    fun n i => hkeeps (fun t => t.reg n i) fun _ _ => rfl, fun d => hkeeps (fun t => (t.core d).undelayed) fun t c => ?_⟩
  by_cases hd : d = c
  · subst hd; rw [State.core_modCore_self]; rfl
  · rw [State.core_modCore_ne _ _ hd]

/-- A stack shows its temperature and, above 85 °C, its doubled refresh rate. -/
def State.reportTemp (s : State) (n temp : Nat) : State :=
  (s.setField .hbmStatus [n] 11 4 temp).setField .hbmStatus [n] 3 3 (b2n (decide (85 < temp)))

theorem State.refresh_eq (s : State) (n temp : Nat) : s.refresh n temp = (s.reportTemp n temp).delay 0 (s.granIn n) := rfl

theorem State.reportTemp_status (s : State) (n temp : Nat) : (s.reportTemp n temp).reg .hbmStatus [n] =
    wput (wput (s.reg .hbmStatus [n]) 11 4 temp) 3 3 (b2n (decide (85 < temp))) := by
  simp only [State.reportTemp, State.setField, State.reg_setReg_self]

theorem State.refresh_fields (s : State) (n temp : Nat) :
    (s.refresh n temp).field .hbmStatus [n] 11 4 = temp % 256 ∧
      (s.refresh n temp).field .hbmStatus [n] 3 3 = if 85 < temp then 1 else 0 := by
  obtain ⟨-, -, -, hreg, -⟩ := (s.reportTemp n temp).delay_keeps 0 (s.granIn n)
  rw [s.refresh_eq, State.field, State.field, hreg, State.reportTemp_status]
  constructor
  · rw [wbits_wput_above _ _ (by decide) (by decide) (by decide)]
    exact wbits_wput_self _ _ (by decide) (by decide)
  · rw [wbits_wput_self _ _ (by decide) (by decide)]
    by_cases h : 85 < temp <;> simp [h, b2n]

/-- What a refresh reports is a register word's, and all else it does is a delay. -/
theorem State.refresh_keeps (s : State) (n temp : Nat) :
    (s.refresh n temp).mem = s.mem ∧ (s.refresh n temp).bad = s.bad ∧ (s.refresh n temp).nv = s.nv ∧
      ∀ d, ((s.refresh n temp).core d).undelayed = (s.core d).undelayed := by
  obtain ⟨hmem, hbad, hnv, -, hcore⟩ := (s.reportTemp n temp).delay_keeps 0 (s.granIn n)
  exact ⟨hmem, hbad, hnv, hcore⟩

/-- Settles O32: what the report of a cycle sets, no later report takes back; lateness takes nothing back of a boundary; and a refresh is
a delay beside its two fields of HBM_STATUS. -/
theorem deadlocksBoundariesAndRefresh : Obligations.DeadlocksBoundariesAndRefresh := by
  unfold Obligations.DeadlocksBoundariesAndRefresh
  refine ⟨fun k s hclock => ?_, fun c s hdue => ?_, fun c s hdue hn => ?_, fun n temp s hrails => ?_⟩
  · exact ⟨_, exec_deadlockScan k s, State.deadlockScan_mem hclock, State.deadlockScan_of_no_cycle hclock,
      fun x hx hcycle hlow => State.deadlockScan_of_cycle hclock hx hcycle hlow⟩
  · rw [exec_paceBoundary, State.paceBoundary_of_not_due hdue]
  · obtain ⟨hmem, hat, hreg, hcore⟩ := State.paceBoundary_effect hdue
    refine ⟨_, exec_paceBoundary c s, hmem.trans (s.issueBoundary_mem c), ?_, ?_, fun d hd => ?_, fun d hd => ?_⟩
    · rw [hat, State.issueBoundary_ctx]
    · rw [State.field, hreg, State.issueBoundary_count]
    · obtain ⟨hseqr, hsbc, -⟩ := hcore d
      rw [hseqr, hsbc, State.issueBoundary_core hn, if_pos hd]
      exact ⟨rfl, rfl⟩
    · obtain ⟨-, -, hkept⟩ := hcore d
      rw [hkept hd, State.issueBoundary_core hn, if_neg hd]
  · obtain ⟨hmem, hbad, hnv, hcore⟩ := s.refresh_keeps n temp
    obtain ⟨htemp, hdouble⟩ := s.refresh_fields n temp
    refine ⟨s.refresh n temp, ?_, hmem, hbad, hnv, fun h => htemp.trans (Nat.mod_eq_of_lt h), hdouble, fun d => ?_⟩
    · rw [exec_hbmRefresh, State.powered, if_pos hrails]
    · simpa [Core.undelayed] using hcore d

end Sys2Proof.Machine
end

section
/-!
PROOFS. The step of a queue that is not empty, and the machine right after power-up: the front command is run, the stores of bytes are
canonical, the registers of start-up hold their reset values (R290).
-/
namespace Sys2Proof.Machine

/-- Settles O1: a step on a queue that is not empty is the command at its front. -/
theorem stepRunsTheFrontCommand : Obligations.StepRunsTheFrontCommand := by
  unfold Obligations.StepRunsTheFrontCommand
  intro i q s hs
  simp only [step, hs, State.withPending]

/-- Settles O6: after reset no byte of any store is listed. -/
theorem resetIsCanonical : Obligations.ResetIsCanonical := by
  unfold Obligations.ResetIsCanonical
  refine ⟨rfl, rfl, rfl, ?_⟩
  intro p hp
  cases hp

/-- Settles O3: nothing has been stored at reset, so each register reads its reset value, and each unit is in its first state. -/
theorem resetIsBoot : Obligations.ResetIsBoot := by
  unfold Obligations.ResetIsBoot
  exact ⟨rfl, by decide, by decide, by decide, by decide, by decide, by decide, by decide, fun _ => rfl, fun _ => ⟨rfl, rfl⟩,
    fun _ => rfl, rfl⟩

end Sys2Proof.Machine
end

section
/-!
PROOFS. MSI-X vectors (R249): what one raise does in each state of the table, what a masked vector leaves that has been raised any number
of times, and what its unmasking sends.
-/
namespace Sys2Proof.Machine

theorem mem_insertNat (l : List Nat) (a x : Nat) : x ∈ insertNat l a ↔ x = a ∨ x ∈ l := by
  induction l with
  | nil => simp [insertNat]
  | cons b r ih =>
    rw [insertNat]
    split
    · rename_i h
      simp [h]
    · split
      · simp
      · simp [ih]; tauto

theorem not_mem_removeNat (l : List Nat) (a : Nat) : a ∉ removeNat l a := by simp [removeNat]

section
variable (s : State) (v : Nat)

theorem State.vector_off (h : s.host.msixOn = false) : s.vector v = s := by
  simp [State.vector, HostSide.raise, h]

theorem State.vector_unmasked (h : s.host.msixOn = true) (hv : v ∈ s.host.unmasked) :
    s.vector v = { s with host := { s.host with sent := s.host.sent ++ [v] } } := by
  simp [State.vector, HostSide.raise, h, hv]

theorem State.vector_masked (h : s.host.msixOn = true) (hv : v ∉ s.host.unmasked) :
    s.vector v = { s with host := { s.host with pending := insertNat s.host.pending v } } := by
  simp [State.vector, HostSide.raise, h, hv]

/-- A masked vector that has been raised `n` times: only its pending bit may differ. -/
theorem State.raised_masked (h : s.host.msixOn = true) (hv : v ∉ s.host.unmasked) (n : Nat) :
    ∃ l, (List.range n).foldl (fun s _ => s.vector v) s = { s with host := { s.host with pending := l } } ∧
      (v ∈ l ↔ 0 < n ∨ v ∈ s.host.pending) := by
  induction n with
  | zero => exact ⟨s.host.pending, rfl, by simp⟩
  | succ n ih =>
    obtain ⟨l, hl, hmem⟩ := ih
    refine ⟨insertNat l v, ?_, by simp [mem_insertNat]⟩
    rw [List.range_succ, List.foldl_append, hl, List.foldl_cons, List.foldl_nil]
    exact State.vector_masked _ v h hv

end

theorem exec_msixUnmask (fn : Fin 2) (v : Fin 2048) (s : State) :
    exec (.msixUnmask fn v) s = .next (s.hosted fun s => s.unmask (v + 2048 * fn)) := rfl

/-- Settles O55: however often a masked vector is raised, its pending bit is all that it leaves, and unmasking sends one message. -/
theorem vectorsAreSentOrHeld : Obligations.VectorsAreSentOrHeld := by
  unfold Obligations.VectorsAreSentOrHeld
  refine ⟨fun s v => ⟨fun h => by rw [s.vector_off v h], s.vector_unmasked v, s.vector_masked v⟩, ?_⟩
  intro s fn v n x held hlinked hon hmasked hfree
  obtain ⟨l, hheld, hmem⟩ := s.raised_masked x hon hmasked n
  have hup : held.linked = true := by rw [show held = _ from hheld]; exact hlinked
  refine ⟨held.unmask x, by rw [exec_msixUnmask, State.hosted, if_pos hup], ?_⟩
  rw [show held = _ from hheld]
  by_cases hn : n = 0
  · have hx : x ∉ l := by simp [hmem, hn, hfree]
    simp [State.unmask, hx, hn, mem_insertNat]
  · have hx : x ∈ l := by simp [hmem]; omega
    simp [State.unmask, hx, hn, hon, mem_insertNat, not_mem_removeNat]

end Sys2Proof.Machine
end

section
/-!
SUPPORT. Reading a register field after a field of the same word, of another word, or a counter has been written; what raising a code
leaves as it was, for `simp`.
-/
namespace Sys2Proof.Machine

section
variable (s : State) {n m : RegName} {i j : List Nat} {hi lo hi' lo' : Nat} (v : Nat)

theorem State.reg_setField_self (n : RegName) (i : List Nat) (hi lo v : Nat) :
    (s.setField n i hi lo v).reg n i = wput (s.reg n i) hi lo v := s.reg_setReg_self n i _

theorem State.reg_setField_ne (h : (m, j) ≠ (n, i)) : (s.setField n i hi lo v).reg m j = s.reg m j := s.reg_setReg_ne _ h

theorem State.field_setField_self (hlo : lo ≤ hi) (hhi : hi < 64) : (s.setField n i hi lo v).field n i hi lo = v % 2 ^ (hi + 1 - lo) := by
  rw [State.field, State.reg_setField_self, wbits_wput_self _ _ hlo hhi]

theorem State.field_setField_below (h : hi < lo') (hlo : lo ≤ hi) (hlo' : lo' ≤ hi') (hhi' : hi' < 64) :
    (s.setField n i hi' lo' v).field n i hi lo = s.field n i hi lo := by
  rw [State.field, State.reg_setField_self, wbits_wput_below _ _ h hlo hlo' hhi', State.field]

theorem State.field_setField_above (h : hi' < lo) (hlo' : lo' ≤ hi') (hhi' : hi' < 64) :
    (s.setField n i hi' lo' v).field n i hi lo = s.field n i hi lo := by
  rw [State.field, State.reg_setField_self, wbits_wput_above _ _ h hlo' hhi', State.field]

theorem State.field_setField_ne (h : (m, j) ≠ (n, i)) : (s.setField n i hi lo v).field m j hi' lo' = s.field m j hi' lo' := by
  rw [State.field, State.reg_setField_ne s v h, State.field]

end

/-! ### Counters (R289) -/

/-- A counter adds and saturates at all-ones of 48 bits. -/
theorem wbits_ctrAdd (w : BitVec 64) (k : Nat) : wbits (ctrAdd w k) 47 0 = min (2 ^ 48 - 1) (wbits w 47 0 + k) := by
  unfold ctrAdd
  dsimp only
  split
  · rw [wbits_wput_self _ _ (by omega) (by omega)]
    omega
  · rename_i h
    have hones : wbits (word [(2 ^ 48 - 1, 0), (1, 63)]) 47 0 = 2 ^ 48 - 1 := by decide
    rw [hones]
    omega

/-- Counting one adds one to the counter, up to all-ones. -/
theorem State.field_bump_self (s : State) (n : RegName) (i : List Nat) (c : Option Nat) (kind index : Nat) (h : n ≠ .hubAlert) :
    (s.bump n i 1 c kind index).field n i 47 0 = min (2 ^ 48 - 1) (s.field n i 47 0 + 1) := by
  have hreg : (s.bump n i 1 c kind index).reg n i = ctrAdd (s.reg n i) 1 := by
    unfold State.bump
    rw [if_neg (by decide)]
    dsimp only
    split
    · rw [State.reg_record _ _ _ _ h, State.reg_setReg_self]
    · rw [State.reg_setReg_self]
  rw [State.field, hreg, wbits_ctrAdd, State.field]

theorem State.field_bump_ne (s : State) {n m : RegName} (i j : List Nat) (k : Nat) (c : Option Nat) (kind index hi lo : Nat)
    (h : n ≠ .hubAlert) (hm : n ≠ m) : (s.bump m j k c kind index).field n i hi lo = s.field n i hi lo := by
  rw [State.field, State.reg_bump _ _ _ _ _ _ _ _ h fun e => hm (congrArg Prod.fst e), State.field]

theorem State.field_raise (s : State) (code : Nat) (o : Origin) {n : RegName} (i : List Nat) (hi lo : Nat) (h : n ≠ .hubAlert)
    (ht : n ≠ .taintCnt) : (s.raise code o).field n i hi lo = s.field n i hi lo := by
  rw [State.field, State.reg_raise _ _ _ _ h ht, State.field]

/-! ### What events leave as it was -/

section
variable (s : State) (code : Nat) (o : Origin) (n : RegName) (i : List Nat) (k : Nat) (x : Option Nat) (kind index : Nat)

@[simp] theorem State.raise_mem : (s.raise code o).mem = s.mem := (s.eventsOnly_raise code o).mem
@[simp] theorem State.raise_nv : (s.raise code o).nv = s.nv := (s.eventsOnly_raise code o).nv
@[simp] theorem State.raise_pending : (s.raise code o).pending = s.pending := (s.eventsOnly_raise code o).pending
@[simp] theorem State.raise_core (c : Nat) : (s.raise code o).core c = s.core c := (s.eventsOnly_raise code o).core c
@[simp] theorem State.raise_mbox (m : Nat) : (s.raise code o).mbox m = s.mbox m := (s.eventsOnly_raise code o).mbox m
@[simp] theorem State.raise_port (p : Nat) : (s.raise code o).port p = s.port p := (s.eventsOnly_raise code o).port p
@[simp] theorem State.raise_flow (f : Nat) : (s.raise code o).flow f = s.flow f := (s.eventsOnly_raise code o).flow f
@[simp] theorem State.raise_link : (s.raise code o).dev.link = s.dev.link := (s.eventsOnly_raise code o).link
@[simp] theorem State.raise_clk : (s.raise code o).dev.clk = s.dev.clk := (s.eventsOnly_raise code o).clk
@[simp] theorem State.raise_tick : (s.raise code o).dev.tick = s.dev.tick := (s.eventsOnly_raise code o).tick
@[simp] theorem State.bump_mem : (s.bump n i k x kind index).mem = s.mem := (s.eventsOnly_bump n i k x kind index).mem
@[simp] theorem State.bump_nv : (s.bump n i k x kind index).nv = s.nv := (s.eventsOnly_bump n i k x kind index).nv
@[simp] theorem State.bump_pending : (s.bump n i k x kind index).pending = s.pending := (s.eventsOnly_bump n i k x kind index).pending
@[simp] theorem State.bump_core (c : Nat) : (s.bump n i k x kind index).core c = s.core c := (s.eventsOnly_bump n i k x kind index).core c
@[simp] theorem State.bump_mbox (m : Nat) : (s.bump n i k x kind index).mbox m = s.mbox m := (s.eventsOnly_bump n i k x kind index).mbox m
@[simp] theorem State.bump_port (p : Nat) : (s.bump n i k x kind index).port p = s.port p := (s.eventsOnly_bump n i k x kind index).port p
@[simp] theorem State.bump_flow (f : Nat) : (s.bump n i k x kind index).flow f = s.flow f := (s.eventsOnly_bump n i k x kind index).flow f
@[simp] theorem State.bump_link : (s.bump n i k x kind index).dev.link = s.dev.link := (s.eventsOnly_bump n i k x kind index).link
@[simp] theorem State.bump_clk : (s.bump n i k x kind index).dev.clk = s.dev.clk := (s.eventsOnly_bump n i k x kind index).clk
@[simp] theorem State.bump_tick : (s.bump n i k x kind index).dev.tick = s.dev.tick := (s.eventsOnly_bump n i k x kind index).tick
end

end Sys2Proof.Machine
end

section
/-!
PROOFS. SESSION_OPEN, ATTEST, PATCH_INSTALL and DEBUG_UNLOCK (R266, R272, R273, R276 to R278): what each does once its turn has come, by
the checks of its proof.
-/
namespace Sys2Proof.Machine

/-! ### The rows -/

theorem exec_sessionOpen (m : MboxId) (s : State) : exec (.sessionOpen m) s = .next (s.sessionOpen m) := by rfl
theorem exec_attest (m : MboxId) (s : State) : exec (.attest m) s = .next (s.attest m) := by rfl
theorem exec_patchInstall (m : MboxId) (s : State) : exec (.patchInstall m) s = .next (s.patchInstall m) := by rfl
theorem exec_debugUnlock (m : MboxId) (s : State) : exec (.debugUnlock m) s = .next (s.debugUnlock m) := by rfl

/-! ### What an answer keeps of a mailbox and of the sessions -/

/-- The binding of a mailbox: its session, EPOCH and last accepted counter (R273). -/
def Mbox.binding (b : Mbox) : Option Nat × Nat × Nat := (b.session, b.epoch, b.lastCtr)

@[simp] theorem State.answer_spdm (s : State) (m : Nat) (a : Accepted) (status : Nat) (payload : List Byte) :
    (s.answer m a status payload).dev.spdm = s.dev.spdm :=
  (congrArg (·.dev.spdm) (s.answer_frame m a status payload)).trans rfl

theorem State.answer_binding (s : State) (m : Nat) (a : Accepted) (status : Nat) (payload : List Byte) (n : Nat) :
    ((s.answer m a status payload).mbox n).binding = (s.mbox n).binding := by
  have hrespond (counter : Nat) (check : List Byte) :
      ((s.respond m a.fn a.seq status payload counter check).mbox n).binding = (s.mbox n).binding := by
    rw [State.respond, State.vector_mbox]
    by_cases h : n = m
    · rw [h, State.mbox_modMbox_self]; rfl
    · rw [State.mbox_modMbox_ne _ _ h]
  unfold State.answer
  split
  · exact hrespond _ _
  · exact hrespond _ _

theorem State.eventsOnly.spdm {s t : State} (h : s.eventsOnly t) : t.dev.spdm = s.dev.spdm := by rw [h.1]

theorem State.eventsOnly_secRaise (s : State) (code : Nat) (o : Origin) : s.eventsOnly (s.secRaise code o) := by
  unfold State.secRaise
  dsimp only
  split
  · exact s.eventsOnly_raise code o
  · exact State.eventsOnly_trans (s.eventsOnly_raise code o) (State.eventsOnly_vector _ _)

theorem State.field_secRaise (s : State) (code : Nat) (o : Origin) {n : RegName} (i : List Nat) (hi lo : Nat) (h : n ≠ .hubAlert)
    (ht : n ≠ .taintCnt) : (s.secRaise code o).field n i hi lo = s.field n i hi lo := by
  unfold State.secRaise
  dsimp only
  split
  · exact s.field_raise code o i hi lo h ht
  · exact s.field_raise code o i hi lo h ht

/-! ### SESSION_OPEN (R273) -/

theorem mem_maskBits {m n : Nat} (h : n < 64) : n ∈ maskBits m ↔ bit m n = true := by simp [maskBits, h]

theorem nodup_maskBits (m : Nat) : (maskBits m).Nodup := List.nodup_range.filter _

section
variable (s : State) (id : Nat)

/-- Bind the mailboxes of a list. -/
def State.bindAll (l : List Nat) : State := l.foldl (fun s n => s.bind id n) s

theorem State.bindAll_mem (l : List Nat) : (s.bindAll id l).mem = s.mem := foldl_keeps State.mem (fun t n => State.modMbox_mem t n _) l s

/-- Each mailbox of the list is bound anew; the others keep their binding. -/
theorem State.bindAll_binding {l : List Nat} (hl : l.Nodup) (n : Nat) : ((s.bindAll id l).mbox n).binding =
    if n ∈ l then (some id, ((s.mbox n).epoch + 1) % 2 ^ 32, 0) else (s.mbox n).binding := by
  induction l generalizing s with
  | nil => rfl
  | cons k l ih =>
    obtain ⟨hk, hl⟩ := List.nodup_cons.mp hl
    rw [State.bindAll, List.foldl_cons, ← State.bindAll, ih _ hl]
    by_cases h : n = k
    · subst h
      simp [hk, State.bind, Mbox.binding]
    · simp [h, State.bind, State.mbox_modMbox_ne _ _ h]

end

section
variable {s : State} {m : Nat} {a : Accepted}

/-- Whether SESSION_OPEN proves to hold the secret of session `x`, under a bind number that rises. -/
def Accepted.proves (a : Accepted) (x : Sess) : Prop := x.bindNo < a.at_ 4 4 ∧
  (hmac (hkdfExpand x.ems (asciiBytes "N2MB-BND") 32) (a.payload.take 16)).take 16 = (a.payload.drop 16).take 16

theorem State.sessionOpen_no_session (hs : s.serves m 0x10 a)
    (hx : s.dev.spdm.sessions.find? (fun x => x.id == a.at_ 0 4 && x.up) = none) : s.sessionOpen m = s.answer m a 0x15 [] := by
  rw [State.sessionOpen, State.serve_of_serves hs]
  dsimp only
  rw [hx]

variable {x : Sess} (hs : s.serves m 0x10 a) (hx : s.dev.spdm.sessions.find? (fun x => x.id == a.at_ 0 4 && x.up) = some x)
include hs hx

theorem State.sessionOpen_unproved (hp : ¬ a.proves x) : s.sessionOpen m =
    ((s.bump .secCntAuthfail [] 1 none 11 m).secRaise 0x0601 { kind := 11, index := m, ctx := none }).answer m a 0x16 [] := by
  rw [State.sessionOpen, State.serve_of_serves hs]
  dsimp only
  rw [hx]
  refine if_pos ?_
  rw [Accepted.proves, not_and_or, Nat.not_lt] at hp
  exact hp

theorem State.sessionOpen_bound (hp : a.proves x) (hb : ∃ n ∈ maskBits (a.at_ 8 8), s.boundElsewhere (a.at_ 0 4) n = true) :
    s.sessionOpen m = s.answer m a 0x24 [] := by
  rw [State.sessionOpen, State.serve_of_serves hs]
  dsimp only
  rw [hx]
  obtain ⟨hno, hmac⟩ := hp
  exact (if_neg (by rw [not_or]; exact ⟨by omega, not_not.mpr hmac⟩)).trans (if_pos (List.any_eq_true.mpr hb))

theorem State.sessionOpen_binds (hp : a.proves x) (hb : ∀ n ∈ maskBits (a.at_ 8 8), s.boundElsewhere (a.at_ 0 4) n = false) :
    ∃ p, s.sessionOpen m =
      ((s.bindAll (a.at_ 0 4) (maskBits (a.at_ 8 8))).modSpdm p).answer m a 0 [] := by
  refine ⟨fun q => { q with sessions := q.sessions.map fun y => if y.id = a.at_ 0 4 then { y with bindNo := a.at_ 4 4 } else y }, ?_⟩
  rw [State.sessionOpen, State.serve_of_serves hs]
  dsimp only
  rw [hx]
  obtain ⟨hno, hmac⟩ := hp
  have hany : ¬ (maskBits (a.at_ 8 8)).any (s.boundElsewhere (a.at_ 0 4)) = true := by
    rw [List.any_eq_true]
    rintro ⟨n, hn, he⟩
    rw [hb n hn] at he
    cases he
  exact (if_neg (by rw [not_or]; exact ⟨by omega, not_not.mpr hmac⟩)).trans (if_neg hany)

end

/-- A proof that fails counts SEC_CNT_AUTHFAIL and is recorded; no binding and no session changes. -/
theorem State.sessionOpen_unproved_effect {s : State} {m : Nat} {a : Accepted} {x : Sess} (hs : s.serves m 0x10 a)
    (hx : s.dev.spdm.sessions.find? (fun x => x.id == a.at_ 0 4 && x.up) = some x) (hp : ¬ a.proves x) :
    ((s.sessionOpen m).mbox m).cmd = none ∧ ((s.sessionOpen m).mbox m).session = (s.mbox m).session ∧
      (s.sessionOpen m).dev.spdm = s.dev.spdm ∧
      (s.sessionOpen m).field .secCntAuthfail [] 47 0 = min (2 ^ 48 - 1) (s.field .secCntAuthfail [] 47 0 + 1) := by
  rw [State.sessionOpen_unproved hs hx hp]
  set b := s.bump .secCntAuthfail [] 1 none 11 m with hb
  set t := b.secRaise 0x0601 { kind := 11, index := m, ctx := none } with ht
  have he : s.eventsOnly t := State.eventsOnly_trans (s.eventsOnly_bump _ _ _ _ _ _) (b.eventsOnly_secRaise _ _)
  refine ⟨(t.answer_mbox m a 0x16 []).1, ?_, ?_, ?_⟩
  · have hbind := t.answer_binding m a 0x16 [] m
    rw [he.mbox] at hbind
    exact congrArg Prod.fst hbind
  · rw [State.answer_spdm, he.spdm]
  · rw [State.answer_field, ht, State.field_secRaise _ _ _ _ _ _ (by decide) (by decide), hb,
      State.field_bump_self _ _ _ _ _ _ (by decide)]

/-- A session that is bound binds exactly the mailboxes of the mask. -/
theorem State.sessionOpen_binds_effect {s : State} {m : Nat} {a : Accepted} {x : Sess} (hs : s.serves m 0x10 a)
    (hx : s.dev.spdm.sessions.find? (fun x => x.id == a.at_ 0 4 && x.up) = some x) (hp : a.proves x)
    (hb : ∀ n ∈ maskBits (a.at_ 8 8), s.boundElsewhere (a.at_ 0 4) n = false) :
    (s.sessionOpen m).mem = s.mem ∧ ∀ n, ((s.sessionOpen m).mbox n).binding =
      if n ∈ maskBits (a.at_ 8 8) then (some (a.at_ 0 4), ((s.mbox n).epoch + 1) % 2 ^ 32, 0) else (s.mbox n).binding := by
  obtain ⟨p, he⟩ := State.sessionOpen_binds hs hx hp hb
  refine ⟨?_, fun n => ?_⟩
  · rw [he, State.answer_mem, State.modSpdm_mem, State.bindAll_mem]
  · rw [he, State.answer_binding, State.modSpdm_mbox, State.bindAll_binding _ _ (nodup_maskBits _)]

/-! ### ATTEST and PATCH_INSTALL (R272, R276) -/

section
variable {s : State} {m : Nat} {a : Accepted}

theorem State.attest_served (h : s.serves m 0x11 a) : s.attest m =
    s.answer m a 0 (s.reportBody (a.payload.take 32) ++ s.aliasSig (s.reportBody (a.payload.take 32))) := State.serve_of_serves h _

theorem State.reportBody_nonce (s : State) (nonce : List Byte) : (s.reportBody nonce).take nonce.length = nonce := by
  simp only [State.reportBody, List.append_assoc, List.take_left']

theorem State.patchInstall_served (h : s.serves m 0x80 a) {d : List Byte}
    (hd : d = Mem.readN s.host.mem (hostKey (a.at_ 12 1) (a.at_ 0 8)) (a.at_ 8 4)) : s.patchInstall m =
    if ¬ a.zero 13 3 ∨ ¬ s.fnOk (a.at_ 12 1) then s.answer m a 0x19 []
    else if a.at_ 8 4 > 65536 then s.answer m a 0x80 []
    else if ¬ s.bundleOk d ∨ bundleLen d ≠ a.at_ 8 4 then s.answer m a 0x80 []
    else if bundleVersion d ≤ s.field .featGen [] 23 16 then s.answer m a 0x81 []
    else ({ s with nv := { s.nv with patch := d } }).answer m a 0 [] := by
  rw [hd]
  exact State.serve_of_serves h _

end

/-! ### DEBUG_UNLOCK (R277, R278) -/

section
variable (s : State)

theorem State.drawNonce_eq : s.drawNonce =
    (List.range 4).foldl (fun t i => t.setReg .secDbgNonce [i] (Config.nonce s.nv.power.draws i))
      (s.modPower fun p => { p with draws := p.draws + 1 }) := rfl

theorem State.drawNonce_mem : s.drawNonce.mem = s.mem := rfl
theorem State.drawNonce_draws : s.drawNonce.nv.power.draws = s.nv.power.draws + 1 := rfl

theorem State.drawNonce_reg_ne {n : RegName} (j : List Nat) (h : n ≠ .secDbgNonce) : s.drawNonce.reg n j = s.reg n j := by
  rw [State.drawNonce_eq]
  exact (foldl_keeps (State.reg · n j) (fun t i => State.reg_setReg_ne t _ fun e => h (congrArg Prod.fst e)) _ _).trans rfl

theorem State.drawNonce_nonce {i : Nat} (h : i < 4) : s.drawNonce.reg .secDbgNonce [i] = Config.nonce s.nv.power.draws i := by
  rw [State.drawNonce_eq]
  generalize (s.modPower fun p => { p with draws := p.draws + 1 }) = t
  have hlist : List.range 4 = [0, 1, 2, 3] := by decide
  rw [hlist]
  simp only [List.foldl_cons, List.foldl_nil]
  obtain rfl | rfl | rfl | rfl : i = 0 ∨ i = 1 ∨ i = 2 ∨ i = 3 := by omega
  all_goals simp [State.reg_setReg_ne]

variable {s} {m : Nat} {a : Accepted}

theorem State.debugUnlock_granted (h : s.serves m 0x90 a) (ht : s.tokenOk a.payload = true) : s.debugUnlock m =
    ((s.setField .secStatus [] 4 4 1).setField .secStatus [] 6 5 (a.at_ 48 1)).drawNonce.answer m a 0 [] :=
  (State.serve_of_serves h _).trans (if_pos ht)

theorem State.debugUnlock_refused (h : s.serves m 0x90 a) (ht : s.tokenOk a.payload = false) : s.debugUnlock m =
    s.drawNonce.answer m a 0x90 [] := (State.serve_of_serves h _).trans (if_neg (by simp [ht]))

/-- Either way a fresh nonce has been drawn from the state in which the scope stands. -/
theorem State.debugUnlock_draws (h : s.serves m 0x90 a) : ∃ (t : State) (status : Nat), s.debugUnlock m = t.drawNonce.answer m a status [] ∧
    t.mem = s.mem ∧ t.nv = s.nv := by
  cases ht : s.tokenOk a.payload with
  | true => exact ⟨_, _, State.debugUnlock_granted h ht, rfl, rfl⟩
  | false => exact ⟨_, _, State.debugUnlock_refused h ht, rfl, rfl⟩

theorem State.debugUnlock_scope (h : s.serves m 0x90 a) (ht : s.tokenOk a.payload = true) :
    (s.debugUnlock m).field .secStatus [] 4 4 = 1 ∧ (s.debugUnlock m).field .secStatus [] 6 5 = a.at_ 48 1 % 4 := by
  have hfield (hi lo : Nat) : (s.debugUnlock m).field .secStatus [] hi lo =
      ((s.setField .secStatus [] 4 4 1).setField .secStatus [] 6 5 (a.at_ 48 1)).field .secStatus [] hi lo := by
    rw [State.debugUnlock_granted h ht, State.answer_field, State.field, State.drawNonce_reg_ne _ _ (by decide), State.field]
  refine ⟨?_, ?_⟩
  · rw [hfield, State.field_setField_below _ _ (by omega) (by omega) (by omega) (by omega),
      State.field_setField_self _ _ (by omega) (by omega)]
    rfl
  · rw [hfield, State.field_setField_self _ _ (by omega) (by omega)]
    rfl

end

/-- Settles O52: the checks of each command run in the order of its rule, and only a command that passes them all takes effect. -/
theorem securityCommandsCheckTheirProof : Obligations.SecurityCommandsCheckTheirProof := by
  unfold Obligations.SecurityCommandsCheckTheirProof
  intro m s a
  refine ⟨fun hs => ⟨fun hx => ?_, fun x hx => ⟨fun hp => ?_, fun hp hb => ?_, fun hp hb => ?_⟩⟩, fun hs => ?_, fun hs => ?_, fun hs => ?_⟩
  · rw [exec_sessionOpen, State.sessionOpen_no_session hs hx]
  · exact ⟨_, exec_sessionOpen m s, State.sessionOpen_unproved_effect hs hx hp⟩
  · obtain ⟨hmem, hbind⟩ := State.sessionOpen_binds_effect hs hx hp hb
    refine ⟨_, exec_sessionOpen m s, hmem, fun n hn => ⟨fun hbit => ?_, fun hbit => ?_⟩⟩
    · have h := hbind n
      rw [if_pos ((mem_maskBits hn).mpr hbit)] at h
      simpa [Mbox.binding] using h
    · have h := hbind n
      rw [if_neg (by rw [mem_maskBits hn, hbit]; decide)] at h
      simp only [Mbox.binding, Prod.mk.injEq] at h
      exact ⟨h.1, h.2.1⟩
  · rw [exec_sessionOpen, State.sessionOpen_bound hs hx hp hb]
  · exact ⟨s.reportBody (a.payload.take 32), by rw [exec_attest, State.attest_served hs], s.reportBody_nonce _⟩
  · rw [exec_patchInstall, State.patchInstall_served hs rfl]
    refine ⟨fun h => ?_, fun hz hf hn => ?_, fun hz hf hn => ⟨fun h => ?_, fun hok hlen hv => ?_, fun hok hlen hv => ?_⟩⟩
    · rw [if_pos (by simpa using h)]
    · rw [if_neg (by simp [hz, hf]), if_pos hn]
    · rw [if_neg (by simp [hz, hf]), if_neg (by omega), if_pos (h.imp_left (by simp))]
    · rw [if_neg (by simp [hz, hf]), if_neg (by omega), if_neg (not_or.mpr ⟨not_not.mpr hok, not_not.mpr hlen⟩)]
      exact congrArg _ (if_pos hv)
    · rw [if_neg (by simp [hz, hf]), if_neg (by omega), if_neg (not_or.mpr ⟨not_not.mpr hok, not_not.mpr hlen⟩)]
      exact congrArg _ (if_neg (Nat.not_le.mpr hv))
  · obtain ⟨t, status, he, hmem, hnv⟩ := State.debugUnlock_draws hs
    refine ⟨_, exec_debugUnlock m s, ?_, ?_, fun i hi => ?_, fun ht => State.debugUnlock_scope hs ht, fun ht => ?_⟩
    · rw [he, State.answer_mem, State.drawNonce_mem, hmem]
    · rw [he, State.answer_nv, State.drawNonce_draws, hnv]
    · rw [he, State.answer_reg, State.drawNonce_nonce _ hi, hnv]
    · rw [State.debugUnlock_refused hs ht]
      exact ⟨rfl, by rw [State.answer_reg, State.drawNonce_reg_ne _ _ (by decide)]⟩

end Sys2Proof.Machine
end

section
/-!
PROOFS. The SPDM responder (R270, R271): a request that is not answered, one that comes too early, and the one answer of each that is in
its place; what ends a session.
-/
namespace Sys2Proof.Machine

/-! ### The rows -/

theorem exec_getVersion (bus : Bool) (s : State) : exec (.getVersion bus) s = .next (s.getVersion bus) := by rfl
theorem exec_getCapabilities (bus : Bool) (s : State) : exec (.getCapabilities bus) s = .next (s.getCapabilities bus) := by rfl
theorem exec_negotiateAlgorithms (bus ok : Bool) (s : State) : exec (.negotiateAlgorithms bus ok) s = .next (s.negotiate bus ok) := by rfl
theorem exec_getDigests (bus : Bool) (s : State) : exec (.getDigests bus) s = .next (s.getDigests bus) := by rfl
theorem exec_getCertificate (bus : Bool) (slot off len : Nat) (s : State) :
    exec (.getCertificate bus slot off len) s = .next (s.getCertificate bus slot off len) := by rfl
theorem exec_challenge (bus : Bool) (slot : Nat) (tr : List Byte) (s : State) :
    exec (.challenge bus slot tr) s = .next (s.challenge bus slot tr) := by rfl
theorem exec_getMeasurements (bus : Bool) (i : Nat) (tr : List Byte) (s : State) :
    exec (.getMeasurements bus i tr) s = .next (s.getMeasurements bus i tr) := by rfl
theorem exec_keyExchange (bus mutAuth : Bool) (want : Nat) (ems : List Byte) (s : State) :
    exec (.keyExchange bus mutAuth want ems) s = .next (s.keyExchange bus mutAuth want ems) := by rfl
theorem exec_finish (bus : Bool) (id : Nat) (ok : Bool) (root : List Byte) (s : State) :
    exec (.finish bus id ok root) s = .next (s.spdmFinish bus id ok root) := by rfl
theorem exec_heartbeat (bus : Bool) (id : Nat) (s : State) :
    exec (.heartbeat bus id) s = .next (s.inSession bus id fun s => s.spdmSay bus (.heartbeat id)) := by rfl
theorem exec_keyUpdate (bus : Bool) (id : Nat) (s : State) :
    exec (.keyUpdate bus id) s = .next (s.inSession bus id fun s => s.spdmSay bus (.keyUpdate id)) := by rfl
theorem exec_endSession (bus : Bool) (id : Nat) (s : State) :
    exec (.endSession bus id) s = .next (s.inSession bus id fun s => (s.endSession id).spdmSay bus (.endSession id)) := by rfl
theorem exec_sessionHeartbeatTimeout (id : Nat) (s : State) : exec (.sessionHeartbeatTimeout id) s =
    .next (if s.dev.spdm.sessions.any fun x => x.id == id && x.up then s.endSession id else s) := by rfl

/-! ### Whether a request is answered -/

/-- The responder takes requests of a transport: past BOOT, and over PCI Express once the link has trained. -/
def State.answers (s : State) (bus : Bool) : Prop := s.nv.power.rails = true ∧ s.hubState ≠ 1 ∧ (bus = true ∨ s.linked = true)

/-- The requests that need all of the connection: those after NEGOTIATE_ALGORITHMS. -/
def lateRequests (bus ok : Bool) (ix slot off len want id : Nat) (tr ems root : List Byte) : List Instr :=
  [.getDigests bus, .getCertificate bus slot off len, .challenge bus slot tr, .getMeasurements bus ix tr, .keyExchange bus ok want ems,
    .finish bus id ok root, .heartbeat bus id, .keyUpdate bus id, .endSession bus id]

section
variable {s : State} {bus : Bool} {n : Nat}

theorem State.spdmReq_silent (h : ¬ s.answers bus) (f : State → State) : s.spdmReq bus n f = s := by
  refine if_pos ?_
  rw [State.answers] at h
  by_cases hb : s.hubState = 1
  · exact .inl (by simp [State.spdmUp, hb])
  · cases hr : s.nv.power.rails <;> cases bus <;> simp_all [State.spdmUp]

theorem State.spdmReq_up (h : s.answers bus) (f : State → State) : s.spdmReq bus n f =
    if s.spdmAt bus < n then s.spdmSay bus (.error spdmUnexpected) else f s := by
  refine if_neg ?_
  obtain ⟨hr, hb, hl⟩ := h
  cases bus <;> simp_all [State.spdmUp]

theorem State.spdmReq_early (h : s.answers bus) (hn : s.spdmAt bus < n) (f : State → State) :
    s.spdmReq bus n f = s.spdmSay bus (.error spdmUnexpected) := (State.spdmReq_up h f).trans (if_pos hn)

theorem State.spdmReq_taken (h : s.answers bus) (hn : n ≤ s.spdmAt bus) (f : State → State) : s.spdmReq bus n f = f s :=
  (State.spdmReq_up h f).trans (if_neg (Nat.not_lt.mpr hn))

/-- Every late request passes through the test of the connection. -/
theorem exec_lateRequests (s : State) (bus ok : Bool) (ix slot off len want id : Nat) (tr ems root : List Byte) :
    ∀ i ∈ lateRequests bus ok ix slot off len want id tr ems root, ∃ f, exec i s = .next (s.spdmReq bus 3 f) := by
  intro i hi
  simp only [lateRequests, List.mem_cons, List.not_mem_nil, or_false] at hi
  obtain rfl | rfl | rfl | rfl | rfl | rfl | rfl | rfl | rfl := hi <;> exact ⟨_, rfl⟩

/-- Every request passes through that test. -/
theorem exec_requests (s : State) (bus ok : Bool) (ix slot off len want id : Nat) (tr ems root : List Byte) :
    ∀ i ∈ [Instr.getVersion bus, .getCapabilities bus, .negotiateAlgorithms bus ok] ++
        lateRequests bus ok ix slot off len want id tr ems root, ∃ n f, exec i s = .next (s.spdmReq bus n f) := by
  intro i hi
  rw [List.mem_append] at hi
  rcases hi with hi | hi
  · simp only [List.mem_cons, List.not_mem_nil, or_false] at hi
    obtain rfl | rfl | rfl := hi <;> exact ⟨_, _, rfl⟩
  · exact ⟨3, exec_lateRequests s bus ok ix slot off len want id tr ems root i hi⟩

end

/-! ### Sessions -/

theorem freshId_not_mem (used : List Nat) (want : Nat) : freshId used want ∉ used := by
  unfold freshId
  split
  · have hle (l : List Nat) : ∀ a, a ≤ l.foldl max a ∧ ∀ x ∈ l, x ≤ l.foldl max a := by
      induction l with
      | nil => exact fun a => ⟨le_rfl, fun x hx => by cases hx⟩
      | cons b l ih =>
        intro a
        obtain ⟨hacc, hall⟩ := ih (max a b)
        rw [List.foldl_cons]
        refine ⟨by omega, fun x hx => ?_⟩
        rcases List.mem_cons.mp hx with rfl | hx
        · omega
        · exact hall x hx
    intro hmem
    have := (hle used 0).2 _ hmem
    omega
  · rename_i h
    simpa using h

theorem freshId_of_unused {used : List Nat} {want : Nat} (h : want ∉ used) : freshId used want = want := if_neg (by simpa using h)

section
variable (s : State) (id : Nat)

/-- Unbind mailbox `n` from session `id`. -/
def State.unbind (s : State) (n : Nat) : State :=
  if (s.mbox n).session = some id then s.modMbox n fun b => { b with session := none } else s

theorem State.endSession_eq : s.endSession id =
    (List.range 64).foldl (State.unbind id) (s.modSpdm fun p => { p with sessions := p.sessions.filter fun x => x.id != id }) := rfl

theorem State.unbind_mem (n : Nat) : (State.unbind id s n).mem = s.mem := by
  unfold State.unbind
  split <;> rfl

theorem State.unbind_spdm (n : Nat) : (State.unbind id s n).dev.spdm = s.dev.spdm := by
  unfold State.unbind
  split <;> rfl

theorem State.unbind_self (n : Nat) : ((State.unbind id s n).mbox n).session ≠ some id := by
  unfold State.unbind
  split
  · simp
  · assumption

theorem State.unbind_keeps {m : Nat} (n : Nat) (h : (s.mbox m).session ≠ some id) : ((State.unbind id s n).mbox m).session ≠ some id := by
  by_cases hm : m = n
  · rw [hm]; exact s.unbind_self id n
  · unfold State.unbind
    split
    · rwa [State.mbox_modMbox_ne _ _ hm]
    · exact h

theorem State.unbind_all {l : List Nat} {m : Nat} (h : m ∈ l ∨ (s.mbox m).session ≠ some id) :
    ((l.foldl (State.unbind id) s).mbox m).session ≠ some id := by
  induction l generalizing s with
  | nil => exact h.resolve_left (by simp)
  | cons n l ih =>
    refine ih _ ?_
    rcases h with h | h
    · rcases List.mem_cons.mp h with rfl | h
      · exact .inr (s.unbind_self id m)
      · exact .inl h
    · exact .inr (s.unbind_keeps id n h)

theorem State.endSession_mem : (s.endSession id).mem = s.mem := by
  rw [State.endSession_eq]
  exact (foldl_keeps State.mem (fun t n => t.unbind_mem id n) _ _).trans rfl

theorem State.endSession_sessions : (s.endSession id).dev.spdm.sessions = s.dev.spdm.sessions.filter fun x => x.id != id := by
  rw [State.endSession_eq]
  exact (foldl_keeps (fun t : State => t.dev.spdm.sessions) (fun t n => congrArg SpdmS.sessions (t.unbind_spdm id n)) _ _).trans rfl

/-- No mailbox stays bound to a session that has ended. -/
theorem State.endSession_unbinds (m : MboxId) : ((s.endSession id).mbox m).session ≠ some id := by
  rw [State.endSession_eq]
  exact State.unbind_all _ id (.inl (List.mem_range.mpr m.isLt))

theorem State.session_any_iff (bus : Bool) : (s.dev.spdm.sessions.any fun x => x.id == id && x.bus == bus && x.up) = true ↔
    ∃ x ∈ s.dev.spdm.sessions, x.id = id ∧ x.bus = bus ∧ x.up = true := by
  simp [List.any_eq_true, and_assoc]

theorem State.session_live_iff : (s.dev.spdm.sessions.any fun x => x.id == id && x.up) = true ↔
    ∃ x ∈ s.dev.spdm.sessions, x.id = id ∧ x.up = true := by
  simp [List.any_eq_true]

end

/-- An answer of the responder touches no memory, session or mailbox. -/
theorem State.spdmSay_keeps (s : State) (bus : Bool) (r : SpdmRsp) : (s.spdmSay bus r).mem = s.mem ∧
    (s.spdmSay bus r).dev.spdm.sessions = s.dev.spdm.sessions ∧ ∀ m, (s.spdmSay bus r).mbox m = s.mbox m := ⟨rfl, rfl, fun _ => rfl⟩

/-! ### The answers of a connection that has got to its algorithms -/

section
variable {s : State} {bus : Bool} (h : s.answers bus) (hn : 3 ≤ s.spdmAt bus)
include h hn

theorem State.getMeasurements_one {i : Nat} (hi : i ∈ measureIndices) (tr : List Byte) :
    s.getMeasurements bus i tr = s.spdmSay bus (.measurements [(i, s.measure i)] (s.aliasSig tr)) := by
  have hne : i ≠ 0xFF := by rintro rfl; revert hi; decide
  rw [State.getMeasurements, State.spdmReq_taken h hn]
  simp [hne, hi]

theorem State.getMeasurements_all (tr : List Byte) : s.getMeasurements bus 0xFF tr =
    s.spdmSay bus (.measurements (measureIndices.map fun j => (j, s.measure j)) (s.aliasSig tr)) := by
  rw [State.getMeasurements, State.spdmReq_taken h hn]
  exact if_pos (by decide)

theorem State.getMeasurements_other {i : Nat} (hi : i ∉ measureIndices) (hne : i ≠ 0xFF) (tr : List Byte) :
    s.getMeasurements bus i tr = s.spdmSay bus (.error spdmInvalid) := by
  rw [State.getMeasurements, State.spdmReq_taken h hn]
  simp [hne, hi]

theorem State.keyExchange_begins {mutAuth : Bool} (want : Nat) (ems : List Byte) (hl : (s.dev.spdm.sessions.filter (·.up)).length < 4)
    (ho : s.ownerSet = true → mutAuth = true) : s.keyExchange bus mutAuth want ems =
      (s.modSpdm fun p => { p with
        sessions := p.sessions ++ [{ id := freshId s.dev.spdm.used want, bus := bus, ems := ems }],
        used := insertNat p.used (freshId s.dev.spdm.used want) }).spdmSay bus (.keyExchange (freshId s.dev.spdm.used want) mutAuth) := by
  rw [State.keyExchange, State.spdmReq_taken h hn]
  refine (if_neg (by omega)).trans (if_neg ?_)
  rintro ⟨hset, hauth⟩
  exact hauth (ho hset)

theorem State.keyExchange_refused {mutAuth : Bool} (want : Nat) (ems : List Byte)
    (hr : 4 ≤ (s.dev.spdm.sessions.filter (·.up)).length ∨ (s.ownerSet = true ∧ mutAuth = false)) :
    s.keyExchange bus mutAuth want ems =
      s.spdmSay bus (.error (if 4 ≤ (s.dev.spdm.sessions.filter (·.up)).length then spdmBusy else spdmInvalid)) := by
  rw [State.keyExchange, State.spdmReq_taken h hn]
  dsimp only
  by_cases hl : 4 ≤ (s.dev.spdm.sessions.filter (·.up)).length
  · rw [if_pos hl, if_pos hl]
  · obtain ⟨hset, hauth⟩ := hr.resolve_left hl
    rw [if_neg hl, if_neg hl, if_pos ⟨hset, by simp [hauth]⟩]

theorem State.spdmFinish_unknown {id : Nat} (ok : Bool) (root : List Byte)
    (hx : s.dev.spdm.sessions.find? (fun y => y.id == id && y.bus == bus && !y.up) = none) :
    s.spdmFinish bus id ok root = s.spdmSay bus (.error spdmNoSession) := by
  rw [State.spdmFinish, State.spdmReq_taken h hn, hx]

variable {id : Nat} {x : Sess} (hx : s.dev.spdm.sessions.find? (fun y => y.id == id && y.bus == bus && !y.up) = some x)
include hx

theorem State.spdmFinish_busy (ok : Bool) (root : List Byte) (hl : 4 ≤ (s.dev.spdm.sessions.filter (·.up)).length) :
    s.spdmFinish bus id ok root = s.spdmSay bus (.error spdmBusy) := by
  rw [State.spdmFinish, State.spdmReq_taken h hn, hx]
  exact if_pos hl

theorem State.spdmFinish_up {root : List Byte} (hl : (s.dev.spdm.sessions.filter (·.up)).length < 4)
    (ho : s.ownerSet = true → root = s.ownerHash) : s.spdmFinish bus id true root =
      (s.modSpdm fun p => { p with sessions := p.sessions.map fun y => if y.id = id then { y with up := true } else y }).spdmSay bus
        (.finish id) := by
  rw [State.spdmFinish, State.spdmReq_taken h hn, hx]
  refine (if_neg (by omega)).trans (if_pos ⟨rfl, ?_⟩)
  by_cases hset : s.ownerSet = true
  · exact .inr (ho hset)
  · exact .inl hset

theorem State.spdmFinish_fails {root : List Byte} {ok : Bool} (hl : (s.dev.spdm.sessions.filter (·.up)).length < 4)
    (hf : ok = false ∨ (s.ownerSet = true ∧ root ≠ s.ownerHash)) :
    s.spdmFinish bus id ok root = (s.endSession id).spdmSay bus (.error Config.finishError) := by
  rw [State.spdmFinish, State.spdmReq_taken h hn, hx]
  refine (if_neg (by omega)).trans (if_neg ?_)
  rintro ⟨hok, hown⟩
  rcases hf with hf | ⟨hset, hroot⟩
  · rw [hf] at hok; cases hok
  · exact hown.elim (fun hu => hu hset) hroot

omit hx in
theorem State.inSession_none (f : State → State)
    (hno : ¬ ∃ x ∈ s.dev.spdm.sessions, x.id = id ∧ x.bus = bus ∧ x.up = true) :
    s.inSession bus id f = s.spdmSay bus (.error spdmNoSession) := by
  rw [State.inSession, State.spdmReq_taken h hn]
  exact if_neg (by rwa [State.session_any_iff])

omit hx in
theorem State.inSession_live (f : State → State)
    (hlive : ∃ x ∈ s.dev.spdm.sessions, x.id = id ∧ x.bus = bus ∧ x.up = true) : s.inSession bus id f = f s := by
  rw [State.inSession, State.spdmReq_taken h hn]
  exact if_pos (by rwa [State.session_any_iff])

end

/-- Settles O53: every request passes the same test of its connection, and past it has the one answer of its checks. -/
theorem spdmRequestsAreAnswered : Obligations.SpdmRequestsAreAnswered := by
  unfold Obligations.SpdmRequestsAreAnswered
  intro bus s n up go say live all
  have hat : s.spdmAt bus = n := rfl
  have hgo (k : Nat) (r : SpdmRsp) : (s.spdmGo bus k).spdmSay bus r = s.modSpdm fun p => say r (go k p) := by cases bus <;> rfl
  refine ⟨fun hup ok ix slot off len want id tr ems root i hi => ?_, fun hup => ⟨?_, fun hn => ?_, fun hn ok => ?_, fun hn => ?_,
    fun hn ok => ?_, fun hn ok ix slot off len want id tr ems root i hi => ?_, fun hn => ⟨?_, fun slot off len => ?_, fun slot tr => ?_,
    fun i tr => ⟨fun hi => ?_, fun hi => ?_, fun hi hne => ?_⟩, fun mutAuth want ems hl ho => ?_, fun mutAuth want ems hr => ?_,
    fun id root x hx hl ho => ?_, fun id root x ok hx hl hf => ?_, fun id root ok hl hx => ?_, fun id root ok hx => ?_,
    fun id hno i hi => ?_, fun id hlive => ⟨?_, ?_, ?_⟩⟩⟩, fun id hno => ?_, fun id hlive => ?_⟩
  · obtain ⟨k, f, hf⟩ := exec_requests s bus ok ix slot off len want id tr ems root i hi
    rw [hf, State.spdmReq_silent hup]
  · rw [exec_getVersion, State.getVersion, State.spdmReq_taken hup (Nat.zero_le _), hgo]
  · rw [exec_getCapabilities, State.getCapabilities, State.spdmReq_taken hup hn, hgo, hat]
  · rw [exec_negotiateAlgorithms, State.negotiate, State.spdmReq_taken hup hn]
    cases ok
    · rfl
    · exact congrArg _ (hgo 3 .algorithms)
  · rw [exec_getCapabilities, State.getCapabilities, State.spdmReq_early hup hn]; rfl
  · rw [exec_negotiateAlgorithms, State.negotiate, State.spdmReq_early hup hn]; rfl
  · obtain ⟨f, hf⟩ := exec_lateRequests s bus ok ix slot off len want id tr ems root i hi
    rw [hf, State.spdmReq_early hup hn]; rfl
  · rw [exec_getDigests, State.getDigests, State.spdmReq_taken hup hn]; rfl
  · rw [exec_getCertificate, State.getCertificate, State.spdmReq_taken hup hn]; rfl
  · rw [exec_challenge, State.challenge, State.spdmReq_taken hup hn]; rfl
  · rw [exec_getMeasurements, State.getMeasurements_one hup hn hi]; rfl
  · rw [exec_getMeasurements, hi, State.getMeasurements_all hup hn]; rfl
  · rw [exec_getMeasurements, State.getMeasurements_other hup hn hi hne]; rfl
  · refine ⟨freshId s.dev.spdm.used want, freshId_not_mem _ _, freshId_of_unused, ?_⟩
    rw [exec_keyExchange, State.keyExchange_begins hup hn want ems hl ho]; rfl
  · rw [exec_keyExchange, State.keyExchange_refused hup hn want ems hr]; rfl
  · rw [exec_finish, State.spdmFinish_up hup hn hx hl ho]; rfl
  · rw [exec_finish, State.spdmFinish_fails hup hn hx hl hf]; rfl
  · obtain ⟨x, hx⟩ := Option.isSome_iff_exists.mp hx
    rw [exec_finish, State.spdmFinish_busy hup hn hx ok root hl]; rfl
  · rw [exec_finish, State.spdmFinish_unknown hup hn ok root hx]; rfl
  · have hnone (f : State → State) : s.inSession bus id f = s.modSpdm (say (.error 2)) := State.inSession_none hup hn f hno
    simp only [List.mem_cons, List.not_mem_nil, or_false] at hi
    obtain rfl | rfl | rfl := hi
    · rw [exec_heartbeat, hnone]
    · rw [exec_keyUpdate, hnone]
    · rw [exec_endSession, hnone]
  · rw [exec_heartbeat, State.inSession_live hup hn _ hlive]; rfl
  · rw [exec_keyUpdate, State.inSession_live hup hn _ hlive]; rfl
  · obtain ⟨hmem, hsess, hbox⟩ := (s.endSession id).spdmSay_keeps bus (.endSession id)
    refine ⟨(s.endSession id).spdmSay bus (.endSession id), ?_, hmem.trans (s.endSession_mem id), fun x hx => ?_, fun m => ?_⟩
    · rw [exec_endSession, State.inSession_live hup hn _ hlive]
    · rw [hsess, State.endSession_sessions, List.mem_filter] at hx
      simpa using hx.2
    · rw [hbox]
      exact s.endSession_unbinds id m
  · rw [exec_sessionHeartbeatTimeout, if_neg (by rwa [State.session_live_iff])]
  · refine ⟨s.endSession id, ?_, s.endSession_mem id, s.endSession_sessions id, s.endSession_unbinds id⟩
    rw [exec_sessionHeartbeatTimeout, if_pos (by rwa [State.session_live_iff])]

end Sys2Proof.Machine
end

section
/-!
PROOFS. Mailboxes (R250 to R254, R274, R275): what the response half holds after an answer, the checks of a command in their order, and
which rows their mailbox makes do something.
-/
namespace Sys2Proof.Machine

theorem exec_mailboxSubmit (m : MboxId) (fn : Fin 2) (w : BitVec 32) (s : State) :
    exec (.mailboxSubmit m fn w) s = .next (s.submit m fn w) := by rfl

/-! ### The response half (R250, R275) -/

/-- The bytes of a response: SEQ, LENGTH, STATUS, COUNTER, CHECK and the payload. -/
def responseBytes (seq status : Nat) (payload : List Byte) (counter : Nat) (check : List Byte) : List Byte :=
  leBytes 4 (seq % 2 ^ 31) ++ leBytes 2 payload.length ++ leBytes 2 status ++ leBytes 8 counter ++
    (check ++ List.replicate (16 - check.length) 0) ++ payload

section
variable (s : State) (m fn seq status : Nat) (payload : List Byte) (counter : Nat) (check : List Byte)

theorem State.respond_mbox_self : (s.respond m fn seq status payload counter check).mbox m =
    { s.mbox m with
      cells := Mem.writeLE (Mem.writeN (Mem.clearRange (s.mbox m).cells 0x800 0x800) 0x800
        (responseBytes seq status payload counter check)) 0 4 (seq % 2 ^ 31)
      own := false, cmd := none } := by
  rw [State.respond, State.vector_mbox, State.mbox_modMbox_self]
  rfl

theorem State.respond_mbox_ne {n : Nat} (h : n ≠ m) : (s.respond m fn seq status payload counter check).mbox n = s.mbox n := by
  rw [State.respond, State.vector_mbox, State.mbox_modMbox_ne _ _ h]

theorem State.respond_mem : (s.respond m fn seq status payload counter check).mem = s.mem := rfl

variable {s m} (hwf : (s.mbox m).cells.wf = true)
include hwf

/-- A run of the response reads back at its place behind 0x800. -/
theorem State.respond_reads {d e f : List Byte} (h : responseBytes seq status payload counter check = d ++ (e ++ f)) :
    Mem.readN ((s.respond m fn seq status payload counter check).mbox m).cells (0x800 + d.length) e.length = e := by
  have hclear := Mem.wf_clearRange hwf 0x800 0x800
  rw [State.respond_mbox_self, h]
  refine (Mem.readN_congr e.length _ fun x hx _ => ?_).trans (Mem.readN_writeN_within hclear 0x800 d e f)
  rw [Mem.writeLE, Mem.read_writeN _ _ _ (Mem.wf_writeN _ _ hclear), if_neg (by rw [length_leBytes]; omega)]

theorem State.respond_reads_seq :
    Mem.readLE ((s.respond m fn seq status payload counter check).mbox m).cells 0x800 4 = seq % 2 ^ 31 := by
  have h := State.respond_reads fn seq status payload counter check hwf (d := []) (e := leBytes 4 (seq % 2 ^ 31))
    (by simp only [responseBytes, List.nil_append, List.append_assoc]; rfl)
  rw [length_leBytes, List.length_nil] at h
  rw [Mem.readLE, h, leNat_leBytes]
  omega

theorem State.respond_reads_length (hp : payload.length < 2 ^ 16) :
    Mem.readLE ((s.respond m fn seq status payload counter check).mbox m).cells 0x804 2 = payload.length := by
  have h := State.respond_reads fn seq status payload counter check hwf (d := leBytes 4 (seq % 2 ^ 31)) (e := leBytes 2 payload.length)
    (by simp only [responseBytes, List.append_assoc]; rfl)
  rw [length_leBytes, length_leBytes] at h
  rw [Mem.readLE, h, leNat_leBytes, Nat.mod_eq_of_lt hp]

theorem State.respond_reads_status (hs : status < 2 ^ 16) :
    Mem.readLE ((s.respond m fn seq status payload counter check).mbox m).cells 0x806 2 = status := by
  have h := State.respond_reads fn seq status payload counter check hwf (d := leBytes 4 (seq % 2 ^ 31) ++ leBytes 2 payload.length)
    (e := leBytes 2 status) (by simp only [responseBytes, List.append_assoc]; rfl)
  rw [List.length_append, length_leBytes, length_leBytes, length_leBytes] at h
  rw [Mem.readLE, h, leNat_leBytes, Nat.mod_eq_of_lt hs]

theorem State.respond_reads_payload (hc : check.length ≤ 16) :
    Mem.readN ((s.respond m fn seq status payload counter check).mbox m).cells 0x820 payload.length = payload := by
  have h := State.respond_reads fn seq status payload counter check hwf
    (d := leBytes 4 (seq % 2 ^ 31) ++ leBytes 2 payload.length ++ leBytes 2 status ++ leBytes 8 counter ++
      (check ++ List.replicate (16 - check.length) 0)) (e := payload) (f := []) (by rw [List.append_nil, responseBytes])
  have hlen : (leBytes 4 (seq % 2 ^ 31) ++ leBytes 2 payload.length ++ leBytes 2 status ++ leBytes 8 counter ++
      (check ++ List.replicate (16 - check.length) 0)).length = 0x20 := by
    simp only [List.length_append, length_leBytes, List.length_replicate]
    omega
  rwa [hlen] at h

end

/-- An answer is a response with the mailbox's SEQ, its CHECK at most 16 bytes. -/
theorem State.answer_responds (s : State) (m : Nat) (a : Accepted) (status : Nat) (payload : List Byte) :
    ∃ counter check, check.length ≤ 16 ∧ s.answer m a status payload = s.respond m a.fn a.seq status payload counter check := by
  unfold State.answer
  split
  · exact ⟨_, _, by rw [List.length_take]; omega, rfl⟩
  · exact ⟨_, [], by decide, rfl⟩

/-! ### The checks of a command (R252, R274) -/

/-- The status that the checks of R252 give a command of mailbox `m` whose bytes are `c`; 0 for one that passes them all. -/
def State.commandStatus (s : State) (m : Nat) (c : Mem) (seq : Nat) : Nat :=
  if seq ≠ (s.mbox m).nextSeq then 0x10
  else match opInfo (Mem.readLE c 6 2) with
    | none => 0x11
    | some i =>
      if i.accepts m = false then 0x12
      else if s.lengthOk m (Mem.readLE c 6 2) (Mem.readLE c 4 2) (Mem.readN c 0x20 (min (Mem.readLE c 4 2) 2016)) = false then 0x13
      else if s.hubState ≠ 4 ∧ Mem.readLE c 6 2 ≠ 0x01 ∧ Mem.readLE c 6 2 ≠ 0xF0 then 0x14
      else if i.critical = false then 0
      else match s.authorise m (Mem.readLE c 6 2) (Mem.readLE c 8 8) (Mem.readN c 0x20 (min (Mem.readLE c 4 2) 2016)) (Mem.readN c 0x10 16) with
        | .error e => e
        | .ok _ => 0

/-- What of a mailbox the checks of R274 look at. -/
theorem State.authorise_congr {s t : State} {m : Nat} (hd : t.dev.spdm = s.dev.spdm) (hs : (t.mbox m).session = (s.mbox m).session)
    (hc : (t.mbox m).lastCtr = (s.mbox m).lastCtr) (he : (t.mbox m).epoch = (s.mbox m).epoch) (op counter : Nat)
    (payload check : List Byte) : t.authorise m op counter payload check = s.authorise m op counter payload check := by
  have hb : t.boundSession m = s.boundSession m := by rw [State.boundSession, hs, hd, State.boundSession]
  simp only [State.authorise, hb, hc, he]

/-- The mailbox whose OWN/SEQ word has just been written. -/
def State.written (s : State) (m : Nat) (w : BitVec 32) : State :=
  s.modMbox m fun b => { b with cells := Mem.writeLE b.cells 0 4 w.toNat, own := bit w.toNat 31 }

theorem State.written_mbox (s : State) (m : Nat) (w : BitVec 32) : (s.written m w).mbox m =
    { s.mbox m with cells := Mem.writeLE (s.mbox m).cells 0 4 w.toNat, own := bit w.toNat 31 } := s.mbox_modMbox_self m _

/-- The status of given bytes depends on the session, counter and EPOCH of their mailbox, not on what has been written there. -/
theorem State.commandStatus_written (s : State) (m : Nat) (w : BitVec 32) (c : Mem) (seq : Nat) :
    (s.written m w).commandStatus m c seq = s.commandStatus m c seq := by
  have ha := State.authorise_congr (s := s) (t := s.written m w) (m := m) rfl (by rw [State.written_mbox]) (by rw [State.written_mbox])
    (by rw [State.written_mbox])
  simp only [State.commandStatus, ha, State.written_mbox]
  rfl

theorem State.authorise_error {s : State} {m op counter : Nat} {payload check : List Byte} {e : Nat}
    (h : s.authorise m op counter payload check = .error e) : 0x15 ≤ e ∧ e ≤ 0x18 := by
  unfold State.authorise at h
  dsimp only at h
  split at h
  · cases h; decide
  · split at h
    · cases h; decide
    · split at h
      · cases h; decide
      · split at h <;> cases h
        decide

/-- What a refusal that is being recorded keeps of a state: the memory, and of mailbox `m` the bytes and the last SEQ. -/
def State.refusing (s t : State) (m : Nat) : Prop :=
  t.mem = s.mem ∧ (t.mbox m).cells = (s.mbox m).cells ∧ (t.mbox m).lastSeq = (s.mbox m).lastSeq

theorem State.refusing_trans {s t u : State} {m : Nat} (h : s.refusing t m) (k : t.refusing u m) : s.refusing u m :=
  ⟨k.1.trans h.1, k.2.1.trans h.2.1, k.2.2.trans h.2.2⟩

theorem State.refusing_of_events {s t : State} (h : s.eventsOnly t) (m : Nat) : s.refusing t m :=
  ⟨h.mem, congrArg Mbox.cells (h.mbox m), congrArg Mbox.lastSeq (h.mbox m)⟩

theorem State.refusing_drawNonce (s : State) (m : Nat) : s.refusing s.drawNonce m := ⟨rfl, rfl, rfl⟩

/-- Recording a refusal (R273, R274). -/
theorem State.refusing_refusal (s : State) (m op status : Nat) : s.refusing (s.refusal m op status) m := by
  have hlast : s.eventsOnly (s.recordFault .secLast [] 63 (word [(op, 32), (status, 16), (m, 0)])) := s.eventsOnly_recordFault _ _ _ _
  have hcount (t : State) (n : RegName) (code : Nat) (o : Origin) : t.eventsOnly ((t.bump n [] 1 none 11 m).secRaise code o) :=
    State.eventsOnly_trans (t.eventsOnly_bump _ _ _ _ _ _) (State.eventsOnly_secRaise _ _ _)
  refine State.refusing_trans (State.refusing_of_events hlast m) ?_
  unfold State.refusal
  dsimp only
  generalize s.recordFault .secLast [] 63 (word [(op, 32), (status, 16), (m, 0)]) = t
  split
  · exact State.refusing_of_events (t.eventsOnly_vector 73) m
  · exact State.refusing_of_events (hcount t _ _ _) m
  · exact State.refusing_of_events (hcount t _ _ _) m
  · have hb := State.refusing_of_events (t.eventsOnly_bump .secCntExhaust [] 1 none 11 m) m
    refine State.refusing_trans hb ?_
    generalize t.bump .secCntExhaust [] 1 none 11 m = u
    split
    · exact State.refusing_of_events (u.eventsOnly_vector 73) m
    · refine State.refusing_trans (t := u.modMbox m fun b => { b with spent := true }) ⟨rfl, by simp, by simp⟩ ?_
      exact State.refusing_of_events (State.eventsOnly_secRaise _ _ _) m
  · exact State.refusing_of_events t.eventsOnly_refl m

/-- The command that mailbox `m` accepts from its bytes. -/
def State.accepted (s : State) (m fn seq : Nat) (key : Option (List Byte)) : Accepted :=
  let c := (s.mbox m).cells
  { fn := fn, seq := seq, tick := s.dev.tick, op := Mem.readLE c 6 2, payload := Mem.readN c 0x20 (min (Mem.readLE c 4 2) 2016),
    counter := Mem.readLE c 8 8, key := key }

/-- The command of mailbox `m` is refused: it is answered at once with its status, and `last` is the mailbox's last SEQ. -/
def State.Refused (s : State) (m fn seq last status : Nat) (u : State) : Prop :=
  ∃ (t : State) (counter : Nat), u = t.respond m fn seq status [] counter [] ∧ t.mem = s.mem ∧ (t.mbox m).cells = (s.mbox m).cells ∧
    (t.mbox m).lastSeq = last

/-- The command of mailbox `m` is accepted. -/
def State.Accepts (s : State) (m fn seq : Nat) (u : State) : Prop :=
  u.mem = s.mem ∧ (u.mbox m).own = (s.mbox m).own ∧ (u.mbox m).lastSeq = seq ∧ ∃ key, (u.mbox m).cmd = some (s.accepted m fn seq key)

/-- A refusal in a state that keeps memory and bytes, whether or not it draws a nonce (R277). -/
theorem State.refused_of {s t : State} {m : Nat} (hmem : t.mem = s.mem) (hcells : (t.mbox m).cells = (s.mbox m).cells)
    {last : Nat} (hlast : (t.mbox m).lastSeq = last) (fn seq status counter : Nat) (nonce : Prop) [Decidable nonce] :
    s.Refused m fn seq last status ((if nonce then t.drawNonce else t).respond m fn seq status [] counter []) := by
  refine ⟨if nonce then t.drawNonce else t, counter, rfl, ?_⟩
  split
  · exact ⟨hmem, hcells, hlast⟩
  · exact ⟨hmem, hcells, hlast⟩

/-- What the command of mailbox `m` leads to by its status. -/
def State.Outcome (s : State) (m fn seq status : Nat) (u : State) : Prop :=
  (status ≠ 0 → s.Refused m fn seq (if status = 0x10 then (s.mbox m).lastSeq else seq) status u) ∧ (status = 0 → s.Accepts m fn seq u)

theorem State.Outcome.refused {s u : State} {m fn seq status : Nat} (h : s.Refused m fn seq seq status u) (h0 : status ≠ 0)
    (h10 : status ≠ 0x10) : s.Outcome m fn seq status u := ⟨fun _ => by rwa [if_neg h10], fun h => absurd h h0⟩

/-- The checks run in the order of R252: the first that fails refuses the command with its status, and a command that passes them all is
accepted. -/
theorem State.checkCommand_outcome (s : State) (m fn seq : Nat) :
    s.Outcome m fn seq (s.commandStatus m (s.mbox m).cells seq) (s.checkCommand m fn seq) := by
  unfold State.checkCommand State.commandStatus
  dsimp only
  generalize hop : Mem.readLE (s.mbox m).cells 6 2 = op
  generalize hlen : Mem.readLE (s.mbox m).cells 4 2 = len
  generalize hctr : Mem.readLE (s.mbox m).cells 8 8 = counter
  generalize hpay : Mem.readN (s.mbox m).cells 0x20 (min len 2016) = payload
  generalize Mem.readN (s.mbox m).cells 0x10 16 = check
  by_cases hseq : seq ≠ (s.mbox m).nextSeq
  · rw [if_pos hseq, if_pos hseq]
    exact ⟨fun _ => State.refused_of rfl rfl rfl _ _ _ _ _, fun h => by cases h⟩
  rw [if_neg hseq, if_neg hseq]
  have haccept (key : Option (List Byte)) (u : State) (hmem : u.mem = s.mem) (hown : (u.mbox m).own = (s.mbox m).own)
      (hlast : (u.mbox m).lastSeq = seq) (hcmd : (u.mbox m).cmd = some ⟨fn, seq, s.dev.tick, op, payload, counter, key, false⟩) :
      s.Outcome m fn seq 0 u :=
    ⟨fun h => absurd rfl h, fun _ => ⟨hmem, hown, hlast, key, by rw [hcmd, State.accepted, hop, hlen, hctr, hpay]⟩⟩
  have hauth := State.authorise_congr (s := s) (t := s.modMbox m fun b => { b with lastSeq := seq }) (m := m) rfl
    (by simp) (by simp) (by simp) op counter payload check
  have hlenOk : (s.modMbox m fun b => { b with lastSeq := seq }).lengthOk m op len payload = s.lengthOk m op len payload := rfl
  have hhub : (s.modMbox m fun b => { b with lastSeq := seq }).hubState = s.hubState := rfl
  rw [hauth, hlenOk, hhub]
  have hlast : ((s.modMbox m fun b => { b with lastSeq := seq }).mbox m).lastSeq = seq := by simp
  have hcells : ((s.modMbox m fun b => { b with lastSeq := seq }).mbox m).cells = (s.mbox m).cells := by simp
  have hrefuse (status counter : Nat) (nonce : Prop) [Decidable nonce] :=
    State.refused_of (s := s) (t := s.modMbox m fun b => { b with lastSeq := seq }) rfl hcells hlast fn seq status counter nonce
  cases opInfo op with
  | none => exact State.Outcome.refused (status := 0x11) (hrefuse _ _ _) (by decide) (by decide)
  | some i =>
    dsimp only
    cases i.accepts m with
    | false => exact State.Outcome.refused (status := 0x12) (hrefuse _ _ _) (by decide) (by decide)
    | true =>
    cases s.lengthOk m op len payload with
    | false => exact State.Outcome.refused (status := 0x13) (hrefuse _ _ _) (by decide) (by decide)
    | true =>
    by_cases hstate : s.hubState ≠ 4 ∧ op ≠ 0x01 ∧ op ≠ 0xF0
    · simp only [if_pos hstate]
      exact .refused (hrefuse _ _ _) (by decide) (by decide)
    simp only [if_neg hstate]
    by_cases hcrit : i.critical = true
    case neg =>
      simp only [hcrit, Bool.false_eq_true]
      exact haccept none _ rfl (by simp) (by simp) (by simp)
    simp only [hcrit]
    cases ha : s.authorise m op counter payload check with
    | error e =>
      have he := State.authorise_error ha
      obtain ⟨rmem, rcells, rlast⟩ := (s.modMbox m fun b => { b with lastSeq := seq }).refusing_refusal m op e
      exact State.Outcome.refused (s := s) (status := e) (State.refused_of (s := s) rmem (rcells.trans hcells) (rlast.trans hlast) _ _ _ _ _)
        (by omega) (by omega)
    | ok key => exact haccept (some key) _ rfl (by simp) (by simp) (by simp)

/-! ### The write of the OWN/SEQ word (R250, R251) -/

theorem State.submit_owned {s : State} (hl : s.linked = true) {m : Nat} (ho : (s.mbox m).own = true) (fn : Nat) (w : BitVec 32) :
    s.submit m fn w = s.hifErr true := (if_neg (by simp [hl])).trans (if_pos ho)

theorem State.submit_free {s : State} (hl : s.linked = true) {m : Nat} (ho : (s.mbox m).own = false) (fn : Nat) (w : BitVec 32) :
    s.submit m fn w = if bit w.toNat 31 then (s.written m w).checkCommand m fn (bits w.toNat 30 0) else s.written m w :=
  (if_neg (by simp [hl])).trans (if_neg (by simp [ho]))

/-- What the checks of a written command come to: its status is that of the bytes with the new word. -/
theorem State.submit_outcome {s : State} (hl : s.linked = true) {m : Nat} (ho : (s.mbox m).own = false) (fn : Nat) {w : BitVec 32}
    (hw : bit w.toNat 31 = true) : (s.written m w).Outcome m fn (bits w.toNat 30 0)
      (s.commandStatus m (Mem.writeLE (s.mbox m).cells 0 4 w.toNat) (bits w.toNat 30 0)) (s.submit m fn w) := by
  have h := (s.written m w).checkCommand_outcome m fn (bits w.toNat 30 0)
  rw [State.submit_free hl ho, if_pos hw]
  rwa [State.written_mbox, State.commandStatus_written] at h

/-- The status of a command is at most 0x18. -/
theorem State.commandStatus_le (s : State) (m : Nat) (c : Mem) (seq : Nat) : s.commandStatus m c seq ≤ 0x18 := by
  unfold State.commandStatus
  split
  · decide
  split
  · decide
  split
  · decide
  split
  · decide
  split
  · decide
  split
  · decide
  split
  · rename_i h
    exact (State.authorise_error h).2
  · decide

/-- A refused command is answered and gives its mailbox back; an accepted one keeps it. -/
theorem State.submit_effect {s : State} (hl : s.linked = true) {m : Nat} (ho : (s.mbox m).own = false) (hwf : (s.mbox m).cells.wf = true)
    (fn : Nat) {w : BitVec 32} (hw : bit w.toNat 31 = true) {c : Mem} (hc : c = Mem.writeLE (s.mbox m).cells 0 4 w.toNat) {seq st : Nat}
    (hseq : seq = bits w.toNat 30 0) (hst : st = s.commandStatus m c seq) :
    (s.submit m fn w).mem = s.mem ∧ ((s.submit m fn w).mbox m).lastSeq = (if st = 0x10 then (s.mbox m).lastSeq else seq) ∧
      (st ≠ 0 → ((s.submit m fn w).mbox m).own = false ∧ ((s.submit m fn w).mbox m).cmd = none ∧
        Mem.readLE ((s.submit m fn w).mbox m).cells 0x806 2 = st) ∧
      (st = 0 → ((s.submit m fn w).mbox m).own = true ∧ ∃ a, ((s.submit m fn w).mbox m).cmd = some a ∧ a.fn = fn ∧ a.seq = seq ∧
        a.op = Mem.readLE c 6 2 ∧ a.payload = Mem.readN c 0x20 (min (Mem.readLE c 4 2) 2016) ∧ a.counter = Mem.readLE c 8 8 ∧
        a.tick = s.dev.tick) := by
  have hmbox : (s.written m w).mbox m = { s.mbox m with cells := c, own := true } := by rw [State.written_mbox, hw, hc]
  have hle := s.commandStatus_le m c seq
  have hout := State.submit_outcome hl ho fn hw
  rw [← hc, ← hseq, ← hst] at hout
  rw [← hst] at hle
  by_cases h0 : st = 0
  · obtain ⟨hmem, hown, hlast, key, hcmd⟩ := hout.2 h0
    refine ⟨hmem, by rw [hlast, if_neg (by omega)], fun h => absurd h0 h, fun _ => ⟨by rw [hown, hmbox], _, hcmd, ?_⟩⟩
    simp only [State.accepted, hmbox]
    exact ⟨trivial, trivial, trivial, trivial, trivial, rfl⟩
  · obtain ⟨t, counter, hu, hmem, hcells, hlast⟩ := hout.1 h0
    have htwf : (t.mbox m).cells.wf = true := by rw [hcells, hmbox, hc]; exact Mem.wf_writeLE hwf _ _ _
    refine ⟨by rw [hu, State.respond_mem, hmem]; rfl, ?_, fun _ => ⟨?_, ?_, ?_⟩, fun h => absurd h h0⟩
    · rw [hu, State.respond_mbox_self]
      exact hlast.trans (by rw [hmbox])
    · rw [hu, State.respond_mbox_self]
    · rw [hu, State.respond_mbox_self]
    · rw [hu, State.respond_reads_status _ _ _ _ _ _ htwf (by omega)]

/-! ### The rows of the mailboxes (R253, R254) -/

/-- The opcodes of the commands that act on the context of their mailbox. -/
def contextOps : List Nat := [0x30, 0x31, 0x32, 0x34, 0x50, 0x51, 0x52, 0x60, 0x61, 0x70, 0x71, 0x72]

/-- The rows of these serve the context that owns the mailbox. -/
theorem exec_contextRows (m : MboxId) (hint : Option Nat) (hints : List Nat) (s : State) :
    ∀ r ∈ hostRows m hint hints, r.1 ∈ contextOps → ∃ f, exec r.2 s = .next (s.serveCtx m r.1 f) := by
  intro r hr hop
  have hfilter : (hostRows m hint hints).filter (fun r => decide (r.1 ∈ contextOps)) = [(0x30, .programLoad m hints),
      (0x31, .streamAppend m hint), (0x32, .run m), (0x34, .pickMode m), (0x50, .snapshotShip m), (0x51, .checkpoint m),
      (0x52, .rindArm m), (0x60, .flowOpen m hint), (0x61, .flowClose m), (0x70, .caveRead m), (0x71, .caveWrite m),
      (0x72, .caveErase m)] := rfl
  have hmem : r ∈ (hostRows m hint hints).filter (fun r => decide (r.1 ∈ contextOps)) := List.mem_filter.mpr ⟨hr, decide_eq_true hop⟩
  rw [hfilter] at hmem
  simp only [List.mem_cons, List.not_mem_nil, or_false] at hmem
  obtain rfl | rfl | rfl | rfl | rfl | rfl | rfl | rfl | rfl | rfl | rfl | rfl := hmem <;> exact ⟨_, rfl⟩

/-- Every row of a mailbox serves its own opcode. -/
theorem exec_hostRows (m : MboxId) (hint : Option Nat) (hints : List Nat) (s : State) :
    ∀ r ∈ hostRows m hint hints, ∃ f, exec r.2 s = .next (s.serve m r.1 f) := by
  intro r hr
  by_cases hop : r.1 ∈ contextOps
  · obtain ⟨f, hf⟩ := exec_contextRows m hint hints s r hr hop
    exact ⟨_, hf⟩
  have hfilter : (hostRows m hint hints).filter (fun r => decide (r.1 ∉ contextOps)) = [(0x01, .getInfo m), (0x02, .getFeatures m),
      (0x10, .sessionOpen m), (0x11, .attest m), (0x20, .contextCreate m hint), (0x21, .contextDestroy m), (0x33, .halt m),
      (0x40, .setBudget m), (0x41, .getLedger m), (0x62, .routeSet m), (0x80, .patchInstall m), (0x90, .debugUnlock m),
      (0xA0, .reset m), (0xF0, .fuseRead m), (0xF1, .fuseProgram m)] := rfl
  have hmem : r ∈ (hostRows m hint hints).filter (fun r => decide (r.1 ∉ contextOps)) := List.mem_filter.mpr ⟨hr, decide_eq_true hop⟩
  rw [hfilter] at hmem
  simp only [List.mem_cons, List.not_mem_nil, or_false] at hmem
  obtain rfl | rfl | rfl | rfl | rfl | rfl | rfl | rfl | rfl | rfl | rfl | rfl | rfl | rfl | rfl := hmem <;> exact ⟨_, rfl⟩

theorem State.serve_idle {s : State} {m op : Nat} (h : ∀ a, ¬ s.serves m op a) (f : Accepted → State → State) : s.serve m op f = s := by
  unfold State.serve
  split
  · rename_i a ha
    exact if_neg fun hturn => h a ⟨ha, hturn⟩
  · rfl

theorem State.serveCtx_unowned {s : State} {m op : Nat} {a : Accepted} (h : s.serves m op a) (ho : (s.mbox m).owner = none)
    (f : Nat → Accepted → State → State) : s.serveCtx m op f = s.answer m a 0x20 [] := by
  rw [State.serveCtx, State.serve_of_serves h, ho]

/-- Settles O47: the checks of R252 in their order, the bytes of a response, and the one test that every row of a mailbox makes. -/
theorem mailboxesCheckInOrderAndAnswer : Obligations.MailboxesCheckInOrderAndAnswer := by
  unfold Obligations.MailboxesCheckInOrderAndAnswer
  refine ⟨fun m fn w s hl => ?_, fun m fn w s hl => ?_, fun m a status payload s hwf hstatus hpay => ?_, fun m hint hints s r hr => ⟨?_, ?_⟩⟩
  · rw [exec_mailboxSubmit]
    exact congrArg _ (if_pos (by simp [hl]))
  · intro b seq
    refine ⟨fun ho => ?_, fun ho hw => ?_, fun ho hw hwf => ?_⟩
    · rw [exec_mailboxSubmit, State.submit_owned hl ho, State.hifErr, if_pos rfl, satInc_eq_min]
    · rw [exec_mailboxSubmit, State.submit_free hl ho, hw, State.written, hw]
      rfl
    · exact ⟨_, exec_mailboxSubmit m fn w s, State.submit_effect hl ho hwf fn hw rfl rfl rfl⟩
  · obtain ⟨counter, check, hcheck, hu⟩ := s.answer_responds m a status payload
    have hhost : (s.answer m a status payload).host = s.host.raise (m + 2048 * a.fn) := by rw [hu]; rfl
    have hmbox := s.respond_mbox_self m a.fn a.seq status payload counter check
    dsimp only
    rw [hhost, hu]
    refine ⟨by rw [hmbox], by rw [hmbox], State.respond_reads_seq _ _ _ _ _ _ hwf, State.respond_reads_length _ _ _ _ _ _ hwf (by omega),
      State.respond_reads_status _ _ _ _ _ _ hwf hstatus, State.respond_reads_payload _ _ _ _ _ _ hwf hcheck,
      fun n hn => State.respond_mbox_ne _ _ _ _ _ _ _ _ hn, rfl, rfl⟩
  · intro hno
    obtain ⟨f, hf⟩ := exec_hostRows m hint hints s r hr
    rw [hf, State.serve_idle hno]
  · intro a hop hserves ho
    obtain ⟨f, hf⟩ := exec_contextRows m hint hints s r hr hop
    rw [hf, State.serveCtx_unowned hserves ho]

end Sys2Proof.Machine
end

section
/-!
PROOFS. Event tails, the fault halt of a context, and rind waves (R280, R281, R286 to R288): what a write of TAIL consumes, what the
first and the later faults leave, what a trigger makes of the rind unit, and which areas a capture writes.
-/
namespace Sys2Proof.Machine

/-! ### The rows -/

theorem exec_eventTailWrite (l : Fin 10) (t : BitVec 8) (s : State) :
    exec (.eventTailWrite l t) s = .next (s.hosted fun s => s.tailWrite l t.toNat) := by rfl
theorem exec_contextFaultHalt (c : CtxId) (s : State) : exec (.contextFaultHalt c) s = .next (s.faultHalt c) := by rfl
theorem exec_rindTrig (v : Word) (s : State) : exec (.rindTrig v) s = .next (s.hosted fun s => s.rindTrigWrite v) := by rfl
theorem exec_trigIn (s : State) : exec .trigIn s = .next s.trigIn := by rfl
theorem exec_rindCapture (r : Fin 19) (s : State) : exec (.rindCapture r) s = .next (s.rindCapture r) := by rfl
theorem exec_rindWaveComplete (s : State) : exec .rindWaveComplete s = .next s.waveComplete := by rfl

/-! ### Event tails (R280) -/

theorem State.tailWrite_eq (s : State) (l : Nat) (t : BitVec 8) (h : (s.log l).tail < 256) : s.tailWrite l t.toNat =
    s.setLog l { s.log l with
      tail := ((s.log l).tail + min ((t.toNat + 256 - (s.log l).tail) % 256) (s.log l).used) % 256
      used := (s.log l).used - min ((t.toNat + 256 - (s.log l).tail) % 256) (s.log l).used } := by
  rw [State.tailWrite, Log.consume, Nat.mod_eq_of_lt h, Nat.mod_eq_of_lt t.isLt]

/-! ### The fault halt (R281) -/

theorem satInc_sixteen (v : Nat) : satInc 16 v = min 65535 (v + 1) := satInc_eq_min 16 v

theorem Core.halt_halt (k : Core) : k.halt.halt = k.halt := by
  obtain ⟨st⟩ := k
  cases st <;> rfl

/-- Halting a list of cores halts each of them, and no other. -/
theorem State.core_haltCores (d : Nat) : ∀ (cs : List Nat) (s : State),
    (s.haltCores cs).core d = if d ∈ cs then (s.core d).halt else s.core d := by
  intro cs
  induction cs with
  | nil => intro s; rfl
  | cons c cs ih =>
    intro s
    rw [State.haltCores, ih]
    by_cases hd : d = c
    · subst hd
      simp [Core.halt_halt]
    · simp [hd, State.core_modCore_ne _ _ hd]

theorem State.core_haltCtx (s : State) (c d : Nat) :
    (s.haltCtx c).core d = if d ∈ (s.ctx c).slots then (s.core d).halt else s.core d := State.core_haltCores d _ s

section
variable (s : State) (c : Nat)

theorem State.takeFault_counted {f : Nat × Nat × Nat} (h : (s.ctx c).faulted = true) :
    s.takeFault c f = s.modCtx c fun x => { x with more := min 65535 (x.more + 1) } := by
  simp only [State.takeFault, h, if_true, satInc_sixteen]

/-- Faults of a context that has faulted are only counted. -/
theorem State.takeFaults_counted (fs : List (Nat × Nat × Nat)) (h : (s.ctx c).faulted = true) (hm : (s.ctx c).more ≤ 65535) :
    ∃ m, m = min 65535 ((s.ctx c).more + fs.length) ∧
      (fs.foldl (fun s f => s.takeFault c f) s).ctx c = { s.ctx c with more := m } ∧
      (fs.foldl (fun s f => s.takeFault c f) s).mem = s.mem ∧
      ∀ d, (fs.foldl (fun s f => s.takeFault c f) s).core d = s.core d := by
  induction fs generalizing s with
  | nil => exact ⟨(s.ctx c).more, by rw [List.length_nil]; omega, rfl, rfl, fun _ => rfl⟩
  | cons f fs ih =>
    rw [List.foldl_cons, s.takeFault_counted c h]
    obtain ⟨m, hm', hctx, hmem, hcore⟩ := ih (s.modCtx c fun x => { x with more := min 65535 (x.more + 1) })
      (by simpa [State.modCtx] using h) (by simp [State.modCtx])
    refine ⟨m, ?_, ?_, hmem, hcore⟩
    · rw [hm', List.length_cons]
      simp only [State.modCtx, State.ctx_setCtx_self]
      omega
    · rw [hctx]
      simp [State.modCtx]

/-- The first fault of a context halts it and is kept. -/
theorem State.takeFault_first {f : Nat × Nat × Nat} (h : (s.ctx c).faulted = false) :
    (s.takeFault c f).ctx c = { s.ctx c with halted := true, faulted := true, fault := some f } ∧ (s.takeFault c f).mem = s.mem ∧
      ∀ d ∈ (s.ctx c).slots, (s.core d).st = .running ∨ (s.core d).st = .frozen → ((s.takeFault c f).core d).st = .halted := by
  have heq : s.takeFault c f = (s.haltCtx c).modCtx c fun x => { x with faulted := true, fault := some f } := by
    rw [State.takeFault, if_neg (by simp [h])]
  rw [heq]
  refine ⟨?_, by rw [State.modCtx_mem, State.haltCtx_mem], fun d hd hst => ?_⟩
  · rw [State.modCtx, State.ctx_setCtx_self, State.haltCtx_ctx_self]
  · rw [State.modCtx_core, State.core_haltCtx, if_pos hd]
    obtain hst | hst := hst <;> simp [Core.halt, hst]

theorem State.faultHalt_none (h : (s.ctx c).faults = []) : s.faultHalt c = s.modCtx c fun x => { x with faults := [] } := by
  rw [State.faultHalt, h, List.foldl_nil]

/-- The faults that wait are taken: the first one of a context that has not faulted is kept and halts it, the others are counted. -/
theorem State.faultHalt_effect {f : Nat × Nat × Nat} {r : List (Nat × Nat × Nat)} (h : (s.ctx c).faults = f :: r)
    (hm : (s.ctx c).more < 65536) :
    (s.faultHalt c).mem = s.mem ∧ ((s.faultHalt c).ctx c).faults = [] ∧ ((s.faultHalt c).ctx c).faulted = true ∧
      ((s.ctx c).faulted = false → ((s.faultHalt c).ctx c).fault = some f ∧ ((s.faultHalt c).ctx c).halted = true ∧
        ((s.faultHalt c).ctx c).more = min 65535 ((s.ctx c).more + r.length) ∧
        ∀ d ∈ (s.ctx c).slots, (s.core d).st = .running ∨ (s.core d).st = .frozen → ((s.faultHalt c).core d).st = .halted) ∧
      ((s.ctx c).faulted = true → ((s.faultHalt c).ctx c).fault = (s.ctx c).fault ∧
        ((s.faultHalt c).ctx c).more = min 65535 ((s.ctx c).more + (f :: r).length)) := by
  rw [State.faultHalt, h]
  set t := s.modCtx c fun x => { x with faults := [] } with ht
  have htc : t.ctx c = { s.ctx c with faults := [] } := by rw [ht, State.modCtx, State.ctx_setCtx_self]
  cases hf : (s.ctx c).faulted with
  | true =>
    obtain ⟨m, hmore, hctx, hmem, -⟩ := t.takeFaults_counted c (f :: r) (by rw [htc]; exact hf) (by rw [htc]; exact Nat.le_of_lt_succ hm)
    rw [htc] at hmore hctx
    exact ⟨hmem, by rw [hctx], by rw [hctx]; exact hf, nofun, fun _ => ⟨by rw [hctx], by rw [hctx]; exact hmore⟩⟩
  | false =>
    obtain ⟨hfirst, hfmem, hfcore⟩ := t.takeFault_first c (f := f) (by rw [htc]; exact hf)
    rw [htc] at hfirst hfcore
    obtain ⟨m, hmore, hctx, hmem, hcore⟩ := (t.takeFault c f).takeFaults_counted c r (by rw [hfirst]) (by rw [hfirst]; exact Nat.le_of_lt_succ hm)
    rw [hfirst] at hmore hctx
    rw [List.foldl_cons]
    refine ⟨hmem.trans hfmem, by rw [hctx], by rw [hctx], fun _ => ⟨by rw [hctx], by rw [hctx], by rw [hctx]; exact hmore, fun d hd hst => ?_⟩,
      nofun⟩
    rw [hcore]
    exact hfcore d hd hst

end

/-! ### Triggers (R286, R287) -/

section
variable {q : Rind} (w : WaveSrc) (tick : Nat)

theorem Rind.trigger_idle (h : q.cur = none) : q.trigger w tick = q.start w tick := by rw [Rind.trigger, h]

theorem Rind.trigger_pends (h : q.cur ≠ none) (hp : q.pending = none) : q.trigger w tick = { q with pending := some w } := by
  obtain ⟨v, hv⟩ := Option.ne_none_iff_exists'.mp h
  rw [Rind.trigger, hv, hp]

theorem Rind.trigger_merges (h : q.cur ≠ none) (hp : q.pending ≠ none) : q.trigger w tick = { q with merged := min 65535 (q.merged + 1) } := by
  obtain ⟨v, hv⟩ := Option.ne_none_iff_exists'.mp h
  obtain ⟨x, hx⟩ := Option.ne_none_iff_exists'.mp hp
  rw [Rind.trigger, hv, hx, satInc_sixteen]

/-- What a trigger makes of the rind unit: a wave, the pending one, or a merge into it. -/
theorem Rind.trigger_effect :
    (q.cur = none → (q.trigger w tick).cur = some w ∧ (q.trigger w tick).wave = (q.wave + 1) % 65536 ∧
      (q.trigger w tick).todo = List.range 19) ∧
    (q.cur ≠ none → q.pending = none → q.trigger w tick = { q with pending := some w }) ∧
    (q.cur ≠ none → q.pending ≠ none → q.trigger w tick = { q with merged := min 65535 (q.merged + 1) }) := by
  refine ⟨fun h => ?_, Rind.trigger_pends w tick, Rind.trigger_merges w tick⟩
  rw [Rind.trigger_idle w tick h]
  exact ⟨rfl, rfl, rfl⟩

end

theorem State.rindTrigWrite_eq (s : State) (v : Word) : s.rindTrigWrite v = if v.toNat % 2 = 1 then s.trigger ⟨4, none⟩ else s := by
  simp [State.rindTrigWrite, bit]

/-- Context `c` has an arming for the pin that can trigger. -/
def State.pinArmed (s : State) (c : Nat) (x : Arming) : Prop :=
  (s.ctx c).arming = some x ∧ x.src = 3 ∧ (x.once = true → x.fired = false)

/-- The pin is within the lockout of the wave that started last. -/
def State.lockedOut (s : State) : Prop :=
  s.dev.rind.started = true ∧ s.dev.tick < s.dev.rind.startTick + s.field .rindCfg [] 31 0

/-- The test of `State.trigIn`, context by context. -/
def State.pinTest (s : State) (c : Nat) : Bool :=
  match (s.ctx c).arming with | some a => a.src == 3 && !(a.once && a.fired) | none => false

theorem State.pinTest_iff (s : State) (c : Nat) : s.pinTest c = true ↔ ∃ x, s.pinArmed c x := by
  unfold State.pinTest State.pinArmed
  cases (s.ctx c).arming with
  | none => simp
  | some a =>
    obtain ⟨src, cls, step, once, fired⟩ := a
    cases once <;> cases fired <;> simp

theorem State.trigIn_locked {s : State} (h : s.lockedOut) :
    s.trigIn = s.modRind fun q => { q with locked := min 65535 (q.locked + 1) } := by
  refine (if_pos h).trans ?_
  simp only [satInc_sixteen]

theorem State.trigIn_free {s : State} (h : ¬ s.lockedOut) : s.trigIn = match (List.range 8).find? s.pinTest with
    | none => s
    | some c => match (s.ctx c).arming with | some a => s.armTrigger c a | none => s := if_neg h

theorem State.trigIn_unarmed {s : State} (h : ¬ s.lockedOut) (ha : ∀ (c : CtxId) x, ¬ s.pinArmed c x) : s.trigIn = s := by
  have hnone : (List.range 8).find? s.pinTest = none := by
    rw [List.find?_eq_none]
    intro c hc ht
    obtain ⟨x, hx⟩ := (s.pinTest_iff c).mp ht
    exact ha ⟨c, List.mem_range.mp hc⟩ x hx
  rw [State.trigIn_free h, hnone]

/-- The lowest context with an arming for the pin triggers. -/
theorem State.trigIn_armed {s : State} (h : ¬ s.lockedOut) {c : CtxId} {x : Arming} (hx : s.pinArmed c x)
    (hlow : ∀ (d : CtxId) y, d < c → ¬ s.pinArmed d y) : s.trigIn = s.armTrigger c x := by
  have hfind : (List.range 8).find? s.pinTest = some c.val := by
    rw [List.find?_range_eq_some]
    refine ⟨(s.pinTest_iff c).mpr ⟨x, hx⟩, List.mem_range.mpr c.isLt, fun d hd => ?_⟩
    rw [Bool.not_eq_true', ← Bool.not_eq_true, s.pinTest_iff]
    rintro ⟨y, hy⟩
    exact hlow ⟨d, lt_trans hd c.isLt⟩ y hd hy
  rw [State.trigIn_free h, hfind]
  dsimp only
  rw [hx.1]

/-! ### Captures (R285, R288) -/

/-- The block with a number, and the region that it belongs to. -/
def blockOf (n : Nat) : Nat × RBlock :=
  if n < 64 then (n / 4, .core n)
  else if n < 80 then (n - 64, .cluster (n - 64))
  else if n = 80 then (18, .hub)
  else if n = 81 then (16, .link)
  else if n = 82 then (16, .reduction)
  else if n = 83 then (17, .memory)
  else if n = 84 then (17, .stacks)
  else if n = 85 then (17, .migrator)
  else if n = 86 then (17, .cave)
  else (17, .ripener (n - 87))

/-- The number of a block gives the block and its region back. -/
theorem blockOf_num : ∀ r < 19, ∀ b ∈ regionBlocks r, blockOf b.num = (r, b) := by decide

theorem find?_foldl_set_of_not_mem {α : Type} (l : List (Nat × α)) (m : AMap Nat α) {n : Nat} (h : ∀ p ∈ l, p.1 ≠ n) :
    AMap.find? (l.foldl (fun m p => AMap.set m p.1 p.2) m) n = AMap.find? m n := by
  induction l generalizing m with
  | nil => rfl
  | cons p l ih =>
    rw [List.foldl_cons, ih _ fun q hq => h q (List.mem_cons_of_mem _ hq),
      AMap.find?_set_ne _ _ (Ne.symm (h p List.mem_cons_self))]

/-- A key that a list of pairs gives one value only is set to it. -/
theorem find?_foldl_set_of_mem {α : Type} (l : List (Nat × α)) (m : AMap Nat α) {n : Nat} {v : α} (hmem : (n, v) ∈ l)
    (h : ∀ p ∈ l, p.1 = n → p.2 = v) : AMap.find? (l.foldl (fun m p => AMap.set m p.1 p.2) m) n = some v := by
  induction l generalizing m with
  | nil => cases hmem
  | cons p l ih =>
    rw [List.foldl_cons]
    by_cases hl : (n, v) ∈ l
    · exact ih _ hl fun q hq => h q (List.mem_cons_of_mem _ hq)
    · have hp : p = (n, v) := ((List.mem_cons.mp hmem).resolve_right hl).symm
      rw [find?_foldl_set_of_not_mem _ _ fun q hq hn => hl (by rw [← hn, ← h q (List.mem_cons_of_mem _ hq) hn]; exact hq), hp,
        AMap.find?_set_self]

section
variable {s : State} {r : Nat} {w : WaveSrc}

theorem State.rindCapture_idle (h : s.dev.rind.cur = none ∨ r ∉ s.dev.rind.todo ∨ s.dev.rind.cut = true ∨ s.regionStopped r = true) :
    s.rindCapture r = s := by
  unfold State.rindCapture
  split
  · rfl
  · rename_i w hw
    refine if_neg ?_
    rintro ⟨htodo, hcut, hstop⟩
    rcases h with h | h | h | h
    · rw [h] at hw; cases hw
    · exact h (by simpa using htodo)
    · exact hcut h
    · exact hstop h

theorem mem_capturesOf (rs : List Nat) (p : Nat × Capture) :
    p ∈ s.capturesOf rs w ↔ ∃ x ∈ rs, ∃ b ∈ regionBlocks x, p = (b.num, s.captureOf x w b) := by
  simp [State.capturesOf, eq_comm]

variable (hw : s.dev.rind.cur = some w) (ht : r ∈ s.dev.rind.todo) (hc : s.dev.rind.cut = false) (hr : s.regionStopped r = false)
include hw ht hc hr

/-- What a capture leaves of the rind unit. -/
theorem State.rindCapture_captures : s.rindCapture r = s.modRind fun q => { q with
    cut := true, todo := q.todo.filter fun x => !(s.dev.rind.todo.filter fun x => !s.regionStopped x).contains x,
    areas := (s.capturesOf (s.dev.rind.todo.filter fun x => !s.regionStopped x) w).foldl (fun m p => AMap.set m p.1 p.2) q.areas } := by
  rw [State.rindCapture, hw]
  exact if_pos ⟨by simpa using ht, by simp [hc], by simp [hr]⟩

theorem State.rindCapture_todo (x : Nat) : x ∈ (s.rindCapture r).dev.rind.todo ↔ x ∈ s.dev.rind.todo ∧ s.regionStopped x = true := by
  rw [State.rindCapture_captures hw ht hc hr]
  simp only [State.modRind, List.mem_filter, Bool.not_eq_true', List.contains_eq_mem, decide_eq_false_iff_not, not_and,
    Bool.not_eq_false]
  exact and_congr_right fun h => ⟨fun k => k h, fun k _ => k⟩

theorem State.rindCapture_area (hlt : ∀ x ∈ s.dev.rind.todo, x < 19) {x : Nat} (hx : x ∈ s.dev.rind.todo)
    (hstop : s.regionStopped x = false) {b : RBlock} (hb : b ∈ regionBlocks x) :
    AMap.find? (s.rindCapture r).dev.rind.areas b.num = some (s.captureOf x w b) := by
  rw [State.rindCapture_captures hw ht hc hr]
  refine find?_foldl_set_of_mem _ _ ((mem_capturesOf _ _).mpr ⟨x, List.mem_filter.mpr ⟨hx, by simp [hstop]⟩, b, hb, rfl⟩) ?_
  rintro p hp hn
  obtain ⟨y, hy, b', hb', rfl⟩ := (mem_capturesOf _ _).mp hp
  have h := blockOf_num x (hlt x hx) b hb
  rw [← show b'.num = b.num from hn, blockOf_num y (hlt y (List.mem_of_mem_filter hy)) b' hb'] at h
  obtain ⟨rfl, rfl⟩ := Prod.mk.inj h
  rfl

theorem State.rindCapture_other {n : Nat} (h : ∀ x ∈ s.dev.rind.todo, s.regionStopped x = false → ∀ b ∈ regionBlocks x, b.num ≠ n) :
    AMap.find? (s.rindCapture r).dev.rind.areas n = AMap.find? s.dev.rind.areas n := by
  rw [State.rindCapture_captures hw ht hc hr]
  refine find?_foldl_set_of_not_mem _ _ fun p hp => ?_
  obtain ⟨y, hy, b, hb, rfl⟩ := (mem_capturesOf _ _).mp hp
  obtain ⟨hy, hstop⟩ := List.mem_filter.mp hy
  exact h y hy (by simpa using hstop) b hb

end

/-! ### The end of a wave (R287, R288) -/

/-- Every region whose clock runs has captured, or none runs. -/
def State.waveEnded (s : State) : Prop := s.dev.rind.cut = true ∨ ∀ r ∈ s.dev.rind.todo, s.regionStopped r = true

/-- The armings that are over when the wave `w` ends are dropped. -/
def State.dropArmings (s : State) (w : WaveSrc) (p : Option WaveSrc) : State :=
  (List.range 8).foldl (fun s c =>
    match (s.ctx c).arming with
    | some a => if a.over c w p then s.modCtx c fun x => { x with arming := none } else s
    | none => s) s

/-- The rind unit without its wave, `n` blocks missing. -/
def Rind.ended (q : Rind) (n : Nat) : Rind := { q with cur := none, todo := [], cut := false, missing := n, pending := none }

section
variable (s : State) (w : WaveSrc) (p : Option WaveSrc)

theorem State.dropArmings_keeps {β : Type} (f : State → β) (h : ∀ (t : State) c g, f (t.modCtx c g) = f t) : f (s.dropArmings w p) = f s := by
  refine foldl_keeps f (fun t c => ?_) _ _
  split
  · split
    · exact h t c _
    · rfl
  · rfl

theorem State.waveComplete_idle (h : s.dev.rind.cur = none ∨ ¬ s.waveEnded) : s.waveComplete = s := by
  unfold State.waveComplete
  split
  · rfl
  · rename_i w hw
    refine if_neg fun he => h.elim (fun h => ?_) fun h => h ?_
    · rw [h] at hw; cases hw
    · exact he.imp_right fun ha => List.all_eq_true.mp ha

theorem State.waveComplete_ends {w : WaveSrc} (hw : s.dev.rind.cur = some w) (h : s.waveEnded) : s.waveComplete =
    (s.dropArmings w s.dev.rind.pending).modRind fun q =>
      match s.dev.rind.pending with
      | some v => (q.ended ((s.dev.rind.todo.map fun r => (regionBlocks r).length).foldl (· + ·) 0)).start v
          (s.dropArmings w s.dev.rind.pending).dev.tick
      | none => q.ended ((s.dev.rind.todo.map fun r => (regionBlocks r).length).foldl (· + ·) 0) := by
  rw [State.waveComplete, hw]
  refine (if_pos (h.imp_right fun ha => List.all_eq_true.mpr ha)).trans ?_
  rfl

/-- A wave that ends leaves the areas; the pending trigger starts the next one. -/
theorem State.waveComplete_effect (hw : s.dev.rind.cur ≠ none) (h : s.waveEnded) :
    s.waveComplete.mem = s.mem ∧ s.waveComplete.dev.rind.cut = false ∧ s.waveComplete.dev.rind.areas = s.dev.rind.areas ∧
      (s.dev.rind.pending = none → s.waveComplete.dev.rind.cur = none ∧ s.waveComplete.dev.rind.todo = [] ∧
        s.waveComplete.dev.rind.missing = (s.dev.rind.todo.map fun r => (regionBlocks r).length).sum) ∧
      (∀ v, s.dev.rind.pending = some v → s.waveComplete.dev.rind.cur = some v ∧ s.waveComplete.dev.rind.pending = none ∧
        s.waveComplete.dev.rind.wave = (s.dev.rind.wave + 1) % 65536) := by
  obtain ⟨w, hw⟩ := Option.ne_none_iff_exists'.mp hw
  have hmem := s.dropArmings_keeps w s.dev.rind.pending State.mem fun _ _ _ => rfl
  have hrind := s.dropArmings_keeps w s.dev.rind.pending (·.dev.rind) fun _ _ _ => rfl
  rw [s.waveComplete_ends hw h, List.sum_eq_foldl]
  generalize (s.dev.rind.todo.map fun r => (regionBlocks r).length).foldl (· + ·) 0 = n
  refine ⟨(State.modRind_mem _ _).trans hmem, ?_⟩
  simp only [State.modRind, hrind]
  cases s.dev.rind.pending with
  | none => exact ⟨rfl, rfl, fun _ => ⟨rfl, rfl, rfl⟩, nofun⟩
  | some v =>
    refine ⟨rfl, rfl, nofun, ?_⟩
    rintro x ⟨⟩
    exact ⟨rfl, rfl, rfl⟩

end

/-- Settles O58: records are consumed up to the fill, faults are taken in order, and the rind unit goes through its waves one by one. -/
theorem eventsHaltsAndWaves : Obligations.EventsHaltsAndWaves := by
  unfold Obligations.EventsHaltsAndWaves
  intro s
  refine ⟨fun l t hl ht => ?_, fun c => ⟨fun h => ?_, fun f r h hm => ?_⟩, fun v hl => ⟨fun h => ?_, fun h => ?_⟩, ?_, fun r => ⟨fun h => ?_, ?_⟩, ?_⟩
  · rw [exec_eventTailWrite, State.hosted_of_linked hl, State.tailWrite_eq _ _ _ ht]
  · refine ⟨_, exec_contextFaultHalt c s, ?_, ?_⟩
    · rw [State.faultHalt_none _ _ h, State.onlyCtx, State.modCtx, State.ctx_setCtx_self]
    · rw [State.faultHalt_none _ _ h, State.modCtx, State.ctx_setCtx_self]
  · exact ⟨_, exec_contextFaultHalt c s, s.faultHalt_effect c h hm⟩
  · rw [exec_rindTrig, State.hosted_of_linked hl, State.rindTrigWrite_eq, if_neg (by omega)]
  · refine ⟨s.trigger ⟨4, none⟩, ?_, rfl, Rind.trigger_effect _ _⟩
    rw [exec_rindTrig, State.hosted_of_linked hl, State.rindTrigWrite_eq, if_pos h]
  · rintro q rfl
    refine ⟨fun h => ?_, fun h ha => ?_, fun h c x hx hlow => ?_⟩
    · rw [exec_trigIn, State.trigIn_locked h]
    · rw [exec_trigIn, State.trigIn_unarmed h ha]
    · refine ⟨s.armTrigger c x, by rw [exec_trigIn, State.trigIn_armed h hx hlow], rfl, ?_, ?_⟩
      · exact congrArg Ctx.arming (s.ctx_setCtx_self c { s.ctx c with arming := some { x with fired := true } })
      · have hsrc : (⟨x.src, some c.val⟩ : WaveSrc) = ⟨3, some c.val⟩ := by rw [hx.2.1]
        exact hsrc ▸ Rind.trigger_effect _ _
  · rw [exec_rindCapture, State.rindCapture_idle h]
  · intro w hw ht hc hr
    refine ⟨_, exec_rindCapture r s, ?_, ?_, ?_, State.rindCapture_todo hw ht hc hr, fun hlt x hx hstop b hb => ⟨?_, rfl⟩,
      fun n hn => State.rindCapture_other hw ht hc hr hn⟩
    · rw [State.rindCapture_captures hw ht hc hr]; rfl
    · rw [State.rindCapture_captures hw ht hc hr]; rfl
    · rw [State.rindCapture_captures hw ht hc hr]; exact hw
    · exact State.rindCapture_area hw ht hc hr hlt hx hstop hb
  · rintro q rfl
    refine ⟨fun h => ?_, fun hw h => ?_⟩
    · rw [exec_rindWaveComplete, s.waveComplete_idle h]
    · exact ⟨_, exec_rindWaveComplete s, s.waveComplete_effect hw h⟩

end Sys2Proof.Machine
end

section
/-!
SUPPORT. Dropping frames (R207, R208): what the buffers of a port leave behind when they are emptied, when it goes DOWN, and when it
begins a retrain.
-/
namespace Sys2Proof.Machine

/-- The registers that counting and recording dropped frames may write. -/
def dropRegs : List RegName := [.hubAlert, .taintCnt, .lnkDrop, .lnkCntDrop]

/-- `t` is `s` after frames were dropped: memory, `Nv` and the other registers are as they were, and a port has at most sent something. -/
structure State.Dropped (s t : State) : Prop where
  mem : t.mem = s.mem
  nv : t.nv = s.nv
  reg : ∀ n i, n ∉ dropRegs → t.reg n i = s.reg n i
  port : ∀ q, ∃ w, t.port q = { s.port q with wire := w }

theorem State.Dropped.refl (s : State) : s.Dropped s := ⟨rfl, rfl, fun _ _ _ => rfl, fun q => ⟨(s.port q).wire, rfl⟩⟩

theorem State.Dropped.trans {s t u : State} (h : s.Dropped t) (k : t.Dropped u) : s.Dropped u := by
  refine ⟨k.mem.trans h.mem, k.nv.trans h.nv, fun n i hn => (k.reg n i hn).trans (h.reg n i hn), fun q => ?_⟩
  obtain ⟨w, hw⟩ := h.port q
  obtain ⟨w', hw'⟩ := k.port q
  exact ⟨w', by rw [hw', hw]⟩

theorem State.Dropped.foldl {α : Type} {f : State → α → State} (h : ∀ t x, State.Dropped t (f t x)) (l : List α) :
    ∀ s : State, s.Dropped (l.foldl f s) := by
  induction l with
  | nil => exact State.Dropped.refl
  | cons x l ih => exact fun s => (h s x).trans (ih (f s x))

theorem State.Dropped.field {s t : State} (h : s.Dropped t) {n : RegName} (hn : n ∉ dropRegs) (i : List Nat) (hi lo : Nat) :
    t.field n i hi lo = s.field n i hi lo := by rw [State.field, h.reg n i hn, State.field]

theorem State.Dropped.st {s t : State} (h : s.Dropped t) (q : Nat) : (t.port q).st = (s.port q).st := by
  obtain ⟨w, hw⟩ := h.port q
  rw [hw]

/-- A change that leaves memory, `Nv`, the registers and the ports alone. -/
theorem State.Dropped.of_eq {s t : State} (hm : t.mem = s.mem) (hn : t.nv = s.nv) (hr : t.dev.regs = s.dev.regs)
    (hp : t.dev.link.ports = s.dev.link.ports) : s.Dropped t :=
  ⟨hm, hn, fun n i _ => by rw [State.reg, hr, State.reg], fun q => ⟨(s.port q).wire, by rw [State.port, hp, State.port]⟩⟩

section
variable (s : State)

theorem State.dropped_raise (code : Nat) (o : Origin) : s.Dropped (s.raise code o) := by
  refine ⟨s.raise_mem code o, s.raise_nv code o, fun n i hn => ?_, fun q => ⟨(s.port q).wire, s.raise_port code o q⟩⟩
  exact State.reg_raise _ _ _ _ (fun e => hn (by simp [dropRegs, e])) fun e => hn (by simp [dropRegs, e])

theorem State.dropped_bump : s.Dropped (s.bump .lnkCntDrop [] 1 none 7 0) := by
  refine ⟨s.bump_mem _ _ _ _ _ _, s.bump_nv _ _ _ _ _ _, fun n i hn => ?_, fun q => ⟨(s.port q).wire, s.bump_port _ _ _ _ _ _ q⟩⟩
  exact State.reg_bump _ _ _ _ _ _ _ _ (fun e => hn (by simp [dropRegs, e]))
    fun e => hn (by simp [dropRegs, (Prod.mk.inj e).1])

theorem State.dropped_setLnkDrop (v : BitVec 64) : s.Dropped (s.setReg .lnkDrop [] v) :=
  ⟨rfl, rfl, fun n i hn => State.reg_setReg_ne _ _ fun e => hn (by simp [dropRegs, (Prod.mk.inj e).1]),
    fun q => ⟨(s.port q).wire, rfl⟩⟩

theorem State.dropped_drop (cause : Nat) (f : Frame) (port : Nat) (ctx : Option Nat) : s.Dropped (s.drop cause f port ctx) := by
  have hfail : s.Dropped (s.failShipment f) := by
    unfold State.failShipment
    split
    · exact State.Dropped.of_eq rfl rfl rfl rfl
    · exact State.Dropped.refl s
  have hcount := hfail.trans (State.dropped_bump _)
  unfold State.drop
  dsimp only
  split
  · exact hcount
  · exact (hcount.trans (State.dropped_setLnkDrop _ _)).trans (State.dropped_raise _ _ _)

/-- What a port sends changes its wire alone. -/
theorem State.port_emit (p : Nat) (w : Wire) (q : Nat) :
    (s.emit p w).port q = { s.port q with wire := if q = p then (s.port q).wire ++ [w] else (s.port q).wire } := by
  by_cases h : q = p
  · subst h
    rw [State.emit, if_pos rfl]
    exact AMap.get_set_self _ _ _ _
  · rw [State.emit, if_neg h]
    exact AMap.get_set_ne _ _ _ h

theorem State.dropped_lcredit (inp : Option (Nat × Nat)) (units : Nat) : s.Dropped (s.lcredit inp units) := by
  have hemit (p : Nat) (w : Wire) : s.Dropped (s.emit p w) := ⟨rfl, rfl, fun _ _ _ => rfl, fun q => ⟨_, s.port_emit p w q⟩⟩
  unfold State.lcredit
  split
  · split
    · exact hemit _ _
    · exact State.Dropped.refl s
  · exact State.Dropped.refl s

theorem State.dropped_dropWaiting (f cause : Nat) (ls : List Landing) : s.Dropped (s.dropWaiting f cause ls) := by
  refine State.Dropped.trans ?_ (State.Dropped.foldl (fun t x => ?_) _ _)
  · exact State.Dropped.of_eq rfl rfl rfl rfl
  · exact State.dropped_drop _ _ _ _ _

theorem State.dropped_dropLandings (p f : Nat) : s.Dropped (s.dropLandings p f) := by
  unfold State.dropLandings
  split
  · exact State.Dropped.refl s
  · refine State.Dropped.trans ?_ (State.dropped_dropWaiting _ _ _ _)
    exact State.Dropped.of_eq rfl rfl rfl rfl

end

/-- A port with empty buffers. -/
def PortS.emptied (k : PortS) : PortS := { k with replay := [], replayTo := none, unacked := 0, discarding := false }

/-- Emptying the buffers of a port (R208) drops its frames and nothing else. -/
theorem State.dropped_dropBuffers (s : State) (p : Nat) : (s.modPort p PortS.emptied).Dropped (s.dropBuffers p) := by
  unfold State.dropBuffers
  dsimp only
  have hheld (t : State) : t.Dropped (t.modLink fun l => { l with held := l.held.filter fun h => h.1 != p }) :=
    State.Dropped.of_eq rfl rfl rfl rfl
  refine State.Dropped.trans ?_ (State.Dropped.foldl (fun t (h : Nat × Frame) => t.dropped_drop 2 h.2 p none) _ _)
  refine State.Dropped.trans ?_ (hheld _)
  refine State.Dropped.trans ?_ (State.Dropped.foldl (fun t (q : Nat × Flow) => t.dropped_dropLandings p q.1) _ _)
  refine State.Dropped.trans ?_ (State.Dropped.foldl (fun t w => ?_) _ _)
  · refine State.Dropped.trans ?_ (State.Dropped.foldl (fun t (f : Sent) => t.dropped_drop 2 f.frame p f.ctx) _ _)
    exact State.Dropped.of_eq rfl rfl rfl rfl
  · split
    · split
      · exact State.dropped_drop _ _ _ _ _
      · exact (State.dropped_drop _ _ _ _ _).trans (State.dropped_lcredit _ _ _)
    · exact State.dropped_drop _ _ _ _ _

/-! ### A port that is set -/

/-- `t` is `s` with port `p` set to `g` of what it was, apart from its wire; frames may have been dropped besides. -/
structure State.PortSet (s t : State) (p : Nat) (g : PortS → PortS) : Prop where
  mem : t.mem = s.mem
  nv : t.nv = s.nv
  reg : ∀ n i, n ∉ dropRegs → t.reg n i = s.reg n i
  port_self : ∃ w, t.port p = { g (s.port p) with wire := w }
  port_ne : ∀ q, q ≠ p → ∃ w, t.port q = { s.port q with wire := w }

theorem State.PortSet.of_dropped {s t : State} {p : Nat} {g : PortS → PortS} (h : (s.modPort p g).Dropped t) : s.PortSet t p g := by
  refine ⟨h.mem, h.nv, h.reg, ?_, fun q hq => ?_⟩
  · obtain ⟨w, hw⟩ := h.port p
    exact ⟨w, by rw [hw, State.port_modPort_self]⟩
  · obtain ⟨w, hw⟩ := h.port q
    exact ⟨w, by rw [hw, State.port_modPort_ne _ _ hq]⟩

theorem State.PortSet.field {s t : State} {p : Nat} {g : PortS → PortS} (h : s.PortSet t p g) {n : RegName} (hn : n ∉ dropRegs)
    (i : List Nat) (hi lo : Nat) : t.field n i hi lo = s.field n i hi lo := by rw [State.field, h.reg n i hn, State.field]

theorem State.PortSet.st_ne {s t : State} {p q : Nat} {g : PortS → PortS} (h : s.PortSet t p g) (hq : q ≠ p) :
    (t.port q).st = (s.port q).st := by
  obtain ⟨w, hw⟩ := h.port_ne q hq
  rw [hw]

theorem State.PortSet.dropped {s t u : State} {p : Nat} {g : PortS → PortS} (h : s.PortSet t p g) (k : t.Dropped u) : s.PortSet u p g := by
  refine ⟨k.mem.trans h.mem, k.nv.trans h.nv, fun n i hn => (k.reg n i hn).trans (h.reg n i hn), ?_, fun q hq => ?_⟩
  · obtain ⟨w, hw⟩ := h.port_self
    obtain ⟨w', hw'⟩ := k.port p
    exact ⟨w', by rw [hw', hw]⟩
  · obtain ⟨w, hw⟩ := h.port_ne q hq
    obtain ⟨w', hw'⟩ := k.port q
    exact ⟨w', by rw [hw', hw]⟩

/-- Emptying the buffers of a port whose state has been set. -/
theorem State.portSet_dropBuffers (s : State) (p : Nat) (g : PortS → PortS) :
    s.PortSet ((s.modPort p g).dropBuffers p) p fun k => (g k).emptied := by
  have h := (s.modPort p g).dropped_dropBuffers p
  refine ⟨h.mem, h.nv, h.reg, ?_, fun q hq => ?_⟩
  · obtain ⟨w, hw⟩ := h.port p
    exact ⟨w, by rw [hw, State.port_modPort_self, State.port_modPort_self]⟩
  · obtain ⟨w, hw⟩ := h.port q
    exact ⟨w, by rw [hw, State.port_modPort_ne _ _ hq, State.port_modPort_ne _ _ hq]⟩

/-- A port that is DOWN, its buffers empty. -/
def PortS.downed (k : PortS) (cause : Nat) : PortS := ({ k with st := .down, cause := cause, lanes := [], fresh := true } : PortS).emptied

theorem State.portSet_linkDown (s : State) (p cause : Nat) : s.PortSet (s.linkDown p cause) p (·.downed cause) :=
  (s.portSet_dropBuffers p _).dropped (State.dropped_raise _ _ _)

theorem State.linkDown_down (s : State) (p cause : Nat) : ((s.linkDown p cause).port p).st = .down ∧
    ((s.linkDown p cause).port p).cause = cause ∧ ((s.linkDown p cause).port p).replay = [] := by
  obtain ⟨w, hw⟩ := (s.portSet_linkDown p cause).port_self
  rw [hw]
  exact ⟨rfl, rfl, rfl⟩

theorem State.linkDown_mem (s : State) (p cause : Nat) : (s.linkDown p cause).mem = s.mem := (s.portSet_linkDown p cause).mem

/-! ### FEAT_LINK after a training (R95, R191, R193) -/

section
variable (s : State) (p : Nat) (up spare : Bool)

theorem State.featTrained_reg_ne {n : RegName} (i : List Nat) (h : n ≠ .featLink) : (s.featTrained p up spare).reg n i = s.reg n i := by
  have hne : (n, i) ≠ (RegName.featLink, []) := fun e => h (congrArg Prod.fst e)
  rw [State.featTrained, State.reg_setField_ne _ _ hne, State.reg_setField_ne _ _ hne]

theorem State.featTrained_port (q : Nat) : (s.featTrained p up spare).port q = s.port q := rfl
theorem State.featTrained_mem : (s.featTrained p up spare).mem = s.mem := rfl
theorem State.featTrained_nv : (s.featTrained p up spare).nv = s.nv := rfl

/-- The PORTS bit of the port. -/
theorem State.featTrained_ports (h : p < 16) : (s.featTrained p up spare).field .featLink [] p p = b2n up := by
  rw [State.featTrained, State.field_setField_below _ _ (by omega) (by omega) (by omega) (by omega),
    State.field_setField_self _ _ (by omega) (by omega)]
  cases up <;> simp [b2n]

/-- The SPARE bit of a port that did not come up. -/
theorem State.featTrained_spare (h : p < 16) : (s.featTrained p false spare).field .featLink [] (16 + p) (16 + p) = 0 := by
  rw [State.featTrained, State.field_setField_self _ _ (by omega) (by omega)]
  simp [b2n]
end

/-- One-bit fields of a word are apart. -/
theorem State.field_setField_bit (s : State) (n : RegName) (i : List Nat) {j k : Nat} (v : Nat) (hk : k < 64) (hjk : j ≠ k) :
    (s.setField n i k k v).field n i j j = s.field n i j j := by
  obtain h | h := Nat.lt_or_gt_of_ne hjk
  · exact State.field_setField_below _ _ h (by omega) (by omega) hk
  · exact State.field_setField_above _ _ h (by omega) hk

/-- The bits of FEAT_LINK of another port. -/
theorem State.featTrained_bit_ne (s : State) {p j : Nat} (up spare : Bool) (hp : p < 16) (hj : j ≠ p) (hj' : j ≠ 16 + p) :
    (s.featTrained p up spare).field .featLink [] j j = s.field .featLink [] j j := by
  rw [State.featTrained, State.field_setField_bit _ _ _ _ (by omega) hj', State.field_setField_bit _ _ _ _ (by omega) hj]

/-- A training that fails takes the port DOWN. -/
theorem State.portSet_trainFails (s : State) (p cause : Nat) :
    (s.featTrained p false false).PortSet (s.trainFails p cause) p (·.downed cause) := State.portSet_linkDown _ p cause

theorem State.trainFails_down (s : State) (p cause : Nat) : ((s.trainFails p cause).port p).st = .down ∧
    ((s.trainFails p cause).port p).cause = cause ∧ ((s.trainFails p cause).port p).replay = [] := State.linkDown_down _ p cause

theorem State.trainFails_mem (s : State) (p cause : Nat) : (s.trainFails p cause).mem = s.mem := (s.portSet_trainFails p cause).mem

theorem State.trainFails_feat (s : State) (p cause j : Nat) :
    (s.trainFails p cause).field .featLink [] j j = (s.featTrained p false false).field .featLink [] j j :=
  (s.portSet_trainFails p cause).field (by decide) _ _ _

end Sys2Proof.Machine
end

section
/-!
PROOF. Start-up (R290, R292, R293, R191): the supply, BOOT, the self-test and the end of port training.
-/
namespace Sys2Proof.Machine

theorem exec_powerUpSequence (raised : Bool) (s : State) : exec (.powerUpSequence raised) s = .next (s.powerUp raised) := by rfl
theorem exec_bootComplete (mref : Bool) (slot : Fin 64) (s : State) : exec (.bootComplete mref slot) s = .next (s.boot mref slot) := by rfl
theorem exec_selfTestComplete (badA badB badSram : List CoreId) (fault : Nat) (x0 x1 : Bool) (s : State) :
    exec (.selfTestComplete badA badB badSram fault x0 x1) s =
      .next (s.selfTest (badA.map (·.val)) (badB.map (·.val)) (badSram.map (·.val)) fault x0 x1) := by rfl
theorem exec_startUpReady (s : State) : exec .startUpReady s = .next s.ready4 := by rfl

/-! ### The hub's state -/

section
variable (s : State)

theorem State.goHub_hubState {n : Nat} (h : n < 8) : (s.goHub n).hubState = n := by
  rw [State.hubState, State.goHub, State.field_setField_self _ _ (by decide) (by decide)]
  exact Nat.mod_eq_of_lt h

theorem State.goHub_reg_ne (n : Nat) {m : RegName} (i : List Nat) (h : m ≠ .hubState) : (s.goHub n).reg m i = s.reg m i :=
  State.reg_setField_ne _ _ fun e => h (congrArg Prod.fst e)

theorem State.goHub_field_ne (n : Nat) {m : RegName} (i : List Nat) (hi lo : Nat) (h : m ≠ .hubState) :
    (s.goHub n).field m i hi lo = s.field m i hi lo := by rw [State.field, State.goHub_reg_ne s n i h, State.field]

theorem State.goHub_mem (n : Nat) : (s.goHub n).mem = s.mem := rfl

theorem State.fail_hubState (n : Nat) : (s.fail n).hubState = 5 := by
  rw [State.hubState, State.fail, State.field_setField_ne _ _ (by simp), State.field_setField_self _ _ (by decide) (by decide)]
  rfl

theorem State.fail_cause {n : Nat} (h : n < 256) : (s.fail n).field .hubState [] 15 8 = n := by
  rw [State.fail, State.field_setField_ne _ _ (by simp), State.field_setField_above _ _ (by decide) (by decide) (by decide),
    State.field_setField_self _ _ (by decide) (by decide)]
  exact Nat.mod_eq_of_lt h

theorem State.fail_slot (n : Nat) : (s.fail n).field .hubState [] 37 32 = s.field .hubState [] 37 32 := by
  rw [State.fail, State.field_setField_ne _ _ (by simp), State.field_setField_above _ _ (by decide) (by decide) (by decide),
    State.field_setField_above _ _ (by decide) (by decide) (by decide)]

theorem State.fail_reg_ne (n : Nat) {m : RegName} (i : List Nat) (h : m ≠ .hubState) (h' : m ≠ .hubAlert) : (s.fail n).reg m i = s.reg m i := by
  rw [State.fail, State.reg_setField_ne _ _ fun e => h' (congrArg Prod.fst e), State.reg_setField_ne _ _ fun e => h (congrArg Prod.fst e),
    State.reg_setField_ne _ _ fun e => h (congrArg Prod.fst e)]

end

/-! ### Power-up (R290, R298) -/

section
variable {s : State} {raised : Bool}

/-- The supply lets the rails come up. -/
def State.mayStart (s : State) (raised : Bool) : Prop :=
  s.nv.power.rails = false ∧ s.nv.power.input = true ∧ (s.nv.power.pwrEn = true ∨ raised = true) ∧
    (s.nv.power.trip = false ∨ (ticks100ms ≤ s.nv.power.low ∧ raised = true))

/-- The raise of PWR_EN is noted. -/
def State.pwrRaised (s : State) (raised : Bool) : State := if raised then s.modPower fun p => { p with pwrEn := true, low := 0 } else s

theorem State.powerUp_off (h : ¬ s.mayStart raised) : s.powerUp raised = s.pwrRaised raised := by
  refine if_neg fun hc => h ?_
  obtain ⟨hr, hi, hp, ht⟩ := hc
  exact ⟨Bool.not_eq_true _ ▸ hr, hi, hp, ht.imp (fun x => Bool.not_eq_true _ ▸ x) And.symm⟩

theorem State.powerUp_on (h : s.mayStart raised) : s.powerUp raised = (s.pwrRaised raised).railsOn := by
  obtain ⟨hr, hi, hp, ht⟩ := h
  exact if_pos ⟨by simp [hr], hi, hp, ht.imp (fun x => by simp [x]) And.symm⟩

theorem State.pwrRaised_of_high (h : raised = true → s.nv.power.pwrEn = true ∧ s.nv.power.low = 0) : s.pwrRaised raised = s := by
  cases raised with
  | false => rfl
  | true =>
    obtain ⟨hp, hl⟩ := h rfl
    have hsame : ({ s.nv.power with pwrEn := true, low := 0 } : PowerS) = s.nv.power := by rw [← hp, ← hl]
    exact congrArg (fun p => ({ s with nv := { s.nv with power := p } } : State)) hsame

/-- The state of a module whose rails have come up. -/
theorem State.railsOn_effect (s : State) : s.railsOn.nv.power.rails = true ∧ s.railsOn.hubState = 1 ∧ s.railsOn.nv.power.trip = s.nv.power.trip ∧
    s.railsOn.nv.power.pwrEn = s.nv.power.pwrEn ∧ s.railsOn.field .hubReset [] 3 0 = s.nv.power.cause % 16 ∧ s.railsOn.dev.clk.wear = s.nv.wear ∧
    s.railsOn.mem = s.mem ∧ s.railsOn.pending = s.pending := by
  have hfresh : ∀ t : State, t.dev.regs = [] → t.hubState = 1 := fun t ht => by
    rw [State.hubState, State.field, State.reg, ht]
    rfl
  refine ⟨rfl, ?_, rfl, rfl, ?_, rfl, rfl, rfl⟩
  · rw [State.railsOn, State.startHub, State.hubState, State.field_setField_ne _ _ (by simp)]
    exact hfresh _ rfl
  · exact State.field_setField_self _ _ (by decide) (by decide)

theorem State.powerUp_effect (h : s.mayStart raised) :
    let u := s.powerUp raised
    u.nv.power.rails = true ∧ u.hubState = 1 ∧ u.nv.power.trip = s.nv.power.trip ∧ u.nv.power.pwrEn = true ∧
      u.field .hubReset [] 3 0 = s.nv.power.cause % 16 ∧ u.dev.clk.wear = s.nv.wear ∧ u.mem = s.mem ∧ u.pending = s.pending := by
  obtain ⟨hrails, hhub, htrip, hpwr, hcause, hwear, hmem, hpending⟩ := (s.pwrRaised raised).railsOn_effect
  dsimp only
  rw [State.powerUp_on h]
  obtain ⟨-, -, hon, -⟩ := h
  cases raised with
  | false => exact ⟨hrails, hhub, htrip, hpwr.trans (hon.resolve_right (by decide)), hcause, hwear, hmem, hpending⟩
  | true => exact ⟨hrails, hhub, htrip, hpwr, hcause, hwear, hmem, hpending⟩

end

/-! ### The links (R291) -/

section
variable (s : State)

/-- The links may train. -/
def State.linksReady (s : State) : Prop :=
  s.nv.power.rails = true ∧ ¬ s.nv.power.perst ∧ ¬ s.nv.power.trained ∧ ticks100ms ≤ s.nv.power.good ∧ s.hubState ≠ 1

/-- The state with the links trained. -/
def State.linksUp (s : State) : State :=
  let p := s.nv.power
  (((s.modPower fun p => { p with trained := true }).setField .hifCfg [] 11 8 (widthCode (s.linkWidth p.hostLink.1))).setField .hifCfg []
      15 12 (if s.field .hifCfg [] 0 0 = 1 then widthCode (s.linkWidth p.hostLink.2.1) else 0)).setField .hifCfg [] 7 4 (p.hostLink.2.2 % 16)

theorem State.trainLinks_up (h : s.linksReady) : s.trainLinks = s.linksUp := by
  obtain ⟨hr, hp, ht, hg, hb⟩ := h
  exact if_pos ⟨hr, hp, ht, hg, hb⟩

theorem State.trainLinks_wait (h : ¬ s.linksReady) : s.trainLinks = s := by
  refine if_neg fun hc => h ?_
  obtain ⟨hr, hp, ht, hg, hb⟩ := hc
  exact ⟨hr, hp, ht, hg, hb⟩

theorem State.linksUp_reg_ne {n : RegName} (i : List Nat) (h : n ≠ .hifCfg) : s.linksUp.reg n i = s.reg n i := by
  have hne : (n, i) ≠ (RegName.hifCfg, []) := fun e => h (congrArg Prod.fst e)
  rw [State.linksUp, State.reg_setField_ne _ _ hne, State.reg_setField_ne _ _ hne, State.reg_setField_ne _ _ hne, State.modPower_reg]

/-- What training the links keeps. -/
theorem State.trainLinks_keeps {β : Type} (f : State → β) (h : f s.linksUp = f s) : f s.trainLinks = f s := by
  by_cases hr : s.linksReady
  · rw [State.trainLinks_up s hr, h]
  · rw [State.trainLinks_wait s hr]

theorem State.trainLinks_mem : s.trainLinks.mem = s.mem := s.trainLinks_keeps State.mem rfl
theorem State.trainLinks_core (c : Nat) : s.trainLinks.core c = s.core c := s.trainLinks_keeps (fun t => t.core c) rfl
theorem State.trainLinks_reg_ne {n : RegName} (i : List Nat) (h : n ≠ .hifCfg) : s.trainLinks.reg n i = s.reg n i :=
  s.trainLinks_keeps (fun t => t.reg n i) (s.linksUp_reg_ne i h)
theorem State.trainLinks_field_ne {n : RegName} (i : List Nat) (hi lo : Nat) (h : n ≠ .hifCfg) :
    s.trainLinks.field n i hi lo = s.field n i hi lo := by rw [State.field, s.trainLinks_reg_ne i h, State.field]
theorem State.trainLinks_hubState : s.trainLinks.hubState = s.hubState := s.trainLinks_field_ne _ _ _ (by decide)
theorem State.trainLinks_fuses : s.trainLinks.nv.fuses = s.nv.fuses := s.trainLinks_keeps (fun t => t.nv.fuses) rfl

end

/-! ### BOOT (R292, R294, R276) -/

/-- The registers that BOOT loads. -/
def bootRegs : List RegName := [.hubId, .featCores, .featMem, .featFormats, .featGen, .caveBlocks, .caveStatus, .hifCfg, .lnkPortCtrl, .hubState,
  .hubAlert, .taintCnt, .secStatus, .secDbgNonce]

/-- `t` is `s` with something of BOOT loaded: memory, the fuse map, the other registers and SLOT as they were, no core back in service. -/
structure State.Loads (s t : State) : Prop where
  mem : t.mem = s.mem
  fuse : ∀ n, n ≠ 12 → t.fuse n = s.fuse n
  reg : ∀ n i, n ∉ bootRegs → t.reg n i = s.reg n i
  slot : t.field .hubState [] 37 32 = s.field .hubState [] 37 32
  off : ∀ c, (s.core c).st = .fusedOff → (t.core c).st = .fusedOff

theorem State.Loads.refl (s : State) : s.Loads s := ⟨rfl, fun _ _ => rfl, fun _ _ _ => rfl, rfl, fun _ => id⟩

theorem State.Loads.trans {s t u : State} (h : s.Loads t) (k : t.Loads u) : s.Loads u :=
  ⟨k.mem.trans h.mem, fun n hn => (k.fuse n hn).trans (h.fuse n hn), fun n i hn => (k.reg n i hn).trans (h.reg n i hn), k.slot.trans h.slot,
    fun c hc => k.off c (h.off c hc)⟩

theorem State.Loads.foldl {α : Type} {f : State → α → State} (h : ∀ t x, State.Loads t (f t x)) (l : List α) :
    ∀ s : State, s.Loads (l.foldl f s) := by
  induction l with
  | nil => exact State.Loads.refl
  | cons x l ih => exact fun s => (h s x).trans (ih (f s x))

/-- A change of registers that BOOT loads, SLOT excepted. -/
theorem State.Loads.of_regs {s t : State} (hm : t.mem = s.mem) (hf : t.nv.fuses = s.nv.fuses) (hc : t.dev.cores = s.dev.cores)
    (hr : ∀ n i, n ∉ bootRegs → t.reg n i = s.reg n i) (hs : t.field .hubState [] 37 32 = s.field .hubState [] 37 32) : s.Loads t :=
  ⟨hm, fun n _ => by rw [State.fuse, hf, State.fuse], hr, hs, fun c h => by rw [State.core, hc]; exact h⟩

section
variable (s : State)

theorem State.loads_setReg {n : RegName} (i : List Nat) (v : BitVec 64) (h : n ∈ bootRegs) (h' : n ≠ .hubState) : s.Loads (s.setReg n i v) := by
  refine State.Loads.of_regs rfl rfl rfl (fun m j hm => State.reg_setReg_ne _ _ fun e => hm ?_) ?_
  · rw [(Prod.mk.inj e).1]
    exact h
  · rw [State.field, State.reg_setReg_ne _ _ fun e => h' (Prod.mk.inj e).1.symm, State.field]

theorem State.loads_setField {n : RegName} (i : List Nat) (hi lo v : Nat) (h : n ∈ bootRegs) (h' : n ≠ .hubState) :
    s.Loads (s.setField n i hi lo v) := s.loads_setReg i _ h h'

/-- A field of HUB_STATE below SLOT. -/
theorem State.loads_hubState {hi lo : Nat} (v : Nat) (hlo : lo ≤ hi) (hhi : hi < 32) : s.Loads (s.setField .hubState [] hi lo v) := by
  refine State.Loads.of_regs rfl rfl rfl (fun m j hm => State.reg_setField_ne _ _ fun e => hm ?_) ?_
  · rw [(Prod.mk.inj e).1]
    decide
  · exact State.field_setField_above _ _ hhi hlo (by omega)

theorem State.loads_raise (code : Nat) (o : Origin) : s.Loads (s.raise code o) := by
  refine ⟨s.raise_mem _ _, fun n _ => by rw [State.fuse, s.raise_nv, State.fuse], fun n i hn => ?_, ?_, fun c hc => ?_⟩
  · exact State.reg_raise _ _ _ _ (fun e => hn (by rw [e]; decide)) fun e => hn (by rw [e]; decide)
  · exact State.field_raise _ _ _ _ _ _ (by decide) (by decide)
  · rw [s.raise_core]
    exact hc

/-- A core that is fused off. -/
theorem State.loads_fuseOff (c : Nat) : s.Loads (s.modCore c fun k => { k with st := .fusedOff }) := by
  refine ⟨rfl, fun _ _ => rfl, fun _ _ _ => rfl, rfl, fun d hd => ?_⟩
  by_cases h : d = c
  · rw [h, State.core_modCore_self]
  · rw [State.core_modCore_ne _ _ h]
    exact hd

theorem State.loads_modPort (p : Nat) (f : PortS → PortS) : s.Loads (s.modPort p f) := ⟨rfl, fun _ _ => rfl, fun _ _ _ => rfl, rfl, fun _ => id⟩

/-- A core that the fuses leave out. -/
def State.fuseOff (s : State) (c : Nat) : State := if s.enabledCores.contains c then s else s.modCore c fun k => { k with st := .fusedOff }

theorem State.loads_fuseOff_one (c : Nat) : s.Loads (s.fuseOff c) := by
  unfold State.fuseOff
  split
  · exact State.Loads.refl s
  · exact s.loads_fuseOff c

theorem State.Loads.enabledCores {s t : State} (h : s.Loads t) : t.enabledCores = s.enabledCores := by
  rw [State.enabledCores, h.fuse 0 (by decide), State.enabledCores]

theorem State.Loads.fuseMapOk {s t : State} (h : s.Loads t) : t.fuseMapOk = s.fuseMapOk := by
  rw [State.fuseMapOk, h.enabledCores, h.fuse 1 (by decide), State.fuseMapOk]

/-- Every core that the fuses leave out is off. -/
theorem State.fuseOff_all {c : Nat} (h : c < 64) (hc : c ∉ s.enabledCores) : (((List.range 64).foldl State.fuseOff s).core c).st = .fusedOff := by
  obtain ⟨l, r, hlr⟩ := List.append_of_mem (List.mem_range.2 h)
  rw [hlr, List.foldl_append, List.foldl_cons]
  refine (State.Loads.foldl State.loads_fuseOff_one r _).off c ?_
  have hl := State.Loads.foldl State.loads_fuseOff_one l s
  rw [State.fuseOff, if_neg (by rw [hl.enabledCores]; simpa using hc), State.core_modCore_self]

/-- The registers that the ROM loads from the fuses. -/
def State.setFuseRegs (s : State) (id : Nat) (cores : BitVec 64) (tiers : Nat) (blocks : BitVec 64) (low : Nat) : State :=
  (((((s.setField .hubId [] 31 16 id).setReg .featCores [] cores).setField .featMem [] 63 48 tiers).setReg .featFormats []
    (word [(0x01FF, 16), (0x01FE, 0)])).setReg .caveBlocks [] blocks).setField .caveStatus [] 5 5 low

theorem State.loads_setFuseRegs (id : Nat) (cores : BitVec 64) (tiers : Nat) (blocks : BitVec 64) (low : Nat) :
    s.Loads (s.setFuseRegs id cores tiers blocks low) := by
  have hreg (t : State) {n : RegName} (v : BitVec 64) (h : n ∈ bootRegs) (h' : n ≠ .hubState) : t.Loads (t.setReg n [] v) := t.loads_setReg [] v h h'
  have hid := s.loads_setField [] 31 16 id (n := .hubId) (by decide) (by decide)
  have hcores := hid.trans (hreg _ (n := .featCores) cores (by decide) (by decide))
  have htiers := hcores.trans (State.loads_setField _ [] 63 48 tiers (n := .featMem) (by decide) (by decide))
  have hformats := htiers.trans (hreg _ (n := .featFormats) (word [(0x01FF, 16), (0x01FE, 0)]) (by decide) (by decide))
  have hblocks := hformats.trans (hreg _ (n := .caveBlocks) blocks (by decide) (by decide))
  exact hblocks.trans (State.loads_setField _ [] 5 5 low (n := .caveStatus) (by decide) (by decide))

theorem State.loadFuses_eq : ∃ id cores tiers blocks low,
    s.loadFuses = (List.range 64).foldl State.fuseOff (s.setFuseRegs id cores tiers blocks low) := by
  unfold State.loadFuses State.setFuseRegs State.fuseOff
  exact ⟨_, _, _, _, _, rfl⟩

theorem State.loads_loadFuses : s.Loads s.loadFuses := by
  obtain ⟨id, cores, tiers, blocks, low, h⟩ := s.loadFuses_eq
  rw [h]
  exact (s.loads_setFuseRegs id cores tiers blocks low).trans (State.Loads.foldl State.loads_fuseOff_one _ _)

theorem State.loadFuses_off {c : Nat} (h : c < 64) (hc : bit (s.fuse 0).toNat c = false) : (s.loadFuses.core c).st = .fusedOff := by
  obtain ⟨id, cores, tiers, blocks, low, he⟩ := s.loadFuses_eq
  rw [he]
  refine State.fuseOff_all _ h ?_
  rw [(s.loads_setFuseRegs id cores tiers blocks low).enabledCores, State.enabledCores, List.mem_filter, hc]
  simp

/-- ENABLE, and the two bits beside it, of a port. -/
theorem State.loads_portCtrl (p a b c : Nat) :
    s.Loads (((s.setField .lnkPortCtrl [p] 0 0 a).setField .lnkPortCtrl [p] 5 5 b).setField .lnkPortCtrl [p] 3 3 c) := by
  have hset (t : State) (n v : Nat) : t.Loads (t.setField .lnkPortCtrl [p] n n v) := t.loads_setField [p] n n v (by decide) (by decide)
  exact ((hset _ _ _).trans (hset _ _ _)).trans (hset _ _ _)

theorem State.loads_loadPorts : s.Loads s.loadPorts := by
  unfold State.loadPorts
  dsimp only
  have hcfg (t : State) (v : Nat) : t.Loads (t.setField .hifCfg [] 0 0 v) := t.loads_setField [] 0 0 v (by decide) (by decide)
  split
  · refine .trans (hcfg s _) (State.Loads.foldl (fun t p => ?_) _ _)
    split
    · exact (t.loads_portCtrl p _ _ _).trans (State.loads_modPort _ _ _)
    · exact t.loads_portCtrl p _ _ _
  · refine .trans ?_ (State.loads_raise _ _ _)
    refine .trans ?_ (hcfg _ _)
    refine .trans ?_ (State.loads_hubState _ _ (by decide) (by decide))
    exact State.Loads.foldl (fun t p => t.loads_portCtrl p 1 0 1) _ _

theorem State.loads_loadPatch : s.Loads s.loadPatch := by
  have hdigest (d : List Byte) : s.Loads { s with dev := { s.dev with patchDigest := d } } := ⟨rfl, fun _ _ => rfl, fun _ _ _ => rfl, rfl, fun _ => id⟩
  have hfloor (t : State) (v : BitVec 64) : t.Loads { t with nv := { t.nv with fuses := AMap.set t.nv.fuses 12 v } } :=
    ⟨rfl, fun n hn => AMap.get_set_ne _ _ _ hn, fun _ _ _ => rfl, rfl, fun _ => id⟩
  unfold State.loadPatch
  dsimp only
  split
  · exact State.Loads.refl s
  · split
    · have hrun := ((hdigest (sha256 (s.nv.patch.take (bundleLen s.nv.patch)))).trans
        (State.loads_setField _ (n := .featGen) [] 23 16 (bundleVersion s.nv.patch) (by decide) (by decide))).trans
        (State.loads_setField _ (n := .secStatus) [] 2 2 1 (by decide) (by decide))
      split
      · exact hrun.trans (hfloor _ _)
      · exact hrun
    · exact State.loads_setField _ (n := .secStatus) [] 3 3 1 (by decide) (by decide)

theorem State.loads_recordTrip : s.Loads s.recordTrip := by
  unfold State.recordTrip
  split
  · exact State.loads_raise _ _ _
  · exact State.Loads.refl s

theorem State.loads_drawNonce : s.Loads s.drawNonce := by
  rw [State.drawNonce_eq]
  refine .trans ?_ (State.Loads.foldl (fun t i => t.loads_setReg _ _ (by decide) (by decide)) _ _)
  exact ⟨rfl, fun _ _ => rfl, fun _ _ _ => rfl, rfl, fun _ => id⟩

end

section
variable {s : State} {tick : Nat} {mref : Bool} {slot : Nat}

/-- Every region locks. -/
def State.lockRegions (s : State) : State := regions.foldl (fun s r => s.setField .clkRegion [r] 0 0 1) s

/-- The fuses are measured. -/
def State.measured (s : State) : State := { s with dev := { s.dev with fuseDigest := s.fuseMeasure } }

theorem State.measured_field (s : State) (n : RegName) (i : List Nat) (hi lo : Nat) : s.measured.field n i hi lo = s.field n i hi lo := rfl

/-- The reference, SLOT and the fuses' measurement are noted. -/
def State.bootNotes (s : State) (tick : Nat) (mref : Bool) (slot : Nat) : State :=
  (((s.modClk fun c => { c with lockAt := some tick }).setField .clkStatus [] 14 14 (b2n !mref)).setField .hubState [] 37 32 slot).measured

/-- The state at BOOT before the ROM loads anything. -/
def State.bootLocks (s : State) (mref : Bool) (slot : Nat) : State := s.lockRegions.bootNotes s.dev.tick mref slot

theorem State.boot_idle (h : s.nv.power.rails = false ∨ s.hubState ≠ 1) : s.boot mref slot = s := if_pos (h.imp_left fun e => by simp [e])

/-- What BOOT loads. -/
def State.bootLoaded (s : State) (mref : Bool) (slot : Nat) : State :=
  (s.bootLocks mref slot).loadFuses.loadPorts.loadPatch.recordTrip.drawNonce

theorem State.boot_eq (hr : s.nv.power.rails = true) (hh : s.hubState = 1) : s.boot mref slot =
    (if (s.bootLoaded mref slot).fuseMapOk then (s.bootLoaded mref slot).goHub 2 else (s.bootLoaded mref slot).fail 1).trainLinks := by
  unfold State.boot
  rw [if_neg (by simp [hr, hh])]
  rfl

theorem State.loads_bootLoaded : (s.bootLocks mref slot).loadFuses.Loads (s.bootLoaded mref slot) :=
  (((State.loads_loadPorts _).trans (State.loads_loadPatch _)).trans (State.loads_recordTrip _)).trans (State.loads_drawNonce _)

/-- A region's clock field that every region gets. -/
theorem State.field_foldl_setField_region (s : State) {n : RegName} {hi lo : Nat} (v : Nat) (hlo : lo ≤ hi) (hhi : hi < 64) {l : List Nat}
    {r : Nat} (h : r ∈ l) : (l.foldl (fun s r => s.setField n [r] hi lo v) s).field n [r] hi lo = v % 2 ^ (hi + 1 - lo) := by
  obtain ⟨a, b, hab⟩ := List.append_of_mem h
  rw [hab, List.foldl_append, List.foldl_cons]
  generalize a.foldl _ s = t
  have hset : ∀ (b : List Nat) (t : State), t.field n [r] hi lo = v % 2 ^ (hi + 1 - lo) →
      (b.foldl (fun s r => s.setField n [r] hi lo v) t).field n [r] hi lo = v % 2 ^ (hi + 1 - lo) := by
    intro b
    induction b with
    | nil => exact fun t ht => ht
    | cons x b ih =>
      refine fun t ht => ih _ ?_
      by_cases hx : r = x
      · subst hx
        exact State.field_setField_self _ _ hlo hhi
      · rw [State.field_setField_ne _ _ (by simp [hx]), ht]
  exact hset b _ (State.field_setField_self _ _ hlo hhi)

theorem State.lockRegions_keeps {β : Type} (f : State → β) (h : ∀ (t : State) r, f (t.setField .clkRegion [r] 0 0 1) = f t) :
    f s.lockRegions = f s := foldl_keeps f h _ _

theorem State.bootNotes_field_ne {n : RegName} (i : List Nat) (hi lo : Nat) (h : n ≠ .clkStatus) (h' : n ≠ .hubState) :
    (s.bootNotes tick mref slot).field n i hi lo = s.field n i hi lo := by
  rw [State.bootNotes, State.measured_field, State.field_setField_ne _ _ fun e => h' (congrArg Prod.fst e),
    State.field_setField_ne _ _ fun e => h (congrArg Prod.fst e)]
  rfl

theorem State.bootNotes_mref : (s.bootNotes tick mref slot).field .clkStatus [] 14 14 = if mref then 0 else 1 := by
  rw [State.bootNotes, State.measured_field, State.field_setField_ne _ _ (by simp), State.field_setField_self _ _ (by decide) (by decide)]
  cases mref <;> rfl

theorem State.bootNotes_slot (h : slot < 64) : (s.bootNotes tick mref slot).field .hubState [] 37 32 = slot := by
  rw [State.bootNotes, State.measured_field, State.field_setField_self _ _ (by decide) (by decide)]
  exact Nat.mod_eq_of_lt h

theorem State.bootNotes_mem : (s.bootNotes tick mref slot).mem = s.mem := rfl

theorem State.bootNotes_fuse (n : Nat) : (s.bootNotes tick mref slot).fuse n = s.fuse n := rfl

theorem State.bootLocks_mem : (s.bootLocks mref slot).mem = s.mem := by
  rw [State.bootLocks, State.bootNotes_mem, State.lockRegions_keeps State.mem fun _ _ => rfl]

theorem State.bootLocks_fuse (n : Nat) : (s.bootLocks mref slot).fuse n = s.fuse n := by
  rw [State.bootLocks, State.bootNotes_fuse, State.lockRegions_keeps (·.fuse n) fun _ _ => rfl]

theorem State.bootLocks_region {r : Nat} (h : r < 19) : (s.bootLocks mref slot).field .clkRegion [r] 0 0 = 1 := by
  rw [State.bootLocks, State.bootNotes_field_ne _ _ _ (by decide) (by decide)]
  exact State.field_foldl_setField_region s 1 (by decide) (by decide) (List.mem_range.2 h)

theorem State.boot_effect (hr : s.nv.power.rails = true) (hh : s.hubState = 1) (hslot : slot < 64) :
    let u := s.boot mref slot
    u.mem = s.mem ∧ (s.fuseMapOk = true → u.hubState = 2) ∧ (s.fuseMapOk = false → u.hubState = 5 ∧ u.field .hubState [] 15 8 = 1) ∧
      u.field .clkStatus [] 14 14 = (if mref then 0 else 1) ∧ u.field .hubState [] 37 32 = slot ∧
      (∀ c < 64, bit (s.fuse 0).toNat c = false → (u.core c).st = .fusedOff) ∧ ∀ r, r < 19 → u.field .clkRegion [r] 0 0 = 1 := by
  have hload : (s.bootLocks mref slot).Loads (s.bootLoaded mref slot) := (State.loads_loadFuses _).trans State.loads_bootLoaded
  have hok : (s.bootLoaded mref slot).fuseMapOk = s.fuseMapOk := by
    rw [hload.fuseMapOk, State.fuseMapOk, State.enabledCores, State.bootLocks_fuse, State.bootLocks_fuse, State.fuseMapOk, State.enabledCores]
  have hreg {n : RegName} (i : List Nat) (hi lo : Nat) (hn : n ∉ bootRegs) :
      (s.bootLoaded mref slot).field n i hi lo = (s.bootLocks mref slot).field n i hi lo := by rw [State.field, hload.reg n i hn, State.field]
  have hoff (c : Nat) (hc : c < 64) (hf : bit (s.fuse 0).toNat c = false) : ((s.bootLoaded mref slot).core c).st = .fusedOff :=
    State.loads_bootLoaded.off c (State.loadFuses_off _ hc (by rw [State.bootLocks_fuse]; exact hf))
  have hslot' : (s.bootLoaded mref slot).field .hubState [] 37 32 = slot := hload.slot.trans (State.bootNotes_slot hslot)
  have hmref : (s.bootLoaded mref slot).field .clkStatus [] 14 14 = if mref then 0 else 1 := (hreg _ _ _ (by decide)).trans State.bootNotes_mref
  have hregion (r : Nat) (h : r < 19) : (s.bootLoaded mref slot).field .clkRegion [r] 0 0 = 1 :=
    (hreg _ _ _ (by decide)).trans (State.bootLocks_region h)
  have hmem : (s.bootLoaded mref slot).mem = s.mem := hload.mem.trans State.bootLocks_mem
  dsimp only
  rw [State.boot_eq hr hh, hok, State.trainLinks_mem, State.trainLinks_hubState, State.trainLinks_field_ne _ _ _ _ (by decide),
    State.trainLinks_field_ne _ _ _ _ (by decide), State.trainLinks_field_ne _ _ _ _ (by decide)]
  simp only [State.trainLinks_core, State.trainLinks_field_ne _ _ _ _ (show RegName.clkRegion ≠ .hifCfg by decide)]
  generalize s.bootLoaded mref slot = t at hoff hslot' hmref hregion hmem ⊢
  cases s.fuseMapOk with
  | true =>
    exact ⟨hmem, fun _ => t.goHub_hubState (by decide), nofun, (t.goHub_field_ne _ _ _ _ (by decide)).trans hmref,
      (State.field_setField_above _ _ (by decide) (by decide) (by decide)).trans hslot', hoff,
      fun r hr => (t.goHub_field_ne _ _ _ _ (by decide)).trans (hregion r hr)⟩
  | false =>
    have hfield {n : RegName} (i : List Nat) (hi lo : Nat) (h : n ≠ .hubState) (h' : n ≠ .hubAlert) : (t.fail 1).field n i hi lo = t.field n i hi lo := by
      rw [State.field, t.fail_reg_ne 1 i h h', State.field]
    refine ⟨hmem, nofun, fun _ => ⟨t.fail_hubState 1, t.fail_cause (by decide)⟩, (hfield _ _ _ (by decide) (by decide)).trans hmref, ?_, hoff,
      fun r hr => (hfield _ _ _ (by decide) (by decide)).trans (hregion r hr)⟩
    exact (t.fail_slot 1).trans hslot'
end

/-! ### The self-test (R293) -/

section
variable (s : State)

/-- A core that fails its self-test is out of service; the others are as they were. -/
theorem State.failCores_st {f : Core → Core} (hf : ∀ k, (f k).st = k.st) (d : Nat) : ∀ (cs : List Nat) (s : State), (s.core d).st ≠ .fusedOff →
    ((s.failCores cs f).core d).st = if d ∈ cs then .outOfService else (s.core d).st
  | [], _, _ => rfl
  | c :: cs, s, h => by
    change ((State.failCores (s.modCore c fun k => if k.st = .fusedOff then k else f { k with st := .outOfService }) cs f).core d).st = _
    by_cases hd : d = c
    · subst hd
      have hone : ((s.modCore d fun k => if k.st = .fusedOff then k else f { k with st := .outOfService }).core d).st = .outOfService := by
        rw [State.core_modCore_self, if_neg h, hf]
      rw [State.failCores_st hf d cs _ (by rw [hone]; decide), hone, ite_self, if_pos List.mem_cons_self]
    · have hone := State.core_modCore_ne s (fun k => if k.st = .fusedOff then k else f { k with st := .outOfService }) hd
      rw [State.failCores_st hf d cs _ (by rw [hone]; exact h), hone]
      simp [hd]

theorem State.failCores_core_ne (f : Core → Core) {cs : List Nat} {d : Nat} (h : d ∉ cs) : (s.failCores cs f).core d = s.core d := by
  unfold State.failCores
  induction cs generalizing s with
  | nil => rfl
  | cons c cs ih =>
    obtain ⟨hc, hcs⟩ := not_or.1 (List.mem_cons.not.1 h)
    rw [List.foldl_cons, ih _ hcs, State.core_modCore_ne _ _ hc]

theorem State.failCores_keeps {β : Type} (P : State → β) (h : ∀ (t : State) c g, P (t.modCore c g) = P t) (f : Core → Core) (cs : List Nat) :
    P (s.failCores cs f) = P s := foldl_keeps P (fun t c => h t c _) cs s

/-- A core whose array A fails. -/
def Core.failA (k : Core) : Core := { k with bistA := true }
/-- A core whose array B fails. -/
def Core.failB (k : Core) : Core := { k with bistB := true }

/-- The cores after the three self-tests. -/
def State.tested (s : State) (badA badB badSram : List Nat) : State :=
  ((s.failCores badA Core.failA).failCores badB Core.failB).failCores badSram id

/-- Whether the crossings trained: HUB_HOOP_CFG. -/
def State.crossed (s : State) (x : Bool) : State :=
  if x then s.setField .hubHoopCfg [] 1 1 (b2n x) else (s.setField .hubHoopCfg [] 1 1 (b2n x)).setField .hubHoopCfg [] 0 0 0

variable {s} {badA badB badSram : List Nat}

theorem State.tested_keeps {β : Type} (P : State → β) (h : ∀ (t : State) c g, P (t.modCore c g) = P t) : P (s.tested badA badB badSram) = P s := by
  rw [State.tested, State.failCores_keeps _ P h, State.failCores_keeps _ P h, State.failCores_keeps _ P h]

theorem State.tested_out {d : Nat} (h : (s.core d).st ≠ .fusedOff) (hd : d ∈ badA ∨ d ∈ badB ∨ d ∈ badSram) :
    ((s.tested badA badB badSram).core d).st = .outOfService := by
  have hstep {f : Core → Core} (hf : ∀ k, (f k).st = k.st) (cs : List Nat) (t : State) (ht : (t.core d).st ≠ .fusedOff) :
      ((t.failCores cs f).core d).st ≠ .fusedOff := by
    rw [State.failCores_st hf d cs t ht]
    by_cases hc : d ∈ cs
    · simp [hc]
    · simpa [hc] using ht
  have hA := hstep (f := Core.failA) (fun _ => rfl) badA s h
  have hB := hstep (f := Core.failB) (fun _ => rfl) badB _ hA
  rw [State.tested, State.failCores_st (f := id) (fun _ => rfl) d badSram _ hB, State.failCores_st (f := Core.failB) (fun _ => rfl) d badB _ hA,
    State.failCores_st (f := Core.failA) (fun _ => rfl) d badA s h]
  obtain h | h | h := hd <;> simp [h]

theorem State.tested_core_ne {d : Nat} (hA : d ∉ badA) (hB : d ∉ badB) (hS : d ∉ badSram) : (s.tested badA badB badSram).core d = s.core d := by
  rw [State.tested, State.failCores_core_ne _ _ hS, State.failCores_core_ne _ _ hB, State.failCores_core_ne _ _ hA]

theorem State.crossed_crossing (x : Bool) : (s.crossed x).field .hubHoopCfg [] 1 1 = if x then 1 else 0 := by
  cases x with
  | true => exact State.field_setField_self _ _ (by decide) (by decide)
  | false => exact (State.field_setField_bit _ _ _ _ (by decide) (by decide)).trans (State.field_setField_self _ _ (by decide) (by decide))

theorem State.crossed_keeps {β : Type} (P : State → β) (h : ∀ (t : State) n v, P (t.setField .hubHoopCfg [] n n v) = P t) (x : Bool) :
    P (s.crossed x) = P s := by
  unfold State.crossed
  split
  · exact h _ _ _
  · rw [h, h]

/-- Every enabled port trains; the others are as they were. -/
theorem State.port_startTraining {p : Nat} (h : p < 16) : s.startTraining.port p = if s.field .lnkPortCtrl [p] 0 0 = 1
    then { s.port p with st := .training, cause := 0, fresh := true, lanes := [], peer := none } else s.port p := by
  have hfold : ∀ (l : List Nat) (t : State), l.Nodup → (l.foldl (fun s p => if s.field .lnkPortCtrl [p] 0 0 = 1 then
      s.modPort p fun k => { k with st := .training, cause := 0, fresh := true, lanes := [], peer := none } else s) t).port p =
      if p ∈ l ∧ t.field .lnkPortCtrl [p] 0 0 = 1 then { t.port p with st := .training, cause := 0, fresh := true, lanes := [], peer := none }
      else t.port p := by
    intro l
    induction l with
    | nil => exact fun t _ => by simp
    | cons x l ih =>
      intro t hn
      obtain ⟨hx, hl⟩ := List.nodup_cons.1 hn
      rw [List.foldl_cons, ih _ hl]
      by_cases hp : p = x
      · subst hp
        rw [if_neg fun hc => hx hc.1]
        split
        · rename_i hen
          rw [State.port_modPort_self, if_pos ⟨List.mem_cons_self, hen⟩]
        · rename_i hen
          rw [if_neg fun hc => hen hc.2]
      · simp only [List.mem_cons, hp, false_or]
        split
        · rw [State.port_modPort_ne _ _ hp]
          rfl
        · rfl
  rw [State.startTraining, hfold _ _ List.nodup_range]
  simp [h]

theorem State.startTraining_keeps {β : Type} (P : State → β) (h : ∀ (t : State) p g, P (t.modPort p g) = P t) : P s.startTraining = P s := by
  refine foldl_keeps P (fun t p => ?_) _ _
  split
  · exact h _ _ _
  · rfl

variable {fault : Nat} {x0 x1 : Bool}

theorem State.selfTest_idle (h : s.nv.power.rails = false ∨ s.hubState ≠ 2) : s.selfTest badA badB badSram fault x0 x1 = s :=
  if_pos (h.imp_left fun e => by simp [e])

/-- The state after the self-tests, before the hub goes on. -/
def State.selfTested (s : State) (badA badB badSram : List Nat) (x : Bool) : State := (s.tested badA badB badSram).crossed x

/-- TRAIN begins: the cave is in service and the enabled ports train. -/
def State.goTrain (s : State) : State :=
  ((s.setField .caveStatus [] 4 4 1).setField .caveStatus [] 7 6 s.nv.power.shutdown).startTraining.goHub 3

theorem State.selfTest_fails (hr : s.nv.power.rails = true) (hh : s.hubState = 2) (hf : 2 ≤ fault ∧ fault ≤ 7) :
    s.selfTest badA badB badSram fault x0 x1 = (s.selfTested badA badB badSram (x0 && x1)).fail fault := by
  unfold State.selfTest
  rw [if_neg (by simp [hr, hh])]
  exact if_pos hf

theorem State.selfTest_passes (hr : s.nv.power.rails = true) (hh : s.hubState = 2) (hf : ¬ (2 ≤ fault ∧ fault ≤ 7)) :
    s.selfTest badA badB badSram fault x0 x1 = (s.selfTested badA badB badSram (x0 && x1)).goTrain := by
  unfold State.selfTest
  rw [if_neg (by simp [hr, hh])]
  exact if_neg hf

theorem State.selfTested_mem (x : Bool) : (s.selfTested badA badB badSram x).mem = s.mem := by
  rw [State.selfTested, State.crossed_keeps State.mem fun _ _ _ => rfl, State.tested_keeps State.mem fun _ _ _ => rfl]

theorem State.selfTested_core (x : Bool) (c : Nat) : (s.selfTested badA badB badSram x).core c = (s.tested badA badB badSram).core c :=
  State.crossed_keeps (·.core c) (fun _ _ _ => rfl) x

theorem State.selfTested_port (x : Bool) (p : Nat) : (s.selfTested badA badB badSram x).port p = s.port p := by
  rw [State.selfTested, State.crossed_keeps (·.port p) fun _ _ _ => rfl, State.tested_keeps (·.port p) fun _ _ _ => rfl]

theorem State.selfTested_enabled (x : Bool) (p : Nat) :
    (s.selfTested badA badB badSram x).field .lnkPortCtrl [p] 0 0 = s.field .lnkPortCtrl [p] 0 0 := by
  rw [State.selfTested, State.crossed_keeps (·.field .lnkPortCtrl [p] 0 0) fun t n v => State.field_setField_ne _ _ (by simp),
    State.tested_keeps (·.field .lnkPortCtrl [p] 0 0) fun _ _ _ => rfl]

/-- What TRAIN begins with. -/
theorem State.goTrain_effect (s : State) : s.goTrain.mem = s.mem ∧ (∀ c, s.goTrain.core c = s.core c) ∧ s.goTrain.hubState = 3 ∧
    s.goTrain.field .caveStatus [] 4 4 = 1 ∧ s.goTrain.field .hubHoopCfg [] 1 1 = s.field .hubHoopCfg [] 1 1 ∧ ∀ p : PortId,
      (s.field .lnkPortCtrl [p] 0 0 = 1 → (s.goTrain.port p).st = .training) ∧ (s.field .lnkPortCtrl [p] 0 0 = 0 → s.goTrain.port p = s.port p) := by
  have hkeep {β : Type} (P : State → β) (h : ∀ (t : State) p g, P (t.modPort p g) = P t) (h' : ∀ t : State, P (t.goHub 3) = P t) :
      P s.goTrain = P ((s.setField .caveStatus [] 4 4 1).setField .caveStatus [] 7 6 s.nv.power.shutdown) :=
    (h' _).trans (State.startTraining_keeps P h)
  refine ⟨hkeep State.mem (fun _ _ _ => rfl) fun _ => rfl, fun c => hkeep (·.core c) (fun _ _ _ => rfl) fun _ => rfl,
    State.goHub_hubState _ (by decide), ?_, ?_, fun p => ?_⟩
  · rw [hkeep (·.field .caveStatus [] 4 4) (fun _ _ _ => rfl) fun t => t.goHub_field_ne _ _ _ _ (by decide),
      State.field_setField_below _ _ (by decide) (by decide) (by decide) (by decide), State.field_setField_self _ _ (by decide) (by decide)]
    rfl
  · rw [hkeep (·.field .hubHoopCfg [] 1 1) (fun _ _ _ => rfl) fun t => t.goHub_field_ne _ _ _ _ (by decide),
      State.field_setField_ne _ _ (by simp), State.field_setField_ne _ _ (by simp)]
  · have hen : ((s.setField .caveStatus [] 4 4 1).setField .caveStatus [] 7 6 s.nv.power.shutdown).field .lnkPortCtrl [p] 0 0 =
        s.field .lnkPortCtrl [p] 0 0 := by rw [State.field_setField_ne _ _ (by simp), State.field_setField_ne _ _ (by simp)]
    have hport : s.goTrain.port p = _ := State.port_startTraining p.isLt
    rw [hen] at hport
    exact ⟨fun h => by rw [hport, if_pos h], fun h => by rw [hport, if_neg (by omega)]; rfl⟩

end

/-! ### The end of port training (R191) -/

section
variable {s t u : State} {p : Nat}

/-- Port `p` and its bits in FEAT_LINK are as they were. -/
def State.portKept (s t : State) (p : Nat) : Prop :=
  (t.port p).st = (s.port p).st ∧ (t.port p).cause = (s.port p).cause ∧ t.field .lnkPortCtrl [p] 0 0 = s.field .lnkPortCtrl [p] 0 0 ∧
    t.field .featLink [] p p = s.field .featLink [] p p ∧ t.field .featLink [] (16 + p) (16 + p) = s.field .featLink [] (16 + p) (16 + p)

/-- The training of port `p` has ended: an UP port stays UP, another one is not in FEAT_LINK and, when enabled, DOWN. -/
def State.portReady (s t : State) (p : Nat) : Prop :=
  ((s.port p).st = .up → (t.port p).st = .up ∧ t.field .featLink [] p p = s.field .featLink [] p p) ∧
  ((s.port p).st ≠ .up → t.field .featLink [] p p = 0 ∧ t.field .featLink [] (16 + p) (16 + p) = 0 ∧
    (s.field .lnkPortCtrl [p] 0 0 = 1 → (t.port p).st = .down ∧ (t.port p).cause = 1))

theorem State.portReady.of_kept (h : s.portKept t p) (k : t.portReady u p) : s.portReady u p := by
  obtain ⟨hst, -, hen, hfeat, -⟩ := h
  rw [State.portReady, hst, hen, hfeat] at k
  exact k

theorem State.portReady.kept (h : s.portReady t p) (k : t.portKept u p) : s.portReady u p := by
  obtain ⟨hst, hcause, -, hfeat, hspare⟩ := k
  rw [State.portReady, hst, hcause, hfeat, hspare]
  exact h

theorem State.portKept.trans (h : s.portKept t p) (k : t.portKept u p) : s.portKept u p := by
  obtain ⟨a, b, c, d, e⟩ := h
  obtain ⟨a', b', c', d', e'⟩ := k
  exact ⟨a'.trans a, b'.trans b, c'.trans c, d'.trans d, e'.trans e⟩

/-- The training of one port ends. -/
def State.endTraining (s : State) (p : Nat) : State :=
  if (s.port p).st = .up then s
  else if s.field .lnkPortCtrl [p] 0 0 = 1 then s.trainFails p 1
  else s.featTrained p false false

variable (s)

theorem State.endTraining_mem (p : Nat) : (s.endTraining p).mem = s.mem := by
  unfold State.endTraining
  split
  · rfl
  · split
    · exact s.trainFails_mem p 1
    · rfl

theorem State.endTraining_self (hp : p < 16) : s.portReady (s.endTraining p) p := by
  unfold State.endTraining
  split
  · rename_i hup
    exact ⟨fun _ => ⟨hup, rfl⟩, fun h => absurd hup h⟩
  · rename_i hup
    have hports := s.featTrained_ports p false false hp
    have hspare := s.featTrained_spare p false hp
    refine ⟨fun h => absurd h hup, fun _ => ?_⟩
    split
    · obtain ⟨hst, hcause, -⟩ := s.trainFails_down p 1
      exact ⟨(s.trainFails_feat p 1 p).trans hports, (s.trainFails_feat p 1 (16 + p)).trans hspare, fun _ => ⟨hst, hcause⟩⟩
    · rename_i hen
      exact ⟨hports, hspare, fun h => absurd h hen⟩

theorem State.endTraining_ne {q : Nat} (hp : p < 16) (hq : q < 16) (h : q ≠ p) : s.portKept (s.endTraining p) q := by
  have hfeat (j : Nat) (hj : j = q ∨ j = 16 + q) : (s.featTrained p false false).field .featLink [] j j = s.field .featLink [] j j :=
    s.featTrained_bit_ne _ _ hp (by omega) (by omega)
  have hen : (s.featTrained p false false).field .lnkPortCtrl [q] 0 0 = s.field .lnkPortCtrl [q] 0 0 := by
    rw [State.field, s.featTrained_reg_ne _ _ _ _ (by decide), State.field]
  unfold State.endTraining
  split
  · exact ⟨rfl, rfl, rfl, rfl, rfl⟩
  · split
    · have hset := s.portSet_trainFails p 1
      obtain ⟨w, hw⟩ := hset.port_ne q h
      exact ⟨by rw [hw]; rfl, by rw [hw]; rfl, (hset.field (by decide) _ _ _).trans hen,
        (s.trainFails_feat p 1 q).trans (hfeat _ (.inl rfl)), (s.trainFails_feat p 1 _).trans (hfeat _ (.inr rfl))⟩
    · exact ⟨rfl, rfl, hen, hfeat _ (.inl rfl), hfeat _ (.inr rfl)⟩

/-- The ports that are not among those whose training ends. -/
theorem State.endTrainings_ne {q : Nat} (hq : q < 16) : ∀ (l : List Nat) (s : State), (∀ p ∈ l, p < 16) → q ∉ l → s.portKept (l.foldl State.endTraining s) q
  | [], _, _, _ => ⟨rfl, rfl, rfl, rfl, rfl⟩
  | p :: l, s, hl, h => by
    obtain ⟨hp, hl⟩ := List.forall_mem_cons.1 hl
    obtain ⟨hne, hmem⟩ := not_or.1 (List.mem_cons.not.1 h)
    exact (s.endTraining_ne hp hq hne).trans (State.endTrainings_ne hq l _ hl hmem)

theorem State.endTrainings_mem {q : Nat} {l : List Nat} (hl : ∀ p ∈ l, p < 16) (hn : l.Nodup) (h : q ∈ l) :
    s.portReady (l.foldl State.endTraining s) q := by
  induction l generalizing s with
  | nil => exact absurd h List.not_mem_nil
  | cons p l ih =>
    obtain ⟨hp, hrest⟩ := List.forall_mem_cons.1 hl
    obtain ⟨hnot, hn⟩ := List.nodup_cons.1 hn
    obtain rfl | hmem := List.mem_cons.1 h
    · exact (s.endTraining_self hp).kept (State.endTrainings_ne hp l _ hrest hnot)
    · have hne : q ≠ p := fun e => hnot (e ▸ hmem)
      exact .of_kept (s.endTraining_ne hp (hrest q hmem) hne) (ih _ hrest hn hmem)

variable {s}

theorem State.ready4_idle (h : s.nv.power.rails = false ∨ s.hubState ≠ 3) : s.ready4 = s := if_pos (h.imp_left fun e => by simp [e])

/-- The trainings of all ports have ended. -/
def State.trainingsEnded (s : State) : State := (List.range 16).foldl State.endTraining s

theorem State.ready4_eq (hr : s.nv.power.rails = true) (hh : s.hubState = 3) :
    s.ready4 = (s.trainingsEnded.setField .hubReset [] 47 16 (s.trainingsEnded.dev.tick / 100000)).goHub 4 := by
  unfold State.ready4 State.trainingsEnded State.endTraining
  rw [if_neg (by simp [hr, hh])]

theorem State.trainingsEnded_ready (s : State) {p : Nat} (h : p < 16) : s.portReady s.trainingsEnded p := by
  unfold State.trainingsEnded
  exact State.endTrainings_mem s (l := List.range 16) (fun _ hq => List.mem_range.1 hq) List.nodup_range (List.mem_range.2 h)

theorem State.trainingsEnded_mem (s : State) : s.trainingsEnded.mem = s.mem := by
  unfold State.trainingsEnded
  exact foldl_keeps (f := State.endTraining) State.mem State.endTraining_mem (List.range 16) s

/-- What READY finds of a port. -/
theorem State.ready4_portReady (hr : s.nv.power.rails = true) (hh : s.hubState = 3) (hp : p < 16) : s.portReady s.ready4 p := by
  rw [State.ready4_eq hr hh]
  have hfeat (t : State) (n j : Nat) : ((t.setField .hubReset [] 47 16 n).goHub 4).field .featLink [] j j = t.field .featLink [] j j := by
    rw [State.goHub_field_ne _ _ _ _ _ (by decide), State.field_setField_ne _ _ (by simp)]
  have hen (t : State) (n : Nat) : ((t.setField .hubReset [] 47 16 n).goHub 4).field .lnkPortCtrl [p] 0 0 = t.field .lnkPortCtrl [p] 0 0 := by
    rw [State.goHub_field_ne _ _ _ _ _ (by decide), State.field_setField_ne _ _ (by simp)]
  have hready := s.trainingsEnded_ready hp
  generalize s.trainingsEnded = t at hready ⊢
  exact hready.kept ⟨rfl, rfl, hen _ _, hfeat _ _ _, hfeat _ _ _⟩

end

/-- Settles O59, one row after the other: what `powerUp_effect`, `boot_effect`, `goTrain_effect` and `ready4_portReady` say of the row in its
state, and that each row does nothing out of it. -/
theorem startUpRunsToReady : Obligations.StartUpRunsToReady := by
  unfold Obligations.StartUpRunsToReady
  intro s
  refine ⟨fun raised h hraise => ?_, fun h => ?_, fun raised ht hlow => ?_, fun raised hr hi ht hp => ?_, fun mref slot => ⟨fun h => ?_, fun hr hh => ?_⟩,
    fun badA badB badSram fault x0 x1 => ⟨fun h => ?_, fun hr hh => ?_⟩, fun h => ?_, fun hr hh => ?_⟩
  · rw [exec_powerUpSequence, State.powerUp_off, State.pwrRaised_of_high hraise]
    rintro ⟨hr, hi, -, -⟩
    simp [hr, hi] at h
  · rw [exec_powerUpSequence, State.powerUp_off, State.pwrRaised_of_high fun h => absurd h (by decide)]
    rintro ⟨-, -, hp, -⟩
    simp [h] at hp
  · rw [exec_powerUpSequence, State.powerUp_off]
    · rfl
    · rintro ⟨-, -, -, htrip | ⟨hlong, hraised⟩⟩
      · simp [ht] at htrip
      · exact hlow.elim (fun h => absurd hlong (Nat.not_le.2 h)) fun h => by simp [h] at hraised
  · exact ⟨_, exec_powerUpSequence _ _, State.powerUp_effect ⟨hr, hi, hp, ht⟩⟩
  · rw [exec_bootComplete, State.boot_idle h]
  · obtain ⟨hmem, hok, hbad, hmref, hslot, hoff, hregion⟩ := State.boot_effect (mref := mref) hr hh slot.isLt
    exact ⟨_, exec_bootComplete _ _ _, hmem, hok, hbad, hmref, hslot, fun c => hoff c c.isLt, hregion⟩
  · rw [exec_selfTestComplete, State.selfTest_idle h]
  · have hmem (l : List CoreId) (c : CoreId) : (c : Nat) ∈ l.map (·.val) ↔ c ∈ l := by simp [Fin.val_inj]
    have hout (c : CoreId) (hc : (s.core c).st ≠ .fusedOff) (h : c ∈ badA ∨ c ∈ badB ∨ c ∈ badSram) :
        ((s.tested (badA.map (·.val)) (badB.map (·.val)) (badSram.map (·.val))).core c).st = .outOfService :=
      State.tested_out hc (by simpa only [hmem] using h)
    have hsame (c : CoreId) (hA : c ∉ badA) (hB : c ∉ badB) (hS : c ∉ badSram) :
        (s.tested (badA.map (·.val)) (badB.map (·.val)) (badSram.map (·.val))).core c = s.core c :=
      State.tested_core_ne (by simpa only [hmem]) (by simpa only [hmem]) (by simpa only [hmem])
    refine ⟨_, exec_selfTestComplete _ _ _ _ _ _ _, ?_⟩
    by_cases hf : 2 ≤ fault ∧ fault ≤ 7
    · rw [State.selfTest_fails hr hh hf]
      obtain ⟨hf2, hf7⟩ := hf
      refine ⟨State.selfTested_mem _, fun c hc h => ?_, fun c hA hB hS => ?_, fun h => absurd ⟨hf2, hf7⟩ h,
        fun _ _ => ⟨State.fail_hubState _ _, State.fail_cause _ (by omega)⟩, ?_⟩
      · exact (congrArg Core.st (State.selfTested_core _ c)).trans (hout c hc h)
      · exact (State.selfTested_core _ c).trans (hsame c hA hB hS)
      · rw [State.field, State.fail_reg_ne _ _ _ (by decide) (by decide)]
        exact State.crossed_crossing _
    · rw [State.selfTest_passes hr hh hf]
      obtain ⟨hmem', hcore, hhub, hcave, hcross, hports⟩ := (s.selfTested (badA.map (·.val)) (badB.map (·.val)) (badSram.map (·.val)) (x0 && x1)).goTrain_effect
      refine ⟨hmem'.trans (State.selfTested_mem _), fun c hc h => ?_, fun c hA hB hS => ?_, fun _ => ⟨hhub, hcave, fun p => ?_⟩,
        fun h2 h7 => absurd ⟨h2, h7⟩ hf, hcross.trans (State.crossed_crossing _)⟩
      · rw [hcore, State.selfTested_core]
        exact hout c hc h
      · rw [hcore, State.selfTested_core]
        exact hsame c hA hB hS
      · have hport := hports p
        rw [State.selfTested_enabled, State.selfTested_port] at hport
        exact hport
  · rw [exec_startUpReady, State.ready4_idle h]
  · refine ⟨_, exec_startUpReady _, ?_, ?_, fun p => ?_⟩
    · rw [State.ready4_eq hr hh, State.goHub_mem, State.setField_mem, State.trainingsEnded_mem]
    · rw [State.ready4_eq hr hh, State.goHub_hubState _ (by decide)]
    · obtain ⟨hup, hdown⟩ := State.ready4_portReady hr hh p.isLt
      refine ⟨fun hen hst => ?_, fun hst => ?_, hup⟩
      · obtain ⟨-, -, h⟩ := hdown hst
        exact h hen
      · obtain ⟨hports, hspare, -⟩ := hdown hst
        exact ⟨hports, hspare⟩

end Sys2Proof.Machine
end

section
/-!
PROOF. Resets, stops and what the supply does (R246, R248, R294 to R298).
-/
namespace Sys2Proof.Machine

theorem exec_perstAssert (s : State) : exec .perstAssert s = .next s.perstAssert := by rfl
theorem exec_perstDeassert (w0 w1 sp : Nat) (s : State) : exec (.perstDeassert w0 w1 sp) s = .next (s.perstDeassert w0 w1 sp) := by rfl
theorem exec_pwrEnDeassert (s : State) : exec .pwrEnDeassert s = .next s.pwrEnDeassert := by rfl
theorem exec_lossOfInput (s : State) : exec .lossOfInput s = .next s.lossOfInput := by rfl
theorem exec_railsLeaveRegulation (flushed : Bool) (s : State) : exec (.railsLeaveRegulation flushed) s = .next (s.railsLeave flushed) := by rfl
theorem exec_inputRestore (s : State) : exec .inputRestore s = .next s.inputRestore := by rfl
theorem exec_inputRemove (s : State) : exec .inputRemove s = .next s.inputRemove := by rfl
theorem exec_resizableBarWrite (n : Nat) (s : State) : exec (.resizableBarWrite n) s = .next (s.barSize n) := by rfl
theorem exec_portTableWrite (a : Nat) (d : List Byte) (s : State) : exec (.portTableWrite a d) s = .next (s.eepromWrite a d) := by rfl

/-! ### What is not volatile -/

/-- Memory keeps the cave alone. -/
theorem State.wipe_read (s : State) (a : Nat) : Mem.read s.wipe.mem a = if 2 ^ 48 ≤ a then Mem.read s.mem a else 0 := by
  have hmem : s.wipe.mem = s.mem.filter fun p => decide (2 ^ 48 ≤ p.1) := rfl
  rw [hmem, Mem.read_filter fun q => decide (2 ^ 48 ≤ q)]
  simp only [decide_eq_true_eq]
  rfl

/-- The rails are off and memory keeps the cave alone. -/
theorem State.railsOff_effect (s : State) (cause shutdown : Nat) :
    let u := s.railsOff cause shutdown
    u.nv.power.rails = false ∧ u.nv.power.cause = cause ∧ u.nv.power.shutdown = shutdown ∧
      ∀ a, Mem.read u.mem a = if 2 ^ 48 ≤ a then Mem.read s.mem a else 0 := ⟨rfl, rfl, rfl, s.wipe_read⟩

/-! ### PERST# (R246, R291, R295) -/

section
variable {s : State}

theorem State.perstAssert_idle (h : ¬ s.nv.power.rails = true ∨ s.hubState = 1) :
    s.perstAssert = s.modPower fun p => { p with perst := true, trained := false } := if_pos h

theorem State.perstAssert_eq (hr : s.nv.power.rails = true) (hh : s.hubState ≠ 1) : s.perstAssert =
    { (s.modPower fun p => { p with perst := true, trained := false }).moduleReset 1 with host := { s.host with unmasked := [], pending := [] } } :=
  if_neg (by rintro (h | h); exacts [h hr, hh h])

/-- A module reset: the hub is at BOOT with its cause, and only what is not volatile is left. -/
theorem State.moduleReset_effect (s : State) {cause : Nat} (h : cause < 16) :
    let u := s.moduleReset cause
    u.hubState = 1 ∧ u.field .hubReset [] 3 0 = cause ∧ u.nv.power.perst = s.nv.power.perst ∧ u.nv.wear = s.dev.clk.wear ∧
      u.nv.fuses = s.nv.fuses ∧ u.nv.flash = s.nv.flash ∧ u.pending = s.pending ∧
      ∀ a, Mem.read u.mem a = if 2 ^ 48 ≤ a then Mem.read s.mem a else 0 := by
  refine ⟨?_, ?_, rfl, rfl, rfl, rfl, rfl, s.wipe_read⟩
  · have hreg : (s.moduleReset cause).reg .hubState [] = regReset .hubState := State.reg_setReg_ne _ _ (by decide)
    rw [State.hubState, State.field, hreg]
    decide
  · exact (State.field_setField_self _ _ (by decide) (by decide)).trans (Nat.mod_eq_of_lt h)

/-- A width of at most 8 is its own code. -/
theorem widthCode_of_lt {n : Nat} (h : n < 16) : widthCode n = n := by
  rw [widthCode, if_neg (by omega), Nat.mod_eq_of_lt h]

theorem State.linkWidth_single (h : s.field .hifCfg [] 0 0 = 0) (n : Nat) : s.linkWidth n = n := if_neg (by omega)
theorem State.linkWidth_bifurcated (h : s.field .hifCfg [] 0 0 = 1) (n : Nat) : s.linkWidth n = min n 8 := if_pos h

/-- The rate and the widths that HIF_CFG reports once the links have trained. -/
theorem State.linksUp_report (s : State) :
    s.linksUp.field .hifCfg [] 7 4 = s.nv.power.hostLink.2.2 % 16 ∧
    s.linksUp.field .hifCfg [] 11 8 = widthCode (s.linkWidth s.nv.power.hostLink.1) % 16 ∧
    s.linksUp.field .hifCfg [] 15 12 =
      (if s.field .hifCfg [] 0 0 = 1 then widthCode (s.linkWidth s.nv.power.hostLink.2.1) else 0) % 16 := by
  unfold State.linksUp
  dsimp only
  refine ⟨?_, ?_, ?_⟩
  · rw [State.field_setField_self _ _ (by decide) (by decide)]
    exact Nat.mod_mod _ _
  · rw [State.field_setField_above _ _ (by decide) (by decide) (by decide),
      State.field_setField_below _ _ (by decide) (by decide) (by decide) (by decide), State.field_setField_self _ _ (by decide) (by decide)]
    rfl
  · rw [State.field_setField_above _ _ (by decide) (by decide) (by decide), State.field_setField_self _ _ (by decide) (by decide)]
    rfl

/-- PERST# is high: the host's side of the links is known. -/
def State.perstHigh (s : State) (w0 w1 sp : Nat) : State := s.modPower fun p => { p with perst := false, hostLink := (w0, w1, sp) }

theorem State.perstHigh_linksReady (w0 w1 sp : Nat) : (s.perstHigh w0 w1 sp).linksReady ↔
    ¬ (¬ s.nv.power.rails = true ∨ s.nv.power.good < ticks100ms ∨ s.hubState = 1 ∨ s.nv.power.trained = true) := by
  simp only [not_or, not_not, Nat.not_lt]
  constructor
  · rintro ⟨hr, -, ht, hg, hh⟩
    exact ⟨hr, hg, hh, ht⟩
  · rintro ⟨hr, hg, hh, ht⟩
    exact ⟨hr, Bool.false_ne_true, ht, hg, hh⟩

/-- The links as they have trained after PERST_DEASSERT. -/
theorem State.perstHigh_linksUp (s : State) (w0 w1 sp : Nat) (hr : s.nv.power.rails = true) :
    let u := (s.perstHigh w0 w1 sp).linksUp
    u.linked = true ∧ u.field .hifCfg [] 7 4 = sp % 16 ∧
      (s.field .hifCfg [] 0 0 = 0 → u.field .hifCfg [] 15 12 = 0 ∧ (w0 < 16 → u.field .hifCfg [] 11 8 = w0) ∧
        (w0 = 16 → u.field .hifCfg [] 11 8 = Config.width16.toNat)) ∧
      (s.field .hifCfg [] 0 0 = 1 → u.field .hifCfg [] 11 8 = min w0 8 ∧ u.field .hifCfg [] 15 12 = min w1 8) := by
  obtain ⟨hspeed, hw0, hw1⟩ := (s.perstHigh w0 w1 sp).linksUp_report
  refine ⟨?_, hspeed, fun hb => ?_, fun hb => ?_⟩
  · have hlinked : (s.perstHigh w0 w1 sp).linksUp.linked = (s.nv.power.rails && !false && true) := rfl
    rw [hlinked, hr]
    rfl
  · have hb' : (s.perstHigh w0 w1 sp).field .hifCfg [] 0 0 = 0 := hb
    rw [State.linkWidth_single hb'] at hw0
    refine ⟨by rw [hw1, hb']; rfl, fun h => ?_, fun h => ?_⟩
    · rw [hw0, show (s.perstHigh w0 w1 sp).nv.power.hostLink.1 = w0 from rfl, widthCode_of_lt h, Nat.mod_eq_of_lt h]
    · rw [hw0, show (s.perstHigh w0 w1 sp).nv.power.hostLink.1 = w0 from rfl, widthCode, if_pos h]
      exact Nat.mod_eq_of_lt Config.width16.isLt
  · have hb' : (s.perstHigh w0 w1 sp).field .hifCfg [] 0 0 = 1 := hb
    have hcode (n : Nat) : widthCode (min n 8) % 16 = min n 8 := by
      rw [widthCode_of_lt (by omega), Nat.mod_eq_of_lt (by omega)]
    rw [State.linkWidth_bifurcated hb'] at hw0 hw1
    rw [if_pos hb'] at hw1
    exact ⟨hw0.trans (hcode w0), hw1.trans (hcode w1)⟩

theorem State.perstDeassert_eq (w0 w1 sp : Nat) : s.perstDeassert w0 w1 sp = (s.perstHigh w0 w1 sp).trainLinks := rfl

end

/-! ### Orderly stops and losses of input (R296, R297) -/

section
variable {s : State}

theorem State.pwrEnDeassert_idle (h : ¬ s.nv.power.rails = true ∨ s.nv.power.lost = true ∨ s.nv.power.stopAt.isSome) :
    s.pwrEnDeassert = s.modPower fun p => { p with pwrEn := false, low := if p.pwrEn then 0 else p.low } := if_pos h

/-- PWR_EN is low. -/
def State.pwrLow (s : State) : State := s.modPower fun p => { p with pwrEn := false, low := if p.pwrEn then 0 else p.low }

/-- The hub is STOPPING and every context halts. -/
def State.stopping (s : State) : State := (s.pwrLow.goHub 7).haltAll (List.range 8)

theorem State.pwrEnDeassert_eq (hr : s.nv.power.rails = true) (hl : s.nv.power.lost = false) (hs : s.nv.power.stopAt = none) :
    s.pwrEnDeassert = s.stopping.wearSave.modPower fun p => { p with stopAt := some s.stopping.dev.tick } := by
  unfold State.pwrEnDeassert State.stopping State.haltAll State.pwrLow
  rw [if_neg (by simp [State.modPower, hr, hl, hs])]

/-- What halting contexts keeps. -/
theorem State.haltCores_keeps {β : Type} (P : State → β) (h : ∀ (t : State) c g, P (t.modCore c g) = P t) (cs : List Nat) :
    ∀ s : State, P (s.haltCores cs) = P s := by
  induction cs with
  | nil => exact fun _ => rfl
  | cons k ks ih => exact fun s => (ih _).trans (h _ _ _)

theorem State.haltAll_keeps {β : Type} (P : State → β) (h : ∀ (t : State) c g, P (t.modCore c g) = P t)
    (h' : ∀ (t : State) c g, P (t.modCtx c g) = P t) (l : List Nat) (s : State) : P (s.haltAll l) = P s := by
  refine foldl_keeps P (fun t c => ?_) l s
  split
  · exact (h' _ _ _).trans (State.haltCores_keeps P h _ _)
  · rfl

theorem State.stopping_keeps {β : Type} (P : State → β) (h : ∀ (t : State) c g, P (t.modCore c g) = P t)
    (h' : ∀ (t : State) c g, P (t.modCtx c g) = P t) : P s.stopping = P (s.pwrLow.goHub 7) := State.haltAll_keeps P h h' _ _

theorem State.pwrEnDeassert_effect (hr : s.nv.power.rails = true) (hl : s.nv.power.lost = false) (hs : s.nv.power.stopAt = none) :
    let u := s.pwrEnDeassert
    u.nv.power.rails = true ∧ u.nv.power.pwrEn = false ∧ u.nv.power.stopAt = some s.dev.tick ∧ u.hubState = 7 ∧ u.nv.wear = s.dev.clk.wear ∧
      u.mem = s.mem ∧ ∀ c : CtxId, (s.ctx c).valid = true → (u.ctx c).halted = true := by
  have hnv : s.stopping.nv = s.pwrLow.nv := State.stopping_keeps State.nv (fun _ _ _ => rfl) fun _ _ _ => rfl
  have htick : s.stopping.dev.tick = s.dev.tick := State.stopping_keeps (·.dev.tick) (fun _ _ _ => rfl) fun _ _ _ => rfl
  have hwear : s.stopping.dev.clk = s.dev.clk := State.stopping_keeps (·.dev.clk) (fun _ _ _ => rfl) fun _ _ _ => rfl
  have hhub : s.stopping.hubState = 7 :=
    (State.stopping_keeps State.hubState (fun _ _ _ => rfl) fun _ _ _ => rfl).trans (State.goHub_hubState _ (by decide))
  have hmem : s.stopping.mem = s.mem := State.haltAll_mem _ _
  have hhalted (c : CtxId) (hv : (s.ctx c).valid = true) : (s.stopping.ctx c).halted = true :=
    State.haltAll_halted _ _ hv (.inl (List.mem_range.2 c.isLt))
  dsimp only
  rw [State.pwrEnDeassert_eq hr hl hs]
  generalize s.stopping = t at hnv htick hwear hhub hmem hhalted ⊢
  exact ⟨(congrArg (·.power.rails) hnv).trans hr, congrArg (·.power.pwrEn) hnv, congrArg some htick, hhub, congrArg ClkS.wear hwear, hmem, hhalted⟩

/-- The end of an orderly stop by the clock: the rails are off 200 ms after it began. -/
theorem State.powerTick_effect {t : Nat} (hs : s.nv.power.stopAt = some t) (ht : t + 2 * ticks100ms ≤ s.dev.tick) :
    s.powerTick.nv.power.rails = false ∧ s.powerTick.nv.power.cause = 0 ∧ s.powerTick.nv.power.shutdown = 0 ∧
      ∀ a, Mem.read s.powerTick.mem a = if 2 ^ 48 ≤ a then Mem.read s.mem a else 0 := by
  have hoff : ∃ v : State, v.mem = s.mem ∧ s.powerTick = v.railsOff 0 0 := by
    refine ⟨State.trainLinks (s.modPower fun p =>
      { p with good := if p.rails then min ticks100ms (p.good + 1) else 0, low := if p.pwrEn then 0 else min ticks100ms (p.low + 1) }), ?_, ?_⟩
    · exact State.trainLinks_mem _
    · have hstop := State.trainLinks_keeps (s.modPower fun p =>
        { p with good := if p.rails then min ticks100ms (p.good + 1) else 0, low := if p.pwrEn then 0 else min ticks100ms (p.low + 1) })
        (·.nv.power.stopAt) rfl
      have htick := State.trainLinks_keeps (s.modPower fun p =>
        { p with good := if p.rails then min ticks100ms (p.good + 1) else 0, low := if p.pwrEn then 0 else min ticks100ms (p.low + 1) })
        (·.dev.tick) rfl
      unfold State.powerTick
      dsimp only at hstop htick ⊢
      rw [hstop, htick]
      simp only [State.modPower, hs]
      exact if_pos ht
  obtain ⟨v, hv, h⟩ := hoff
  rw [h, ← hv]
  exact v.railsOff_effect 0 0

/-! ### LOSS_OF_INPUT -/

theorem State.lossOfInput_idle (h : ¬ s.nv.power.rails = true ∨ s.nv.power.lost = true) :
    s.lossOfInput = s.modPower fun p => { p with input := false } := if_pos h

/-- The input is lost: no change of step is under way. -/
def State.inputLost (s : State) : State :=
  ((s.modPower fun p => { p with input := false }).modClk fun c => { c with target := none }).setField .clkStatus [] 13 13 0

/-- Every region runs at step 24. -/
def State.slowed (s : State) : State := regions.foldl (fun s r => s.setField .clkRegion [r] 10 6 24) (s.setField .clkStatus [] 4 0 24)

/-- The cave takes no more writes. -/
def State.caveShut (s : State) : State := (s.setField .caveStatus [] 4 4 0).setField .caveStatus [] 3 3 1

/-- The hub stops, the input being lost. -/
def State.stopLost (s : State) : State := (s.modPower fun p => { p with lost := true, stopAt := none }).goHub 7

theorem State.lossOfInput_eq (hr : s.nv.power.rails = true) (hl : s.nv.power.lost = false) :
    s.lossOfInput = s.inputLost.slowed.caveShut.endSessions.stopLost := by
  unfold State.lossOfInput
  rw [if_neg (by simp [State.modPower, hr, hl])]
  rfl

variable (s)

theorem State.endSessions_keeps {β : Type} (P : State → β) (h : ∀ (t : State) n g, P (t.modMbox n g) = P t) (h' : ∀ (t : State) g, P (t.modSpdm g) = P t) :
    P s.endSessions = P s := (foldl_keeps P (fun t n => h t n _) _ _).trans (h' s _)

theorem State.endSessions_sessions : s.endSessions.dev.spdm.sessions = [] := by
  exact (foldl_keeps (f := fun (t : State) n => t.modMbox n fun b => { b with session := none }) (·.dev.spdm.sessions) (fun _ _ => rfl) _ _).trans rfl

theorem State.endSessions_unbinds (m : MboxId) : (s.endSessions.mbox m).session = none := by
  have hkeep (n : Nat) (t : State) (h : (t.mbox m).session = none) : ((t.modMbox n fun b => { b with session := none }).mbox m).session = none := by
    by_cases hn : (m : Nat) = n
    · rw [hn, State.mbox_modMbox_self]
    · rw [State.mbox_modMbox_ne _ _ hn, h]
  have hrest : ∀ (l : List Nat) (t : State), (t.mbox m).session = none →
      ((l.foldl (fun s n => s.modMbox n fun b => { b with session := none }) t).mbox m).session = none := by
    intro l
    induction l with
    | nil => exact fun t ht => ht
    | cons x l ih => exact fun t ht => ih _ (hkeep x t ht)
  obtain ⟨a, b, hab⟩ := List.append_of_mem (List.mem_range.2 m.isLt)
  rw [State.endSessions, hab, List.foldl_append, List.foldl_cons]
  exact hrest b _ (by rw [State.mbox_modMbox_self])

theorem State.slowed_keeps {β : Type} (P : State → β) (h : ∀ (t : State) n i hi lo, P (t.setField n i hi lo 24) = P t) : P s.slowed = P s :=
  (foldl_keeps P (fun t _ => h t _ _ _ _) _ _).trans (h s _ _ _ _)

theorem State.slowed_step : s.slowed.field .clkStatus [] 4 0 = 24 := by
  have hfold := foldl_keeps (f := fun s r => State.setField s .clkRegion [r] 10 6 24) (·.field .clkStatus [] 4 0)
    (fun t r => State.field_setField_ne _ _ (by simp)) regions (s.setField .clkStatus [] 4 0 24)
  exact hfold.trans (State.field_setField_self _ _ (by decide) (by decide))

theorem State.slowed_region {r : Nat} (h : r < 19) : s.slowed.field .clkRegion [r] 10 6 = 24 :=
  State.field_foldl_setField_region _ 24 (by decide) (by decide) (List.mem_range.2 h)

theorem State.stopLost_effect : s.stopLost.mem = s.mem ∧ s.stopLost.nv.power.input = s.nv.power.input ∧ s.stopLost.nv.power.trip = s.nv.power.trip ∧
    s.stopLost.nv.power.lost = true ∧ s.stopLost.nv.power.stopAt = none ∧ s.stopLost.dev.clk = s.dev.clk ∧ s.stopLost.dev.spdm = s.dev.spdm ∧
    (∀ m, s.stopLost.mbox m = s.mbox m) ∧ ∀ c, s.stopLost.core c = s.core c := ⟨rfl, rfl, rfl, rfl, rfl, rfl, rfl, fun _ => rfl, fun _ => rfl⟩

theorem State.stopLost_field {n : RegName} (i : List Nat) (hi lo : Nat) (h : n ≠ .hubState) : s.stopLost.field n i hi lo = s.field n i hi lo := by
  rw [State.stopLost, State.goHub_field_ne _ _ _ _ _ h]
  rfl

theorem State.caveShut_field {n : RegName} (i : List Nat) (hi lo : Nat) (h : n ≠ .caveStatus) : s.caveShut.field n i hi lo = s.field n i hi lo := by
  have hne : (n, i) ≠ (RegName.caveStatus, []) := fun e => h (congrArg Prod.fst e)
  rw [State.caveShut, State.field_setField_ne _ _ hne, State.field_setField_ne _ _ hne]

theorem State.caveShut_accepts : s.caveShut.field .caveStatus [] 4 4 = 0 := by
  rw [State.caveShut, State.field_setField_bit _ _ _ _ (by decide) (by decide)]
  exact State.field_setField_self _ _ (by decide) (by decide)

/-- The state after the clock has slowed down: what the caves and the sessions then lose. -/
theorem State.shut_effect : s.caveShut.endSessions.stopLost.mem = s.mem ∧ s.caveShut.endSessions.stopLost.nv.power.input = s.nv.power.input ∧
    s.caveShut.endSessions.stopLost.nv.power.trip = s.nv.power.trip ∧ s.caveShut.endSessions.stopLost.nv.power.lost = true ∧
    s.caveShut.endSessions.stopLost.nv.power.stopAt = none ∧ s.caveShut.endSessions.stopLost.hubState = 7 ∧
    s.caveShut.endSessions.stopLost.dev.clk = s.dev.clk ∧ s.caveShut.endSessions.stopLost.field .caveStatus [] 4 4 = 0 ∧
    s.caveShut.endSessions.stopLost.dev.spdm.sessions = [] ∧ (∀ m : MboxId, (s.caveShut.endSessions.stopLost.mbox m).session = none) ∧
    ∀ c, s.caveShut.endSessions.stopLost.core c = s.core c := by
  have hend {β : Type} (P : State → β) (h : ∀ (t : State) n g, P (t.modMbox n g) = P t) (h' : ∀ (t : State) g, P (t.modSpdm g) = P t) :
      P s.caveShut.endSessions = P s.caveShut := State.endSessions_keeps _ P h h'
  obtain ⟨hmem, hinput, htrip, hlost, hstop, hclk, hspdm, hmbox, hcore⟩ := s.caveShut.endSessions.stopLost_effect
  rw [hmem, hinput, htrip, hclk, hspdm, State.stopLost_field _ _ _ _ (by decide)]
  refine ⟨hend State.mem (fun _ _ _ => rfl) fun _ _ => rfl, hend (·.nv.power.input) (fun _ _ _ => rfl) fun _ _ => rfl,
    hend (·.nv.power.trip) (fun _ _ _ => rfl) fun _ _ => rfl, hlost, hstop, State.goHub_hubState _ (by decide),
    hend (·.dev.clk) (fun _ _ _ => rfl) fun _ _ => rfl, ?_, State.endSessions_sessions _, fun m => ?_,
    fun c => (hcore c).trans (hend (·.core c) (fun _ _ _ => rfl) fun _ _ => rfl)⟩
  · exact (hend (·.field .caveStatus [] 4 4) (fun _ _ _ => rfl) fun _ _ => rfl).trans s.caveShut_accepts
  · rw [hmbox]
    exact State.endSessions_unbinds _ m

/-- Registers other than HUB_STATE and CAVE_STATUS stay as the slowed clock leaves them. -/
theorem State.shut_field {n : RegName} (i : List Nat) (hi lo : Nat) (h : n ≠ .hubState) (h' : n ≠ .caveStatus) :
    s.caveShut.endSessions.stopLost.field n i hi lo = s.field n i hi lo := by
  rw [State.stopLost_field _ _ _ _ h, State.endSessions_keeps _ (·.field n i hi lo) (fun _ _ _ => rfl) fun _ _ => rfl, State.caveShut_field _ _ _ _ h']

variable {s}

theorem State.lossOfInput_effect (hr : s.nv.power.rails = true) (hl : s.nv.power.lost = false) :
    let u := s.lossOfInput
    u.mem = s.mem ∧ u.nv.power.input = false ∧ u.nv.power.lost = true ∧
      u.nv.power.stopAt = none ∧ u.hubState = 7 ∧ u.field .clkStatus [] 4 0 = 24 ∧ u.dev.clk.target = none ∧ u.field .caveStatus [] 4 4 = 0 ∧
      (∀ r, r < 19 → u.field .clkRegion [r] 10 6 = 24) ∧ u.dev.spdm.sessions = [] ∧ (∀ m : MboxId, (u.mbox m).session = none) ∧
      ∀ c : CoreId, u.core c = s.core c := by
  have hslow {β : Type} (P : State → β) (h : ∀ (t : State) n i hi lo, P (t.setField n i hi lo 24) = P t) : P s.inputLost.slowed = P s.inputLost :=
    s.inputLost.slowed_keeps P h
  have hmem := hslow State.mem fun _ _ _ _ _ => rfl
  have hinput := hslow (·.nv.power.input) fun _ _ _ _ _ => rfl
  have htarget := hslow (·.dev.clk.target) fun _ _ _ _ _ => rfl
  have hcore (c : Nat) := hslow (·.core c) fun _ _ _ _ _ => rfl
  have hstep := s.inputLost.slowed_step
  have hregion (r : Nat) (h : r < 19) := s.inputLost.slowed_region h
  dsimp only
  rw [State.lossOfInput_eq hr hl]
  generalize s.inputLost.slowed = t at hmem hinput htarget hcore hstep hregion ⊢
  obtain ⟨hmem', hinput', -, hlost, hstop, hhub, hclk, hcave, hsess, hmbox, hcore'⟩ := t.shut_effect
  refine ⟨hmem'.trans hmem, hinput'.trans hinput, hlost, hstop, hhub, (t.shut_field _ _ _ (by decide) (by decide)).trans hstep, ?_, hcave,
    fun r h => (t.shut_field _ _ _ (by decide) (by decide)).trans (hregion r h), hsess, hmbox, fun c => (hcore' c).trans (hcore c)⟩
  rw [hclk]
  exact htarget

end

/-! ### The rails and the input (R297, R298) -/

section
variable {s : State}

theorem State.railsLeave_idle (flushed : Bool) (h : ¬ s.nv.power.rails = true ∨ (s.nv.power.lost = false ∧ s.nv.power.stopAt = none)) :
    s.railsLeave flushed = s := by
  unfold State.railsLeave
  split
  · rfl
  · rename_i hr
    obtain ⟨hl, hs⟩ := h.resolve_left hr
    simp [hl, hs]

theorem State.railsLeave_stopped (flushed : Bool) (hr : s.nv.power.rails = true) (hl : s.nv.power.lost = false) (hs : s.nv.power.stopAt.isSome) :
    s.railsLeave flushed = s.railsOff 0 0 := by
  unfold State.railsLeave
  rw [if_neg (by simp [hr]), if_neg (by simp [hl]), if_pos hs]

theorem State.railsLeave_lost (flushed : Bool) (hr : s.nv.power.rails = true) (hl : s.nv.power.lost = true) :
    s.railsLeave flushed = s.railsOff 4 (if flushed then 1 else 2) := by
  unfold State.railsLeave
  rw [if_neg (by simp [hr]), if_pos hl]

/-- The input is valid. -/
def State.inputValid (s : State) : State := s.modPower fun p => { p with input := true }

theorem State.inputRestore_starts (hr : ¬ s.nv.power.rails = true) (hp : s.nv.power.pwrEn = true) (ht : s.nv.power.trip = false) :
    s.inputRestore = s.inputValid.railsOn := State.powerUp_on ⟨Bool.eq_false_iff.2 hr, rfl, .inl hp, .inl ht⟩

theorem State.inputRestore_idle (h : s.nv.power.rails = true ∨ s.nv.power.pwrEn = false ∨ s.nv.power.trip = true) :
    s.inputRestore = s.modPower fun p => { p with input := true } := by
  refine State.powerUp_off ?_
  rintro ⟨hr, -, hp, ht⟩
  have hp : s.nv.power.pwrEn = true := hp.resolve_right (by decide)
  have ht : s.nv.power.trip = false := ht.resolve_right (by simp)
  have hr : s.nv.power.rails = false := hr
  simp [hr, hp, ht] at h

/-- The trip latch is clear. -/
def State.untripped (s : State) : State := s.modPower fun p => { p with trip := false }

theorem State.inputRemove_effect (hr : s.nv.power.rails = true) (hl : s.nv.power.lost = false) :
    let u := s.inputRemove
    u.mem = s.mem ∧ u.nv.power.trip = false ∧ u.nv.power.input = false ∧ u.nv.power.lost = true ∧ u.hubState = 7 := by
  obtain ⟨hmem, hinput, hlost, -, hhub, -⟩ := State.lossOfInput_effect (s := s.untripped) hr hl
  refine ⟨hmem, ?_, hinput, hlost, hhub⟩
  have htrip : s.untripped.lossOfInput.nv.power.trip = s.untripped.inputLost.slowed.nv.power.trip := by
    rw [State.lossOfInput_eq (s := s.untripped) hr hl]
    obtain ⟨-, -, htrip, -⟩ := s.untripped.inputLost.slowed.shut_effect
    exact htrip
  exact htrip.trans (s.untripped.inputLost.slowed_keeps (·.nv.power.trip) fun _ _ _ _ _ => rfl)

end

/-! ### Configuration from outside (R248, R294) -/

/-- A byte of the EEPROM after a write over the FRU bus: the byte written, in the integrator area, and else the old one. -/
theorem read_fruWrite (d : List Byte) : ∀ (m : Mem) (a b : Nat), m.wf = true → Mem.read (fruWrite m a d) b =
    if 0x1000 ≤ b ∧ b < 0x2000 ∧ a ≤ b ∧ b < a + d.length then d.getD (b - a) 0 else Mem.read m b := by
  induction d with
  | nil =>
    intro m a b _
    rw [if_neg (by simp only [List.length_nil]; omega)]
    rfl
  | cons x d ih =>
    intro m a b hwf
    have hone : (if 0x1000 ≤ a ∧ a < 0x2000 then Mem.write m a x else m).wf = true := by
      split
      · exact Mem.wf_write hwf _ _
      · exact hwf
    have hread : Mem.read (if 0x1000 ≤ a ∧ a < 0x2000 then Mem.write m a x else m) b =
        if 0x1000 ≤ b ∧ b < 0x2000 ∧ b = a then x else Mem.read m b := by
      split
      · rw [Mem.read_write hwf]
        by_cases hb : b = a
        · rw [if_pos hb, if_pos (by omega)]
        · rw [if_neg hb, if_neg (by omega)]
      · rw [if_neg (by omega)]
    rw [fruWrite, ih _ _ _ hone, hread, List.length_cons]
    by_cases hb : b = a
    · subst hb
      rw [if_neg (by omega), Nat.sub_self, List.getD_cons_zero]
      exact if_congr (by omega) rfl rfl
    · rw [if_neg (c := 0x1000 ≤ b ∧ b < 0x2000 ∧ b = a) (by omega)]
      by_cases hab : a < b
      · rw [show b - a = (b - (a + 1)) + 1 by omega, List.getD_cons_succ]
        exact if_congr (by omega) rfl rfl
      · rw [if_neg (by omega), if_neg (by omega)]

/-- Settles O60, one row after the other: each is idle out of its state, and else does what its lemma above says. -/
theorem stopsAndResetsKeepWhatTheyMust : Obligations.StopsAndResetsKeepWhatTheyMust := by
  unfold Obligations.StopsAndResetsKeepWhatTheyMust
  intro s
  refine ⟨fun h => ?_, fun hr hh => ⟨_, exec_perstAssert s, ?_⟩, fun w0 w1 sp => ⟨_, exec_perstDeassert w0 w1 sp s, ?_⟩, fun h => ?_, fun h => ?_,
    fun hr hl hs => ⟨_, exec_pwrEnDeassert s, State.pwrEnDeassert_effect hr hl hs⟩, fun _ _ hs ht => State.powerTick_effect hs ht,
    fun hr hl => ⟨_, exec_lossOfInput s, State.lossOfInput_effect hr hl⟩, fun flushed => ⟨fun h => ?_, fun hr hl hs => ?_, fun hr hl => ?_⟩,
    fun hr hp ht => ⟨_, exec_inputRestore s, ?_⟩, fun h => ?_, fun hr hl => ⟨_, exec_inputRemove s, State.inputRemove_effect hr hl⟩, fun hr => ?_,
    fun n => ⟨fun hl hn => ?_, fun h => ?_⟩, fun a d hwf => ⟨_, exec_portTableWrite a d s, rfl, fun b => read_fruWrite d _ a b hwf⟩⟩
  · rw [exec_perstAssert, State.perstAssert_idle h]
  · rw [State.perstAssert_eq hr hh]
    exact State.moduleReset_effect (s.modPower fun p => { p with perst := true, trained := false }) (by decide)
  · rw [State.perstDeassert_eq]
    refine ⟨State.trainLinks_keeps _ (·.nv.power.perst) rfl, State.trainLinks_mem _, fun hw => ?_, fun hw => ?_⟩
    · exact State.trainLinks_wait _ fun h => (State.perstHigh_linksReady w0 w1 sp).1 h hw
    · rw [State.trainLinks_up _ ((State.perstHigh_linksReady w0 w1 sp).2 hw)]
      exact s.perstHigh_linksUp w0 w1 sp (not_not.1 (not_or.1 hw).1)
  · rw [exec_pwrEnDeassert, State.pwrEnDeassert_idle h]
  · rw [exec_lossOfInput, State.lossOfInput_idle h]
  · rw [exec_railsLeaveRegulation, State.railsLeave_idle flushed h]
  · exact ⟨_, exec_railsLeaveRegulation flushed s, by rw [State.railsLeave_stopped flushed hr hl hs]; exact s.railsOff_effect 0 0⟩
  · exact ⟨_, exec_railsLeaveRegulation flushed s, by rw [State.railsLeave_lost flushed hr hl]; exact s.railsOff_effect 4 _⟩
  · rw [State.inputRestore_starts hr hp ht]
    obtain ⟨hrails, hhub, -, -, -, -, hmem, -⟩ := s.inputValid.railsOn_effect
    exact ⟨hrails, rfl, hhub, hmem⟩
  · rw [exec_inputRestore, State.inputRestore_idle h]
  · rw [exec_inputRemove]
    exact congrArg _ (State.lossOfInput_idle (s := s.untripped) (.inl hr))
  · rw [exec_resizableBarWrite, State.barSize, if_pos ⟨hl, hn⟩]
  · rw [exec_resizableBarWrite, State.barSize, if_neg]
    rintro ⟨hl, hn⟩
    obtain h | h := h
    · simp [hl] at h
    · omega

end Sys2Proof.Machine
end

section
/-!
PROOF. Ports train, spare lanes, retrain, go DOWN and are configured (R191 to R193, R208, R212).
-/
namespace Sys2Proof.Machine

theorem exec_portTrainingComplete (p : PortId) (good : BitVec 5) (q : Peer) (s : State) : exec (.portTrainingComplete p good q) s =
    .next (s.clockedBy 16 fun s => s.trainingComplete p ((List.range 5).filter fun l => bit good.toNat l) q) := by rfl
theorem exec_portRetrain (p : PortId) (good : BitVec 5) (q : Peer) (s : State) : exec (.portRetrain p good q) s =
    .next (s.clockedBy 16 fun s => s.retrained p ((List.range 5).filter fun l => bit good.toNat l) q) := by rfl
theorem exec_laneFail (p : PortId) (l : Fin 5) (s : State) : exec (.laneFail p l) s = .next (s.laneFail p l) := by rfl
theorem exec_linkDown (p : PortId) (s : State) : exec (.linkDown p) s = .next (s.linkLost p) := by rfl
theorem exec_retrain (p : PortId) (s : State) : exec (.retrain p) s = .next (s.hosted fun s => s.hostRetrain p) := by rfl
theorem exec_portEnableWrite (p : PortId) (on : Bool) (s : State) :
    exec (.portEnableWrite p on) s = .next (s.hosted fun s => s.portEnable p on) := by rfl
theorem exec_creditSplitWrite (p : PortId) (hi : Bool) (v : Word) (s : State) :
    exec (.creditSplitWrite p hi v) s = .next (s.hosted fun s => s.creditSplit p hi v) := by rfl

/-! ### Lanes (R193) -/

/-- Whether a port may use a lane: lane 4 is the spare. -/
def State.usableLane (s : State) (p l : Nat) : Bool := decide (l < 4) || s.field .lnkPortCtrl [p] 3 3 == 1

/-- The lanes that a port may use, of the five. -/
theorem State.usable_eq (s : State) (p : Nat) (good : List Nat) :
    s.usable p good = (List.range 5).filter fun l => good.contains l && s.usableLane p l := by
  unfold State.usable State.usableLane
  have hall : List.range 5 = [0, 1, 2, 3, 4] := by decide
  rw [hall]
  split
  · rename_i h
    simp [h]
  · rename_i h
    have h4 : (s.field .lnkPortCtrl [p] 3 3 == 1) = false := by simpa using h
    simp [List.filter_cons, h4]

/-- The lanes found good at the end of a training, of those that the port may use. -/
theorem State.usable_found (s : State) (p : Nat) (good : BitVec 5) :
    s.usable p ((List.range 5).filter fun l => bit good.toNat l) = (List.range 5).filter fun l => bit good.toNat l && s.usableLane p l := by
  rw [State.usable_eq]
  refine List.filter_congr fun l hl => ?_
  congr 1
  cases hb : bit good.toNat l <;> simp [hb, List.mem_range.1 hl]

/-- The lanes left once lane `l` has failed. -/
theorem State.usable_left (s : State) (p l : Nat) (good : List Nat) : s.usable p (good.filter (· ≠ l)) =
    (List.range 5).filter fun j => good.contains j && s.usableLane p j && j != l := by
  rw [State.usable_eq]
  refine List.filter_congr fun j _ => ?_
  by_cases hj : j = l <;> by_cases hg : j ∈ good <;> simp [hj, hg]

theorem spareLanes_nil (lanes : List Nat) (l : Nat) : spareLanes [] lanes l = [] := by simp [spareLanes]

/-- The lanes that take over: the spare where there is one, else the lowest two or one. -/
theorem spareLanes_eq {us : List Nat} (lanes : List Nat) {l : Nat} (h : ∀ j ∈ us, j ≠ l) : spareLanes us lanes l =
    if 4 ∈ us ∧ 4 ∉ lanes then lanes.filter (· ≠ l) ++ [4] else us.take (if 2 < lanes.length then 2 else 1) := by
  have hsame : us.filter (· ≠ l) = us := List.filter_eq_self.2 fun j hj => by simpa using h j hj
  unfold spareLanes
  dsimp only
  rw [hsame]
  simp only [List.contains_iff_mem]
  split
  · rfl
  · split <;> rfl

theorem spareLanes_ne_nil {us : List Nat} (lanes : List Nat) {l : Nat} (h : ∀ j ∈ us, j ≠ l) (hus : us ≠ []) : spareLanes us lanes l ≠ [] := by
  rw [spareLanes_eq lanes h]
  split
  · simp
  · split <;> simp [hus]

/-! ### A retrain begins -/

/-- A port that retrains, its buffers empty when the host retrains it. -/
def PortS.retraining (fresh : Bool) (k : PortS) : PortS :=
  let k := { k with st := .retraining, fresh := fresh }
  if fresh then k.emptied else k

/-- The registers that dropping frames and counting retrains of port `p` may write are apart from `n` at `i`. -/
theorem State.portSet_startRetrain (s : State) (p : Nat) (fresh : Bool) :
    (s.startRetrain p fresh).mem = s.mem ∧ ∃ w, (s.startRetrain p fresh).port p = { PortS.retraining fresh (s.port p) with wire := w } := by
  unfold State.startRetrain
  dsimp only
  have hport : ((s.modPort p fun k => { k with st := .retraining, fresh := fresh }).bump .lnkPortCntRetrain [p] 1 none 7 p).port p =
      { s.port p with st := .retraining, fresh := fresh } := by rw [State.bump_port, State.port_modPort_self]
  cases fresh with
  | false => exact ⟨(s.modPort p _).bump_mem .lnkPortCntRetrain [p] 1 none 7 p, (s.port p).wire, hport⟩
  | true =>
    have hset := State.dropped_dropBuffers ((s.modPort p fun k => { k with st := .retraining, fresh := true }).bump .lnkPortCntRetrain [p] 1 none 7 p) p
    obtain ⟨w, hw⟩ := hset.port p
    refine ⟨hset.mem.trans (State.bump_mem _ _ _ _ _ _ _), w, ?_⟩
    rw [if_pos rfl, hw, State.port_modPort_self, hport]
    rfl

/-! ### The end of a training (R191, R192) -/

section
variable {s : State} {p : Nat} {q : Peer}

/-- The partner has this module's own id. -/
def State.ownId (s : State) (q : Peer) : Prop := q.id = s.moduleId ∧ q.id ≠ 0xFFF

theorem State.identity_ok (hg : q.gen = 2) (ho : ¬ s.ownId q) : s.identity q = 0 := by
  rw [State.identity, if_neg (by simpa using hg)]
  exact if_neg ho

theorem State.identity_refuses (h : q.gen ≠ 2 ∨ s.ownId q) : s.identity q = if q.gen ≠ 2 then 2 else 3 := by
  unfold State.identity
  split
  · rfl
  · rename_i hg
    exact if_pos (h.resolve_left hg)

theorem State.identity_ne_zero (h : q.gen ≠ 2 ∨ s.ownId q) : s.identity q ≠ 0 := by
  rw [State.identity_refuses h]
  split <;> decide

/-- The state in which a training without a usable lane, or with a partner that may not come up, ends. -/
theorem State.trainFails_effect (s : State) (hp : p < 16) (cause : Nat) :
    let u := s.trainFails p cause
    u.mem = s.mem ∧ (∀ r, r ≠ p → (u.port r).st = (s.port r).st) ∧ (u.port p).st = .down ∧ (u.port p).replay = [] ∧
      u.field .featLink [] p p = 0 ∧ (u.port p).cause = cause := by
  obtain ⟨hst, hcause, hreplay⟩ := s.trainFails_down p cause
  exact ⟨s.trainFails_mem p cause, fun r hr => (s.portSet_trainFails p cause).st_ne hr, hst, hreplay,
    (s.trainFails_feat p cause p).trans (s.featTrained_ports p false false hp), hcause⟩

theorem State.train_no_lane {good : List Nat} (h : s.usable p good = []) : s.train p good q = s.trainFails p 5 := by
  unfold State.train
  dsimp only
  rw [h]
  rfl

theorem trainLanes_ne_nil {l : List Nat} (h : l ≠ []) : trainLanes l ≠ [] := by
  unfold trainLanes
  split
  · simp [h]
  · split <;> simp [h]

/-- The partner is known, and so are the good lanes. -/
def State.met (s : State) (p : Nat) (good : List Nat) (q : Peer) : State := s.modPort p fun k => { k with good := good, peer := some q }

theorem State.train_refused {good : List Nat} (h : s.usable p good ≠ []) (hq : q.gen ≠ 2 ∨ s.ownId q) :
    s.train p good q = (s.met p good q).trainFails p (if q.gen ≠ 2 then 2 else 3) := by
  unfold State.train
  dsimp only
  rw [if_neg (trainLanes_ne_nil h)]
  have hid : State.identity (s.modPort p fun k => { k with good := good, peer := some q }) q = s.identity q := rfl
  rw [hid]
  split
  · rename_i h0
    exact absurd h0 (State.identity_ne_zero hq)
  · rw [State.identity_refuses hq]
    rfl

/-- A port that comes up with its partner, the replay protocol starting afresh. -/
def PortS.comeUp (k : PortS) (lanes : List Nat) (q : Peer) (split : BitVec 64 × BitVec 64) : PortS :=
  { k with st := .up, cause := 0, lanes := lanes, fresh := false, credits := q.credits, lseq := 0, expect := 0, split := split }

theorem State.train_up {good : List Nat} (h : s.usable p good ≠ []) (hg : q.gen = 2) (ho : ¬ s.ownId q) : s.train p good q =
    ((s.met p good q).modPort p (·.comeUp (trainLanes (s.usable p good)) q (s.reg .lnkPortCred0 [p], s.reg .lnkPortCred1 [p]))).featTrained p true
      ((trainLanes (s.usable p good)).contains 4) := by
  have hid : State.identity (s.modPort p fun k => { k with good := good, peer := some q }) q = 0 := State.identity_ok hg ho
  unfold State.train
  dsimp only
  rw [if_neg (trainLanes_ne_nil h), hid]
  rfl

theorem State.train_up_effect {good : List Nat} (h : s.usable p good ≠ []) (hg : q.gen = 2) (ho : ¬ s.ownId q) (hp : p < 16) :
    let u := s.train p good q
    u.mem = s.mem ∧ (∀ r, r ≠ p → (u.port r).st = (s.port r).st) ∧ (u.port p).st = .up ∧ (u.port p).cause = 0 ∧
      (u.port p).lanes = trainLanes (s.usable p good) ∧ (u.port p).credits = q.credits ∧ (u.port p).lseq = 0 ∧ (u.port p).expect = 0 ∧
      (u.port p).peer = some q ∧ u.field .featLink [] p p = 1 := by
  dsimp only
  rw [State.train_up h hg ho]
  refine ⟨rfl, fun r hr => ?_, ?_⟩
  · rw [State.featTrained_port, State.port_modPort_ne _ _ hr, State.met, State.port_modPort_ne _ _ hr]
  · rw [State.featTrained_port, State.port_modPort_self, State.met, State.port_modPort_self]
    exact ⟨rfl, rfl, rfl, rfl, rfl, rfl, rfl, State.featTrained_ports _ _ _ _ hp⟩

/-- What a training leaves: the port UP with the lanes and the partner's credit, or DOWN with the cause. -/
theorem State.train_effect (s : State) (hp : p < 16) (good : BitVec 5) (q : Peer) :
    let us := (List.range 5).filter fun l => bit good.toNat l && s.usableLane p l
    let u := s.train p ((List.range 5).filter fun l => bit good.toNat l) q
    u.mem = s.mem ∧ (∀ r : PortId, r ≠ p → (u.port r).st = (s.port r).st) ∧
      (us ≠ [] → q.gen = 2 → ¬ s.ownId q → (u.port p).st = .up ∧ (u.port p).cause = 0 ∧
        (u.port p).lanes = us.take (if 4 ≤ us.length then 4 else if 2 ≤ us.length then 2 else 1) ∧
        (u.port p).credits = q.credits ∧ (u.port p).lseq = 0 ∧ (u.port p).expect = 0 ∧ (u.port p).peer = some q ∧
        u.field .featLink [] p p = 1) ∧
      (us = [] ∨ q.gen ≠ 2 ∨ s.ownId q → (u.port p).st = .down ∧ (u.port p).replay = [] ∧ u.field .featLink [] p p = 0 ∧
        (u.port p).cause = (if us = [] then 5 else if q.gen ≠ 2 then 2 else 3)) := by
  dsimp only
  rw [← s.usable_found p good]
  generalize (List.range 5).filter (fun l => bit good.toNat l) = lanes
  by_cases hus : s.usable p lanes = []
  · obtain ⟨hmem, hothers, hst, hreplay, hfeat, hcause⟩ := s.trainFails_effect hp 5
    rw [State.train_no_lane hus]
    exact ⟨hmem, fun r hr => hothers r hr, fun h => absurd hus h, fun _ => ⟨hst, hreplay, hfeat, by rw [hcause, if_pos hus]⟩⟩
  · by_cases hq : q.gen ≠ 2 ∨ s.ownId q
    · obtain ⟨hmem, hothers, hst, hreplay, hfeat, hcause⟩ := (s.met p lanes q).trainFails_effect hp (if q.gen ≠ 2 then 2 else 3)
      rw [State.train_refused hus hq]
      refine ⟨hmem, fun r hr => (hothers r hr).trans ?_, fun _ hg ho => absurd hq (not_or.2 ⟨not_not.2 hg, ho⟩),
        fun _ => ⟨hst, hreplay, hfeat, by rw [hcause, if_neg hus]⟩⟩
      rw [State.met, State.port_modPort_ne _ _ hr]
    · obtain ⟨hgen, hown⟩ := not_or.1 hq
      obtain ⟨hmem, hothers, heffect⟩ := State.train_up_effect hus (not_not.1 hgen) hown hp
      exact ⟨hmem, fun r hr => hothers r hr, fun _ _ _ => heffect, fun h => absurd h (not_or.2 ⟨hus, hq⟩)⟩

/-! ### The exchange is repeated (R192) -/

theorem State.exchange_ok (hg : q.gen = 2) (ho : ¬ s.ownId q) : s.exchange p q = s.modPort p fun k => { k with peer := some q } := by
  have hid : State.identity (s.modPort p fun k => { k with peer := some q }) q = 0 := State.identity_ok hg ho
  rw [State.exchange, hid]
  rfl

theorem State.exchange_refused (h : q.gen ≠ 2 ∨ s.ownId q) :
    s.exchange p q = (s.modPort p fun k => { k with peer := some q }).linkDown p (if q.gen ≠ 2 then 2 else 3) := by
  have hid : State.identity (s.modPort p fun k => { k with peer := some q }) q = s.identity q := rfl
  unfold State.exchange
  dsimp only
  rw [hid]
  split
  · rename_i h0
    exact absurd h0 (State.identity_ne_zero h)
  · rw [State.identity_refuses h]

theorem State.exchange_down (h : q.gen ≠ 2 ∨ s.ownId q) : (s.exchange p q).mem = s.mem ∧ ((s.exchange p q).port p).st = .down ∧
    ((s.exchange p q).port p).replay = [] ∧ ((s.exchange p q).port p).cause = (if q.gen ≠ 2 then 2 else 3) := by
  rw [State.exchange_refused h]
  obtain ⟨hst, hcause, hreplay⟩ := State.linkDown_down (s.modPort p fun k => { k with peer := some q }) p (if q.gen ≠ 2 then 2 else 3)
  exact ⟨State.linkDown_mem _ _ _, hst, hreplay, hcause⟩

theorem State.trainingComplete_idle {good : List Nat} (h : s.field .lnkPortCtrl [p] 0 0 = 0 ∨ ((s.port p).st ≠ .training ∧ (s.port p).st ≠ .up)) :
    s.trainingComplete p good q = s := by
  unfold State.trainingComplete
  split
  · rfl
  · rename_i hen
    obtain ⟨ht, hu⟩ := h.resolve_left hen
    split
    · rename_i hst
      exact absurd hst ht
    · rename_i hst
      exact absurd hst hu
    · rfl

theorem State.trainingComplete_trains {good : List Nat} (hen : s.field .lnkPortCtrl [p] 0 0 = 1) (hst : (s.port p).st = .training) :
    s.trainingComplete p good q = s.train p good q := by rw [State.trainingComplete, if_neg (by omega), hst]

theorem State.trainingComplete_exchanges {good : List Nat} (hen : s.field .lnkPortCtrl [p] 0 0 = 1) (hst : (s.port p).st = .up) :
    s.trainingComplete p good q = s.exchange p q := by rw [State.trainingComplete, if_neg (by omega), hst]

end

/-! ### LANE_FAIL (R193) -/

section
variable {s : State} {p l : Nat}

theorem State.laneFail_idle (h : ((s.port p).st ≠ .up ∧ (s.port p).st ≠ .retraining) ∨ l ∉ (s.port p).good) : s.laneFail p l = s := by
  refine if_neg fun hc => ?_
  obtain ⟨hst, hgood⟩ := hc
  obtain ⟨hu, hr⟩ | hl := h
  · exact hst.elim hu hr
  · exact hl (List.contains_iff_mem.1 hgood)

/-- Lane `l` is good no more. -/
def State.lessLane (s : State) (p l : Nat) : State := s.modPort p fun k => { k with good := k.good.filter (· ≠ l) }

/-- The lanes that port `p` may use once lane `l` has failed. -/
def State.lanesLeft (s : State) (p l : Nat) : List Nat :=
  (List.range 5).filter fun j => (s.port p).good.contains j && s.usableLane p j && j != l

theorem State.lanesLeft_ne (s : State) (p l : Nat) : ∀ j ∈ s.lanesLeft p l, j ≠ l := by
  intro j hj
  simp only [State.lanesLeft, List.mem_filter, Bool.and_eq_true, bne_iff_ne] at hj
  exact hj.2.2

section
variable (hst : (s.port p).st = .up ∨ (s.port p).st = .retraining) (hl : l ∈ (s.port p).good)
include hst hl

theorem State.laneFail_unused (h : l ∉ (s.port p).lanes) : s.laneFail p l = s.lessLane p l := by
  unfold State.laneFail
  dsimp only
  rw [if_pos ⟨hst, List.contains_iff_mem.2 hl⟩, if_pos (by simpa using h)]
  rfl

theorem State.laneFail_used (h : l ∈ (s.port p).lanes) : s.laneFail p l =
    match spareLanes (s.lanesLeft p l) (s.port p).lanes l with
    | [] => (s.lessLane p l).linkDown p 5
    | ls => (((s.lessLane p l).modPort p fun k => { k with lanes := ls }).startRetrain p (s.port p).fresh).raise 0x0405
        { kind := 7, index := p, ctx := none } := by
  have hleft : (s.lessLane p l).usable p ((s.lessLane p l).port p).good = s.lanesLeft p l := by
    rw [State.lessLane, State.port_modPort_self]
    exact s.usable_left p l _
  unfold State.laneFail
  dsimp only
  rw [if_pos ⟨hst, List.contains_iff_mem.2 hl⟩, if_neg (by simpa using h)]
  rw [← hleft]
  rfl

theorem State.laneFail_down (h : l ∈ (s.port p).lanes) (hus : s.lanesLeft p l = []) : s.laneFail p l = (s.lessLane p l).linkDown p 5 := by
  rw [State.laneFail_used hst hl h, hus, spareLanes_nil]

theorem State.laneFail_retrains (h : l ∈ (s.port p).lanes) (hus : s.lanesLeft p l ≠ []) : s.laneFail p l =
    (((s.lessLane p l).modPort p fun k => { k with lanes := spareLanes (s.lanesLeft p l) (s.port p).lanes l }).startRetrain p (s.port p).fresh).raise
      0x0405 { kind := 7, index := p, ctx := none } := by
  rw [State.laneFail_used hst hl h]
  split
  · rename_i h0
    exact absurd h0 (spareLanes_ne_nil _ (s.lanesLeft_ne p l) hus)
  · rfl

theorem State.laneFail_down_effect (h : l ∈ (s.port p).lanes) (hus : s.lanesLeft p l = []) : (s.laneFail p l).mem = s.mem ∧
    ((s.laneFail p l).port p).st = .down ∧ ((s.laneFail p l).port p).cause = 5 ∧ ((s.laneFail p l).port p).replay = [] := by
  rw [State.laneFail_down hst hl h hus]
  exact ⟨State.linkDown_mem _ _ _, State.linkDown_down _ _ _⟩

theorem State.laneFail_retrains_effect (h : l ∈ (s.port p).lanes) (hus : s.lanesLeft p l ≠ []) : (s.laneFail p l).mem = s.mem ∧
    ((s.laneFail p l).port p).st = .retraining ∧ ((s.port p).fresh = false → ((s.laneFail p l).port p).replay = (s.port p).replay) ∧
    ((s.laneFail p l).port p).lanes = if 4 ∈ s.lanesLeft p l ∧ 4 ∉ (s.port p).lanes then (s.port p).lanes.filter (· ≠ l) ++ [4]
      else (s.lanesLeft p l).take (if 2 < (s.port p).lanes.length then 2 else 1) := by
  rw [← spareLanes_eq _ (s.lanesLeft_ne p l), State.laneFail_retrains hst hl h hus]
  generalize spareLanes (s.lanesLeft p l) (s.port p).lanes l = ls
  obtain ⟨hmem, w, hw⟩ := ((s.lessLane p l).modPort p fun k => { k with lanes := ls }).portSet_startRetrain p (s.port p).fresh
  rw [State.raise_mem, State.raise_port, hw, State.port_modPort_self, State.lessLane, State.port_modPort_self]
  refine ⟨hmem, ?_, fun hf => ?_, ?_⟩
  · cases (s.port p).fresh <;> rfl
  · rw [hf]
    rfl
  · cases (s.port p).fresh <;> rfl
end

/-- A lane fails: no byte of memory changes, and a port that is retraining is not UP. -/
theorem State.laneFail_keeps (s : State) (p l : Nat) (hst : (s.port p).st = .retraining ∨ (s.port p).st = .down) :
    (s.laneFail p l).mem = s.mem ∧ (((s.laneFail p l).port p).st = .retraining ∨ ((s.laneFail p l).port p).st = .down) := by
  by_cases hidle : ((s.port p).st ≠ .up ∧ (s.port p).st ≠ .retraining) ∨ l ∉ (s.port p).good
  · rw [State.laneFail_idle hidle]
    exact ⟨rfl, hst⟩
  · obtain ⟨hr, hl⟩ := not_or.1 hidle
    have hr : (s.port p).st = .up ∨ (s.port p).st = .retraining := by
      obtain h | h := hst
      · exact .inr h
      · exact absurd ⟨by rw [h]; decide, by rw [h]; decide⟩ hr
    have hl : l ∈ (s.port p).good := not_not.1 hl
    by_cases hin : l ∈ (s.port p).lanes
    · by_cases hus : s.lanesLeft p l = []
      · obtain ⟨hmem, hdown, -⟩ := State.laneFail_down_effect hr hl hin hus
        exact ⟨hmem, .inr hdown⟩
      · obtain ⟨hmem, hretrain, -⟩ := State.laneFail_retrains_effect hr hl hin hus
        exact ⟨hmem, .inl hretrain⟩
    · rw [State.laneFail_unused hr hl hin, State.lessLane, State.port_modPort_self]
      exact ⟨rfl, hst⟩

end

/-! ### PORT_RETRAIN (R193) -/

section
variable {s : State} {p : Nat} {q : Peer} {good : List Nat}

theorem State.retrained_idle (h : (s.port p).st ≠ .retraining) : s.retrained p good q = s := if_pos h

theorem State.retrained_fresh (h : (s.port p).st = .retraining) (hf : (s.port p).fresh = true) : s.retrained p good q = s.train p good q := by
  unfold State.retrained
  dsimp only
  rw [if_neg (not_not.2 h), if_pos hf]

/-- Every lane locks: the port is UP again, and the exchange is repeated. -/
theorem State.retrained_locks (h : (s.port p).st = .retraining) (hf : (s.port p).fresh = false)
    (hl : ∀ l, l ∈ (s.port p).good ∨ l ∈ (s.port p).lanes → l ∈ good) :
    s.retrained p good q = (s.modPort p fun k => { k with st := .up }).exchange p q := by
  have hnone : ((s.port p).good.filter fun l => !good.contains l) = [] := List.filter_eq_nil_iff.2 fun l hg => by
    simpa using hl l (.inl hg)
  have hall : (s.port p).lanes.all good.contains = true := List.all_eq_true.2 fun l hlanes => List.contains_iff_mem.2 (hl l (.inr hlanes))
  unfold State.retrained
  dsimp only
  rw [if_neg (not_not.2 h), if_neg (by simp [hf]), hnone, if_pos hall]
  rfl

/-- A lane in use does not lock: the port is not UP yet. -/
theorem State.retrained_waits (h : (s.port p).st = .retraining) (hf : (s.port p).fresh = false) {l : Nat} (hl : l ∈ (s.port p).lanes)
    (hg : l ∉ good) : (s.retrained p good q).mem = s.mem ∧ ((s.retrained p good q).port p).st ≠ .up := by
  have hall : (s.port p).lanes.all good.contains = false := List.all_eq_false.2 ⟨l, hl, by simpa using hg⟩
  have hfold : ∀ (ls : List Nat) (t : State), t.mem = s.mem → ((t.port p).st = .retraining ∨ (t.port p).st = .down) →
      (ls.foldl (fun s l => s.laneFail p l) t).mem = s.mem ∧ ((ls.foldl (fun s l => s.laneFail p l) t).port p).st ≠ .up := by
    intro ls
    induction ls with
    | nil => exact fun t hm ht => ⟨hm, by obtain ht | ht := ht <;> simp [ht]⟩
    | cons x ls ih =>
      intro t hm ht
      obtain ⟨hmem, hst⟩ := t.laneFail_keeps p x ht
      exact ih _ (hmem.trans hm) hst
  unfold State.retrained
  dsimp only
  rw [if_neg (not_not.2 h), if_neg (by simp [hf]), hall, if_neg (by decide)]
  exact hfold _ s rfl (.inl h)

end

/-! ### The rows of the host (R208, R212) -/

section
variable {s : State} {p : Nat}

theorem State.hostRetrain_off (h : s.field .lnkPortCtrl [p] 0 0 = 0) : s.hostRetrain p = s := if_neg (by omega)

theorem State.hostRetrain_effect (h : s.field .lnkPortCtrl [p] 0 0 = 1) : (s.hostRetrain p).mem = s.mem ∧
    ((s.hostRetrain p).port p).st = .retraining ∧ ((s.hostRetrain p).port p).fresh = true ∧ ((s.hostRetrain p).port p).replay = [] := by
  obtain ⟨hmem, w, hw⟩ := s.portSet_startRetrain p true
  rw [State.hostRetrain, if_pos h, hw]
  exact ⟨hmem, rfl, rfl, rfl⟩

theorem State.portEnable_off (h : s.field .lnkPortCtrl [p] 0 0 = 1) : (s.portEnable p false).mem = s.mem ∧
    ((s.portEnable p false).port p).st = .disabled ∧ ((s.portEnable p false).port p).cause = 6 ∧ ((s.portEnable p false).port p).replay = [] ∧
    (s.portEnable p false).field .lnkPortCtrl [p] 0 0 = 0 := by
  have hset := (s.setField .lnkPortCtrl [p] 0 0 0).portSet_dropBuffers p fun k => { k with st := .disabled, cause := 6, fresh := true, lanes := [] }
  obtain ⟨w, hw⟩ := hset.port_self
  have heq : s.portEnable p false =
      ((s.setField .lnkPortCtrl [p] 0 0 0).modPort p fun k => { k with st := .disabled, cause := 6, fresh := true, lanes := [] }).dropBuffers p := by
    unfold State.portEnable
    dsimp only
    rw [if_neg (by simp), if_pos ⟨by decide, h⟩]
    rfl
  rw [heq, hw]
  exact ⟨hset.mem, rfl, rfl, rfl, (hset.field (by decide) _ _ _).trans (State.field_setField_self _ _ (by decide) (by decide))⟩

theorem State.portEnable_on (h : s.field .lnkPortCtrl [p] 0 0 = 0) : (s.portEnable p true).mem = s.mem ∧
    ((s.portEnable p true).port p).st = .training ∧ ((s.portEnable p true).port p).cause = 0 ∧
    (s.portEnable p true).field .lnkPortCtrl [p] 0 0 = 1 := by
  have heq : s.portEnable p true = (s.setField .lnkPortCtrl [p] 0 0 1).modPort p fun k =>
      { k with st := .training, cause := 0, fresh := true, lanes := [], peer := none } := by
    unfold State.portEnable
    dsimp only
    rw [if_pos ⟨rfl, h⟩]
    rfl
  rw [heq, State.port_modPort_self]
  exact ⟨rfl, rfl, rfl, State.field_setField_self _ _ (by decide) (by decide)⟩

theorem State.portEnable_same {b : Bool} (h : s.field .lnkPortCtrl [p] 0 0 = b2n b) :
    s.portEnable p b = s.setField .lnkPortCtrl [p] 0 0 (s.field .lnkPortCtrl [p] 0 0) := by
  unfold State.portEnable
  dsimp only
  rw [h]
  cases b <;> simp [b2n]

/-- The sizes of a split fit: each class at least 129, all at most 12,288. -/
theorem splitClasses_fit (a b : BitVec 64) :
    ((splitClasses a b).all (fun n => decide (129 ≤ n)) = true ∧ (splitClasses a b).foldl (· + ·) 0 ≤ 12288) ↔
      let n (i : Nat) : Nat := if i < 4 then wbits a (16 * i + 15) (16 * i) else wbits b (16 * (i - 4) + 15) (16 * (i - 4))
      (∀ i, i < 8 → 129 ≤ n i) ∧ n 0 + n 1 + n 2 + n 3 + n 4 + n 5 + n 6 + n 7 ≤ 12288 := by
  have hlist : splitClasses a b = (List.range 8).map fun i =>
      if i < 4 then wbits a (16 * i + 15) (16 * i) else wbits b (16 * (i - 4) + 15) (16 * (i - 4)) := rfl
  rw [hlist]
  refine and_congr ?_ Iff.rfl |>.trans (and_congr Iff.rfl ?_)
  · simp [List.all_map]
  · simp [List.range_succ]

theorem State.creditSplit_eq (s : State) (p : Nat) (hi : Bool) (v : Word) :
    let a := if hi then s.reg .lnkPortCred0 [p] else v
    let b := if hi then v else s.reg .lnkPortCred1 [p]
    let n (i : Nat) : Nat := if i < 4 then wbits a (16 * i + 15) (16 * i) else wbits b (16 * (i - 4) + 15) (16 * (i - 4))
    let fits : Prop := (∀ i, i < 8 → 129 ≤ n i) ∧ n 0 + n 1 + n 2 + n 3 + n 4 + n 5 + n 6 + n 7 ≤ 12288
    (s.field .lnkPortCtrl [p] 0 0 = 0 → fits → s.creditSplit p hi v = s.setReg (if hi then .lnkPortCred1 else .lnkPortCred0) [p] v) ∧
    (s.field .lnkPortCtrl [p] 0 0 = 1 ∨ ¬ fits → s.creditSplit p hi v = s.setField .lnkPortCtrl [p] 4 4 1) := by
  dsimp only
  refine ⟨fun hoff hfit => ?_, fun h => ?_⟩
  · obtain ⟨hall, hsum⟩ := (splitClasses_fit _ _).2 hfit
    unfold State.creditSplit
    dsimp only
    rw [if_pos ⟨hoff, hall, hsum⟩]
    cases hi <;> rfl
  · unfold State.creditSplit
    dsimp only
    refine if_neg fun hc => ?_
    obtain ⟨hoff, hall, hsum⟩ := hc
    obtain hon | hfit := h
    · omega
    · exact hfit ((splitClasses_fit _ _).1 ⟨hall, hsum⟩)

end

/-! ### The statement -/

theorem State.clockedBy_runs {s : State} {r : Nat} (h : s.regionStopped r = false) (f : State → State) : s.clockedBy r f = f s := if_neg (by simp [h])

theorem State.clockedBy_stopped {s : State} {r : Nat} (h : s.regionStopped r = true) (f : State → State) : s.clockedBy r f = s := if_pos h

/-- Settles O41, one row after the other: `train_effect`, `exchange_ok`, `exchange_down`, `retrained_locks`, `retrained_waits`,
`laneFail_…_effect`, `linkDown_down` and the rows of the host. -/
theorem portsTrainRetrainAndSpare : Obligations.PortsTrainRetrainAndSpare := by
  unfold Obligations.PortsTrainRetrainAndSpare
  intro p s
  refine ⟨fun good q row hrow hclk => ?_, fun good q => ⟨fun h => ?_, fun hen hst hclk hg ho => ?_, fun hen hst hclk hq => ?_, fun h => ?_,
      fun hst hf hclk => ⟨fun hl => ?_, fun hl => ?_⟩⟩,
    fun l => ⟨fun h => ?_, fun hst hl => ⟨fun hout => ?_, fun hin hus => ?_, fun hin hus => ?_⟩⟩, fun hst => ?_, fun hst hhub => ?_, fun hoff => ?_,
    fun hon hlink => ?_, fun hon hlink => ?_, fun hoff hlink => ?_, fun b hb hlink => ?_, fun hi v => ⟨fun hoff hfit hlink => ?_, fun h hlink => ?_⟩⟩
  · obtain ⟨hmem, hothers, heffect⟩ := s.train_effect p.isLt good q
    refine ⟨_, ?_, hmem, fun r hr => hothers r fun e => hr (Fin.ext e), heffect⟩
    obtain ⟨rfl, hst, hen⟩ | ⟨rfl, hst, hf⟩ := hrow
    · rw [exec_portTrainingComplete, State.clockedBy_runs hclk, State.trainingComplete_trains hen hst]
    · rw [exec_portRetrain, State.clockedBy_runs hclk, State.retrained_fresh hst hf]
  · rw [exec_portTrainingComplete]
    cases hclk : s.regionStopped 16 with
    | true => rw [State.clockedBy_stopped hclk]
    | false => rw [State.clockedBy_runs hclk, State.trainingComplete_idle (h.imp_right fun h => h.resolve_right (by simp [hclk]))]
  · rw [exec_portTrainingComplete, State.clockedBy_runs hclk, State.trainingComplete_exchanges hen hst, State.exchange_ok hg ho]
  · refine ⟨_, by rw [exec_portTrainingComplete, State.clockedBy_runs hclk, State.trainingComplete_exchanges hen hst], State.exchange_down hq⟩
  · rw [exec_portRetrain]
    cases hclk : s.regionStopped 16 with
    | true => rw [State.clockedBy_stopped hclk]
    | false => rw [State.clockedBy_runs hclk, State.retrained_idle (h.resolve_right (by simp [hclk]))]
  · have hlock := State.retrained_locks (q := q) (good := (List.range 5).filter fun l => bit good.toNat l) hst hf fun l h => by
      simpa using hl l h
    refine ⟨_, by rw [exec_portRetrain, State.clockedBy_runs hclk, hlock], ?_⟩
    by_cases hq : q.gen ≠ 2 ∨ s.ownId q
    · obtain ⟨hmem, hdown⟩ := State.exchange_down (s := s.modPort p fun k => { k with st := .up }) (p := p) hq
      exact ⟨hmem, fun hg ho => absurd hq (not_or.2 ⟨not_not.2 hg, ho⟩), fun _ => hdown⟩
    · obtain ⟨hgen, hown⟩ := not_or.1 hq
      rw [State.exchange_ok (s := s.modPort p fun k => { k with st := .up }) (not_not.1 hgen) hown, State.port_modPort_self, State.port_modPort_self]
      exact ⟨rfl, fun _ _ => rfl, fun h => absurd h hq⟩
  · obtain ⟨l, hin, hbad⟩ := hl
    exact ⟨_, by rw [exec_portRetrain, State.clockedBy_runs hclk], State.retrained_waits hst hf hin (by simpa using hbad)⟩
  · rw [exec_laneFail, State.laneFail_idle h]
  · rw [exec_laneFail, State.laneFail_unused hst hl hout]
    rfl
  · exact ⟨_, exec_laneFail p l s, State.laneFail_down_effect hst hl hin hus⟩
  · exact ⟨_, exec_laneFail p l s, State.laneFail_retrains_effect hst hl hin hus⟩
  · refine ⟨_, exec_linkDown p s, ?_⟩
    have heq : s.linkLost p = s.linkDown p 5 := by obtain h | h := hst <;> rw [State.linkLost, h]
    rw [heq]
    exact ⟨State.linkDown_mem _ _ _, State.linkDown_down _ _ _⟩
  · refine ⟨_, exec_linkDown p s, ?_⟩
    rw [State.linkLost, hst]
    dsimp only
    rw [if_pos hhub]
    exact ⟨State.trainFails_mem _ _ _, State.trainFails_down _ _ _⟩
  · rw [exec_retrain, State.hosted]
    split
    · rw [State.hostRetrain_off hoff]
    · rfl
  · exact ⟨_, by rw [exec_retrain, State.hosted_of_linked hlink], State.hostRetrain_effect hon⟩
  · exact ⟨_, by rw [exec_portEnableWrite, State.hosted_of_linked hlink], State.portEnable_off hon⟩
  · exact ⟨_, by rw [exec_portEnableWrite, State.hosted_of_linked hlink], State.portEnable_on hoff⟩
  · rw [exec_portEnableWrite, State.hosted_of_linked hlink, State.portEnable_same hb]
  · obtain ⟨hstore, -⟩ := s.creditSplit_eq p hi v
    rw [exec_creditSplitWrite, State.hosted_of_linked hlink, hstore hoff hfit]
  · obtain ⟨-, hreject⟩ := s.creditSplit_eq p hi v
    rw [exec_creditSplitWrite, State.hosted_of_linked hlink, hreject h]

end Sys2Proof.Machine
end

section
/-!
PROOF. The planner (R237, R239, R245): which step a planning point picks, the cap and the model that the host writes, and the holds of
segment starts that end.
-/
namespace Sys2Proof.Machine

theorem exec_planningPoint (s : State) : exec .planningPoint s = .next s.planEnd := by rfl
theorem exec_stepCapWrite (v : Word) (s : State) : exec (.stepCapWrite v) s = .next (s.hosted fun s => s.capWrite v) := by rfl
theorem exec_nrgModelWrite (v : Word) (s : State) : exec (.nrgModelWrite v) s = .next (s.hosted fun s => s.modelWrite v) := by rfl
theorem exec_segmentHoldRelease (c : CtxId) (s : State) : exec (.segmentHoldRelease c) s = .next (s.holdRelease c) := by rfl

/-! ### The first acceptable step (R237) -/

/-- The energy model, the budget and the reservoir are all that the planner asks of a step. -/
theorem State.stepOk_congr {s t : State} (hm : t.reg .nrgModel [] = s.reg .nrgModel []) (hc : t.reg .nrgCfg [] = s.reg .nrgCfg [])
    (hl : t.dev.clk.level = s.dev.clk.level) (xs : List SegRun) (k : Nat) : t.stepOk xs k = s.stepOk xs k := by
  have hf : t.fixedW = s.fixedW := by rw [State.fixedW, State.field, hm, State.fixedW, State.field]
  have hu : t.untaggedW = s.untaggedW := by rw [State.untaggedW, State.field, hm, State.untaggedW, State.field]
  have hp : t.sustW = s.sustW := by rw [State.sustW, State.field, hc, State.sustW, State.field]
  have hb : t.burstW = s.burstW := by rw [State.burstW, State.field, hc, State.burstW, State.field]
  simp only [State.stepOk, hf, hu, hp, hb, hl]

/-- `k` is the first step from `lo` on that the planner takes, and 24 when it takes none. -/
def State.firstStep (s : State) (xs : List SegRun) (lo k : Nat) : Prop :=
  k ≤ 24 ∧ (lo ≤ k ∨ k = 24) ∧ (k < 24 → s.stepOk xs k = true) ∧ ∀ j, lo ≤ j → j < k → s.stepOk xs j = false

theorem State.planFrom_first (s : State) (xs : List SegRun) : ∀ n lo, 24 ≤ n + lo → s.firstStep xs lo (s.planFrom xs n lo)
  | 0, lo, h => ⟨Nat.le_refl _, .inr rfl, fun h => absurd h (Nat.lt_irrefl 24), fun j hlo hj => absurd hj (by rw [State.planFrom]; omega)⟩
  | n + 1, lo, h => by
    rw [State.planFrom]
    split
    · exact ⟨Nat.le_refl _, .inr rfl, fun h => absurd h (by decide), fun j hlo hj => by omega⟩
    · rename_i hlt
      split
      · rename_i hok
        exact ⟨by omega, .inl (Nat.le_refl _), fun _ => hok, fun j hlo hj => by omega⟩
      · rename_i hbad
        obtain ⟨hle, hfrom, htaken, hbefore⟩ := s.planFrom_first xs n (lo + 1) (by omega)
        refine ⟨hle, hfrom.imp_left (by omega), htaken, fun j hlo hj => ?_⟩
        by_cases heq : j = lo
        · rw [heq]
          exact Bool.not_eq_true _ ▸ hbad
        · exact hbefore j (by omega) hj

theorem State.planStep_first (s : State) (xs : List SegRun) : s.firstStep xs (max s.stepCap s.stepFloor) (s.planStep xs) :=
  s.planFrom_first xs 25 _ (by omega)

/-! ### Steps that begin (R229) -/

section
variable (s : State) (k : Nat)

theorem State.setStep_stepNow : (s.setStep k).stepNow = k := by
  unfold State.setStep
  split
  · rename_i h
    exact h.symm
  · rfl

theorem State.setStep_elec : (s.setStep k).dev.clk.elec = s.dev.clk.elec := by
  unfold State.setStep
  split <;> rfl

theorem State.setStep_segs : (s.setStep k).dev.clk.segs = s.dev.clk.segs := by
  unfold State.setStep
  split <;> rfl

/-- The step now is a matter of CLK_STATUS and of the clock. -/
theorem State.stepNow_congr {s t : State} (hr : t.reg .clkStatus [] = s.reg .clkStatus []) (hc : t.dev.clk.target = s.dev.clk.target) :
    t.stepNow = s.stepNow := by
  rw [State.stepNow, State.curStep, State.field, hr, hc, State.stepNow, State.curStep, State.field]

end

/-! ### A planning point -/

/-- The state once a planning point has been counted and the ended segments have left. -/
def State.planCounted (s : State) : State := s.segsEnd.bump .nrgCntPlans [] 1 none 9 0

section
variable (s : State)

theorem State.planCounted_clk : s.planCounted.dev.clk = s.segsEnd.dev.clk := State.bump_clk _ _ _ _ _ _ _

theorem State.planCounted_reg {n : RegName} (i : List Nat) (h : n ≠ .hubAlert) (h' : n ≠ .nrgCntPlans) : s.planCounted.reg n i = s.reg n i :=
  State.reg_bump _ _ _ _ _ _ _ _ h fun e => h' (congrArg Prod.fst e)

theorem State.planCounted_tick : s.planCounted.dev.tick = s.dev.tick := State.bump_tick _ _ _ _ _ _ _

theorem State.planCounted_holdOver : s.planCounted.holdOver = s.holdOver := by
  rw [State.holdOver, s.planCounted_clk, s.planCounted_tick]
  rfl

theorem State.planCounted_stepFloor : s.planCounted.stepFloor = s.stepFloor := by
  rw [State.stepFloor, s.planCounted_holdOver, s.planCounted_clk]
  rfl

theorem State.planCounted_stepNow : s.planCounted.stepNow = s.stepNow :=
  State.stepNow_congr (s.planCounted_reg [] (by decide) (by decide)) ((congrArg ClkS.target s.planCounted_clk).trans rfl)

/-- The step that a planning point picks. -/
def State.picked (s : State) : Nat := s.planCounted.planStep s.planCounted.dev.clk.segs

theorem State.picked_first : s.segsEnd.firstStep s.segsEnd.dev.clk.segs (max s.stepCap s.stepFloor) s.picked := by
  obtain ⟨hle, hfrom, htaken, hbefore⟩ := s.planCounted.planStep_first s.planCounted.dev.clk.segs
  have hcap : s.planCounted.stepCap = s.stepCap := by
    rw [State.stepCap, State.field, s.planCounted_reg [] (by decide) (by decide), State.stepCap, State.field]
  have hok (k : Nat) : s.planCounted.stepOk s.planCounted.dev.clk.segs k = s.segsEnd.stepOk s.segsEnd.dev.clk.segs k := by
    rw [s.planCounted_clk]
    exact State.stepOk_congr (s.planCounted_reg [] (by decide) (by decide)) (s.planCounted_reg [] (by decide) (by decide))
      ((congrArg ClkS.level s.planCounted_clk).trans rfl) _ _
  simp only [hok, hcap, s.planCounted_stepFloor] at hfrom htaken hbefore
  exact ⟨hle, hfrom, htaken, hbefore⟩

theorem State.planPoint_holding (h : s.holdOver = false) : s.planPoint = s.planCounted.setField .clkStep [] 12 8 s.stepNow := by
  have heq : s.planPoint = if s.planCounted.holdOver then
      ((s.planCounted.modClk fun c => { c with elec := none }).setField .clkStep [] 12 8 s.picked).setStep s.picked
      else s.planCounted.setField .clkStep [] 12 8 s.planCounted.stepNow := rfl
  rw [heq, s.planCounted_holdOver, h, s.planCounted_stepNow]
  rfl

theorem State.planPoint_picks (h : s.holdOver = true) : s.planPoint =
    ((s.planCounted.modClk fun c => { c with elec := none }).setField .clkStep [] 12 8 s.picked).setStep s.picked := by
  have heq : s.planPoint = if s.planCounted.holdOver then
      ((s.planCounted.modClk fun c => { c with elec := none }).setField .clkStep [] 12 8 s.picked).setStep s.picked
      else s.planCounted.setField .clkStep [] 12 8 s.planCounted.stepNow := rfl
  rw [heq, s.planCounted_holdOver, if_pos h]

theorem State.planPoint_segs : s.planPoint.dev.clk.segs = s.segsEnd.dev.clk.segs := by
  have hsegs : s.planCounted.dev.clk.segs = s.segsEnd.dev.clk.segs := congrArg ClkS.segs s.planCounted_clk
  cases h : s.holdOver with
  | false => rw [s.planPoint_holding h, ← hsegs]; rfl
  | true => rw [s.planPoint_picks h, State.setStep_segs, ← hsegs]; rfl

/-- `u` runs at, or is changing to, the first step from `lo` on that the planner of `v` takes for its segments in progress. -/
def State.planned (v : State) (lo : Nat) (u : State) : Prop :=
  u.stepNow = u.field .clkStep [] 12 8 ∧ u.dev.clk.elec = none ∧ v.firstStep v.dev.clk.segs lo (u.field .clkStep [] 12 8)

theorem State.planPoint_planned (h : s.holdOver = true) : s.segsEnd.planned (max s.stepCap s.stepFloor) s.planPoint := by
  have hfirst := s.picked_first
  have hpick : s.planPoint.field .clkStep [] 12 8 = s.picked := by
    rw [s.planPoint_picks h, State.field, State.setStep_reg _ _ _ (by decide)]
    exact (State.field_setField_self _ _ (by decide) (by decide)).trans (Nat.mod_eq_of_lt (Nat.lt_of_le_of_lt hfirst.1 (by decide)))
  refine ⟨?_, ?_, by rw [hpick]; exact hfirst⟩
  · rw [hpick, s.planPoint_picks h, State.setStep_stepNow]
  · rw [s.planPoint_picks h, State.setStep_elec]
    rfl

theorem State.planPoint_stays (h : s.holdOver = false) : s.planPoint.stepNow = s.stepNow ∧ s.planPoint.dev.clk.elec = s.dev.clk.elec ∧
    s.planPoint.field .clkStep [] 12 8 = s.stepNow % 32 := by
  rw [s.planPoint_holding h]
  refine ⟨?_, (congrArg ClkS.elec s.planCounted_clk).trans rfl, State.field_setField_self _ _ (by decide) (by decide)⟩
  exact (State.stepNow_congr (State.reg_setField_ne _ _ (by simp)) rfl).trans s.planCounted_stepNow

/-- The cap is not the planner's to write. -/
theorem State.planPoint_cap : s.planPoint.field .clkStep [] 4 0 = s.field .clkStep [] 4 0 := by
  have hcap (t : State) (k : Nat) : (t.setField .clkStep [] 12 8 k).field .clkStep [] 4 0 = t.field .clkStep [] 4 0 :=
    State.field_setField_below _ _ (by decide) (by decide) (by decide) (by decide)
  have hcount : s.planCounted.field .clkStep [] 4 0 = s.field .clkStep [] 4 0 := by
    rw [State.field, s.planCounted_reg [] (by decide) (by decide), State.field]
  cases h : s.holdOver with
  | false => rw [s.planPoint_holding h, hcap, hcount]
  | true =>
    rw [s.planPoint_picks h, State.field, State.setStep_reg _ _ _ (by decide)]
    exact (hcap _ _).trans hcount

end

/-! ### The rows -/

section
variable {s : State}

theorem State.planEnd_idle (h : ∀ g ∈ s.dev.clk.segs, g.tag = none ∨ g.left ≠ 0) : s.planEnd = s := by
  refine if_neg ?_
  rw [State.planDue, List.any_eq_true]
  rintro ⟨g, hg, hdue⟩
  obtain hn | hl := h g hg
  · simp [hn] at hdue
  · simp [hl] at hdue

theorem State.planEnd_due {g : SegRun} (hg : g ∈ s.dev.clk.segs) (ht : g.tag.isSome) (hl : g.left = 0) : s.planEnd = s.planPoint :=
  if_pos (List.any_eq_true.2 ⟨g, hg, by simp [ht, hl]⟩)

/-- The state with the cap stored. -/
def State.capped (s : State) (v : BitVec 64) : State := s.setField .clkStep [] 4 0 (wbits v 4 0)

theorem State.capWrite_eq (s : State) (v : BitVec 64) : s.capWrite v = (s.capped v).planPoint := rfl

theorem State.capped_cap (s : State) (v : BitVec 64) : (s.capped v).field .clkStep [] 4 0 = bits v.toNat 4 0 :=
  (State.field_setField_self _ _ (by decide) (by decide)).trans (Nat.mod_eq_of_lt (Nat.mod_lt _ (by decide)))

/-- What the planner asks of a step does not depend on the cap. -/
theorem State.capped_planned {v : BitVec 64} {lo : Nat} {u : State} (h : (s.capped v).segsEnd.planned lo u) : s.segsEnd.planned lo u := by
  obtain ⟨hstep, helec, hle, hfrom, htaken, hbefore⟩ := h
  have hok (k : Nat) : (s.capped v).segsEnd.stepOk (s.capped v).segsEnd.dev.clk.segs k = s.segsEnd.stepOk s.segsEnd.dev.clk.segs k :=
    State.stepOk_congr (State.reg_setField_ne _ _ (by simp)) (State.reg_setField_ne _ _ (by simp)) rfl _ _
  simp only [hok] at htaken hbefore
  exact ⟨hstep, helec, hle, hfrom, htaken, hbefore⟩

theorem State.modelWrite_live (v : Word) {c : CoreId} (h : (s.core c).st = .running ∨ (s.core c).st = .frozen) :
    s.modelWrite v = s.setField .nrgStatus [] 33 33 1 := by
  refine if_pos (List.any_eq_true.2 ⟨(c : Nat), List.mem_range.2 c.isLt, ?_⟩)
  obtain h | h := h <;> simp [Core.live, h]

/-- The state with the model stored. -/
def State.modelled (s : State) (v : BitVec 64) : State :=
  (s.setField .nrgModel [] 27 16 (wbits v 27 16)).setField .nrgModel [] 11 0 (wbits v 11 0)

theorem State.modelWrite_quiet (v : Word) (h : ∀ c : CoreId, (s.core c).st ≠ .running ∧ (s.core c).st ≠ .frozen) :
    s.modelWrite v = (s.modelled v).planPoint := by
  refine if_neg ?_
  rw [List.any_eq_true]
  rintro ⟨c, hc, hlive⟩
  obtain ⟨hr, hf⟩ := h ⟨c, List.mem_range.1 hc⟩
  simp [Core.live, hr, hf] at hlive

theorem State.modelled_fields (s : State) (v : BitVec 64) : (s.modelled v).field .nrgModel [] 27 16 = bits v.toNat 27 16 ∧
    (s.modelled v).field .nrgModel [] 11 0 = bits v.toNat 11 0 := by
  constructor
  · rw [State.modelled, State.field_setField_above _ _ (by decide) (by decide) (by decide), State.field_setField_self _ _ (by decide) (by decide)]
    exact Nat.mod_eq_of_lt (Nat.mod_lt _ (by decide))
  · exact (State.field_setField_self _ _ (by decide) (by decide)).trans (Nat.mod_eq_of_lt (Nat.mod_lt _ (by decide)))

end

/-! ### Holds (R239) -/

section
variable {s : State} {c : Nat}

/-- The segment `id` of context `c` as the planner sees it. -/
def State.heldSeg (s : State) (c id : Nat) : SegRun :=
  s.segRun c { addr := 0, segId := id, first := 0, ninstr := 0, ndesc := 0, bank := 0, last := false }

/-- The share covers the segment, or the context's other segments have ended. -/
def State.freeToStart (s : State) (c id : Nat) : Prop :=
  s.shareCovers c (s.heldSeg c id) (s.field .clkStep [] 12 8) = true ∨
    ((∀ g ∈ s.dev.clk.segs, g.ctx = c → g.tag.isSome ∧ g.left = 0) ∧ ∀ h ∈ s.dev.clk.held, h.1 = c → h.2.2 = false)

theorem State.mayRelease_iff (s : State) (c id : Nat) : s.mayRelease c id = true ↔ s.freeToStart c id := by
  have hsegs : (s.segsEnd.dev.clk.segs.any fun x => x.ctx == c) = false ↔ ∀ g ∈ s.dev.clk.segs, g.ctx = c → g.tag.isSome ∧ g.left = 0 := by
    have heq : s.segsEnd.dev.clk.segs = s.dev.clk.segs.filter fun x => x.tag.isNone || x.left != 0 := rfl
    rw [heq, List.any_eq_false]
    refine ⟨fun h g hg hc => ?_, fun h g hg hc => ?_⟩
    · have hleft := mt (fun hk => h g (List.mem_filter.2 ⟨hg, hk⟩)) (not_not.2 (by simpa using hc))
      simpa [Option.ne_none_iff_isSome] using hleft
    · obtain ⟨hmem, hkept⟩ := List.mem_filter.1 hg
      obtain ⟨hs, hl⟩ := h g hmem (by simpa using hc)
      simp [hl, Option.isNone_iff_eq_none, Option.isSome_iff_ne_none.1 hs] at hkept
  have hheld : (s.dev.clk.held.any fun h => h.1 == c && h.2.2) = false ↔ ∀ h ∈ s.dev.clk.held, h.1 = c → h.2.2 = false := by
    simp [List.any_eq_false]
  rw [State.mayRelease, Bool.or_eq_true, Bool.not_eq_true', Bool.or_eq_false_iff, hsegs, hheld]
  rfl

/-- The test of a hold that may end. -/
theorem State.holdTest_iff (h : Nat × Nat × Bool) : (h.1 == c && !h.2.2 && s.mayRelease c h.2.1) = true ↔
    h.1 = c ∧ h.2.2 = false ∧ s.freeToStart c h.2.1 := by
  rw [Bool.and_eq_true, s.mayRelease_iff, Bool.and_eq_true, beq_iff_eq, Bool.not_eq_true', and_assoc]

theorem State.holdRelease_none (h : ∀ h ∈ s.dev.clk.held, h.1 = c → h.2.2 = false → ¬ s.freeToStart c h.2.1) : s.holdRelease c = s := by
  have hnone : (s.dev.clk.held.find? fun h => h.1 == c && !h.2.2 && s.mayRelease c h.2.1) = none := by
    refine List.find?_eq_none.2 fun x hx ht => ?_
    obtain ⟨hc, hf, hfree⟩ := State.holdTest_iff x |>.1 ht
    exact h x hx hc hf hfree
  rw [State.holdRelease, hnone]

theorem State.holdRelease_first {pre post : List (Nat × Nat × Bool)} {id : Nat} (hh : s.dev.clk.held = pre ++ (c, id, false) :: post)
    (hpre : ∀ h ∈ pre, h.1 = c → h.2.2 = false → ¬ s.freeToStart c h.2.1) (hfree : s.freeToStart c id) :
    s.holdRelease c = s.modClk fun k => { k with held := k.held.map fun y => if y = (c, id, false) then (c, id, true) else y } := by
  have hfind : (s.dev.clk.held.find? fun h => h.1 == c && !h.2.2 && s.mayRelease c h.2.1) = some (c, id, false) := by
    rw [hh]
    refine List.find?_eq_some_iff_append.2 ⟨(State.holdTest_iff (c, id, false)).2 ⟨rfl, rfl, hfree⟩, pre, post, rfl, fun x hx => ?_⟩
    rw [Bool.not_eq_true', ← Bool.not_eq_true, State.holdTest_iff]
    rintro ⟨hc, hf, hx'⟩
    exact hpre x hx hc hf hx'
  rw [State.holdRelease, hfind]

end

/-- Settles O45: `planPoint_planned` and `planPoint_stays` for the two rows that plan, the model's two cases, and the first hold that may end. -/
theorem plannerPicksTheFirstAcceptableStep : Obligations.PlannerPicksTheFirstAcceptableStep := by
  unfold Obligations.PlannerPicksTheFirstAcceptableStep
  intro s
  refine ⟨fun h => ?_, fun g hg ht hl => ?_, fun v hlink => ?_, fun v hlink ⟨c, hc⟩ => ?_, fun v hlink hquiet => ?_,
    fun c => ⟨fun h => ?_, fun pre id post hh hpre hfree => ?_⟩⟩
  · rw [exec_planningPoint, State.planEnd_idle h]
  · refine ⟨_, by rw [exec_planningPoint, State.planEnd_due hg ht hl], s.planPoint_mem, s.planPoint_segs, fun hover => ?_, s.planPoint_stays⟩
    obtain ⟨hstep, helec, hle, hfrom, htaken, hbefore⟩ := s.planPoint_planned hover
    exact ⟨hstep, hle, hfrom, htaken, helec, hbefore⟩
  · refine ⟨_, by rw [exec_stepCapWrite, State.hosted_of_linked hlink, State.capWrite_eq], (s.capped v).planPoint_mem,
      (s.capped v).planPoint_cap.trans (s.capped_cap v), fun hover => ?_, fun hover => ?_⟩
    · have hplanned := State.capped_planned ((s.capped v).planPoint_planned hover)
      rw [State.stepCap, s.capped_cap] at hplanned
      obtain ⟨hstep, helec, hle, hfrom, htaken, hbefore⟩ := hplanned
      exact ⟨hstep, hle, hfrom, htaken, helec, hbefore⟩
    · obtain ⟨hstep, -⟩ := (s.capped v).planPoint_stays hover
      exact hstep.trans (State.stepNow_congr (State.reg_setField_ne _ _ (by simp)) rfl)
  · rw [exec_nrgModelWrite, State.hosted_of_linked hlink, State.modelWrite_live v hc]
  · obtain ⟨hhi, hlo⟩ := s.modelled_fields v
    refine ⟨_, by rw [exec_nrgModelWrite, State.hosted_of_linked hlink, State.modelWrite_quiet v hquiet], (s.modelled v).planPoint_mem, ?_, ?_⟩
    · rw [State.planPoint_field _ _ _ _ (by decide), hhi]
    · rw [State.planPoint_field _ _ _ _ (by decide), hlo]
  · rw [exec_segmentHoldRelease, State.holdRelease_none h]
  · rw [exec_segmentHoldRelease, State.holdRelease_first hh hpre hfree]

end Sys2Proof.Machine
end

section
/-!
PROOF. Meters and limits (R234 to R236, R240 to R244): the reservoir and the rails' counts, the wear ledger, the current and thermal limits and
the thermal trip.
-/
namespace Sys2Proof.Machine

theorem State.powered_on {s : State} (h : s.nv.power.rails = true) (f : State → State) : s.powered f = f s := if_pos h

theorem exec_meterInterval (rails regs : List Nat) (v : Nat) (s : State) :
    exec (.meterInterval rails regs v) s = .next (s.powered fun s => s.meter rails regs v) := by rfl
theorem exec_wearLedgerSave (s : State) : exec .wearLedgerSave s = .next (s.powered fun s => s.wearSave) := by rfl
theorem exec_overburstCheck (mw : Nat) (s : State) : exec (.overburstCheck mw) s = .next (s.powered fun s => s.overburst mw) := by rfl
theorem exec_currentLimit (s : State) : exec .currentLimit s = .next (s.powered fun s => s.currentLimit) := by rfl
theorem exec_currentLimitRelease (s : State) : exec .currentLimitRelease s = .next (s.powered fun s => s.currentRelease) := by rfl
theorem exec_thermalSample (temps : List Nat) (s : State) : exec (.thermalSample temps) s = .next (s.powered fun s => s.thermal temps) := by rfl
theorem exec_thermtrip (r : RegionId) (t : Nat) (s : State) : exec (.thermtrip r t) s = .next (s.thermTrip r t) := by rfl

/-! ### METER_INTERVAL (R234 to R236, R244) -/

/-- A map whose counts of a list of keys have gone up. -/
theorem get_foldl_count (g : Nat → Nat) {l : List Nat} (hn : l.Nodup) (m : AMap Nat Nat) (i : Nat) :
    AMap.get (l.foldl (fun m i => AMap.set m i (AMap.get m 0 i + g i)) m) 0 i = AMap.get m 0 i + if i ∈ l then g i else 0 := by
  induction l generalizing m with
  | nil => rfl
  | cons x l ih =>
    obtain ⟨hx, hl⟩ := List.nodup_cons.1 hn
    rw [List.foldl_cons, ih hl]
    by_cases hi : i = x
    · subst hi
      rw [AMap.get_set_self, if_neg hx, if_pos List.mem_cons_self, Nat.add_zero]
    · rw [AMap.get_set_ne _ _ _ hi]
      simp [hi]

section
variable (s : State)

/-- The reservoir in force at the end of an interval. -/
def State.newLevel (s : State) (vin : Nat) : Int :=
  clampInt (-(s.resJ * 1000000 : Int)) (s.resJ * 1000000) (s.dev.clk.level + (s.sustW * 100 : Nat) - vin)

/-- What the reservoir's step changes of the clock is its level and the mark that it is spent. -/
theorem State.reservoir_effect (vin : Nat) : (s.reservoir vin).mem = s.mem ∧ (∀ c, (s.reservoir vin).core c = s.core c) ∧
    ∃ b, (s.reservoir vin).dev.clk = { s.dev.clk with level := s.newLevel vin, spent := b } := by
  unfold State.reservoir
  dsimp only
  split
  · rw [State.raise_mem, State.raise_clk]
    exact ⟨rfl, fun c => State.raise_core _ _ _ c, true, rfl⟩
  · exact ⟨rfl, fun _ => rfl, _, rfl⟩

/-- Wear is added, up to the limit. -/
theorem State.addWear_effect (n : Nat) : (s.addWear n).mem = s.mem ∧ (∀ c, (s.addWear n).core c = s.core c) ∧
    ∃ w, s.dev.clk.wear ≤ w ∧ (s.addWear n).dev.clk = { s.dev.clk with wear := w } := by
  unfold State.addWear
  dsimp only
  split
  · exact ⟨rfl, fun _ => rfl, s.dev.clk.wear, Nat.le_refl _, rfl⟩
  · rename_i hw
    have hgrow : s.dev.clk.wear ≤ min wearLimit (s.dev.clk.wear + n) := by omega
    split
    · rw [State.raise_mem, State.raise_clk]
      exact ⟨rfl, fun c => State.raise_core _ _ _ c, _, hgrow, rfl⟩
    · exact ⟨rfl, fun _ => rfl, _, hgrow, rfl⟩

/-- The rails count their energy. -/
def State.railsCounted (s : State) (rails : List Nat) : State :=
  s.modClk fun c => { c with rails := (List.range 12).foldl (fun m i => AMap.set m i (AMap.get m 0 i + rails.getD i 0)) c.rails }

/-- What each context is charged: nothing while no core of a context runs. -/
def State.charges (s : State) (vin : Nat) (regs : List Nat) : List (Nat × Nat) :=
  let ctxs := (List.range 8).filter fun c => (s.ctx c).valid
  if ctxs.any fun c => (s.slotCores c).any fun k => (s.core k).live then ctxs.map fun c => (c, s.charge vin regs c) else []

/-- The contexts, and the idle module, are charged. -/
def State.charged (s : State) (vin : Nat) (parts : List (Nat × Nat)) : State :=
  s.modClk fun k => { k with
    ctxE := parts.foldl (fun m p => AMap.set m p.1 (AMap.get m 0 p.1 + p.2)) k.ctxE
    idleE := k.idleE + (vin * 1000 - sumNat (parts.map (·.2))) }

/-- The share reservoirs step. -/
def State.sharesStepped (s : State) (parts : List (Nat × Nat)) : State :=
  s.modClk fun k => { k with shares := k.shares.map fun p =>
    let cap := s.shareCap (s.shareW p.1)
    let used := match parts.find? fun q => q.1 == p.1 with | some q => q.2 | none => 0
    (p.1, clampInt (-cap) cap (p.2 + (s.shareW p.1 * 100000 : Nat) - used)) }

/-- The state with the rails counted and the contexts charged. -/
def State.metered (s : State) (rails regs : List Nat) : State :=
  (s.railsCounted rails).charged (rails.getD 0 0) ((s.railsCounted rails).charges (rails.getD 0 0) regs)

/-- METER_INTERVAL: the counts, the reservoir, the shares, the wear. -/
theorem State.meter_eq (rails regs : List Nat) (v : Nat) : ∃ n, s.meter rails regs v =
    (((s.metered rails regs).reservoir (rails.getD 0 0)).sharesStepped ((s.railsCounted rails).charges (rails.getD 0 0) regs)).addWear n := by
  unfold State.meter State.sharesStepped State.metered State.charged State.charges State.railsCounted
  exact ⟨_, rfl⟩

theorem State.metered_rails (rails regs : List Nat) {i : Nat} (h : i < 12) :
    AMap.get (s.metered rails regs).dev.clk.rails 0 i = AMap.get s.dev.clk.rails 0 i + rails.getD i 0 := by
  have hrails : (s.metered rails regs).dev.clk.rails =
      (List.range 12).foldl (fun m i => AMap.set m i (AMap.get m 0 i + rails.getD i 0)) s.dev.clk.rails := rfl
  rw [hrails, get_foldl_count _ List.nodup_range, if_pos (List.mem_range.2 h)]

theorem State.metered_keeps {β : Type} (P : State → β) (h : ∀ (t : State) f, P (t.modClk f) = P t) (rails regs : List Nat) :
    P (s.metered rails regs) = P s := by
  rw [State.metered, State.charged, h, State.railsCounted, h]

theorem State.metered_clk {β : Type} (P : ClkS → β) (h : ∀ k r c i, P { k with rails := r, ctxE := c, idleE := i } = P k) (rails regs : List Nat) :
    P (s.metered rails regs).dev.clk = P s.dev.clk := h s.dev.clk _ _ _

/-- The reservoir's step is a matter of the budget and of its level. -/
theorem State.newLevel_congr {s t : State} (hr : t.reg .nrgCfg [] = s.reg .nrgCfg []) (hl : t.dev.clk.level = s.dev.clk.level) (vin : Nat) :
    t.newLevel vin = s.newLevel vin := by
  have hres : t.resJ = s.resJ := by rw [State.resJ, State.field, hr, State.resJ, State.field]
  have hsust : t.sustW = s.sustW := by rw [State.sustW, State.field, hr, State.sustW, State.field]
  rw [State.newLevel, hres, hsust, hl, State.newLevel]

theorem State.newLevel_eq (vin : Nat) : s.newLevel vin = (let cap : Int := s.field .nrgCfg [] 35 24 * 1000000
    max (-cap) (min cap (s.dev.clk.level + (s.field .nrgCfg [] 23 12 * 100 : Nat) - (vin : Nat)))) := by
  rw [State.newLevel, clampInt, State.resJ, State.sustW]

theorem State.meter_effect (rails regs : List Nat) (v : Nat) :
    let u := s.meter rails regs v
    u.mem = s.mem ∧ u.dev.clk.level = s.newLevel (rails.getD 0 0) ∧
      (∀ i, i < 12 → AMap.get u.dev.clk.rails 0 i = AMap.get s.dev.clk.rails 0 i + rails.getD i 0) ∧
      s.dev.clk.wear ≤ u.dev.clk.wear ∧ ∀ c : CoreId, u.core c = s.core c := by
  obtain ⟨n, hn⟩ := s.meter_eq rails regs v
  have hrails (i : Nat) (h : i < 12) := s.metered_rails rails regs h
  have hmem : (s.metered rails regs).mem = s.mem := s.metered_keeps State.mem (fun _ _ => rfl) rails regs
  have hcore (c : Nat) : (s.metered rails regs).core c = s.core c := s.metered_keeps (·.core c) (fun _ _ => rfl) rails regs
  have hwear := s.metered_clk ClkS.wear (fun _ _ _ _ => rfl) rails regs
  have hlevel := State.newLevel_congr (s.metered_keeps (·.reg .nrgCfg []) (fun _ _ => rfl) rails regs)
    (s.metered_clk ClkS.level (fun _ _ _ _ => rfl) rails regs) (rails.getD 0 0)
  dsimp only
  rw [hn]
  generalize (s.railsCounted rails).charges (rails.getD 0 0) regs = parts
  generalize s.metered rails regs = t at hrails hmem hwear hcore hlevel ⊢
  obtain ⟨hmem1, hcore1, b, hclk1⟩ := t.reservoir_effect (rails.getD 0 0)
  obtain ⟨hmem2, hcore2, w, hw, hclk2⟩ := ((t.reservoir (rails.getD 0 0)).sharesStepped parts).addWear_effect n
  have hgrow : s.dev.clk.wear ≤ w := by
    rw [← hwear]
    have hw : (t.reservoir (rails.getD 0 0)).dev.clk.wear ≤ w := hw
    rwa [hclk1] at hw
  have hclk3 : ((t.reservoir (rails.getD 0 0)).sharesStepped parts).dev.clk =
      { (t.reservoir (rails.getD 0 0)).dev.clk with shares := ((t.reservoir (rails.getD 0 0)).sharesStepped parts).dev.clk.shares } := rfl
  refine ⟨hmem2.trans (hmem1.trans hmem), ?_, fun i h => ?_, ?_, fun c => (hcore2 c).trans ((hcore1 c).trans (hcore c))⟩
  · rw [hclk2, hclk3, hclk1]
    exact hlevel
  · rw [hclk2, hclk3, hclk1]
    exact hrails i h
  · rw [hclk2]
    exact hgrow

end

/-! ### The current limit (R241) -/

section
variable (s : State)

/-- An emergency leaves memory alone, counts one, and changes to its step. -/
theorem State.emergency_effect (cause k region : Nat) :
    let u := s.emergency cause k region
    u.mem = s.mem ∧ u.stepNow = k ∧ u.field .nrgCntEmerg [] 47 0 = min (2 ^ 48 - 1) (s.field .nrgCntEmerg [] 47 0 + 1) := by
  have hrec (w : BitVec 64) : (s.recordFault .nrgEmerg [] 63 w).mem = s.mem ∧
      (s.recordFault .nrgEmerg [] 63 w).field .nrgCntEmerg [] 47 0 = s.field .nrgCntEmerg [] 47 0 := by
    unfold State.recordFault
    split
    · exact ⟨rfl, rfl⟩
    · exact ⟨rfl, by rw [State.field, State.reg_setReg_ne _ _ (by simp), State.field]⟩
  unfold State.emergency
  dsimp only
  refine ⟨?_, State.setStep_stepNow _ _, ?_⟩
  · rw [State.setStep_mem, State.raise_mem, State.bump_mem]
    exact (hrec _).1
  · rw [State.field, State.setStep_reg _ _ _ (by decide), ← State.field, State.field_raise _ _ _ _ _ _ (by decide) (by decide),
      State.field_bump_self _ _ _ _ _ _ (by decide), (hrec _).2]

/-- What an emergency leaves of the clock is all but the target of its step. -/
theorem State.setStep_clk (k : Nat) : (s.setStep k).dev.clk = { s.dev.clk with target := (s.setStep k).dev.clk.target } := by
  unfold State.setStep
  split <;> rfl

theorem State.recordFault_clk (n : RegName) (i : List Nat) (valid : Nat) (w : BitVec 64) : (s.recordFault n i valid w).dev.clk = s.dev.clk := by
  unfold State.recordFault
  split <;> rfl

theorem State.emergency_clk (cause k region : Nat) :
    (s.emergency cause k region).dev.clk = { s.dev.clk with target := (s.emergency cause k region).dev.clk.target } := by
  unfold State.emergency
  dsimp only
  rw [State.setStep_clk, State.raise_clk, State.bump_clk, State.recordFault_clk]

theorem State.emergency_reg (cause k region : Nat) {n : RegName} (i : List Nat)
    (h : n ∉ [RegName.hubAlert, .taintCnt, .nrgEmerg, .nrgCntEmerg, .clkStatus]) : (s.emergency cause k region).reg n i = s.reg n i := by
  simp only [List.mem_cons, List.not_mem_nil, or_false, not_or] at h
  obtain ⟨halert, htaint, hemerg, hcnt, hstatus⟩ := h
  have hrec (w : BitVec 64) : (s.recordFault .nrgEmerg [] 63 w).reg n i = s.reg n i := by
    unfold State.recordFault
    split
    · rfl
    · exact State.reg_setReg_ne _ _ fun e => hemerg (congrArg Prod.fst e)
  unfold State.emergency
  dsimp only
  rw [State.setStep_reg _ _ _ hstatus, State.reg_raise _ _ _ _ halert htaint,
    State.reg_bump _ _ _ _ _ _ _ _ halert fun e => hcnt (congrArg Prod.fst e), hrec]

/-- The emergency's step is marked in the clock; what it changes does not touch the step. -/
theorem State.stepNow_modClk (f : ClkS → ClkS) (h : (f s.dev.clk).target = s.dev.clk.target) : (s.modClk f).stepNow = s.stepNow :=
  State.stepNow_congr rfl h

theorem State.currentLimit_effect :
    let u := s.currentLimit
    u.mem = s.mem ∧ u.stepNow = min 24 (s.stepNow + 8) ∧ u.dev.clk.elec = some (min 24 (s.stepNow + 8), none) ∧
      u.field .nrgCntEmerg [] 47 0 = min (2 ^ 48 - 1) (s.field .nrgCntEmerg [] 47 0 + 1) := by
  obtain ⟨hmem, hstep, hcnt⟩ := s.emergency_effect 1 (min 24 (s.stepNow + 8)) 0
  exact ⟨hmem, (State.stepNow_modClk _ _ rfl).trans hstep, rfl, hcnt⟩

variable {s}

theorem State.currentRelease_marks {k : Nat} (h : s.dev.clk.elec = some (k, none)) :
    s.currentRelease = s.modClk fun c => { c with elec := some (k, some s.dev.tick) } := by
  simp [State.currentRelease, State.modClk, h]

theorem State.currentRelease_idle (h : s.dev.clk.elec = none ∨ ∃ k t, s.dev.clk.elec = some (k, some t)) : s.currentRelease = s := by
  have hsame : (s.dev.clk.elec.map fun p => (p.1, some (p.2.getD s.dev.tick))) = s.dev.clk.elec := by
    obtain h | ⟨k, t, h⟩ := h <;> simp [h]
  rw [State.currentRelease, State.modClk]
  dsimp only
  rw [hsame]

theorem State.overburst_idle {mw : Nat} (h : ¬ (s.field .nrgCfg [] 47 36 * 1000 < mw ∧ mw ≤ 4000000)) : s.overburst mw = s := if_neg h
theorem State.overburst_counts {mw : Nat} (h : s.field .nrgCfg [] 47 36 * 1000 < mw ∧ mw ≤ 4000000) :
    s.overburst mw = s.bump .nrgCntOverburst [] 1 none 9 0 := if_pos h

end

/-! ### The thermal limit (R242) -/

/-- The reading of region `r` among 19. -/
def readings (temps : List Nat) : List Nat := (temps ++ List.replicate 19 0).take 19

theorem readings_length (temps : List Nat) : (readings temps).length = 19 := by simp [readings]

theorem readings_getD (temps : List Nat) {r : Nat} (h : r < 19) : (readings temps).getD r 0 = temps.getD r 0 := by
  simp only [readings, List.getD_eq_getElem?_getD, List.getElem?_take, if_pos h, List.getElem?_append]
  split
  · rfl
  · rename_i hr
    rw [List.getElem?_eq_none (Nat.not_lt.1 hr), List.getElem?_replicate]
    split <;> rfl

theorem mem_readings {temps : List Nat} {x : Nat} : x ∈ readings temps ↔ ∃ r < 19, temps.getD r 0 = x := by
  rw [List.mem_iff_getElem]
  constructor
  · rintro ⟨r, hr, rfl⟩
    have hr' : r < 19 := readings_length temps ▸ hr
    exact ⟨r, hr', by rw [← readings_getD temps hr', List.getD_eq_getElem _ _ hr]⟩
  · rintro ⟨r, hr, rfl⟩
    have hr' : r < (readings temps).length := by rw [readings_length]; exact hr
    exact ⟨r, hr', by rw [← readings_getD temps hr, List.getD_eq_getElem _ _ hr']⟩

section
variable (s : State)

/-- The readings are stored, region by region. -/
def State.sensed (s : State) (t : List Nat) : State := (regions.zip t).foldl (fun s p => s.setField .clkRegion [p.1] 25 16 (min 1023 p.2)) s

theorem State.sensed_keeps {β : Type} (P : State → β) (h : ∀ (t : State) r v, P (t.setField .clkRegion [r] 25 16 v) = P t) (t : List Nat) :
    P (s.sensed t) = P s := foldl_keeps P (fun u _ => h u _ _) _ _

/-- What is stored last of a region stays. -/
theorem State.field_foldl_sensed (r v : Nat) : ∀ (l : List (Nat × Nat)) (s : State), (∀ p ∈ l, p.1 = r → p.2 = v) →
    ((r, v) ∈ l ∨ s.field .clkRegion [r] 25 16 = min 1023 v) →
    (l.foldl (fun s p => s.setField .clkRegion [p.1] 25 16 (min 1023 p.2)) s).field .clkRegion [r] 25 16 = min 1023 v
  | [], _, _, h => h.resolve_left List.not_mem_nil
  | p :: l, s, hl, h => by
    obtain ⟨hp, hrest⟩ := List.forall_mem_cons.1 hl
    rw [List.foldl_cons]
    refine State.field_foldl_sensed r v l _ hrest ?_
    by_cases hr : p.1 = r
    · refine .inr ?_
      rw [hr, hp hr, State.field_setField_self _ _ (by decide) (by decide)]
      exact Nat.mod_eq_of_lt (by omega)
    · obtain hmem | hf := h
      · exact .inl ((List.mem_cons.1 hmem).resolve_left fun e => hr (by rw [← e]))
      · refine .inr ?_
        rw [State.field_setField_ne _ _ (by simp [Ne.symm hr]), hf]

theorem State.sensed_region (temps : List Nat) {r : Nat} (h : r < 19) :
    (s.sensed (readings temps)).field .clkRegion [r] 25 16 = min 1023 (temps.getD r 0) := by
  have hzip (p : Nat × Nat) : p ∈ regions.zip (readings temps) ↔ p.1 < 19 ∧ p.2 = temps.getD p.1 0 := by
    obtain ⟨i, x⟩ := p
    rw [List.mem_iff_getElem]
    simp only [List.length_zip, readings_length, regions, List.length_range, Nat.min_self, List.getElem_zip, List.getElem_range, Prod.mk.injEq]
    constructor
    · rintro ⟨j, hj, rfl, rfl⟩
      exact ⟨hj, by rw [← readings_getD temps hj, List.getD_eq_getElem _ _ (by rw [readings_length]; exact hj)]⟩
    · rintro ⟨hi, rfl⟩
      exact ⟨i, hi, rfl, by rw [← readings_getD temps hi, List.getD_eq_getElem _ _ (by rw [readings_length]; exact hi)]⟩
  unfold State.sensed
  refine State.field_foldl_sensed r (temps.getD r 0) _ s (fun p hp hr => ?_) (.inl ((hzip _).2 ⟨h, rfl⟩))
  obtain ⟨-, hv⟩ := (hzip p).1 hp
  rw [hv, hr]

/-- A sample is counted: the cool ones in a row, the tenth of a millisecond, and whether one was hot. -/
def ClkS.sampled (c : ClkS) (hot cool : Bool) : ClkS :=
  let n := if cool then c.cool + 1 else 0
  let last := c.sample % 10 == 9
  { c with cool := n, sample := (c.sample + 1) % 10, hot := (c.hot || hot) && !last, thermal := if 100 ≤ n then none else c.thermal }

/-- The state with the sample stored and counted. -/
def State.sampled (s : State) (temps : List Nat) : State :=
  (s.sensed (readings temps)).modClk (·.sampled ((readings temps).any fun x => decide (420 ≤ x)) ((readings temps).all fun x => decide (x < 400)))

theorem State.thermal_eq (temps : List Nat) : s.thermal temps =
    if (readings temps).any (fun x => decide (420 ≤ x)) && !(s.sensed (readings temps)).dev.clk.hot then
      (((s.sampled temps).emergency 2 (min 24 ((s.sampled temps).stepNow + 1)) (hotRegion (readings temps))).setField .hubAlert [] 4 4 1).modClk fun c =>
        { c with thermal := some (min 24 ((s.sampled temps).stepNow + 1)) }
    else s.sampled temps := by
  unfold State.thermal State.sampled State.sensed readings
  rfl

theorem State.sampled_mem (temps : List Nat) : (s.sampled temps).mem = s.mem := s.sensed_keeps State.mem (fun _ _ _ => rfl) _

theorem State.sampled_stepNow (temps : List Nat) : (s.sampled temps).stepNow = s.stepNow := by
  have hclk : (s.sensed (readings temps)).dev.clk = s.dev.clk := s.sensed_keeps (·.dev.clk) (fun _ _ _ => rfl) _
  refine State.stepNow_congr ?_ ((congrArg ClkS.target hclk).trans rfl)
  exact s.sensed_keeps (·.reg .clkStatus []) (fun t r v => State.reg_setField_ne _ _ (by simp)) _

theorem State.sampled_region (temps : List Nat) {r : Nat} (h : r < 19) :
    (s.sampled temps).field .clkRegion [r] 25 16 = min 1023 (temps.getD r 0) := s.sensed_region temps h

theorem State.sensed_hot (temps : List Nat) : (s.sensed (readings temps)).dev.clk.hot = s.dev.clk.hot :=
  s.sensed_keeps (·.dev.clk.hot) (fun _ _ _ => rfl) _

theorem any_hot_iff {temps : List Nat} : (readings temps).any (fun x => decide (420 ≤ x)) = true ↔ ∃ r, r < 19 ∧ 420 ≤ temps.getD r 0 := by
  simp only [List.any_eq_true, mem_readings, decide_eq_true_eq]
  exact ⟨fun ⟨x, ⟨r, hr, hx⟩, h⟩ => ⟨r, hr, hx ▸ h⟩, fun ⟨r, hr, h⟩ => ⟨_, ⟨r, hr, rfl⟩, h⟩⟩

/-- The first hot sample of a millisecond. -/
theorem State.thermal_hot {temps : List Nat} (h : ∃ r, r < 19 ∧ 420 ≤ temps.getD r 0) (hh : s.dev.clk.hot = false) : s.thermal temps =
    (((s.sampled temps).emergency 2 (min 24 (s.stepNow + 1)) (hotRegion (readings temps))).setField .hubAlert [] 4 4 1).modClk fun c =>
      { c with thermal := some (min 24 (s.stepNow + 1)) } := by
  rw [s.thermal_eq, s.sampled_stepNow, any_hot_iff.2 h, s.sensed_hot, hh]
  rfl

theorem State.thermal_mild {temps : List Nat} (h : ¬ ((∃ r, r < 19 ∧ 420 ≤ temps.getD r 0) ∧ s.dev.clk.hot = false)) :
    s.thermal temps = s.sampled temps := by
  rw [s.thermal_eq, s.sensed_hot]
  refine if_neg ?_
  rw [Bool.and_eq_true, any_hot_iff, Bool.not_eq_true']
  exact h

theorem State.thermal_effect (temps : List Nat) :
    let u := s.thermal temps
    u.mem = s.mem ∧ (∀ r, r < 19 → u.field .clkRegion [r] 25 16 = min 1023 (temps.getD r 0)) ∧
      ((∃ r, r < 19 ∧ 420 ≤ temps.getD r 0) → s.dev.clk.hot = false → u.stepNow = min 24 (s.stepNow + 1) ∧
        u.dev.clk.thermal = some (min 24 (s.stepNow + 1)) ∧ u.field .hubAlert [] 4 4 = 1) ∧
      ((∀ r, r < 19 → temps.getD r 0 < 400) → u.stepNow = s.stepNow ∧ u.dev.clk.cool = s.dev.clk.cool + 1 ∧
        u.dev.clk.thermal = if 100 ≤ s.dev.clk.cool + 1 then none else s.dev.clk.thermal) := by
  dsimp only
  by_cases hfirst : (∃ r, r < 19 ∧ 420 ≤ temps.getD r 0) ∧ s.dev.clk.hot = false
  · obtain ⟨hhot, hnew⟩ := hfirst
    obtain ⟨hmem, hstep, -⟩ := (s.sampled temps).emergency_effect 2 (min 24 (s.stepNow + 1)) (hotRegion (readings temps))
    have hreg (r : Nat) := (s.sampled temps).emergency_reg 2 (min 24 (s.stepNow + 1)) (hotRegion (readings temps)) (n := .clkRegion) [r] (by decide)
    rw [s.thermal_hot hhot hnew]
    generalize (s.sampled temps).emergency 2 (min 24 (s.stepNow + 1)) (hotRegion (readings temps)) = t at hmem hstep hreg ⊢
    refine ⟨hmem.trans (s.sampled_mem temps), fun r hr => ?_, fun _ _ => ⟨?_, rfl, ?_⟩, fun hcool => ?_⟩
    · refine (State.field_setField_ne _ _ (by simp)).trans ?_
      rw [State.field, hreg r]
      exact s.sampled_region temps hr
    · exact (State.stepNow_congr (State.reg_setField_ne _ _ (by simp)) rfl).trans hstep
    · exact State.field_setField_self _ _ (by decide) (by decide)
    · obtain ⟨r, hr, h⟩ := hhot
      have := hcool r hr
      omega
  · rw [s.thermal_mild hfirst]
    refine ⟨s.sampled_mem temps, fun r hr => s.sampled_region temps hr, fun h hn => absurd ⟨h, hn⟩ hfirst, fun hcool => ?_⟩
    have hall : ((readings temps).all fun x => decide (x < 400)) = true := List.all_eq_true.2 fun x hx => by
      obtain ⟨r, hr, rfl⟩ := mem_readings.1 hx
      simpa using hcool r hr
    have hclk : (s.sensed (readings temps)).dev.clk = s.dev.clk := s.sensed_keeps (·.dev.clk) (fun _ _ _ => rfl) _
    have hsampled : (s.sampled temps).dev.clk = s.dev.clk.sampled ((readings temps).any fun x => decide (420 ≤ x)) true := by
      rw [← hclk, ← hall]
      rfl
    refine ⟨s.sampled_stepNow temps, ?_, ?_⟩ <;> rw [hsampled] <;> rfl

end

/-! ### THERMTRIP (R243, R298) -/

/-- The fields of a trip log. -/
theorem wbits_tripLog {r t w : Nat} (hr : r < 32) (ht : t < 1024) (hw : w < 2 ^ 48) :
    wbits (word [(1, 63), (r, 58), (t, 48), (w, 0)]) 63 63 = 1 ∧ wbits (word [(1, 63), (r, 58), (t, 48), (w, 0)]) 62 58 = r ∧
      wbits (word [(1, 63), (r, 58), (t, 48), (w, 0)]) 57 48 = t := by
  simp only [wbits, bits, word, List.foldl_cons, List.foldl_nil, BitVec.toNat_ofNat]
  omega

/-- The log of a trip in region `r` at `t`. -/
def State.tripWord (s : State) (r t : Nat) : BitVec 64 := word [(1, 63), (r, 58), (min 1023 t, 48), (s.dev.clk.wear / 1000000000000, 0)]

/-- The state with a trip logged and the rails off. -/
def State.tripped (s : State) (log : BitVec 64) : State :=
  (State.railsOff { s with nv := { s.nv with tripLog := log, tripTick := s.hubTick } } 3 2).modPower fun p => { p with trip := true }

theorem State.thermTrip_trips {s : State} (hr : s.nv.power.rails = true) (r : Nat) {t : Nat} (ht : 460 ≤ t) :
    s.thermTrip r t = s.tripped (s.tripWord r t) :=
  if_neg (by simp only [hr, not_true_eq_false, or_false]; omega)

theorem State.tripped_effect (s : State) (log : BitVec 64) : (s.tripped log).nv.power.rails = false ∧ (s.tripped log).nv.power.trip = true ∧
    (s.tripped log).nv.tripTick = s.hubTick ∧ (s.tripped log).pending = s.pending ∧ (s.tripped log).nv.tripLog = log ∧
    ∀ a, Mem.read (s.tripped log).mem a = if 2 ^ 48 ≤ a then Mem.read s.mem a else 0 := ⟨rfl, rfl, rfl, rfl, rfl, s.wipe_read⟩

theorem State.thermTrip_effect {s : State} (hr : s.nv.power.rails = true) {r : Nat} (hlt : r < 32) {t : Nat} (ht : 460 ≤ t)
    (hw : s.dev.clk.wear ≤ wearLimit) :
    let u := s.thermTrip r t
    u.nv.power.rails = false ∧ u.nv.power.trip = true ∧ u.nv.tripTick = s.hubTick ∧ u.pending = s.pending ∧ wbits u.nv.tripLog 63 63 = 1 ∧
      wbits u.nv.tripLog 62 58 = r ∧ wbits u.nv.tripLog 57 48 = min 1023 t ∧
      ∀ a, Mem.read u.mem a = if 2 ^ 48 ≤ a then Mem.read s.mem a else 0 := by
  have hsec : s.dev.clk.wear / 1000000000000 < 2 ^ 48 := by
    unfold wearLimit at hw
    omega
  obtain ⟨hvalid, hregion, htemp⟩ := wbits_tripLog (r := r) (t := min 1023 t) hlt (by omega) hsec
  obtain ⟨hrails, htrip, htick, hpending, hlog, hmem⟩ := s.tripped_effect (s.tripWord r t)
  dsimp only
  rw [State.thermTrip_trips hr r ht, hlog]
  exact ⟨hrails, htrip, htick, hpending, hvalid, hregion, htemp, hmem⟩

/-- Settles O46: one effect lemma above for each row. -/
theorem metersAndLimits : Obligations.MetersAndLimits := by
  unfold Obligations.MetersAndLimits
  intro s hr
  refine ⟨fun rails regs v => ⟨_, by rw [exec_meterInterval, State.powered_on hr], ?_⟩, ?_,
    fun mw => ⟨fun h => ?_, fun h => ?_⟩, ⟨_, by rw [exec_currentLimit, State.powered_on hr], s.currentLimit_effect⟩, fun k hk => ?_, fun h => ?_,
    fun temps => ⟨_, by rw [exec_thermalSample, State.powered_on hr], s.thermal_effect temps⟩, fun r t ht => ?_, fun r t ht hw => ?_⟩
  · obtain ⟨hmem, hlevel, hrest⟩ := s.meter_effect rails regs v
    exact ⟨hmem, hlevel.trans (s.newLevel_eq _), hrest⟩
  · rw [exec_wearLedgerSave, State.powered_on hr]
    rfl
  · rw [exec_overburstCheck, State.powered_on hr, State.overburst_idle h]
  · refine ⟨_, by rw [exec_overburstCheck, State.powered_on hr, State.overburst_counts h], State.bump_mem _ _ _ _ _ _ _, ?_⟩
    exact State.field_bump_self _ _ _ _ _ _ (by decide)
  · rw [exec_currentLimitRelease, State.powered_on hr, State.currentRelease_marks hk]
  · rw [exec_currentLimitRelease, State.powered_on hr, State.currentRelease_idle h]
  · rw [exec_thermtrip, State.thermTrip, if_pos (.inl ht)]
  · exact ⟨_, exec_thermtrip r t s, State.thermTrip_effect hr (Nat.lt_trans r.isLt (by decide)) ht hw⟩

end Sys2Proof.Machine
end

section
/-!
PROOFS. Contexts are created, run, halted and destroyed (R256, R258, R260, R261, R77, R79, R81): what CONTEXT_CREATE, CONTEXT_DESTROY,
HALT, RUN and PICK_MODE do once their turn has come.
-/
namespace Sys2Proof.Machine

/-! ### The rows -/

theorem exec_contextCreate (m : MboxId) (hint : Option Nat) (s : State) :
    exec (.contextCreate m hint) s = .next (s.contextCreate m hint) := by rfl
theorem exec_contextDestroy (m : MboxId) (s : State) : exec (.contextDestroy m) s = .next (s.contextDestroy m) := by rfl
theorem exec_halt (m : MboxId) (s : State) : exec (.halt m) s = .next (s.halt m) := by rfl
theorem exec_run (m : MboxId) (s : State) : exec (.run m) s = .next (s.run m) := by rfl
theorem exec_pickMode (m : MboxId) (s : State) : exec (.pickMode m) s = .next (s.pickModeCmd m) := by rfl

/-! ### Cores changed one after the other -/

/-- Change each core of a list. -/
def State.modCores (s : State) (l : List Nat) (f : Core → Core) : State := l.foldl (fun s k => s.modCore k f) s

theorem State.modCores_mem (s : State) (l : List Nat) (f : Core → Core) : (s.modCores l f).mem = s.mem :=
  foldl_keeps State.mem (fun t k => State.modCore_mem t k f) l s

/-- A change that is the same when made twice changes each core of a list once, and no other core. -/
theorem State.core_modCores {f : Core → Core} (hf : ∀ k, f (f k) = f k) (d : Nat) (l : List Nat) (s : State) :
    (s.modCores l f).core d = if d ∈ l then f (s.core d) else s.core d := by
  induction l generalizing s with
  | nil => rfl
  | cons c l ih =>
    rw [State.modCores, List.foldl_cons, ← State.modCores, ih]
    by_cases hd : d = c
    · subst hd
      simp [hf]
    · simp [hd, State.core_modCore_ne _ _ hd]

@[simp] theorem State.answer_core (s : State) (m : Nat) (a : Accepted) (status : Nat) (payload : List Byte) (c : Nat) :
    (s.answer m a status payload).core c = s.core c :=
  (congrArg (State.core · c) (s.answer_frame m a status payload)).trans rfl

section
variable {s : State} {m : Nat} {a : Accepted}

/-! ### CONTEXT_CREATE (R256) -/

theorem State.contextCreate_refused {hint : Option Nat} {st : Nat} (hs : s.serves m 0x20 a)
    (h : s.createRefused (Create.read a) = some st) : s.contextCreate m hint = s.answer m a st [] := by
  rw [State.contextCreate, State.serve_of_serves hs]
  dsimp only
  rw [h]

theorem State.contextCreate_created {hint : Option Nat} (hs : s.serves m 0x20 a) (h : s.createRefused (Create.read a) = none) :
    s.contextCreate m hint = match s.create (Create.read a) hint with
      | none => s.answer m a 0x27 []
      | some (t, g) =>
        t.answer m a 0 (leBytes 4 (t.hubArc (Create.read a).ctx).toNat ++ leBytes 4 0 ++ leBytes 8 (g * granBytes)) := by
  rw [State.contextCreate, State.serve_of_serves hs]
  dsimp only
  rw [h] <;> rfl

theorem State.arcCfg_ctx (s : State) (first count : Nat) (checked hazHalt : Bool) (c : Nat) :
    (s.arcCfg first count checked hazHalt).ctx c = s.ctx c :=
  foldl_keeps (State.ctx · c) (fun t i => State.modCore_ctx t (4 * first + i) _ c) _ s

/-- Give the mailboxes of a list to a context. -/
def State.ownAll (s : State) (c : Nat) (l : List Nat) : State := l.foldl (fun s n => s.modMbox n fun b => { b with owner := some c }) s

theorem State.ownAll_ctx (s : State) (c : Nat) (l : List Nat) (d : Nat) : (s.ownAll c l).ctx d = s.ctx d :=
  foldl_keeps (State.ctx · d) (fun t n => State.modMbox_ctx t n _ d) l s

theorem State.ownAll_owner (c n : Nat) (l : List Nat) (s : State) (h : n ∈ l ∨ (s.mbox n).owner = some c) :
    ((s.ownAll c l).mbox n).owner = some c := by
  induction l generalizing s with
  | nil => exact h.resolve_left List.not_mem_nil
  | cons k l ih =>
    refine ih _ ?_
    by_cases hn : n = k
    · exact .inr (by rw [hn, State.mbox_modMbox_self])
    · rw [State.mbox_modMbox_ne _ _ hn]
      exact h.imp_left fun hm => (List.mem_cons.mp hm).resolve_left hn

/-- What a created context is: it exists on its arc with its inbox, and owns the mailboxes of its mask. -/
theorem State.create_effect {q : Create} {hint : Option Nat} {t : State} {g : Nat} (h : s.create q hint = some (t, g)) :
    (t.ctx q.ctx).valid = true ∧ (t.ctx q.ctx).first = q.first ∧ (t.ctx q.ctx).count = q.count ∧ (t.ctx q.ctx).inbox = g ∧
      ∀ n ∈ maskBits q.mbox, (t.mbox n).owner = some q.ctx := by
  unfold State.create at h
  dsimp only at h
  split at h
  · cases h
  · rename_i u k hk
    obtain ⟨rfl, rfl⟩ := Prod.mk.inj (Option.some.inj h)
    clear h hk
    generalize hv : (List.foldl (fun (s : State) n => s.modMbox n fun b => { b with owner := some q.ctx }) _ (maskBits q.mbox)) = v
    have howner : ∀ n ∈ maskBits q.mbox, (v.mbox n).owner = some q.ctx := fun n hn =>
      hv ▸ State.ownAll_owner q.ctx n _ _ (.inl hn)
    have hctx := congrArg (State.ctx · q.ctx) hv
    rw [← State.ownAll, State.ownAll_ctx, State.setReg_ctx, State.setReg_ctx, State.arcCfg_ctx, State.ctx_setCtx_self] at hctx
    generalize hw : (if q.vollen = 0 then v else v.attach q.ctx q.volbase q.vollen) = w
    have hwm : ∀ n, w.mbox n = v.mbox n := fun n => by rw [← hw]; split <;> rfl
    have hwc : w.ctx q.ctx = v.ctx q.ctx := by rw [← hw]; split <;> rfl
    generalize hz : (if w.shareW q.ctx = 0 then w
      else w.modClk fun k => { k with shares := AMap.set k.shares q.ctx (w.shareCap (w.shareW q.ctx)) }) = z
    have hzm : ∀ n, z.mbox n = w.mbox n := fun n => by rw [← hz]; split <;> rfl
    have hzc : z.ctx q.ctx = w.ctx q.ctx := by rw [← hz]; split <;> rfl
    rw [hzc, hwc, ← hctx]
    exact ⟨rfl, rfl, rfl, rfl, fun n hn => by rw [hzm, hwm]; exact howner n hn⟩

/-! ### CONTEXT_DESTROY (R258) -/

theorem State.contextDestroy_unknown (hs : s.serves m 0x21 a) (h : 7 < a.at_ 0 4 ∨ (s.ctx (a.at_ 0 4)).valid = false) :
    s.contextDestroy m = s.answer m a 0x20 [] := by
  rw [State.contextDestroy, State.serve_of_serves hs]
  exact if_pos (h.imp id (by simp))

theorem State.contextDestroy_known (hs : s.serves m 0x21 a) (hc : a.at_ 0 4 ≤ 7) (h : (s.ctx (a.at_ 0 4)).valid = true) :
    s.contextDestroy m =
      let t := (s.haltCtx (a.at_ 0 4)).begin_ m
      if t.stopped (a.at_ 0 4) then (t.destroy (a.at_ 0 4)).answer m a 0 [] else t := by
  rw [State.contextDestroy, State.serve_of_serves hs]
  exact if_neg (by rw [h]; simpa using hc)

theorem State.destroy_ctx (s : State) (c : Nat) : (s.destroy c).ctx c = {} := by
  unfold State.destroy
  exact State.ctx_setCtx_self _ _ _

/-! ### HALT (R260) -/

/-- What HALT does to the context that it names. -/
def State.haltNow (s : State) (c : Nat) : State :=
  if s.ctxLive c ∨ ((s.ctx c).running ∧ ¬ (s.ctx c).halted) then s.haltCtx c else s

/-- The context that a HALT names. -/
def State.haltNamed (s : State) (m : Nat) (a : Accepted) : Option Nat :=
  if m = 0 then (if a.at_ 0 1 ≤ 7 ∧ (s.ctx (a.at_ 0 1)).valid then some (a.at_ 0 1) else none) else (s.mbox m).owner

theorem State.haltNamed_eq_some {c : Nat} : s.haltNamed m a = some c ↔
    if m = 0 then c = a.at_ 0 1 ∧ c ≤ 7 ∧ (s.ctx c).valid = true else (s.mbox m).owner = some c := by
  unfold State.haltNamed
  split
  · constructor
    · intro h
      split at h
      · rename_i hv
        exact Option.some.inj h ▸ ⟨rfl, hv⟩
      · cases h
    · rintro ⟨rfl, hv⟩
      exact if_pos hv
  · exact Iff.rfl

theorem State.halt_none (hs : s.serves m 0x33 a) (h : s.haltNamed m a = none) : s.halt m = s.answer m a 0x20 [] := by
  rw [State.halt, State.serve_of_serves hs]
  dsimp only
  rw [← State.haltNamed, h]

theorem State.halt_some {c : Nat} (hs : s.serves m 0x33 a) (h : s.haltNamed m a = some c) : s.halt m =
    if (s.haltNow c).ripQuiet c ∧ (s.haltNow c).streamsQuiet c then (s.haltNow c).answer m a 0 [] else (s.haltNow c).begin_ m := by
  rw [State.halt, State.serve_of_serves hs]
  dsimp only
  rw [← State.haltNamed, h]
  rfl

theorem Core.halt_of_live {k : Core} (h : k.live = true) : k.halt.st = .halted := by
  rw [Core.live, Bool.or_eq_true, beq_iff_eq, beq_iff_eq] at h
  obtain h | h := h <;> rw [Core.halt, h]

theorem State.haltNow_mem (s : State) (c : Nat) : (s.haltNow c).mem = s.mem := by
  unfold State.haltNow
  split
  · exact s.haltCtx_mem c
  · rfl

theorem State.haltNow_halted {c : Nat} (h : (s.ctx c).running = true ∨ s.ctxLive c = true) : ((s.haltNow c).ctx c).halted = true := by
  unfold State.haltNow
  split
  · rw [State.haltCtx_ctx_self]
  · rename_i hno
    rw [not_or, not_and, not_not] at hno
    obtain ⟨hlive, hhalted⟩ := hno
    exact hhalted (h.resolve_right hlive)

/-- A core of the context keeps its beat and its sequencer, and stops when it is live. -/
theorem State.haltNow_core {c d : Nat} (hd : d ∈ (s.ctx c).slots) :
    ((s.haltNow c).core d).sbc = (s.core d).sbc ∧ ((s.haltNow c).core d).seqr = (s.core d).seqr ∧
      ((s.core d).live = true → ((s.haltNow c).core d).st = .halted) := by
  unfold State.haltNow
  split
  · rw [State.core_haltCtx, if_pos hd]
    exact ⟨Core.halt_sbc _, Core.halt_seqr _, Core.halt_of_live⟩
  · rename_i hno
    refine ⟨rfl, rfl, fun hl => absurd (.inl ?_) hno⟩
    exact List.any_eq_true.mpr ⟨d, hd, hl⟩

/-! ### RUN (R261) -/

theorem State.run_unloaded {c : Nat} (hs : s.serves m 0x32 a) (ho : (s.mbox m).owner = some c) (h : (s.ctx c).loaded = false) :
    s.run m = s.answer m a 0x38 [] := by
  rw [State.run, State.serveCtx_of_serves hs ho]
  exact if_pos (by simp [h])

theorem any_st_eq {l : List Nat} {x : CoreSt} : (l.any fun k => (s.core k).st == x) = true ↔ ∃ d ∈ l, (s.core d).st = x := by
  simp

theorem State.run_faulted {c : Nat} (hs : s.serves m 0x32 a) (ho : (s.mbox m).owner = some c) (h : (s.ctx c).loaded = true)
    (hf : (s.ctx c).faulted = true ∨ ∃ d ∈ (s.ctx c).slots, (s.core d).st = .faulted) : s.run m = s.answer m a 0x40 [] := by
  rw [State.run, State.serveCtx_of_serves hs ho]
  exact (if_neg (by simp [h])).trans (if_pos (hf.imp id any_st_eq.mpr))

theorem State.run_runs {c : Nat} (hs : s.serves m 0x32 a) (ho : (s.mbox m).owner = some c) (h : (s.ctx c).loaded = true)
    (hf : (s.ctx c).faulted = false) (hd : ∀ d ∈ (s.ctx c).slots, (s.core d).st ≠ .faulted) :
    s.run m = (s.runCtx c (BitVec.ofNat 64 (a.at_ 0 8))).answer m a 0 [] := by
  rw [State.run, State.serveCtx_of_serves hs ho]
  refine (if_neg (by simp [h])).trans (if_neg ?_)
  rw [any_st_eq, hf]
  rintro (h | ⟨d, hm, hst⟩)
  · cases h
  · exact hd d hm hst

theorem Core.resume_eq (k : Core) : k.resume = { k with st := if k.seqr.frz.isSome then .frozen else .running } := rfl

theorem Core.runFrom_runFrom (step : BitVec 64) (k : Core) : (k.runFrom step).runFrom step = k.runFrom step := by
  have hresume : k.resume.runFrom step = k.resume := by
    rw [Core.resume_eq]
    split <;> rfl
  cases hst : k.st with
  | loaded => simp [Core.runFrom, hst, Core.start]
  | halted =>
    have : k.runFrom step = k.resume := by simp [Core.runFrom, hst]
    rw [this, hresume]
  | _ => simp [Core.runFrom, hst]

/-- RUN keeps memory and runs each core of the context. -/
theorem State.runCtx_effect (s : State) (c : Nat) (step : BitVec 64) : (s.runCtx c step).mem = s.mem ∧
    ∀ d ∈ (s.ctx c).slots, (s.runCtx c step).core d = (s.core d).runFrom step := by
  unfold State.runCtx
  dsimp only
  split
  · rename_i hno
    refine ⟨rfl, fun d hd => ?_⟩
    rw [not_or] at hno
    obtain ⟨hl, hh⟩ := hno
    have hmem {x : CoreSt} (hx : ¬ ((s.slotCores c).map fun k => (s.core k).st).contains x = true) : (s.core d).st ≠ x := by
      rintro rfl
      exact hx (List.contains_iff_mem.mpr (List.mem_map_of_mem hd))
    have h1 := hmem hl
    have h2 := hmem hh
    cases hst : (s.core d).st with
    | loaded => exact absurd hst h1
    | halted => exact absurd hst h2
    | _ => simp [Core.runFrom, hst]
  · rw [← State.modCores]
    refine ⟨s.modCores_mem _ _, fun d hd => ?_⟩
    refine ((s.core_modCores (Core.runFrom_runFrom step) d _).trans (if_pos hd))

theorem Core.runFrom_loaded {k : Core} (step : BitVec 64) (h : k.st = .loaded) : k.runFrom step = k.start step := by
  rw [Core.runFrom, h]

theorem Core.runFrom_halted {k : Core} (step : BitVec 64) (h : k.st = .halted) : k.runFrom step = k.resume := by
  rw [Core.runFrom, h]

/-! ### PICK_MODE (R77) -/

/-- Whether a context is loaded and runs two streams on some core. -/
def State.twoStreams (s : State) (c : Nat) : Prop := (s.ctx c).loaded = true ∧ ∃ d ∈ (s.ctx c).slots, (s.core d).seqr.two = true

theorem State.twoStreams_iff {c : Nat} :
    ((s.ctx c).loaded = true ∧ ((s.ctx c).slots.any fun k => (s.core k).seqr.two) = true) ↔ s.twoStreams c := by
  simp [State.twoStreams]

/-- Set the pick mode of a core. -/
def Core.setPick (b : Bool) (k : Core) : Core := k.modSeq fun z => { z with pick := b }

theorem Core.setPick_setPick (b : Bool) (k : Core) : (k.setPick b).setPick b = k.setPick b := rfl

section
variable {c : Nat} (hs : s.serves m 0x34 a) (ho : (s.mbox m).owner = some c)
include hs ho

theorem State.pickMode_single (h : ¬ s.twoStreams c) : s.pickModeCmd m = s.answer m a 0x41 [] := by
  rw [State.pickModeCmd, State.serveCtx_of_serves hs ho]
  exact if_pos (by rwa [State.twoStreams_iff])

theorem State.pickMode_range (h : s.twoStreams c) (hon : 1 < a.at_ 0 1) : s.pickModeCmd m = s.answer m a 0x19 [] := by
  rw [State.pickModeCmd, State.serveCtx_of_serves hs ho]
  exact (if_neg (by rwa [State.twoStreams_iff, not_not])).trans (if_pos hon)

theorem State.pickMode_sets (h : s.twoStreams c) (hon : a.at_ 0 1 ≤ 1) :
    s.pickModeCmd m = (s.modCores (s.ctx c).slots (Core.setPick (a.at_ 0 1 == 1))).answer m a 0 [] := by
  rw [State.pickModeCmd, State.serveCtx_of_serves hs ho]
  exact (if_neg (by rwa [State.twoStreams_iff, not_not])).trans (if_neg (by omega))
end

end

/-- Settles O48: each command is served once its turn has come; a created context is what the descriptor says and owns its mailboxes, a
destroyed one is empty, and HALT, RUN and PICK_MODE change each core of the context once. -/
theorem contextsAreMadeRunAndEnded : Obligations.ContextsAreMadeRunAndEnded := by
  unfold Obligations.ContextsAreMadeRunAndEnded
  intro m hint s a
  simp only [exec_contextCreate, exec_contextDestroy, exec_halt, exec_run, exec_pickMode, Host.Outcome.next.injEq, exists_eq_left']
  refine ⟨fun hs => ⟨fun st h => State.contextCreate_refused hs h, fun h => State.contextCreate_created hs h, fun _ t g h => ?_⟩,
    fun hs => ⟨State.contextDestroy_unknown hs, fun hc hv => ?_⟩, fun hs => ⟨fun h => ?_, fun c h => ?_⟩,
    fun c hs ho => ⟨State.run_unloaded hs ho, State.run_faulted hs ho, fun h hf hd => ?_⟩,
    fun c hs ho => ⟨State.pickMode_single hs ho, State.pickMode_range hs ho, fun h hon => ?_⟩⟩
  · obtain ⟨hvalid, hfirst, hcount, hinbox, howner⟩ := State.create_effect h
    exact ⟨hvalid, hfirst, hcount, hinbox, fun n hn hb => howner n ((mem_maskBits hn).mpr hb)⟩
  · rw [State.contextDestroy_known hs hc hv]
    refine ⟨fun h => ?_, fun h => ?_⟩
    · rw [if_pos h, State.answer_ctx, State.destroy_ctx]
      exact ⟨rfl, (State.answer_mbox _ _ _ _ _).1⟩
    · rw [if_neg (by rw [h]; exact Bool.false_ne_true)]
      refine ⟨rfl, ?_⟩
      rw [State.begin_, State.modMbox_ctx, State.haltCtx_ctx_self]
  · refine State.halt_none hs (Option.eq_none_iff_forall_ne_some.mpr fun c hc => h c ?_)
    exact State.haltNamed_eq_some.mp hc
  · rw [State.halt_some hs (State.haltNamed_eq_some.mpr h)]
    have hlive (h : (s.ctx c).running = true ∨ ∃ d ∈ (s.ctx c).slots, (s.core d).live = true) :
        (s.ctx c).running = true ∨ s.ctxLive c = true := h.imp_right List.any_eq_true.mpr
    split
    · simp only [State.answer_mem, State.answer_ctx, State.answer_core]
      exact ⟨s.haltNow_mem c, fun h => State.haltNow_halted (hlive h), fun d hd => State.haltNow_core hd⟩
    · exact ⟨s.haltNow_mem c, fun h => State.haltNow_halted (hlive h), fun d hd => State.haltNow_core hd⟩
  · rw [State.run_runs hs ho h hf hd]
    obtain ⟨hmem, hcore⟩ := s.runCtx_effect c (BitVec.ofNat 64 (a.at_ 0 8))
    refine ⟨(State.answer_mem ..).trans hmem, (State.answer_mbox _ _ _ _ _).1, fun d hd => ?_⟩
    rw [State.answer_core, hcore d hd]
    refine ⟨fun hst => ?_, fun hst => ?_⟩
    · rw [Core.runFrom_loaded _ hst]
      exact ⟨rfl, rfl, rfl, rfl, rfl⟩
    · rw [Core.runFrom_halted _ hst, Core.resume_eq]
  · rw [State.pickMode_sets hs ho h hon]
    refine ⟨(State.answer_mem ..).trans (s.modCores_mem _ _), (State.answer_mbox _ _ _ _ _).1, fun d hd => ?_⟩
    rw [State.answer_core, State.core_modCores (Core.setPick_setPick _), if_pos hd]
    exact ⟨rfl, rfl⟩

end Sys2Proof.Machine
end

section
/-!
SUPPORT. Accesses of tier space for a flow of the link engine: what they leave as it was while they wait, when they pass at once, and what
a write that passes at once leaves in memory (R157, R167, R204, R215).
-/
namespace Sys2Proof.Machine

/-! ### Accesses that may wait -/

/-- `t` differs from `s` at most in what performed accesses change (bytes and their marks, the update streams, granules' stamps, counts and
parities), and in what waits at the regulators, for the hub cache and for the cave. -/
def State.accessed (s t : State) : Prop :=
  t = { s with
    mem := t.mem
    bad := t.bad
    dev := { s.dev with
      clm := t.dev.clm
      rips := t.dev.rips
      memS := { s.dev.memS with grans := t.dev.memS.grans, moves := t.dev.memS.moves, regQ := t.dev.memS.regQ }
      hubQ := t.dev.hubQ
      caveQ := t.dev.caveQ } } ∧
  ∀ g, (t.gran g).map Gran.place = (s.gran g).map Gran.place

theorem State.accessed_refl (s : State) : s.accessed s := ⟨rfl, fun _ => rfl⟩

theorem State.accessed.trans {s t u : State} (h : s.accessed t) (k : t.accessed u) : s.accessed u := by
  obtain ⟨h1, h2⟩ := h
  obtain ⟨k1, k2⟩ := k
  refine ⟨?_, fun g => (k2 g).trans (h2 g)⟩
  rw [k1, h1]

theorem State.accessOnly.accessed {s t : State} (h : s.accessOnly t) : s.accessed t := by
  obtain ⟨heq, hplace⟩ := h
  refine ⟨?_, hplace⟩
  rw [heq]

theorem State.accessed.foldl {α : Type} {f : State → α → State} {l : List α} (h : ∀ t, ∀ x ∈ l, State.accessed t (f t x)) (s : State) :
    s.accessed (l.foldl f s) :=
  List.foldlRecOn (motive := s.accessed) _ _ s.accessed_refl fun t ht x hx => ht.trans (h t x hx)

section
variable {s t : State} (h : s.accessed t)
include h

/-- Apart from what waits for the hub cache and for the cave, accesses change what those of a ripener change. -/
theorem State.accessed.only : s.accessOnly { t with dev := { t.dev with hubQ := s.dev.hubQ, caveQ := s.dev.caveQ } } := by
  obtain ⟨heq, hplace⟩ := h
  refine ⟨?_, hplace⟩
  rw [heq]

theorem State.accessed.link : t.dev.link = s.dev.link := by rw [h.1]
theorem State.accessed.flow (f : Nat) : t.flow f = s.flow f := h.only.flow f
theorem State.accessed.ctx (c : Nat) : t.ctx c = s.ctx c := h.only.ctx c
theorem State.accessed.reg (n : RegName) (i : List Nat) : t.reg n i = s.reg n i := h.only.reg n i
theorem State.accessed.regionStopped (r : Nat) : t.regionStopped r = s.regionStopped r := h.only.regionStopped r
theorem State.accessed.reach (c a n : Nat) : t.reach c a n = s.reach c a n := h.only.reach c a n
theorem State.accessed.inCave (a : Nat) : t.inCave a = s.inCave a := h.only.inCave a
theorem State.accessed.regulator (c a : Nat) : t.regulator c a = s.regulator c a := h.only.regulator c a

theorem State.accessed.roRefuses (a n : Nat) : t.roRefuses a n = s.roRefuses a n := by
  have hcave : t.inCave = s.inCave := funext h.inCave
  rw [State.roRefuses, State.roRefuses, State.caveRo, State.caveRo, State.field, State.field, h.reg, hcave]

theorem State.accessed.landRefused (w : Flow) (a n : Nat) : t.landRefused w a n = s.landRefused w a n := by
  simp only [State.landRefused, h.reach, h.roRefuses]
end

/-- An action that copies nothing: it lets its requester pass, or writes bytes that it carries. -/
def RegAct.plain : RegAct → Prop
  | .pass | .put _ _ _ _ => True
  | _ => False

section
variable (s : State)

theorem State.accessed_farWrite (a : Nat) (d : List Byte) (bad : List Nat) (w : Waiter) (par : Option Bool) :
    s.accessed (s.farWrite a d bad w par) := by
  unfold State.farWrite
  refine State.accessed.foldl (fun t p _ => ?_) s
  split
  · exact ⟨rfl, fun _ => rfl⟩
  · exact (t.putPart_stored p).only.accessed

theorem State.accessed_perform (w : Waiter) {act : RegAct} (h : act.plain) : s.accessed (s.perform w act) := by
  cases act with
  | pass => exact s.accessed_refl
  | put a d bad par => exact s.accessed_farWrite a d bad w par
  | copy => exact h.elim
  | desc => exact h.elim
  | port => exact h.elim

theorem State.accessed_issue (w : Waiter) (a : Nat) {act : RegAct} (h : act.plain) : s.accessed (s.issue w a act) := by
  have hwait (q : List HubReq) (r : List CaveReq) : s.accessed { s with dev := { s.dev with hubQ := q, caveQ := r } } :=
    ⟨rfl, fun _ => rfl⟩
  unfold State.issue
  split
  · split
    · exact hwait _ s.dev.caveQ
    · split
      · exact hwait s.dev.hubQ _
      · exact s.accessed_perform _ h
  · split
    · exact hwait _ s.dev.caveQ
    · exact s.accessed_perform _ h

theorem State.accessed_regulate (c a n : Nat) (w : Waiter) {act : Nat → Nat → RegAct} (h : ∀ x k, (act x k).plain) :
    s.accessed (s.regulate c a n w act) := by
  rw [State.regulate_eq]
  refine State.accessed.foldl (fun t g _ => ?_) s
  unfold State.regulatePart
  split
  · exact ⟨rfl, fun _ => rfl⟩
  · exact t.accessed_issue w g.1 (h g.1 g.2)

theorem State.accessed_touch (a n : Nat) : s.accessed (s.touch a n) := (s.touch_passed a n).1.only.accessed

theorem writePart_plain (a : Nat) (d : List Byte) (bad : List Nat) (par : Nat → Nat → Option Bool) (x k : Nat) :
    (writePart a d bad par x k).plain := trivial
end

/-! ### Accesses of a flow while the memory's region has its clock -/

section
variable {s : State} (hr : s.regionStopped 17 = false) (c : Nat) {f k : Nat}
include hr

theorem State.issue_flow (a : Nat) (act : RegAct) : s.issue (.flow f k) a act = s.perform (.flow f k) act :=
  if_neg fun hi => by rw [hr] at hi; exact absurd hi.2 Bool.false_ne_true

theorem State.regulatePart_flow_direct {g : Nat × Nat} (h : s.regulator c g.1 = none) (act : Nat → Nat → RegAct) :
    s.regulatePart c (.flow f k) act g = s.perform (.flow f k) (act g.1 g.2) := by
  unfold State.regulatePart
  rw [h]
  exact State.issue_flow hr _ _

theorem State.regulatePart_flow_pass (g : Nat × Nat) : s.Passed (s.regulatePart c (.flow f k) (fun _ _ => .pass) g) := by
  cases h : s.regulator c g.1 with
  | none =>
    rw [State.regulatePart_flow_direct hr c h]
    exact .refl s
  | some p =>
    rw [State.regulatePart_waits h]
    exact ⟨⟨rfl, fun _ => rfl⟩, rfl, rfl, rfl⟩

/-- Reading for a flow moves no byte. -/
theorem State.regulate_flow_passed (a n : Nat) : s.Passed (s.regulate c a n (.flow f k) fun _ _ => .pass) := by
  rw [State.regulate_eq]
  refine List.foldlRecOn (motive := s.Passed) _ _ (.refl s) fun t ht g _ => ht.trans (State.regulatePart_flow_pass ?_ c g)
  rw [ht.only.regionStopped, hr]

/-- A read of which no byte passes a regulator has nothing to wait for. -/
theorem State.regulate_flow_unregulated {a n : Nat} (hu : s.unregulated c a n) :
    s.regulate c a n (.flow f k) (fun _ _ => .pass) = s := by
  rw [State.regulate_eq]
  refine List.foldlRecOn (motive := (· = s)) _ _ rfl fun t ht g hg => ?_
  subst ht
  obtain ⟨hlo, hhi, -⟩ := mem_granParts hg
  exact State.regulatePart_flow_direct hr c (hu g.1 hlo hhi) _

theorem State.queued_regulatePart_flow {w : Waiter} (g : Nat × Nat) (h : s.queued w) :
    (s.regulatePart c (.flow f k) (fun _ _ => .pass) g).queued w := by
  cases hg : s.regulator c g.1 with
  | none => rwa [State.regulatePart_flow_direct hr c hg]
  | some p =>
    rw [State.regulatePart_waits hg]
    obtain ⟨r, hmem, hw⟩ := h
    exact ⟨r, List.mem_append_left _ hmem, hw⟩

/-- What waits goes on waiting while a flow reads. -/
theorem State.queued_regulate_flow {w : Waiter} (a n : Nat) (h : s.queued w) :
    (s.regulate c a n (.flow f k) fun _ _ => .pass).queued w := by
  rw [State.regulate_eq]
  refine (List.foldlRecOn (motive := fun (t : State) => t.regionStopped 17 = false ∧ t.queued w) _ _ ⟨hr, h⟩ fun t ht g _ => ?_).2
  obtain ⟨hrun, hq⟩ := ht
  exact ⟨by rw [(State.regulatePart_flow_pass hrun c g).only.regionStopped, hrun], State.queued_regulatePart_flow hrun c g hq⟩

/-- A read one byte of which lies behind a regulator waits there. -/
theorem State.regulate_flow_queued {a n x : Nat} (hlo : a ≤ x) (hhi : x < a + n) (h : s.regulator c x ≠ none) :
    (s.regulate c a n (.flow f k) fun _ _ => .pass).queued (.flow f k) := by
  obtain ⟨g, hg, hg1, hg2, hgran⟩ := granParts_cover hlo hhi
  have hrun {t : State} (ht : s.Passed t) : t.regionStopped 17 = false := by rw [ht.only.regionStopped, hr]
  rw [State.regulate_eq]
  refine foldl_reaches (I := s.Passed) (P := (State.queued · (.flow f k)))
    (fun t e ht => ht.trans (State.regulatePart_flow_pass (hrun ht) c e))
    (fun t e ht hq => State.queued_regulatePart_flow (hrun ht) c e hq) hg (fun t ht => ?_) (.refl s)
  have hreg : t.regulator c g.1 ≠ none := by
    rw [ht.only.regulator, State.regulator, hgran]
    exact h
  obtain ⟨p, hp⟩ := Option.ne_none_iff_exists'.1 hreg
  obtain ⟨q, qs, hq⟩ := List.exists_cons_of_ne_nil (piecesOf_ne_nil (a := g.1) (n := g.2) (by omega))
  rw [State.regulatePart_waits hp]
  exact ⟨⟨c, p, q.2, .flow f k, .pass⟩, List.mem_append_right _ (by simp [partRequests, hq]), rfl⟩
end

/-! ### Writes of a flow that pass at once -/

/-- The parts of a flow's write leave the bytes that they hold, and no others. -/
theorem State.foldl_regulatePart_flow_put {c a f k : Nat} {d : List Byte} (bad : List Nat) (par : Nat → Nat → Option Bool)
    (gs : List (Nat × Nat)) : ∀ {s : State}, s.mem.wf = true → s.regionStopped 17 = false → s.direct c a d.length →
    (∀ g ∈ gs, a ≤ g.1 ∧ g.1 < a + d.length ∧ g.1 + g.2 ≤ a + d.length) →
    s.Stored (gs.foldl (State.regulatePart c (.flow f k) (writePart a d bad par)) s) ∧
      ∀ x, Mem.read (gs.foldl (State.regulatePart c (.flow f k) (writePart a d bad par)) s).mem x =
        if ∃ g ∈ gs, g.1 ≤ x ∧ x < g.1 + g.2 then d.getD (x - a) 0 else Mem.read s.mem x := by
  induction gs with
  | nil => intro s _ _ _ _; exact ⟨.refl s, by simp⟩
  | cons g gs ih =>
    intro s hm hr hd hgs
    obtain ⟨hlo, hhi, hend⟩ := hgs g List.mem_cons_self
    have hlen : ((d.drop (g.1 - a)).take g.2).length = g.2 := by
      rw [List.length_take, List.length_drop]
      omega
    have hcave : ∀ x, g.1 ≤ x → x < g.1 + ((d.drop (g.1 - a)).take g.2).length → s.inCave x = false := fun x h1 h2 =>
      (hd x (by omega) (by omega)).2
    rw [List.foldl_cons, State.regulatePart_flow_direct hr c (hd g.1 hlo hhi).1]
    have hstored : s.Stored (s.perform (.flow f k) (writePart a d bad par g.1 g.2)) := State.farWrite_stored hcave _ _ _
    have hread (x : Nat) : Mem.read (s.perform (.flow f k) (writePart a d bad par g.1 g.2)).mem x =
        Mem.read (Mem.writeN s.mem g.1 ((d.drop (g.1 - a)).take g.2)) x := State.read_farWrite hm hcave _ _ _ x
    generalize s.perform (.flow f k) (writePart a d bad par g.1 g.2) = t at hstored hread
    obtain ⟨hstored', hread'⟩ := ih (hstored.wf hm) ((hstored.only.regionStopped 17).trans hr) (hstored.only.direct hd)
      fun q hq => hgs q (List.mem_cons_of_mem g hq)
    refine ⟨hstored.trans hstored', fun x => ?_⟩
    rw [hread', hread, Mem.read_writeN _ _ _ hm, hlen]
    by_cases hin : g.1 ≤ x ∧ x < g.1 + g.2
    · have hbyte : ((d.drop (g.1 - a)).take g.2).getD (x - g.1) 0 = d.getD (x - a) 0 := by
        rw [List.getD_eq_getElem?_getD, List.getD_eq_getElem?_getD, List.getElem?_take_of_lt (by omega), List.getElem?_drop,
          show g.1 - a + (x - g.1) = x - a by omega]
      rw [if_pos hin, hbyte, ite_self, if_pos ⟨g, List.mem_cons_self, hin⟩]
    · simp only [List.mem_cons, or_and_right, exists_or, exists_eq_left, hin, false_or, if_false]

/-- A flow's write that passes no regulator and touches no granule of the cave is performed at once. -/
theorem State.regulate_flow_wrote {s : State} {c a f k : Nat} {d : List Byte} (hm : s.mem.wf = true) (hr : s.regionStopped 17 = false)
    (hd : s.direct c a d.length) (bad : List Nat) (par : Nat → Nat → Option Bool) :
    s.Wrote (s.regulate c a d.length (.flow f k) (writePart a d bad par)) a d := by
  rw [State.regulate_eq]
  obtain ⟨hstored, hread⟩ := State.foldl_regulatePart_flow_put (f := f) (k := k) bad par (granParts a d.length) hm hr hd
    fun g hg => mem_granParts hg
  refine ⟨hstored, fun x => (hread x).trans ?_⟩
  have hcover : (∃ g ∈ granParts a d.length, g.1 ≤ x ∧ x < g.1 + g.2) ↔ a ≤ x ∧ x < a + d.length := by
    constructor
    · rintro ⟨g, hg, hlo, hhi⟩
      have := mem_granParts hg
      omega
    · rintro ⟨hlo, hhi⟩
      obtain ⟨g, hg, h1, h2, -⟩ := granParts_cover hlo hhi
      exact ⟨g, hg, h1, h2⟩
  rw [Mem.read_writeN d a x hm]
  simp only [hcover]

end Sys2Proof.Machine
end

section
/-!
SUPPORT. The messages of a reduction (R218, R226): frames of kinds 1 and 2 reach no flow of this module, so that sending them changes the
neighbours and the queue of messages of their own flow alone.
-/
namespace Sys2Proof.Machine

@[simp] theorem State.flow_modFlow_self (s : State) (f : Nat) (g : Flow → Flow) : (s.modFlow f g).flow f = g (s.flow f) :=
  AMap.get_set_self _ _ _ _
theorem State.flow_modFlow_ne (s : State) {f h : Nat} (g : Flow → Flow) (hne : h ≠ f) : (s.modFlow f g).flow h = s.flow h :=
  AMap.get_set_ne _ _ _ hne

@[simp] theorem State.modRed_mem (s : State) (f : Nat) (g : RedS → RedS) : (s.modRed f g).mem = s.mem := rfl
theorem State.red_modRed (s : State) (f : Nat) (g : RedS → RedS) : ((s.modRed f g).flow f).red = (s.flow f).red.map g := by
  rw [State.modRed, State.flow_modFlow_self]
theorem State.st_modRed (s : State) (f : Nat) (g : RedS → RedS) : ((s.modRed f g).flow f).st = (s.flow f).st := by
  rw [State.modRed, State.flow_modFlow_self]
theorem State.flow_modRed_ne (s : State) {f h : Nat} (g : RedS → RedS) (hne : h ≠ f) : (s.modRed f g).flow h = s.flow h :=
  State.flow_modFlow_ne _ _ hne

/-! ### Frames that no flow takes -/

/-- Something has been told: neither memory nor a flow has changed. -/
structure State.Told (s t : State) : Prop where
  mem : t.mem = s.mem
  flow : ∀ f, t.flow f = s.flow f

theorem State.Told.refl (s : State) : s.Told s := ⟨rfl, fun _ => rfl⟩

theorem State.Told.trans {s t u : State} (h : s.Told t) (k : t.Told u) : s.Told u :=
  ⟨k.mem.trans h.mem, fun f => (k.flow f).trans (h.flow f)⟩

theorem State.Told.foldl {α : Type} {f : State → α → State} {l : List α} (h : ∀ t, ∀ x ∈ l, State.Told t (f t x)) (s : State) :
    s.Told (l.foldl f s) :=
  List.foldlRecOn (motive := s.Told) _ _ (.refl s) fun t ht x hx => ht.trans (h t x hx)

theorem State.eventsOnly.told {s t : State} (h : s.eventsOnly t) : s.Told t := ⟨h.mem, h.flow⟩

section
variable (s : State)

theorem State.told_bump (n : RegName) (i : List Nat) (k : Nat) (x : Option Nat) (kind index : Nat) :
    s.Told (s.bump n i k x kind index) := (s.eventsOnly_bump n i k x kind index).told

theorem State.told_raise (code : Nat) (o : Origin) : s.Told (s.raise code o) := (s.eventsOnly_raise code o).told

/-- A frame that carries no data fails no flow when it is dropped. -/
theorem State.told_drop (cause : Nat) {f : Frame} (hk : f.kind ≠ 0) (port : Nat) (ctx : Option Nat) : s.Told (s.drop cause f port ctx) := by
  have hfail : s.failShipment f = s := if_neg fun h => hk h.2
  have hcount := s.told_bump .lnkCntDrop [] 1 none 7 0
  unfold State.drop
  rw [hfail]
  dsimp only
  split
  · exact hcount
  · exact (hcount.trans (State.eventsOnly_setReg _ _ _ _).told).trans (State.told_raise _ _ _)

theorem State.told_lcredit (inp : Option (Nat × Nat)) (units : Nat) : s.Told (s.lcredit inp units) := by
  unfold State.lcredit
  split
  · split
    · exact ⟨rfl, fun _ => rfl⟩
    · exact .refl s
  · exact .refl s

/-- A frame of a reduction, which `State.deliver` gives to no flow. -/
def ofRed (f : Frame) : Prop := f.kind = 1 ∨ f.kind = 2

theorem kind_ne_of_ofRed {f : Frame} (h : ofRed f) : f.kind ≠ 0 ∧ f.kind ≠ 3 := by
  obtain h | h := h <;> rw [h] <;> decide

theorem State.told_deliver {f : Frame} (h : ofRed f) (port : Nat) (inp : Option (Nat × Nat)) : s.Told (s.deliver port inp f) := by
  obtain ⟨h0, h3⟩ := kind_ne_of_ofRed h
  have hgone (cause : Nat) (ctx : Option Nat) : s.Told ((s.drop cause f port ctx).lcredit inp f.units) :=
    (s.told_drop cause h0 port ctx).trans (State.told_lcredit _ _ _)
  unfold State.deliver
  dsimp only
  split
  · exact hgone _ _
  · split
    · exact hgone _ _
    · rw [if_neg fun hk => h3 hk.1, if_neg fun hk => h0 hk.1]
      exact hgone _ _

theorem State.told_originate {f : Frame} (h : ofRed f) (ctx : Option Nat) (who : Option Waiter) : s.Told (s.originate f ctx who) := by
  have hstamped (t : Nat) (m : Nat) : ofRed { f with ttl := t, src := m } := h
  have hcount := s.told_bump .lnkCntTxf [] 1 none 7 0
  unfold State.originate
  dsimp only
  split
  · exact hcount.trans (State.told_deliver _ (hstamped _ _) _ _)
  · split
    · exact hcount.trans (State.told_drop _ _ (kind_ne_of_ofRed (hstamped _ _)).1 _ _)
    · exact hcount.trans ⟨rfl, fun _ => rfl⟩

theorem State.told_originateAll {fs : List Frame} (h : ∀ f ∈ fs, ofRed f) (ctx : Option Nat) (who : Option Waiter) :
    s.Told (s.originateAll fs ctx who) :=
  State.Told.foldl (fun t f hf => t.told_originate (h f hf) ctx who) s
end

/-! ### Messages -/

theorem messageFrames_ofRed {p : Frame} (h : ofRed p) (data : List Byte) (bad : List Nat) : ∀ f ∈ messageFrames p data bad, ofRed f := by
  intro f hf
  obtain ⟨i, -, rfl⟩ := List.mem_map.mp hf
  exact h

theorem chunkFrames_ofRed {kind : Nat} (h : kind = 1 ∨ kind = 2) (j : Nat) (data rcd : List Byte) :
    ∀ f ∈ chunkFrames kind j data rcd, ofRed f := by
  intro f hf
  unfold chunkFrames at hf
  dsimp only at hf
  obtain hf | hf := List.mem_append.mp hf
  · split at hf
    · cases hf
    · obtain ⟨g, hg, rfl⟩ := List.mem_map.mp hf
      exact messageFrames_ofRed (p := redFrame kind j) h _ _ g hg
  · rw [List.mem_singleton.mp hf]
    exact h

/-- Messages of flow `f` have been sent, or wait to be: memory is as it was, and of the flow's reduction nothing but its neighbours and
the messages that wait. -/
structure State.Messaged (s t : State) (f : Nat) : Prop where
  mem : t.mem = s.mem
  red : ∃ nb o, (t.flow f).red = (s.flow f).red.map fun x => { x with nbrs := nb, out := o }

theorem State.Told.messaged {s t : State} (h : s.Told t) (f : Nat) : s.Messaged t f := by
  refine ⟨h.mem, ?_⟩
  rw [h.flow]
  cases hr : (s.flow f).red with
  | none => exact ⟨[], [], rfl⟩
  | some x => exact ⟨x.nbrs, x.out, rfl⟩

theorem State.Messaged.trans {s t u : State} {f : Nat} (h : s.Messaged t f) (k : t.Messaged u f) : s.Messaged u f := by
  obtain ⟨nb, o, hred⟩ := h.red
  obtain ⟨nb', o', hred'⟩ := k.red
  exact ⟨k.mem.trans h.mem, nb', o', by rw [hred', hred, Option.map_map]; rfl⟩

theorem State.Messaged.foldl {α : Type} {g : State → α → State} {f : Nat} (h : ∀ t x, State.Messaged t (g t x) f) (l : List α) (s : State) :
    s.Messaged (l.foldl g s) f :=
  List.foldlRecOn (motive := (s.Messaged · f)) _ _ ((State.Told.refl s).messaged f) fun t ht x _ => ht.trans (h t x)

/-- What was sent for a flow whose reduction is `x`. -/
theorem State.Messaged.red_some {s t : State} {f : Nat} (h : s.Messaged t f) {x : RedS} (hx : (s.flow f).red = some x) :
    ∃ nb o, (t.flow f).red = some { x with nbrs := nb, out := o } := by
  obtain ⟨nb, o, hred⟩ := h.red
  exact ⟨nb, o, by rw [hred, hx]; rfl⟩

section
variable (s : State) (f : Nat)

theorem State.messaged_modRed {g : RedS → RedS} {x : RedS} (hx : (s.flow f).red = some x)
    (hg : g x = { x with nbrs := (g x).nbrs, out := (g x).out }) : s.Messaged (s.modRed f g) f :=
  ⟨rfl, (g x).nbrs, (g x).out, by rw [State.red_modRed, hx, Option.map_some, Option.map_some, ← hg]⟩

theorem State.messaged_toNeighbour (q : Nat) {fs : List Frame} (h : ∀ g ∈ fs, ofRed g) : s.Messaged (s.toNeighbour f q fs) f := by
  unfold State.toNeighbour
  dsimp only
  split
  · exact (State.Told.refl s).messaged f
  · rename_i x hx
    refine (s.messaged_modRed f hx rfl).trans (State.Told.messaged (State.told_originateAll _ (fun g hg => ?_) _ _) f)
    obtain ⟨⟨g', i⟩, hg', rfl⟩ := List.mem_map.mp hg
    exact h g' (List.of_mem_zip hg').1

theorem State.messaged_sendResult (r : RedRec) (j : Nat) (data rcd : List Byte) : s.Messaged (s.sendResult f r j data rcd) f :=
  State.Messaged.foldl (fun t q => t.messaged_toNeighbour f q (chunkFrames_ofRed (.inr rfl) j _ rcd)) _ s

theorem State.messaged_pumpRed (n : Nat) : ∀ s : State, s.Messaged (s.pumpRed n f) f := by
  induction n with
  | zero => exact fun s => (State.Told.refl s).messaged f
  | succ n ih =>
    intro s
    unfold State.pumpRed
    split
    · exact (State.Told.refl s).messaged f
    · rename_i x hx
      split
      · exact (State.Told.refl s).messaged f
      · refine ((s.messaged_modRed f hx rfl).trans (State.messaged_toNeighbour _ f _ ?_)).trans (ih _)
        exact messageFrames_ofRed (p := redFrame 2 _) (.inr rfl) _ _

theorem State.messaged_passPiece (from_ : Option Nat) (m : Nat) (d : List Byte) (bad : List Nat) :
    s.Messaged (s.passPiece f from_ m d bad) f := by
  unfold State.passPiece
  split
  · exact (State.Told.refl s).messaged f
  · rename_i x hx
    exact (s.messaged_modRed f hx rfl).trans (State.messaged_pumpRed f _ _)
end

end Sys2Proof.Machine
end

section
/-!
PROOFS. The steps of a reduction's round (R215 to R219, R224): what ROUND_BEGIN, CHUNK_CONTRIBUTE, CHUNK_COMPLETE and ROUND_COMPLETE do to
the reduction of their flow, and what they leave in memory.
-/
namespace Sys2Proof.Machine

/-! ### The rows -/

theorem exec_roundBegin (f : FlowId) (s : State) : exec (.roundBegin f) s = .next (s.roundBegin f) := by rfl
theorem exec_chunkContribute (f : FlowId) (s : State) : exec (.chunkContribute f) s = .next (s.chunkContribute f) := by rfl
theorem exec_chunkComplete (f : FlowId) (s : State) : exec (.chunkComplete f) s = .next (s.chunkComplete f) := by rfl
theorem exec_roundComplete (f : FlowId) (s : State) : exec (.roundComplete f) s = .next (s.roundComplete f) := by rfl

/-! ### The reduction of a flow -/

theorem State.modRed_modRed (s : State) (f : Nat) (g h : RedS → RedS) : (s.modRed f g).modRed f h = s.modRed f (h ∘ g) := by
  have hset : (s.modRed f g).modRed f h = (s.setFlow f { s.flow f with red := (s.flow f).red.map g }).setFlow f
      { s.flow f with red := ((s.flow f).red.map g).map h } := by
    unfold State.modRed
    rw [State.modFlow, State.flow_modFlow_self]
    rfl
  rw [hset, Option.map_map]
  unfold State.setFlow State.modLink
  dsimp only
  rw [AMap.set_set]
  rfl

/-- A flow whose reduction is changed. -/
theorem State.flow_modRed_some (s : State) {f : Nat} {x : RedS} (hx : (s.flow f).red = some x) (g : RedS → RedS) :
    (s.modRed f g).flow f = { s.flow f with red := some (g x) } := by
  rw [State.modRed, State.flow_modFlow_self, hx]
  rfl

theorem State.modRed_some (s : State) {f : Nat} {x : RedS} (hx : (s.flow f).red = some x) (g : RedS → RedS) :
    s.modRed f g = s.setFlow f { s.flow f with red := some (g x) } := by
  rw [State.modRed, State.modFlow, hx]
  rfl

/-- A change of a flow's reduction moves nothing in tier space and no access. -/
theorem State.landRefused_modRed (s : State) (f : Nat) (g : RedS → RedS) (w : Flow) (a n : Nat) :
    (s.modRed f g).landRefused w a n = s.landRefused w a n := rfl

theorem State.landRefused_congr (s : State) {w v : Flow} (h : w.ctx = v.ctx) (a n : Nat) : s.landRefused w a n = s.landRefused v a n := by
  rw [State.landRefused, State.landRefused, h]

theorem State.landRefused_zero (s : State) (w : Flow) (a : Nat) : s.landRefused w a 0 = none := by
  have hro : s.roRefuses a 0 = none := by
    unfold State.roRefuses
    split <;> rfl
  rw [State.landRefused, hro]
  rfl

/-! ### Writing a result, reading the scales -/

section
variable {s : State} {f : Nat} (hst : (s.flow f).st = .opened) {a : Nat} {d : List Byte}
  (hland : s.landRefused (s.flow f) a d.length = none)
include hst hland

theorem State.resWrite_eq (bad : List Nat) : s.resWrite f a d bad =
    (s.touch a d.length).regulate (s.flow f).ctx a d.length (.flow f 0) (writePart a d bad fun _ _ => none) := by
  rw [State.resWrite, hland]
  exact if_neg (not_not.mpr hst)

theorem State.accessed_resWrite (bad : List Nat) : s.accessed (s.resWrite f a d bad) := by
  rw [State.resWrite_eq hst hland]
  exact (s.accessed_touch _ _).trans (State.accessed_regulate _ _ _ _ _ (writePart_plain _ _ _ _))

theorem State.resWrite_wrote (hm : s.mem.wf = true) (hr : s.regionStopped 17 = false) (hd : s.direct (s.flow f).ctx a d.length)
    (bad : List Nat) : s.Wrote (s.resWrite f a d bad) a d := by
  rw [State.resWrite_eq hst hland]
  have htouch := s.touch_stored a d.length
  have hmem := (s.touch_passed a d.length).1.mem
  generalize s.touch a d.length = t at htouch hmem
  obtain ⟨hstored, hread⟩ := State.regulate_flow_wrote (f := f) (k := 0) (htouch.wf hm)
    ((htouch.only.regionStopped 17).trans hr) (htouch.only.direct hd) bad fun _ _ => none
  exact ⟨htouch.trans hstored, fun x => by rw [hread, hmem]⟩
end

theorem State.accessed_scaleRead (s : State) (f a n : Nat) : s.accessed (s.scaleRead f a n) :=
  (s.accessed_touch a n).trans (State.accessed_regulate _ _ _ _ _ fun _ _ => trivial)

theorem State.scaleRead_passed {s : State} (hr : s.regionStopped 17 = false) (f a n : Nat) : s.Passed (s.scaleRead f a n) := by
  have htouch := (s.touch_passed a n).1
  exact htouch.trans (State.regulate_flow_passed (by rw [htouch.only.regionStopped, hr]) _ a n)

theorem State.Passed.unregulated {s t : State} (h : s.Passed t) {c a n : Nat} (hu : s.unregulated c a n) : t.unregulated c a n :=
  fun x hlo hhi => by rw [h.only.regulator]; exact hu x hlo hhi

/-- A touched range of which no byte passes a regulator is read at once. -/
theorem State.read_flow_unregulated {s : State} (hr : s.regionStopped 17 = false) {c a n f k : Nat} (hu : s.unregulated c a n) :
    (s.touch a n).regulate c a n (.flow f k) (fun _ _ => .pass) = s.touch a n := by
  have htouch := (s.touch_passed a n).1
  exact State.regulate_flow_unregulated (by rw [htouch.only.regionStopped, hr]) c (htouch.unregulated hu)

/-! ### ROUND_BEGIN (R215) -/

theorem State.startDue_iff (s : State) (x : RedS) : s.startDue x = true ↔
    0 < (BitVec.ofNat 32 (leNat (s.bytes x.cfg.start 4)) - BitVec.ofNat 32 x.rounds).toInt := by
  have hmod (n : Nat) : sint 32 n = sint 32 (n % 2 ^ 32) := by rw [sint, sint, Nat.mod_mod]
  rw [State.startDue, decide_eq_true_eq, ← sint_toNat, hmod]
  generalize leNat (s.bytes x.cfg.start 4) = n
  have hnat : (BitVec.ofNat 32 n - BitVec.ofNat 32 x.rounds).toNat = (n + 2 ^ 32 - x.rounds % 2 ^ 32) % 2 ^ 32 := by
    rw [BitVec.toNat_sub, BitVec.toNat_ofNat, BitVec.toNat_ofNat]
    omega
  rw [hnat]

/-- A flow whose round may be worked on: it is open, and the link engine has its clock. -/
def State.redOn (s : State) (f : Nat) : Prop := (s.flow f).st = .opened ∧ s.regionStopped 16 = false

section
variable {s : State} {f : Nat} {x : RedS} (hx : (s.flow f).red = some x)
include hx

theorem State.roundBegin_begins (hon : s.redOn f) (hrun : x.running = false)
    (hd : 0 < (BitVec.ofNat 32 (leNat (s.bytes x.cfg.start 4)) - BitVec.ofNat 32 x.rounds).toInt) :
    s.roundBegin f = s.setFlow f { s.flow f with red := some { x with
      running := true, next := 0, amax := [], sat := 0, nan := 0, inf := 0, pcount := 0, prank := 0xFFFF } } := by
  rw [State.roundBegin, hx]
  dsimp only
  rw [if_pos ⟨hon.1, by simp [hon.2], by simp [hrun], (s.startDue_iff x).mpr hd⟩, State.modRed_some s hx]

theorem State.roundBegin_waits (hd : ¬ 0 < (BitVec.ofNat 32 (leNat (s.bytes x.cfg.start 4)) - BitVec.ofNat 32 x.rounds).toInt) :
    s.roundBegin f = s := by
  rw [State.roundBegin, hx]
  exact if_neg fun h => hd ((s.startDue_iff x).mp h.2.2.2)

/-- With the flow not open, or the link engine without its clock, a round does not move. -/
theorem State.rounds_off (hoff : (s.flow f).st ≠ .opened ∨ s.regionStopped 16 = true) :
    s.roundBegin f = s ∧ s.chunkContribute f = s ∧ s.chunkComplete f = s ∧ s.roundComplete f = s := by
  refine ⟨?_, ?_, ?_, ?_⟩
  · rw [State.roundBegin, hx]
    refine if_neg fun h => ?_
    obtain ⟨hst, hclk, -, -⟩ := h
    exact hoff.elim (· hst) hclk
  · rw [State.chunkContribute, hx]
    exact if_pos (hoff.elim Or.inl fun h => .inr (.inl h))
  · rw [State.chunkComplete, hx]
    dsimp only
    split
    · rfl
    · exact if_pos (hoff.elim Or.inl fun h => .inr (.inl h))
  · rw [State.roundComplete, hx]
    exact if_pos (hoff.elim Or.inl fun h => .inr (.inl h))
end

end Sys2Proof.Machine
end

section
/-!
PROOFS. CHUNK_CONTRIBUTE (R215, R216, R226): the source is read under the regulators, and the next contribution is converted or its
message handed on.
-/
namespace Sys2Proof.Machine

/-! ### Reading the source -/

/-- Pass the regulators that the source of the next contribution, and the scale of its chunk, lie behind. -/
def State.passSource (s : State) (f c : Nat) (x : RedS) : State :=
  let s := (s.touch x.source.1 x.source.2).regulate c x.source.1 x.source.2 (.flow f 0) fun _ _ => .pass
  if x.cfg.coll ≤ 1 then s.scaleRead f (x.cfg.scaleOf x.next).1 (x.cfg.scaleOf x.next).2 else s

/-- A contribution whose source has, or has not, been asked for. -/
def RedS.withAsked (x : RedS) (b : Bool) : RedS := { x with asked := b }

theorem State.readSource_eq (s : State) (f c : Nat) (x : RedS) : s.readSource f c x =
    if x.asked then s else (s.passSource f c x).modRed f (·.withAsked true) := rfl

section
variable {s : State} (hr : s.regionStopped 17 = false) {f c : Nat} {x : RedS}
include hr

theorem State.passSource_passed : s.Passed (s.passSource f c x) := by
  have htouch := (s.touch_passed x.source.1 x.source.2).1
  have hreg := htouch.trans (State.regulate_flow_passed (f := f) (k := 0) (by rw [htouch.only.regionStopped, hr]) c x.source.1 x.source.2)
  unfold State.passSource
  dsimp only
  split
  · exact hreg.trans (State.scaleRead_passed (by rw [hreg.only.regionStopped, hr]) f _ _)
  · exact hreg

/-- A source and a scale that pass no regulator are read at once. -/
theorem State.passSource_regQ (hc : (s.flow f).ctx = c) (hsrc : s.unregulated c x.source.1 x.source.2)
    (hscale : x.cfg.coll ≤ 1 → s.unregulated c (x.cfg.scaleOf x.next).1 (x.cfg.scaleOf x.next).2) :
    (s.passSource f c x).dev.memS.regQ = s.dev.memS.regQ := by
  obtain ⟨htouch, hq⟩ := s.touch_passed x.source.1 x.source.2
  unfold State.passSource
  rw [State.read_flow_unregulated hr hsrc]
  dsimp only
  split
  · rename_i hcoll
    have hu := htouch.unregulated (hscale hcoll)
    rw [State.scaleRead, htouch.only.flow, hc, State.read_flow_unregulated (by rw [htouch.only.regionStopped, hr]) hu]
    exact ((State.touch_passed _ _ _).2).trans hq
  · exact hq

/-- A source one byte of which lies behind a regulator waits there. -/
theorem State.passSource_queued {a : Nat} (hlo : x.source.1 ≤ a) (hhi : a < x.source.1 + x.source.2) (h : s.regulator c a ≠ none) :
    (s.passSource f c x).queued (.flow f 0) := by
  have htouch := (s.touch_passed x.source.1 x.source.2).1
  have hrun : (s.touch x.source.1 x.source.2).regionStopped 17 = false := by rw [htouch.only.regionStopped, hr]
  have hq := State.regulate_flow_queued (f := f) (k := 0) hrun c hlo hhi (by rwa [htouch.only.regulator])
  have hpass := State.regulate_flow_passed (f := f) (k := 0) hrun c x.source.1 x.source.2
  unfold State.passSource
  dsimp only
  split
  · generalize State.regulate _ c _ _ _ _ = t at hq hpass ⊢
    obtain ⟨htouch', hq'⟩ := t.touch_passed (x.cfg.scaleOf x.next).1 (x.cfg.scaleOf x.next).2
    refine State.queued_regulate_flow (by rw [htouch'.only.regionStopped, hpass.only.regionStopped, hrun]) _ _ _ ?_
    obtain ⟨r, hmem, hw⟩ := hq
    exact ⟨r, by rwa [hq'], hw⟩
  · exact hq
end

/-! ### Contributing a chunk -/

/-- A contribution depends on the bytes of tier space and their marks alone. -/
theorem State.contribution_congr {s t : State} (hm : t.mem = s.mem) (hb : t.bad = s.bad) (seed : BitVec 64) (x : RedS) (j : Nat) :
    t.contribution seed x j = s.contribution seed x j := by
  simp only [State.contribution, State.badIn, State.bytes, State.unitX, hm, hb]

/-- The reduction of flow `f` exists and satisfies `P`. -/
def State.redIs (s : State) (f : Nat) (P : RedS → Prop) : Prop := ∃ y, (s.flow f).red = some y ∧ P y

section
variable {s t : State} {f : Nat} {P : RedS → Prop}

theorem State.redIs_of_flow (h : t.flow f = s.flow f) (hP : s.redIs f P) : t.redIs f P := by
  rw [State.redIs, h]
  exact hP

theorem State.redIs_modRed {g : RedS → RedS} (hP : s.redIs f fun y => P (g y)) : (s.modRed f g).redIs f P := by
  obtain ⟨y, hy, h⟩ := hP
  exact ⟨g y, by rw [State.red_modRed, hy]; rfl, h⟩

theorem State.Messaged.redIs (h : s.Messaged t f) (hsend : ∀ y nb o, P y → P { y with nbrs := nb, out := o }) (hP : s.redIs f P) :
    t.redIs f P := by
  obtain ⟨y, hy, hPy⟩ := hP
  obtain ⟨nb, o, hred⟩ := h.red_some hy
  exact ⟨_, hred, hsend y nb o hPy⟩

section
variable (hslab : ∀ y nb o sl, P y → P { y with nbrs := nb, out := o, slabs := sl }) (hP : s.redIs f P)
include hslab hP

theorem State.redIs_toNeighbour (q : Nat) {fs : List Frame} (h : ∀ g ∈ fs, ofRed g) : (s.toNeighbour f q fs).redIs f P :=
  (s.messaged_toNeighbour f q h).redIs (fun y nb o => hslab y nb o y.slabs) hP

theorem State.redIs_slabAdd (x : RedS) (j : Nat) (p : Part) : (s.slabAdd f x j p).redIs f P := by
  have hmod (t : State) (ht : t.redIs f P) (g : RedS → AMap Nat SlabS) : (t.modRed f fun y => { y with slabs := g y }).redIs f P := by
    obtain ⟨y, hy, h⟩ := ht
    exact State.redIs_modRed ⟨y, hy, hslab y y.nbrs y.out (g y) h⟩
  have hput (t : State) (ht : t.redIs f P) (a b : Nat) (d e : List Byte) : ((t.put a d false).put b e false).redIs f P := ht
  unfold State.slabAdd
  refine State.redIs_of_flow (State.bump_flow _ _ _ _ _ _ _ f) (hmod _ (hput _ ?_ _ _ _ _) _)
  split
  · exact hP
  · exact hP

theorem State.redIs_forwardPart (j : Nat) : (s.forwardPart f j).redIs f P := by
  obtain ⟨y, hy, hPy⟩ := hP
  unfold State.forwardPart
  rw [hy]
  dsimp only
  split
  · exact ⟨y, hy, hPy⟩
  · split
    · exact ⟨y, hy, hPy⟩
    · refine State.redIs_toNeighbour hslab (State.redIs_modRed ⟨y, hy, ?_⟩) _ (chunkFrames_ofRed (.inl rfl) j _ _)
      exact hslab y y.nbrs y.out _ hPy
end

/-- A chunk of which `sat` elements saturated has been contributed: the next one comes next, and its saturations are added up. -/
def RedS.contributed (x : RedS) (sat : Nat) (y : RedS) : Prop :=
  y.next = x.next + 1 ∧ y.done = x.done ∧ y.rounds = x.rounds ∧ y.running = x.running ∧ y.asked = x.asked ∧ y.sat = x.sat + sat

theorem State.contribute_redIs {x : RedS} (hx : (s.flow f).red = some x) : (s.contribute f x).redIs f
    (x.contributed ((s.contribution (s.ctx (s.flow f).ctx).seed x x.next).1.filter (·.sat)).length) := by
  unfold State.contribute
  dsimp only
  generalize s.contribution (s.ctx (s.flow f).ctx).seed x x.next = es
  have hslab (y : RedS) (nb : AMap Nat Nbr) (o : List (Nat × Nat × List Byte × List Nat)) (sl : AMap Nat SlabS)
      (h : x.contributed (countOut (·.sat) es.1) y) :
      x.contributed (countOut (·.sat) es.1) { y with nbrs := nb, out := o, slabs := sl } := h
  have hcounted := (s.told_bump .redCntSat [] (countOut (·.sat) es.1) none 8 0).trans
    (State.told_bump _ .redCntPoison [] (countOut (·.nan) es.1) none 8 0)
  generalize State.bump (State.bump s .redCntSat _ _ _ _ _) .redCntPoison _ _ _ _ _ = t at hcounted ⊢
  generalize hu : (if countOut (·.sat) es.1 > 0 ∧ x.sat = 0 then
    t.raise 0x0404 { kind := 8, index := 0, ctx := some (s.flow f).ctx, step := x.cfg.step x.rounds, detail := BitVec.ofNat 64 f }
    else t) = u
  have hred : (u.flow f).red = some x := by
    rw [← hu]
    split
    · rw [State.raise_flow, hcounted.flow, hx]
    · rw [hcounted.flow, hx]
  have hmod := State.redIs_modRed (P := x.contributed (countOut (·.sat) es.1)) (g := fun y => { y with
    next := x.next + 1, sat := y.sat + countOut (·.sat) es.1, nan := y.nan + countOut (·.nan) es.1,
    inf := y.inf + countOut (·.inf) es.1 }) ⟨x, hred, rfl, rfl, rfl, rfl, rfl, rfl⟩
  generalize State.modRed u f _ = v at hmod ⊢
  split
  · exact State.redIs_toNeighbour hslab hmod _ (chunkFrames_ofRed (.inl rfl) x.next _ _)
  · split
    · exact State.redIs_forwardPart hslab (State.redIs_slabAdd hslab hmod _ _ _) _
    · exact hmod
end

end Sys2Proof.Machine
end

section
/-!
PROOFS. CHUNK_CONTRIBUTE, case by case (R157, R209, R215, R226).
-/
namespace Sys2Proof.Machine

theorem RedS.mayContribute_iff (x : RedS) : x.mayContribute = true ↔
    if x.cfg.coll ≤ 1 then x.next < x.cfg.chunks ∧ (x.next < x.cfg.slots ∨ x.next - x.cfg.slots ∈ x.done)
    else x.next < x.cfg.pieces ∧ (x.cfg.coll = 2 ∨ x.cfg.rank = x.cfg.root) := by
  unfold RedS.mayContribute
  dsimp only
  split <;> simp

theorem RedS.source_eq (x : RedS) : x.source =
    (x.cfg.src + 131072 * x.next, if x.cfg.coll ≤ 1 then 4 * x.cfg.chunkLen x.next else x.cfg.pieceLen x.next) := by
  unfold RedS.source
  dsimp only
  split <;> rfl

/-- A refused access of a reduction moves no byte, and its flow is FAULTED. -/
theorem State.redFault_effect (s : State) (f : Nat) (r : Nat × Nat × Nat) :
    (s.redFault f r).mem = s.mem ∧ ((s.redFault f r).flow f).st = .faulted := by
  unfold State.redFault
  dsimp only
  refine ⟨?_, by rw [State.flow_modFlow_self]⟩
  rw [State.modFlow_mem, State.raise_mem, State.memFault_mem]

/-! ### The message of a contribution (COLL 2 and 3) -/

/-- The message that a member contributes next. -/
def RedS.pieceNo (x : RedS) : Nat := (if x.cfg.coll = 2 then x.cfg.rank * x.cfg.pieces else 0) + x.next

/-- A message of the member's own bytes has been contributed. -/
def RedS.contributedPiece (x : RedS) (y : RedS) : Prop :=
  y.next = x.next + 1 ∧ y.done = x.done ++ [x.pieceNo] ∧ y.rounds = x.rounds ∧ y.running = x.running ∧ y.asked = x.asked

/-- The member's next message is written into its own result, and counts as done. -/
theorem State.contributeBytes_effect {s : State} {f : Nat} {x : RedS} (hx : (s.flow f).red = some x) (hst : (s.flow f).st = .opened)
    (hland : s.landRefused (s.flow f) (x.cfg.pieceAt x.pieceNo) (x.cfg.pieceLen x.pieceNo) = none) (hm : s.mem.wf = true)
    (hr : s.regionStopped 17 = false) (hd : s.direct (s.flow f).ctx (x.cfg.pieceAt x.pieceNo) (x.cfg.pieceLen x.pieceNo)) :
    (s.contributeBytes f x).redIs f x.contributedPiece ∧ ∃ v,
      s.Wrote v (x.cfg.pieceAt x.pieceNo) (s.bytes (x.cfg.src + 131072 * x.next) (x.cfg.pieceLen x.pieceNo)) ∧
        (s.contributeBytes f x).mem = v.mem := by
  have hlen : (s.bytes (x.cfg.src + 131072 * x.next) (x.cfg.pieceLen x.pieceNo)).length = x.cfg.pieceLen x.pieceNo :=
    Mem.length_readN _ _ _
  unfold State.contributeBytes
  dsimp only
  rw [← RedS.pieceNo]
  generalize s.bytes (x.cfg.src + 131072 * x.next) (x.cfg.pieceLen x.pieceNo) = d at hlen ⊢
  rw [← hlen] at hland hd
  have hwrote := State.resWrite_wrote hst hland hm hr hd ((s.badIn (x.cfg.src + 131072 * x.next) (x.cfg.pieceLen x.pieceNo)).map
    (· - (x.cfg.src + 131072 * x.next) / 32))
  generalize State.resWrite s f _ d _ = v at hwrote ⊢
  have hflow := hwrote.stored.only.flow f
  rw [if_neg (by rw [hflow]; exact not_not.mpr hst)]
  have hsent := State.messaged_passPiece (v.modRed f fun x' => { x' with next := x'.next + 1, done := x'.done ++ [x.pieceNo] }) f none
    x.pieceNo d ((s.badIn (x.cfg.src + 131072 * x.next) (x.cfg.pieceLen x.pieceNo)).map (· - (x.cfg.src + 131072 * x.next) / 32))
  refine ⟨hsent.redIs (P := x.contributedPiece) (fun _ _ _ h => h) (State.redIs_modRed ⟨x, by rw [hflow, hx], ?_⟩), v, hwrote, hsent.mem⟩
  exact ⟨rfl, rfl, rfl, rfl, rfl⟩

section
variable {s : State} {f : Nat} {x : RedS} (hx : (s.flow f).red = some x) (hon : s.redOn f) (hrun : x.running = true)
  (hw : s.waits (.flow f 0) = false)
include hx hon hrun hw

/-- What CHUNK_CONTRIBUTE of a flow does whose round is in progress and whose accesses do not wait. -/
theorem State.chunkContribute_eq : s.chunkContribute f =
    if x.mayContribute = true then
      match s.reach (s.flow f).ctx x.source.1 x.source.2 with
      | some (a, c) => s.redFault f (0x0104, c, a)
      | none =>
        if (s.readSource f (s.flow f).ctx x).waits (.flow f 0) = true then s.readSource f (s.flow f).ctx x
        else
          let t := (s.readSource f (s.flow f).ctx x).modRed f (·.withAsked false)
          if x.cfg.coll ≤ 1 then t.contribute f (x.withAsked false) else t.contributeBytes f (x.withAsked false)
    else s := by
  obtain ⟨hst, hclk⟩ := hon
  rw [State.chunkContribute, hx]
  dsimp only
  by_cases hmay : x.mayContribute = true
  · rw [if_pos hmay, if_neg (by simp [hst, hclk, hrun, hmay, hw])] <;> rfl
  · rw [if_neg hmay]
    exact if_pos (.inr (.inr (.inr (.inl hmay))))

theorem State.chunkContribute_idle (hmay : ¬ x.mayContribute = true) : s.chunkContribute f = s := by
  rw [State.chunkContribute_eq hx hon hrun hw, if_neg hmay]

theorem State.chunkContribute_unreached (hmay : x.mayContribute = true) (h : s.reach (s.flow f).ctx x.source.1 x.source.2 ≠ none) :
    (s.chunkContribute f).mem = s.mem ∧ ((s.chunkContribute f).flow f).st = .faulted := by
  obtain ⟨⟨a, c⟩, hr⟩ := Option.ne_none_iff_exists'.1 h
  rw [State.chunkContribute_eq hx hon hrun hw, if_pos hmay, hr]
  exact s.redFault_effect f _

variable (hr : s.regionStopped 17 = false) (hmay : x.mayContribute = true)
  (hreach : s.reach (s.flow f).ctx x.source.1 x.source.2 = none)
include hr hmay hreach

/-- Behind a regulator the source is asked for, once. -/
theorem State.chunkContribute_asks (hask : x.asked = false)
    (hreg : ∃ a, x.source.1 ≤ a ∧ a < x.source.1 + x.source.2 ∧ s.regulator (s.flow f).ctx a ≠ none) :
    (s.chunkContribute f).mem = s.mem ∧ (s.chunkContribute f).flow f = { s.flow f with red := some { x with asked := true } } ∧
      (s.chunkContribute f).waits (.flow f 0) = true := by
  obtain ⟨a, hlo, hhi, ha⟩ := hreg
  have hpass := State.passSource_passed hr (f := f) (c := (s.flow f).ctx) (x := x)
  have hq := State.passSource_queued hr (f := f) hlo hhi ha
  have hread : s.readSource f (s.flow f).ctx x = (s.passSource f (s.flow f).ctx x).modRed f (·.withAsked true) := by
    rw [State.readSource_eq, hask]
    exact if_neg Bool.false_ne_true
  have hwait : (s.readSource f (s.flow f).ctx x).waits (.flow f 0) = true := by
    rw [hread]
    exact State.waits_of_queued hq
  rw [State.chunkContribute_eq hx hon hrun hw, if_pos hmay, hreach]
  dsimp only
  rw [if_pos hwait]
  refine ⟨?_, ?_, hwait⟩
  · rw [hread, State.modRed_mem, hpass.mem]
  · have hflow := hpass.only.flow f
    rw [hread, State.flow_modRed_some _ (by rw [hflow, hx]), hflow]
    rfl

variable (hgo : x.asked = true ∨ (s.unregulated (s.flow f).ctx x.source.1 x.source.2 ∧
  (x.cfg.coll ≤ 1 → s.unregulated (s.flow f).ctx (x.cfg.scaleOf x.next).1 (x.cfg.scaleOf x.next).2)))
include hgo

/-- Once its source has been read, or passes no regulator, a contribution is made in a state that differs by stamps alone. -/
theorem State.chunkContribute_goes : ∃ u, s.Passed u ∧ s.chunkContribute f =
    if x.cfg.coll ≤ 1 then (u.modRed f (·.withAsked false)).contribute f (x.withAsked false)
    else (u.modRed f (·.withAsked false)).contributeBytes f (x.withAsked false) := by
  rw [State.chunkContribute_eq hx hon hrun hw, if_pos hmay, hreach]
  dsimp only
  rw [State.readSource_eq]
  by_cases hask : x.asked = true
  · rw [if_pos hask, hw, if_neg Bool.false_ne_true]
    exact ⟨s, .refl s, rfl⟩
  · obtain ⟨hsrc, hscale⟩ := hgo.resolve_left hask
    have hpass := State.passSource_passed hr (f := f) (c := (s.flow f).ctx) (x := x)
    have hwaits : ((s.passSource f (s.flow f).ctx x).modRed f (·.withAsked true)).waits (.flow f 0) = false :=
      (hpass.only.waits (State.passSource_regQ hr rfl hsrc hscale) _).trans hw
    rw [if_neg hask, hwaits, if_neg Bool.false_ne_true, State.modRed_modRed]
    exact ⟨_, hpass, rfl⟩

theorem State.chunkContribute_chunk (hcoll : x.cfg.coll ≤ 1) : (s.chunkContribute f).redIs f ((x.withAsked false).contributed
    ((s.contribution (s.ctx (s.flow f).ctx).seed x x.next).1.filter (·.sat)).length) := by
  obtain ⟨u, hpass, hu⟩ := State.chunkContribute_goes hx hon hrun hw hr hmay hreach hgo
  have hflow : (u.modRed f (·.withAsked false)).flow f = { s.flow f with red := some (x.withAsked false) } := by
    rw [State.flow_modRed_some u (by rw [hpass.only.flow, hx]), hpass.only.flow]
  have hcon := State.contribute_redIs (s := u.modRed f (·.withAsked false)) (f := f) (x := x.withAsked false) (by rw [hflow])
  have hctx : (u.modRed f (·.withAsked false)).ctx (s.flow f).ctx = s.ctx (s.flow f).ctx := hpass.only.ctx _
  have hsame (seed : BitVec 64) : (u.modRed f (·.withAsked false)).contribution seed (x.withAsked false) x.next =
      s.contribution seed x x.next := State.contribution_congr (s := s) hpass.mem hpass.bad seed x x.next
  rw [hu, if_pos hcoll, ← hsame, ← hctx]
  rw [hflow] at hcon
  exact hcon

theorem State.chunkContribute_piece (hcoll : 1 < x.cfg.coll) (hm : s.mem.wf = true)
    (hland : s.landRefused (s.flow f) (x.cfg.pieceAt x.pieceNo) (x.cfg.pieceLen x.pieceNo) = none)
    (hd : s.direct (s.flow f).ctx (x.cfg.pieceAt x.pieceNo) (x.cfg.pieceLen x.pieceNo)) :
    (s.chunkContribute f).redIs f (x.withAsked false).contributedPiece ∧
      (s.chunkContribute f).bytes (x.cfg.pieceAt x.pieceNo) (x.cfg.pieceLen x.pieceNo) =
        s.bytes (x.cfg.src + 131072 * x.next) (x.cfg.pieceLen x.pieceNo) ∧
      ∀ a, a < x.cfg.pieceAt x.pieceNo ∨ x.cfg.pieceAt x.pieceNo + x.cfg.pieceLen x.pieceNo ≤ a →
        Mem.read (s.chunkContribute f).mem a = Mem.read s.mem a := by
  obtain ⟨u, hpass, hu⟩ := State.chunkContribute_goes hx hon hrun hw hr hmay hreach hgo
  have hflow : (u.modRed f (·.withAsked false)).flow f = { s.flow f with red := some (x.withAsked false) } := by
    rw [State.flow_modRed_some u (by rw [hpass.only.flow, hx]), hpass.only.flow]
  rw [hu, if_neg (by omega)]
  have hmem : (u.modRed f (·.withAsked false)).mem = s.mem := hpass.mem
  have hbytes (a n : Nat) : (u.modRed f (·.withAsked false)).bytes a n = s.bytes a n := by rw [State.bytes, hmem, State.bytes]
  have hacc : s.accessed u := hpass.only.accessed
  obtain ⟨hred, v, hwrote, hv⟩ := State.contributeBytes_effect (s := u.modRed f (·.withAsked false)) (f := f) (x := x.withAsked false)
    (by rw [hflow]) (by rw [hflow]; exact hon.1)
    (by rw [hflow, State.landRefused_modRed, hacc.landRefused]; exact hland)
    (by rw [hmem, hm]) (hacc.regionStopped 17 |>.trans hr) (by rw [hflow]; exact hpass.only.direct hd)
  rw [hbytes] at hwrote
  have hwrote : (u.modRed f (·.withAsked false)).Wrote v (x.cfg.pieceAt x.pieceNo)
      (s.bytes (x.cfg.src + 131072 * x.next) (x.cfg.pieceLen x.pieceNo)) := hwrote
  have hwf : (u.modRed f (·.withAsked false)).mem.wf = true := by rw [hmem, hm]
  have hlen : (s.bytes (x.cfg.src + 131072 * x.next) (x.cfg.pieceLen x.pieceNo)).length = x.cfg.pieceLen x.pieceNo :=
    Mem.length_readN _ _ _
  refine ⟨hred, ?_, fun a ha => ?_⟩
  · have := hwrote.bytes_within hwf (d₁ := []) (e := s.bytes (x.cfg.src + 131072 * x.next) (x.cfg.pieceLen x.pieceNo)) (d₂ := [])
      (by simp)
    rw [hlen] at this
    rw [State.bytes, hv]
    exact this
  · rw [hv, hwrote.read_outside hwf (by rw [hlen]; exact ha), hmem]
end

end Sys2Proof.Machine
end

section
/-!
PROOFS. CHUNK_COMPLETE and ROUND_COMPLETE (R218, R219, R221, R224, R225), and with them the rounds of a reduction.
-/
namespace Sys2Proof.Machine

/-! ### The result of a chunk (R218) -/

theorem length_codesOf (n : Nat) : ∀ (k : Nat) (d : List Byte), (codesOf n k d).length = k
  | 0, _ => rfl
  | k + 1, d => congrArg (· + 1) (length_codesOf n k (d.drop n))

theorem length_codeBytes (n : Nat) (vals : List (Option Int)) : (codeBytes n vals).length = n * vals.length :=
  length_flatten_map_of_forall (fun _ => length_leBytes n _) vals

/-- The bytes that a reduction's result takes at RES. -/
def RedRec.resLen (r : RedRec) : Nat := (r.areas.getD 1 (0, 0)).2

theorem RedRec.resLen_eq (r : RedRec) (h : r.coll ≤ 1) : r.resLen =
    if r.fp32 then 4 * r.count else if r.int16 then 64 + 4 * r.count else (2 * r.count + 63) / 64 * 64 + (r.count + 31) / 32 := by
  rw [RedRec.resLen, RedRec.areas, if_neg (by omega)]
  rfl

/-- Every write within the result of flow `f` may be performed. -/
def State.resOpen (s : State) (f : Nat) (r : RedRec) : Prop :=
  ∀ a n, r.res ≤ a → a + n ≤ r.res + r.resLen → s.landRefused (s.flow f) a n = none

section
variable {s : State} {f : Nat} {r : RedRec} (hst : (s.flow f).st = .opened) (hopen : s.resOpen f r)
include hst hopen

/-- A write within the result, or of nothing, in a state that accesses have led to. -/
theorem State.accessed.resWrite {t : State} (h : s.accessed t) {a : Nat} {d : List Byte}
    (hfit : d.length = 0 ∨ r.res ≤ a ∧ a + d.length ≤ r.res + r.resLen) (bad : List Nat) : s.accessed (t.resWrite f a d bad) := by
  have hflow := h.flow f
  refine h.trans (State.accessed_resWrite (by rw [hflow, hst]) ?_ bad)
  rw [hflow, h.landRefused]
  obtain hz | ⟨hlo, hhi⟩ := hfit
  · rw [hz, State.landRefused_zero]
  · exact hopen a d.length hlo hhi

/-- The sums of a chunk are written within the result. -/
theorem State.accessed_writeResult {x : RedS} (hr : x.cfg = r) (hcoll : r.coll ≤ 1) (j : Nat) {vals : List (Option Int)}
    (hlen : vals.length = r.chunkLen j) : s.accessed (s.writeResult f x j vals) := by
  have hread := s.accessed_scaleRead f (r.scaleOf j).1 (r.scaleOf j).2
  have hlen' : vals.length = min 32768 (r.count - 32768 * j) := hlen
  have hres := r.resLen_eq hcoll
  unfold State.writeResult
  rw [hr]
  dsimp only
  generalize State.scaleRead s f _ _ = t at hread ⊢
  split
  · rename_i hfp
    rw [if_pos hfp] at hres
    refine hread.resWrite hst hopen ?_ _
    rw [length_flatten_map_of_forall (length_leBytes 4)]
    simp only [List.length_map, List.length_zip, List.length_range]
    omega
  · rename_i hfp
    rw [if_neg hfp] at hres
    split
    · rename_i hint
      rw [if_pos hint] at hres
      have hfit : (codeBytes 4 vals).length = 0 ∨ r.res ≤ r.res + 64 + 4 * (32768 * j) ∧
          r.res + 64 + 4 * (32768 * j) + (codeBytes 4 vals).length ≤ r.res + r.resLen := by
        rw [length_codeBytes]
        omega
      by_cases hhead : j = if r.coll = 1 then r.rank else 0
      · rw [if_pos hhead]
        refine State.accessed.resWrite hst hopen (hread.resWrite hst hopen (.inr ⟨le_rfl, ?_⟩) _) hfit _
        rw [List.length_append, length_leBytes, length_leBytes]
        omega
      · rw [if_neg hhead]
        exact hread.resWrite hst hopen hfit _
    · rename_i hint
      rw [if_neg hint] at hres
      refine State.accessed.resWrite hst hopen (hread.resWrite hst hopen ?_ _) ?_ _
      · rw [length_codeBytes]
        omega
      · rw [List.length_map, List.length_range]
        omega
end

/-! ### A chunk is done (R221, R225) -/

/-- A result has been taken for a chunk: it is done, and its poisoned elements count. -/
def RedS.finished (x : RedS) (j pcount : Nat) (y : RedS) : Prop :=
  y.done = x.done ++ [j] ∧ y.slabs = x.slabs ∧ y.pcount = x.pcount + pcount ∧ y.rounds = x.rounds ∧ y.running = x.running

theorem State.flow_eventHalt (s : State) (c f : Nat) : (s.eventHalt c).flow f = s.flow f := by
  rw [State.eventHalt, State.modCtx_flow, State.haltCtx, State.modCtx_flow,
    State.haltCores_keeps (State.flow · f) (fun t c g => State.modCore_flow t c g f)]

theorem State.finishChunk_redIs {s : State} {f : Nat} {y : RedS} (hy : (s.flow f).red = some y) (x : RedS) (j : Nat) (q : ResRec) :
    (s.finishChunk f x j q).redIs f (y.finished j q.pcount) := by
  unfold State.finishChunk
  dsimp only
  generalize hu : State.modRed s f _ = u
  have hred : u.redIs f (y.finished j q.pcount) := hu ▸ State.redIs_modRed ⟨y, hy, rfl, rfl, rfl, rfl, rfl⟩
  generalize hv : (if x.cfg.normId = 0xFF then u else u.modLink fun l => { l with
    norms := AMap.set l.norms (x.cfg.normId, x.cfg.step x.rounds)
      ((AMap.get l.norms (0, false) (x.cfg.normId, x.cfg.step x.rounds)).1 + q.norm,
        (AMap.get l.norms (0, false) (x.cfg.normId, x.cfg.step x.rounds)).2 || decide (q.pcount > 0)) }) = v
  have hflow : v.flow f = u.flow f := by
    rw [← hv]
    split <;> rfl
  have hnorm := State.redIs_of_flow hflow hred
  split
  · split
    · exact State.redIs_of_flow (State.flow_eventHalt _ _ _) (State.redIs_of_flow (State.raise_flow _ _ _ _) hnorm)
    · exact State.redIs_of_flow (State.raise_flow _ _ _ _) hnorm
  · exact hnorm

/-! ### CHUNK_COMPLETE (R218) -/

section
variable {s : State} {f : Nat} {x : RedS} (hx : (s.flow f).red = some x)
include hx

/-- Whether this member completes a chunk of its slab. -/
def RedS.completeAt (x : RedS) (p : Nat × SlabS) : Bool := x.cfg.completes p.1 x.cfg.rank && p.2.contrib == x.cfg.g

omit hx in
theorem RedS.completeAt_eq_false {p : Nat × SlabS} :
    x.completeAt p = false ↔ x.cfg.completes p.1 x.cfg.rank = false ∨ p.2.contrib ≠ x.cfg.g := by
  simp [RedS.completeAt, imp_iff_not_or]

theorem State.chunkComplete_idle (h : ∀ p ∈ x.slabs, x.completeAt p = false) : s.chunkComplete f = s := by
  have hfind : List.find? (fun p => x.cfg.completes p.1 x.cfg.rank && p.2.contrib == x.cfg.g) x.slabs = none :=
    List.find?_eq_none.mpr fun p hp => Bool.eq_false_iff.mp (h p hp)
  rw [State.chunkComplete, hx]
  dsimp only
  rw [hfind]

/-- The first chunk of this member that has all contributions leaves its slab and is done. -/
theorem State.chunkComplete_redIs {j : Nat} {b : SlabS} (hfind : List.find? x.completeAt x.slabs = some (j, b)) (hon : s.redOn f)
    (hrun : x.running = true) (hcoll : x.cfg.coll ≤ 1) (hopen : s.resOpen f x.cfg) : (s.chunkComplete f).redIs f fun y =>
      y.done = x.done ++ [j] ∧ AMap.find? y.slabs j = none ∧ y.pcount = x.pcount + b.pcount ∧ y.rounds = x.rounds ∧ y.running = true := by
  have hfind' : List.find? (fun p => x.cfg.completes p.1 x.cfg.rank && p.2.contrib == x.cfg.g) x.slabs = some (j, b) := hfind
  obtain ⟨hst, hclk⟩ := hon
  have hlen : ((s.slabWords x.cfg j).map fun w => if bit w 63 then none else some (sint 48 w)).length = x.cfg.chunkLen j := by
    rw [List.length_map]
    exact length_codesOf _ _ _
  rw [State.chunkComplete, hx]
  dsimp only
  rw [hfind']
  dsimp only
  rw [if_neg (by simp [hst, hclk, hrun])]
  generalize List.map _ (s.slabWords x.cfg j) = vals at hlen ⊢
  have herased := s.flow_modRed_some hx fun x => { x with slabs := AMap.erase x.slabs j }
  have hopen' : (s.modRed f fun x => { x with slabs := AMap.erase x.slabs j }).resOpen f x.cfg := fun a n hlo hhi => by
    rw [State.landRefused_modRed, herased]
    exact hopen a n hlo hhi
  have hwritten := State.accessed_writeResult (by rw [herased]; exact hst) hopen' (x := x) rfl hcoll j hlen
  generalize State.writeResult _ f x j vals = t at hwritten ⊢
  have hflow := hwritten.flow f
  rw [herased] at hflow
  rw [if_neg (by rw [hflow]; exact not_not.mpr hst)]
  refine (State.messaged_sendResult _ f _ _ _ _).redIs (fun _ _ _ h => h) ?_
  obtain ⟨y, hy, hdone, hslabs, hpc, hrounds, hrunning⟩ := State.finishChunk_redIs (s := t) (by rw [hflow]) x j
    ⟨b.pcount, b.prank, s.chunkNorm x.cfg j vals, s.slabAmax x.cfg j⟩
  exact ⟨y, hy, hdone, by rw [hslabs]; exact AMap.find?_erase_self _ _, hpc, hrounds, hrunning.trans hrun⟩
end

/-! ### ROUND_COMPLETE (R219, R224, R225) -/

theorem State.told_normStore (s : State) (n : Nat) (step : BitVec 64) : s.Told (s.normStore n step) := by
  unfold State.normStore
  dsimp only
  split
  · split
    · exact ⟨rfl, fun _ => rfl⟩
    · exact .refl s
  · exact .refl s

section
variable (s : State) (f : Nat) (x : RedS)

/-- The scale entries as the end of a round leaves them. -/
def State.steppedScales : List Byte :=
  (List.range x.cfg.scaleEntries).flatMap fun e =>
    leBytes 4 (scaleStep x.cfg (leNat (s.bytes (x.cfg.scale + 4 * e) 4)) (AMap.get x.amax 0 e))

theorem State.length_steppedScales : (s.steppedScales x).length = 4 * x.cfg.scaleEntries := by
  rw [State.steppedScales, List.flatMap_def, length_flatten_map_of_forall (fun _ => length_leBytes 4 _), List.length_range]

theorem State.stepScale_eq : s.stepScale f x =
    (s.scaleRead f x.cfg.scale (4 * x.cfg.scaleEntries)).resWrite f x.cfg.scale (s.steppedScales x) [] := rfl

variable {s f x} (hst : (s.flow f).st = .opened) (hland : s.landRefused (s.flow f) x.cfg.scale (4 * x.cfg.scaleEntries) = none)
include hst hland

theorem State.accessed_stepScale : s.accessed (s.stepScale f x) := by
  have hread := s.accessed_scaleRead f x.cfg.scale (4 * x.cfg.scaleEntries)
  rw [State.stepScale_eq]
  refine hread.trans (State.accessed_resWrite (by rw [hread.flow, hst]) ?_ [])
  rw [hread.flow, hread.landRefused, State.length_steppedScales, hland]

/-- Each entry is stepped where it stands. -/
theorem State.stepScale_entry (hd : s.direct (s.flow f).ctx x.cfg.scale (4 * x.cfg.scaleEntries)) (hr : s.regionStopped 17 = false)
    (hm : s.mem.wf = true) {e : Nat} (he : e < x.cfg.scaleEntries) :
    leNat ((s.stepScale f x).bytes (x.cfg.scale + 4 * e) 4) =
      scaleStep x.cfg (leNat (s.bytes (x.cfg.scale + 4 * e) 4)) (AMap.get x.amax 0 e) % 2 ^ 32 := by
  have hread := State.scaleRead_passed hr f x.cfg.scale (4 * x.cfg.scaleEntries)
  have hacc := s.accessed_scaleRead f x.cfg.scale (4 * x.cfg.scaleEntries)
  rw [State.stepScale_eq]
  generalize State.scaleRead s f _ _ = t at hread hacc ⊢
  have hlen := s.length_steppedScales x
  have hflow := hread.only.flow f
  have hwf : t.mem.wf = true := by rw [hread.mem, hm]
  have hwrote := State.resWrite_wrote (s := t) (f := f) (a := x.cfg.scale) (d := s.steppedScales x) (by rw [hflow, hst])
    (by rw [hflow, hacc.landRefused, hlen, hland]) hwf (by rw [hread.only.regionStopped, hr])
    (by rw [hflow, hlen]; exact hread.only.direct hd) []
  have hbytes := hwrote.bytes_within hwf
    (flatten_map_split (fun e => leBytes 4 (scaleStep x.cfg (leNat (s.bytes (x.cfg.scale + 4 * e) 4)) (AMap.get x.amax 0 e)))
      (l := List.range x.cfg.scaleEntries) (j := e) (by rwa [List.length_range]))
  have hbefore := length_flatten_map_of_forall
    (fun e => length_leBytes 4 (scaleStep x.cfg (leNat (s.bytes (x.cfg.scale + 4 * e) 4)) (AMap.get x.amax 0 e)))
    ((List.range x.cfg.scaleEntries).take e)
  rw [List.length_take, List.length_range, min_eq_left (by omega)] at hbefore
  rw [hbefore, length_leBytes, List.getElem_range] at hbytes
  rw [hbytes, leNat_leBytes]
end

/-- The state in which a round that is over is counted: its scales have been stepped, if it has any. -/
def State.scaled (s : State) (f : Nat) (x : RedS) : State := if x.cfg.coll > 1 then s else s.stepScale f x

section
variable {s : State} {f : Nat} {x : RedS} (hx : (s.flow f).red = some x) (hon : s.redOn f) (hrun : x.running = true)
include hx

/-- A reduction whose round has been completed. -/
def RedS.roundEnded (x y : RedS) : Prop :=
  y.running = false ∧ y.rounds = x.rounds + 1 ∧ y.lastSat = x.sat ∧ y.lastPcount = x.pcount ∧
    y.lastStep = BitVec.ofNat 64 (x.cfg.step0 + x.rounds)

theorem State.roundComplete_idle (h : ¬ (x.cfg.total ≤ x.done.length ∧ s.waits (.flow f 0) = false)) : s.roundComplete f = s := by
  rw [State.roundComplete, hx]
  refine if_pos (.inr (.inr (.inr ?_)))
  rw [not_and_or, Nat.not_le, Bool.not_eq_false] at h
  exact h

include hon hrun

/-- A round that is over is counted once its scales are stepped; no other flow and no byte changes by that. -/
theorem State.roundComplete_effect (hready : x.cfg.total ≤ x.done.length ∧ s.waits (.flow f 0) = false)
    (hscaled : s.accessed (s.scaled f x)) : (s.roundComplete f).redIs f x.roundEnded ∧ (s.roundComplete f).mem = (s.scaled f x).mem ∧
      ∀ g, g ≠ f → (s.roundComplete f).flow g = s.flow g := by
  obtain ⟨hst, hclk⟩ := hon
  obtain ⟨hdone, hwait⟩ := hready
  rw [State.roundComplete, hx]
  dsimp only
  rw [if_neg (by simp [hst, hclk, hrun, hwait, hdone]), ← State.scaled]
  generalize s.scaled f x = t at hscaled ⊢
  have hflow := hscaled.flow f
  rw [if_neg (by rw [hflow]; exact not_not.mpr hst)]
  generalize hu : State.modRed t f _ = u
  have hred : u.redIs f x.roundEnded := hu ▸ State.redIs_modRed ⟨x, by rw [hflow, hx], rfl, rfl, rfl, rfl, rfl⟩
  have hmem : u.mem = t.mem := hu ▸ rfl
  have hne (g : Nat) (hg : g ≠ f) : u.flow g = s.flow g := by
    rw [← hu, State.flow_modRed_ne _ _ hg, hscaled.flow]
  have hcounted := u.told_bump .redCntRounds [] 1 none 8 0
  have hend : u.Told (if x.cfg.normId = 0xFF then u.bump .redCntRounds [] 1 none 8 0
      else (u.bump .redCntRounds [] 1 none 8 0).normStore x.cfg.normId (x.cfg.step x.rounds)) := by
    split
    · exact hcounted
    · exact hcounted.trans (State.told_normStore _ _ _)
  exact ⟨State.redIs_of_flow (hend.flow f) hred, hend.mem.trans hmem, fun g hg => (hend.flow g).trans (hne g hg)⟩
end

/-- Settles O43: each command of a round, case by case; the writes of a result and of the scales are those of accesses that may wait, and
the messages that a member sends change only what it keeps of its neighbours. -/
theorem roundsOfAReduction : Obligations.RoundsOfAReduction := by
  unfold Obligations.RoundsOfAReduction
  intro f s x
  dsimp only
  intro hx
  simp only [exec_roundBegin, exec_chunkContribute, exec_chunkComplete, exec_roundComplete, Host.Outcome.next.injEq]
  have hon : ¬ ((s.flow f).st ≠ .opened ∨ s.regionStopped 16 = true) → s.redOn f := fun h => by
    rw [not_or, not_not, Bool.not_eq_true] at h
    exact h
  refine ⟨State.rounds_off hx, fun hoff hrun => ⟨fun hd => State.roundBegin_begins hx (hon hoff) hrun hd,
    fun hd => State.roundBegin_waits hx (not_lt.mpr hd)⟩, fun hoff hrun hw hr => ?_, fun hoff hrun => ⟨fun h => ?_, ?_⟩,
    fun hoff hrun => ⟨State.roundComplete_idle hx, fun hready hscale => ?_⟩⟩
  · rw [← RedS.mayContribute_iff]
    have hsrc := x.source_eq
    refine ⟨fun hmay => State.chunkContribute_idle hx (hon hoff) hrun hw hmay, fun hmay hreach => ⟨_, rfl, ?_⟩,
      fun hmay hreach hask hreg => ⟨_, rfl, ?_⟩, fun hmay hreach hgo => ⟨fun hcoll => ?_, fun hcoll hland hd hm => ?_⟩⟩
    · exact State.chunkContribute_unreached hx (hon hoff) hrun hw hmay (by rw [hsrc]; exact hreach)
    · exact State.chunkContribute_asks hx (hon hoff) hrun hw hr hmay (by rw [hsrc]; exact hreach) hask (by rw [hsrc]; exact hreg)
    · obtain ⟨y, hy, hnext, hdone, hrounds, hrunning, hasked, hsat⟩ := State.chunkContribute_chunk hx (hon hoff) hrun hw hr hmay
        (by rw [hsrc]; exact hreach) (by rw [hsrc]; exact hgo) hcoll
      exact ⟨_, y, rfl, hy, hnext, hdone, hrounds, hrunning.trans hrun, hasked, hsat⟩
    · obtain ⟨⟨y, hy, hnext, hdone, hrounds, hrunning, hasked⟩, hbytes, hread⟩ := State.chunkContribute_piece hx (hon hoff) hrun hw hr
        hmay (by rw [hsrc]; exact hreach) (by rw [hsrc]; exact hgo) hcoll hm hland hd
      exact ⟨_, y, rfl, hy, hnext, hdone, hrounds, hrunning.trans hrun, hasked, hbytes, hread⟩
  · exact State.chunkComplete_idle hx fun p hp => RedS.completeAt_eq_false.mpr (h p hp)
  · intro pre j b post hslabs hpre hown hall hcoll hopen
    have hfind : List.find? x.completeAt x.slabs = some (j, b) := by
      rw [hslabs, List.find?_append, List.find?_eq_none.mpr, Option.none_or, List.find?_cons_of_pos]
      · simp [RedS.completeAt, hown, hall]
      · exact fun p hp => Bool.eq_false_iff.mp (RedS.completeAt_eq_false.mpr (hpre p hp))
    obtain ⟨y, hy, hdone, hslab, hpc, hrounds, hrunning⟩ := State.chunkComplete_redIs hx hfind (hon hoff) hrun hcoll hopen
    exact ⟨_, y, rfl, hy, hdone, hslab, hpc, hrounds, hrunning⟩
  · obtain ⟨hst, -⟩ := hon hoff
    have hscaled : s.accessed (s.scaled f x) := by
      unfold State.scaled
      split
      · exact s.accessed_refl
      · exact State.accessed_stepScale hst (hscale.resolve_left ‹_›)
    obtain ⟨⟨y, hy, hrunning, hrounds, hsat, hpc, hstep⟩, hmem, hne⟩ :=
      State.roundComplete_effect hx (hon hoff) hrun hready hscaled
    refine ⟨_, y, rfl, hy, hrunning, hrounds, hsat, hpc, hstep, fun g hg => hne g fun e => hg (Fin.ext e), fun hcoll => ?_,
      fun hcoll hd hr hm e he => ?_⟩
    · rw [hmem, State.scaled, if_pos hcoll]
    · have hentries : x.cfg.scaleEntries = if x.cfg.int16 then 1 else (x.cfg.count + 31) / 32 := if_neg (by omega)
      rw [State.bytes, hmem, State.scaled, if_neg (by omega)]
      exact State.stepScale_entry hst (hscale.resolve_left (by omega)) hd hr hm (by rw [hentries]; exact he)

end Sys2Proof.Machine
end

section
/-!
PROOFS. The link layer of a port (R195 to R197): frames that leave, their acknowledgement, and their resending.
-/
namespace Sys2Proof.Machine

/-! ### The rows -/

theorem exec_frameSend (p : PortId) (s : State) : exec (.frameSend p) s = .next (s.frameSend p) := by rfl
theorem exec_linkAck (p : PortId) (lseq : BitVec 16) (s : State) : exec (.linkAck p lseq) s =
    .next (s.powered fun s => s.clockedBy 16 fun s => s.linkAck p lseq.toNat) := by rfl
theorem exec_linkNak (p : PortId) (lseq : BitVec 16) (s : State) : exec (.linkNak p lseq) s =
    .next (s.clockedBy 16 fun s => s.resend p lseq.toNat) := by rfl
theorem exec_ackSend (p : PortId) (s : State) : exec (.ackSend p) s = .next (s.ackSend p) := by rfl
theorem exec_replayTimeout (p : PortId) (s : State) : exec (.replayTimeout p) s =
    .next (s.clockedBy 16 fun s => s.replayTimeout p) := by rfl
theorem exec_lcredit (p : PortId) (cls : Fin 8) (units : Nat) (s : State) : exec (.lcredit p cls units) s =
    .next (s.powered fun s => s.clockedBy 16 fun s => s.creditBack p cls units) := by rfl

/-! ### Changes of a port -/

theorem State.modPort_modPort (s : State) (p : Nat) (f g : PortS → PortS) : (s.modPort p f).modPort p g = s.modPort p (g ∘ f) := by
  have hself : AMap.get (AMap.set s.dev.link.ports p (f (AMap.get s.dev.link.ports {} p))) {} p = f (AMap.get s.dev.link.ports {} p) :=
    AMap.get_set_self _ _ _ _
  unfold State.modPort State.modLink
  dsimp only
  rw [hself, AMap.set_set]
  rfl

theorem State.modPort_congr {s : State} {p : Nat} {f g : PortS → PortS} (h : f (s.port p) = g (s.port p)) : s.modPort p f = s.modPort p g := by
  have hset (x : PortS) (hx : x = f (s.port p)) : s.modLink (fun l => { l with ports := AMap.set l.ports p x }) = s.modPort p f := hx ▸ rfl
  exact (hset (g (s.port p)) h.symm).symm.trans rfl

theorem State.port_emit_self (s : State) (p : Nat) (w : Wire) : (s.emit p w).port p = { s.port p with wire := (s.port p).wire ++ [w] } := by
  rw [State.port_emit, if_pos rfl]

theorem State.port_emit_ne (s : State) {p q : Nat} (w : Wire) (h : q ≠ p) : (s.emit p w).port q = s.port q := by
  rw [State.port_emit, if_neg h]

/-- Returning credit puts at most something on a wire. -/
theorem State.lcredit_cases (s : State) (inp : Option (Nat × Nat)) (units : Nat) :
    s.lcredit inp units = s ∨ ∃ q c, inp = some (q, c) ∧ s.lcredit inp units = s.emit q (.lcredit c units) := by
  unfold State.lcredit
  split
  · rename_i q c
    split
    · exact .inr ⟨q, c, rfl, rfl⟩
    · exact .inl rfl
  · exact .inl rfl

/-! ### FRAME_SEND (R197) -/

section
variable {s : State} {p : Nat}

theorem State.frameSend_off (h : ((s.port p).st ≠ .up ∨ s.regionStopped 16 = true) ∨ s.pick p = none) : s.frameSend p = s := by
  unfold State.frameSend
  obtain h | h := h
  · exact if_pos h
  · rw [h]
    exact ite_self s

/-- The frame as it leaves: one that has been forwarded has one hop less to go. -/
def TxWait.leaving (t : TxWait) : Frame := if t.inp.isSome then { t.frame with ttl := t.frame.ttl - 1 } else t.frame

/-- The port after it has sent a frame. -/
def PortS.sent (k : PortS) (inp : Nat) (t : TxWait) (vc : Nat) (d : List Nat) : PortS :=
  { k with vc := vc, deficit := d, lastIn := AMap.set k.lastIn t.cls inp,
           credits := k.credits.set t.cls (k.credits.getD t.cls 0 - t.leaving.units), lseq := (k.lseq + 1) % 65536,
           replay := k.replay ++ [⟨k.lseq, t.leaving, t.ctx, 0⟩], wire := k.wire ++ [.frame t.leaving k.lseq (t.leaving.crc k.lseq)] }

/-- A frame that leaves: no byte moves, it waits no longer, and its port has sent it; the credit of its input port goes back. -/
theorem State.frameSend_sends {inp vc : Nat} {t : TxWait} {d : List Nat} (hst : (s.port p).st = .up) (hclk : s.regionStopped 16 = false)
    (hpick : s.pick p = some ((inp, t), vc, d)) :
    (s.frameSend p).mem = s.mem ∧ (s.frameSend p).dev.link.tx = dropFirst (fun x => x == t) s.dev.link.tx ∧
      ∃ w, (s.frameSend p).port p = { (s.port p).sent inp t vc d with wire := w } ∧
        ((∀ q c, t.inp = some (q, c) → q ≠ p) → w = ((s.port p).sent inp t vc d).wire) := by
  unfold State.frameSend
  rw [if_neg (by simp [hst, hclk]), hpick]
  dsimp only
  rw [← TxWait.leaving]
  generalize hu : State.bump _ .lnkPortCntTx [p] 1 none 7 p = u
  have hevents : (((s.modLink fun l => { l with tx := dropFirst (fun x => x == t) l.tx }).modPort p (·.sent inp t vc d)).eventsOnly u) :=
    hu ▸ State.eventsOnly_bump _ _ _ _ _ _ _
  have hmem : u.mem = s.mem := hevents.mem
  have hlink := hevents.link
  have hport : u.port p = (s.port p).sent inp t vc d := by
    rw [hevents.port, State.port_modPort_self]
    rfl
  split
  · have hfwd := u.eventsOnly_bump .lnkCntFwd [] 1 none 7 0
    generalize State.bump u _ _ _ _ _ _ = v at hfwd ⊢
    obtain h | ⟨q, c, hq, h⟩ := v.lcredit_cases t.inp t.leaving.units
    · rw [h, hfwd.mem, hfwd.link, hfwd.port, hport]
      exact ⟨hmem, by rw [hlink]; rfl, _, rfl, fun _ => rfl⟩
    · have htx : (v.emit q (.lcredit c t.leaving.units)).dev.link.tx = v.dev.link.tx := rfl
      rw [h, htx, hfwd.link, hlink]
      by_cases hqp : q = p
      · subst hqp
        rw [State.port_emit_self, hfwd.port, hport]
        exact ⟨hfwd.mem.trans hmem, rfl, _, rfl, fun hne => absurd rfl (hne q c hq)⟩
      · rw [State.port_emit_ne _ _ (Ne.symm hqp), hfwd.port, hport]
        exact ⟨hfwd.mem.trans hmem, rfl, _, rfl, fun _ => rfl⟩
  · exact ⟨hmem, by rw [hlink]; rfl, _, hport, fun _ => rfl⟩

/-! ### Acknowledgement (R195, R196) -/

theorem State.linkAck_effect (lseq : Nat) : (s.linkAck p lseq).mem = s.mem ∧ (s.linkAck p lseq).dev.link.tx = s.dev.link.tx ∧
    ((s.linkAck p lseq).port p).replay =
      (s.port p).replay.filter (fun f => decide (32768 ≤ (lseq + 65536 - f.lseq % 65536) % 65536)) ∧
    ((s.linkAck p lseq).port p).wire = (s.port p).wire ∧ ((s.linkAck p lseq).port p).credits = (s.port p).credits ∧
    ((s.linkAck p lseq).port p).st = (s.port p).st := by
  rw [State.linkAck, State.port_modPort_self]
  exact ⟨rfl, rfl, rfl, rfl, rfl, rfl⟩

theorem State.ackSend_sends (hst : (s.port p).st = .up) (hclk : s.regionStopped 16 = false) (h : 0 < (s.port p).unacked) :
    s.ackSend p = s.modPort p fun k => { k with unacked := 0, wire := k.wire ++ [.ack ((k.expect + 65535) % 65536)] } := by
  unfold State.ackSend
  rw [if_pos ⟨hst, h, by simp [hclk]⟩, State.emit, State.modPort_modPort]
  have hseq : seq16 (s.port p).expect 1 = ((s.port p).expect + 65535) % 65536 := by
    unfold seq16
    omega
  rw [hseq]
  exact State.modPort_congr rfl

theorem State.ackSend_off (h : ((s.port p).st ≠ .up ∨ s.regionStopped 16 = true) ∨ (s.port p).unacked = 0) : s.ackSend p = s := by
  refine if_neg fun hsend => ?_
  obtain ⟨hst, hun, hclk⟩ := hsend
  obtain (h | h) | h := h
  · exact h hst
  · exact hclk h
  · omega

/-! ### Resending (R195) -/

/-- Whether a frame of the replay buffer stands at an LSEQ or after it. -/
def Sent.since (lseq : Nat) (f : Sent) : Bool := decide (seq16 f.lseq lseq < 32768)

theorem State.resend_off {lseq : Nat} (h : (s.port p).st ≠ .up ∨ (s.port p).replay.filter (Sent.since lseq) = []) :
    s.resend p lseq = s := if_pos h

/-- The state after the frames from an LSEQ on have been sent again. -/
def State.resent (s : State) (p lseq : Nat) : State :=
  (s.modPort p fun k =>
    { k with wire := k.wire ++ ((s.port p).replay.filter (Sent.since lseq)).map fun f => .frame f.frame f.lseq (f.frame.crc f.lseq)
             replay := k.replay.map fun f => { f with tries := if Sent.since lseq f then f.tries + 1 else 0 }
             replayTo := (((s.port p).replay.filter (Sent.since lseq)).getLast?).map (·.lseq) }).bump .lnkPortCntReplay [p]
    ((s.port p).replay.filter (Sent.since lseq)).length none 7 p

theorem State.resend_eq {lseq : Nat} (hst : (s.port p).st = .up) (h : (s.port p).replay.filter (Sent.since lseq) ≠ []) :
    s.resend p lseq = if ((s.port p).replay.filter (Sent.since lseq)).any fun f => decide (7 ≤ f.tries) then (s.resent p lseq).replayLimit p
      else s.resent p lseq := by
  unfold State.resend
  dsimp only
  rw [if_neg]
  · rfl
  · rw [not_or, not_not]
    exact ⟨hst, h⟩

theorem State.resent_effect (lseq : Nat) : (s.resent p lseq).mem = s.mem ∧ (s.resent p lseq).dev.tick = s.dev.tick ∧
    (s.resent p lseq).port p = { s.port p with
      wire := (s.port p).wire ++ ((s.port p).replay.filter (Sent.since lseq)).map fun f => .frame f.frame f.lseq (f.frame.crc f.lseq)
      replay := (s.port p).replay.map fun f => { f with tries := if Sent.since lseq f then f.tries + 1 else 0 }
      replayTo := (((s.port p).replay.filter (Sent.since lseq)).getLast?).map (·.lseq) } := by
  unfold State.resent
  refine ⟨State.bump_mem .., State.bump_tick .., ?_⟩
  rw [State.bump_port, State.port_modPort_self]

/-- The retrains at the resend limit of the last 10 ms. -/
def State.recentLimits (s : State) (p : Nat) : List Nat := (s.port p).limitTicks.filter fun t => decide (s.dev.tick < t + 1000000)

theorem State.replayLimit_effect (s : State) (p : Nat) : (s.replayLimit p).mem = s.mem ∧
    ((s.replayLimit p).port p).st = if 2 ≤ (s.recentLimits p).length then .down else .retraining := by
  unfold State.replayLimit
  dsimp only
  rw [← State.recentLimits, List.length_append, List.length_singleton]
  generalize hu : (s.modPort p fun k =>
    { k with replay := k.replay.map fun f => { f with tries := 0 }, limitTicks := s.recentLimits p ++ [s.dev.tick] }) = u
  have hmem : u.mem = s.mem := hu ▸ rfl
  by_cases h : 2 ≤ (s.recentLimits p).length
  · rw [if_pos (by omega), if_pos h]
    exact ⟨(State.linkDown_mem _ p 4).trans hmem, (State.linkDown_down _ p 4).1⟩
  · rw [if_neg (by omega), if_neg h]
    obtain ⟨hmem', w, hw⟩ := u.portSet_startRetrain p false
    rw [hw]
    exact ⟨hmem'.trans hmem, rfl⟩

/-- Fewer than eight resends in a row: the frames are sent again. -/
theorem State.resend_again {lseq : Nat} (hst : (s.port p).st = .up) (h : (s.port p).replay.filter (Sent.since lseq) ≠ [])
    (htries : ∀ f ∈ (s.port p).replay.filter (Sent.since lseq), f.tries < 7) : s.resend p lseq = s.resent p lseq := by
  rw [State.resend_eq hst h]
  refine if_neg fun hany => ?_
  obtain ⟨f, hf, ht⟩ := List.any_eq_true.mp hany
  exact absurd (of_decide_eq_true ht) (by have := htries f hf; omega)

/-- The eighth resend of one LSEQ retrains the port, or takes it DOWN. -/
theorem State.resend_limit {lseq : Nat} (hst : (s.port p).st = .up)
    (htries : ∃ f ∈ (s.port p).replay.filter (Sent.since lseq), 7 ≤ f.tries) : (s.resend p lseq).mem = s.mem ∧
      ((s.resend p lseq).port p).st = if 2 ≤ (s.recentLimits p).length then .down else .retraining := by
  obtain ⟨f, hf, ht⟩ := htries
  rw [State.resend_eq hst (List.ne_nil_of_mem hf), if_pos (List.any_eq_true.mpr ⟨f, hf, by simpa using ht⟩)]
  obtain ⟨hmem, htick, hport⟩ := s.resent_effect (p := p) lseq
  obtain ⟨hmem', hst'⟩ := (s.resent p lseq).replayLimit_effect p
  have hrecent : (s.resent p lseq).recentLimits p = s.recentLimits p := by
    rw [State.recentLimits, hport, htick, State.recentLimits]
  exact ⟨hmem'.trans hmem, by rw [hst', hrecent]⟩

theorem State.replayTimeout_nil (h : (s.port p).replay = []) : s.replayTimeout p = s := by
  rw [State.replayTimeout, h]

theorem State.replayTimeout_cons {f : Sent} {r : List Sent} (h : (s.port p).replay = f :: r) : s.replayTimeout p = s.resend p f.lseq := by
  rw [State.replayTimeout, h]
end

end Sys2Proof.Machine
end

section
/-!
SUPPORT. The counters of the link engine: counting changes no byte, no port and no flow, and neither what a context reaches nor which
regions are stopped.
-/
namespace Sys2Proof.Machine

theorem State.ctx_classTriggers (l g : Nat) (cs : List Nat) (d : Nat) :
    ∀ s : State, ∃ a, (s.classTriggers l g cs).ctx d = { s.ctx d with arming := a } := by
  induction cs with
  | nil => exact fun s => ⟨(s.ctx d).arming, rfl⟩
  | cons c cs ih =>
    intro s
    have hone (u : State) (hu : ∃ a, u.ctx d = { s.ctx d with arming := a }) :
        ∃ a, (u.classTriggers l g cs).ctx d = { s.ctx d with arming := a } := by
      obtain ⟨a, ha⟩ := hu
      obtain ⟨b, hb⟩ := ih u
      exact ⟨b, by rw [hb, ha]⟩
    have harm (a : Arming) : ∃ b, (s.armTrigger c a).ctx d = { s.ctx d with arming := b } := by
      by_cases h : d = c
      · subst h
        exact ⟨_, State.ctx_setCtx_self _ _ _⟩
      · exact ⟨_, State.ctx_setCtx_ne _ _ h⟩
    rw [State.classTriggers]
    refine hone _ ?_
    split
    · split
      · exact harm _
      · exact ⟨(s.ctx d).arming, rfl⟩
    · exact ⟨(s.ctx d).arming, rfl⟩

theorem State.ctx_record (s : State) (code : Nat) (o : Origin) (d : Nat) :
    ∃ a, (s.record code o).ctx d = { s.ctx d with arming := a } := by
  have htriggers (u : State) (hu : u.ctx d = s.ctx d) (l g : Nat) (cs : List Nat) :
      ∃ a, (u.classTriggers l g cs).ctx d = { s.ctx d with arming := a } := by
    rw [← hu]
    exact u.ctx_classTriggers l g cs d
  unfold State.record
  dsimp only
  split
  · refine htriggers _ ?_ _ _ _
    split
    · rfl
    · split <;> rfl
  · exact ⟨(s.ctx d).arming, rfl⟩

/-- A count changes of a context at most its arming. -/
theorem State.ctx_bump (s : State) (n : RegName) (i : List Nat) (k : Nat) (c : Option Nat) (kind index d : Nat) :
    ∃ a, (s.bump n i k c kind index).ctx d = { s.ctx d with arming := a } := by
  unfold State.bump
  split
  · exact ⟨(s.ctx d).arming, rfl⟩
  · dsimp only
    split
    · exact State.ctx_record _ _ _ d
    · exact ⟨(s.ctx d).arming, rfl⟩

/-- The counters of the link engine. -/
def linkCounters : List RegName :=
  [.lnkPortCntFecCe, .lnkPortCntFecUe, .lnkPortCntCrc, .lnkPortCntRx, .lnkCntRxf, .lnkCntTxf]

/-- Counters of the link engine have counted. -/
structure State.Counted (s t : State) : Prop where
  events : s.eventsOnly t
  ctx : ∀ c, ∃ a, t.ctx c = { s.ctx c with arming := a }
  reg : ∀ n i, n ≠ .hubAlert → n ∉ linkCounters → t.reg n i = s.reg n i

theorem State.Counted.trans {s t u : State} (h : s.Counted t) (k : t.Counted u) : s.Counted u := by
  refine ⟨State.eventsOnly_trans h.events k.events, fun c => ?_, fun n i hn hc => (k.reg n i hn hc).trans (h.reg n i hn hc)⟩
  obtain ⟨a, ha⟩ := h.ctx c
  obtain ⟨b, hb⟩ := k.ctx c
  exact ⟨b, by rw [hb, ha]⟩

theorem State.counted_bump (s : State) {n : RegName} (hn : n ∈ linkCounters) (i : List Nat) (k : Nat) (c : Option Nat) (kind index : Nat) :
    s.Counted (s.bump n i k c kind index) :=
  ⟨s.eventsOnly_bump n i k c kind index, s.ctx_bump n i k c kind index, fun m j hm hc =>
    State.reg_bump _ _ _ _ _ _ _ _ hm fun e => hc (by rw [(Prod.mk.inj e).1]; exact hn)⟩

section
variable {s t : State} (h : s.Counted t)
include h

theorem State.Counted.field {n : RegName} (hn : n ≠ .hubAlert) (hc : n ∉ linkCounters) (i : List Nat) (hi lo : Nat) :
    t.field n i hi lo = s.field n i hi lo := by rw [State.field, h.reg n i hn hc, State.field]

theorem State.Counted.regionStopped (r : Nat) : t.regionStopped r = s.regionStopped r := by
  rw [State.regionStopped, h.field (by decide) (by decide), State.regionStopped]

theorem State.Counted.moduleId : t.moduleId = s.moduleId := h.field (by decide) (by decide) _ _ _

theorem State.Counted.hasCluster (c k : Nat) : (t.ctx c).hasCluster k = (s.ctx c).hasCluster k := by
  obtain ⟨a, ha⟩ := h.ctx c
  rw [ha]
  rfl

theorem State.Counted.gran (g : Nat) : t.gran g = s.gran g := by rw [State.gran, h.events.memS, State.gran]

theorem State.Counted.inCave (a : Nat) : t.inCave a = s.inCave a := by rw [State.inCave, h.gran, State.inCave]

theorem State.Counted.space (a : Nat) : t.space a = s.space a := by
  have hframes : t.caveFrames = s.caveFrames := by
    rw [State.caveFrames, h.field (by decide) (by decide), State.caveFrames]
  simp only [State.space, h.events.core, hframes]

theorem State.Counted.reach (c a n : Nat) : t.reach c a n = s.reach c a n := by
  have hgran : t.reachGran none c = s.reachGran none c := by
    funext x
    simp only [State.reachGran, h.space, h.hasCluster, h.gran]
  rw [State.reach, State.reachVia, hgran, State.reach, State.reachVia]

theorem State.Counted.roRefuses (a n : Nat) : t.roRefuses a n = s.roRefuses a n := by
  have hcave : t.inCave = s.inCave := funext h.inCave
  rw [State.roRefuses, State.roRefuses, State.caveRo, State.caveRo, h.field (by decide) (by decide), hcave]

theorem State.Counted.landRefused (w : Flow) (a n : Nat) : t.landRefused w a n = s.landRefused w a n := by
  simp only [State.landRefused, h.reach, h.roRefuses]

theorem State.Counted.regulator (c a : Nat) : t.regulator c a = s.regulator c a := by
  have hunreg (p : Nat) : t.unreg c p = s.unreg c p := by rw [State.unreg, State.bwrNow, h.events.memS, State.unreg, State.bwrNow]
  simp only [State.regulator, h.gran, hunreg]

theorem State.Counted.direct {c a n : Nat} (hd : s.direct c a n) : t.direct c a n := fun x hlo hhi => by
  rw [h.regulator, h.inCave]
  exact hd x hlo hhi

theorem State.Counted.waits (w : Waiter) : t.waits w = s.waits w := by
  rw [h.events.1]
  rfl

theorem State.Counted.route (f : Frame) (b : Bool) : t.route f b = s.route f b := by
  simp only [State.route, h.events.link, h.events.port]

theorem State.Counted.escOut (inp : Option Nat) (out : Nat) (esc : Bool) : t.escOut inp out esc = s.escOut inp out esc := by
  have hwrap (p : Nat) : t.portWrap p = s.portWrap p := by
    rw [State.portWrap, h.field (by decide) (by decide), State.portWrap]
  have hdim (p : Nat) : t.portDim p = s.portDim p := h.field (by decide) (by decide) _ _ _
  simp only [State.escOut, hwrap, hdim]

theorem State.Counted.classHeld (p cls : Nat) : t.classHeld p cls = s.classHeld p cls := by
  rw [State.classHeld, h.events.link, State.classHeld]
end

end Sys2Proof.Machine
end

section
/-!
PROOFS. A DATA frame in sequence lands in the slot of its message (R204): it is placed, written, and its credit goes back.
-/
namespace Sys2Proof.Machine

/-- Where a DATA frame of a flow lands. -/
def Flow.slotAt (w : Flow) (f : Frame) : Nat := w.base + f.msg % w.slots * w.slotSize + 4096 * f.fidx

theorem State.modFlow_port (s : State) (f : Nat) (g : Flow → Flow) (p : Nat) : (s.modFlow f g).port p = s.port p := rfl

theorem State.lcredit_up {s : State} {p : Nat} (h : (s.port p).st = .up) (c units : Nat) :
    s.lcredit (some (p, c)) units = s.emit p (.lcredit c units) := if_pos (.inl h)

/-! ### One landing write -/

section
variable {s : State} {f : Nat} {l : Landing} {rest : List Landing}

theorem State.landFlow_nil (n : Nat) (h : (s.flow f).landings = []) : State.landFlow n s f = s := by
  cases n with
  | zero => rfl
  | succ n =>
    rw [State.landFlow]
    dsimp only
    rw [h]

variable (h : (s.flow f).landings = l :: rest) (hw : s.waits (.flow f l.num) = false) (n : Nat)
include h hw

/-- A landing write that may be performed is issued. -/
theorem State.landFlow_issues (hi : l.issued = false)
    (hland : s.landRefused (s.flow f) ((s.flow f).slotAt l.frame) l.frame.data.length = none) :
    State.landFlow (n + 1) s f = State.landFlow n ((s.modFlow f fun w => { w with landings := { l with issued := true } :: rest }).farWrite
      ((s.flow f).slotAt l.frame) l.frame.data l.frame.badSectors (.flow f l.num)) f := by
  rw [Flow.slotAt] at hland
  rw [State.landFlow]
  dsimp only
  rw [h]
  dsimp only
  rw [if_pos (by simp [hi]), hw, if_neg Bool.false_ne_true, hland]
  rfl

/-- The flow after a landing write has been performed. -/
def Flow.afterLanding (w : Flow) (l : Landing) (rest : List Landing) : Flow :=
  { w with landings := rest, msgs := if l.frame.last then (w.msgs + 1) % 2 ^ 32 else w.msgs,
           released := if w.rel then w.released else if l.frame.last then (w.msgs + 1) % 2 ^ 32 else w.msgs }

/-- A landing write that has been performed gives its credit back. -/
theorem State.landFlow_ends (hi : l.issued = true) : State.landFlow (n + 1) s f =
    State.landFlow n ((s.modFlow f (·.afterLanding l rest)).lcredit l.inp l.frame.units) f := by
  rw [State.landFlow]
  dsimp only
  rw [h]
  dsimp only
  rw [if_neg (by simp [hi]), hw, if_neg Bool.false_ne_true]
  rfl
end

/-! ### A frame that lands -/

/-- The flow after a frame has been placed whole. -/
def Flow.placed (w : Flow) (inp : Option (Nat × Nat)) (f : Frame) : Flow :=
  { w with seq := (f.seq + 1) % 2 ^ 24, msg := if f.last then (f.msg + 1) % 65536 else f.msg,
           fidx := if f.last then 0 else (f.fidx + 1) % 2 ^ 20, landed := w.landed + 1,
           landings := w.landings ++ [⟨w.landed, inp, f, false⟩] }

/-- A frame of flow `w` that lands whole and at once. -/
structure State.Lands (s : State) (f : Frame) : Prop where
  first : (s.flow f.flow).landings = []
  fits : 4096 * f.fidx + f.data.length ≤ (s.flow f.flow).slotSize
  open_ : s.landRefused (s.flow f.flow) ((s.flow f.flow).slotAt f) f.data.length = none
  direct : s.direct (s.flow f.flow).ctx ((s.flow f.flow).slotAt f) f.data.length
  free : s.waits (.flow f.flow (s.flow f.flow).landed) = false
  clocked : s.regionStopped 17 = false
  wf : s.mem.wf = true

/-- What stays of the facts about a landing when counters have counted. -/
theorem State.Counted.lands {s t : State} (h : s.Counted t) {f : Frame} (hl : s.Lands f) : t.Lands f := by
  have hflow := h.events.flow f.flow
  refine ⟨?_, ?_, ?_, ?_, ?_, ?_, ?_⟩
  · rw [hflow, hl.first]
  · rw [hflow]
    exact hl.fits
  · rw [hflow, h.landRefused, hl.open_]
  · rw [hflow]
    exact h.direct hl.direct
  · rw [hflow, h.waits, hl.free]
  · rw [h.regionStopped, hl.clocked]
  · rw [h.events.mem, hl.wf]

section
variable {s : State} {f : Frame} (h : s.Lands f) (port : Nat) (inp : Option (Nat × Nat))
include h

/-- A frame that lands whole is placed and touched; its access passes no regulator. -/
theorem State.place_eq : s.place port inp f =
    (((s.modFlow f.flow (·.placed inp f)).bump .lnkCntRxf [] 1 none 7 0).touch ((s.flow f.flow).slotAt f) f.data.length).landFlowAll
      f.flow := by
  have hn : min f.data.length ((s.flow f.flow).slotSize - 4096 * f.fidx) = f.data.length := by
    have := h.fits
    omega
  have hopen := h.open_
  rw [Flow.slotAt] at hopen
  have hcount := (s.modFlow f.flow (·.placed inp f)).counted_bump (n := .lnkCntRxf) (by decide) [] 1 none 7 0
  unfold State.place
  dsimp only
  rw [hn, if_pos h.first, hopen]
  dsimp only
  rw [if_neg (Nat.lt_irrefl _), List.take_length, ← Flow.slotAt]
  refine congrArg (State.landFlowAll · f.flow) ?_
  refine State.read_flow_unregulated (s := (s.modFlow f.flow (·.placed inp f)).bump .lnkCntRxf [] 1 none 7 0) ?_ ?_
  · exact (hcount.regionStopped 17).trans h.clocked
  · intro x hlo hhi
    rw [hcount.regulator]
    exact (h.direct x hlo hhi).1

/-- It is written where it lands, its flow expects the next one, and its credit goes back on its port. -/
theorem State.place_lands {p c : Nat} (hup : (s.port p).st = .up) :
    (∀ x, Mem.read (s.place port (some (p, c)) f).mem x = Mem.read (Mem.writeN s.mem ((s.flow f.flow).slotAt f) f.data) x) ∧
      (s.place port (some (p, c)) f).port p = { s.port p with wire := (s.port p).wire ++ [.lcredit c f.units] } ∧
      (s.place port (some (p, c)) f).flow f.flow =
        ((s.flow f.flow).placed (some (p, c)) f).afterLanding ⟨(s.flow f.flow).landed, some (p, c), f, true⟩ [] := by
  rw [State.place_eq h]
  have hcount := (s.modFlow f.flow (·.placed (some (p, c)) f)).counted_bump (n := .lnkCntRxf) (by decide) [] 1 none 7 0
  obtain ⟨htouch, hq⟩ := ((s.modFlow f.flow (·.placed (some (p, c)) f)).bump .lnkCntRxf [] 1 none 7 0).touch_passed
    ((s.flow f.flow).slotAt f) f.data.length
  generalize hv : State.touch _ _ _ = v at htouch hq ⊢
  have hflow : v.flow f.flow = (s.flow f.flow).placed (some (p, c)) f := by
    rw [htouch.only.flow, hcount.events.flow, State.flow_modFlow_self]
  have hmem : v.mem = s.mem := htouch.mem.trans hcount.events.mem
  have hport : v.port p = s.port p := by
    rw [State.port, htouch.only.accessed.link, hcount.events.link]
    rfl
  have hlandings : (v.flow f.flow).landings = [⟨(s.flow f.flow).landed, some (p, c), f, false⟩] := by
    rw [hflow, Flow.placed, h.first]
    rfl
  have hwaits (w : Waiter) : v.waits w = s.waits w := by
    rw [htouch.only.waits hq, hcount.waits]
    rfl
  have hslot : (v.flow f.flow).slotAt f = (s.flow f.flow).slotAt f := by
    rw [hflow]
    rfl
  have hcave (x : Nat) : v.inCave x = s.inCave x := by
    rw [htouch.only.inCave, hcount.inCave]
    rfl
  have hland : v.landRefused (v.flow f.flow) ((v.flow f.flow).slotAt f) f.data.length = none := by
    rw [hslot, htouch.only.accessed.landRefused, hcount.landRefused, hflow]
    exact h.open_
  have hall : v.landFlowAll f.flow = State.landFlow 3 v f.flow := by
    rw [State.landFlowAll, hlandings]
    rfl
  rw [hall, State.landFlow_issues hlandings ((hwaits _).trans h.free) 2 rfl hland, hslot]
  have houtside : ∀ x, (s.flow f.flow).slotAt f ≤ x → x < (s.flow f.flow).slotAt f + f.data.length →
      (v.modFlow f.flow fun w => { w with landings := [⟨(s.flow f.flow).landed, some (p, c), f, true⟩] }).inCave x = false :=
    fun x hlo hhi => (hcave x).trans (h.direct x hlo hhi).2
  have hstored := State.farWrite_stored houtside f.badSectors (.flow f.flow (s.flow f.flow).landed) none
  have hread := State.read_farWrite (by rw [State.modFlow_mem, hmem, h.wf]) houtside f.badSectors
    (.flow f.flow (s.flow f.flow).landed) none
  generalize State.farWrite _ _ f.data f.badSectors _ = z at hstored hread ⊢
  have hzflow : z.flow f.flow = { (s.flow f.flow).placed (some (p, c)) f with
      landings := [⟨(s.flow f.flow).landed, some (p, c), f, true⟩] } := by
    rw [hstored.only.flow, State.flow_modFlow_self, hflow]
  have hzwaits : z.waits (.flow f.flow (s.flow f.flow).landed) = false :=
    ((hstored.only.waits hstored.regQ _).trans (hwaits _)).trans h.free
  have hzport : z.port p = s.port p := by
    rw [State.port, hstored.only.accessed.link]
    exact hport
  rw [State.landFlow_ends (l := ⟨(s.flow f.flow).landed, some (p, c), f, true⟩) (rest := []) (by rw [hzflow]) hzwaits 1 rfl,
    State.lcredit_up (by rw [State.modFlow_port, hzport, hup])]
  have hend : ((z.modFlow f.flow (·.afterLanding ⟨(s.flow f.flow).landed, some (p, c), f, true⟩ [])).emit p (.lcredit c f.units)).flow
      f.flow = ((s.flow f.flow).placed (some (p, c)) f).afterLanding ⟨(s.flow f.flow).landed, some (p, c), f, true⟩ [] :=
    (State.flow_modFlow_self z f.flow (·.afterLanding ⟨(s.flow f.flow).landed, some (p, c), f, true⟩ [])).trans
    (congrArg (·.afterLanding ⟨(s.flow f.flow).landed, some (p, c), f, true⟩ []) hzflow)
  rw [State.landFlow_nil 1 (congrArg Flow.landings hend)]
  refine ⟨fun x => ?_, ?_, hend⟩
  · rw [← hmem]
    exact hread x
  · rw [State.port_emit_self, State.modFlow_port, hzport]
end

end Sys2Proof.Machine
end

section
/-!
PROOFS. FRAME_RECEIVE (R194, R195, R198, R204) and CREDIT_FRAME_SEND (R206), and with them the link layer.
-/
namespace Sys2Proof.Machine

theorem exec_frameReceive (p : PortId) (f : Frame) (lseq : BitVec 16) (crc : BitVec 32) (ce ue : Nat) (s : State) :
    exec (.frameReceive p f lseq crc ce ue) s = .next (s.powered fun s => s.frameReceive p f lseq.toNat crc.toNat ce ue) := by rfl
theorem exec_creditFrameSend (f : FlowId) (s : State) : exec (.creditFrameSend f) s = .next ((s.creditFrame f).creditRed f) := by rfl

/-! ### A frame is checked (R195) -/

/-- The port after it has asked for the frame that it expects. -/
def PortS.asked (k : PortS) : PortS := { k with discarding := true, wire := k.wire ++ [.nak k.expect] }

/-- The port after it has taken the frame that it expects. -/
def PortS.took (k : PortS) : PortS := { k with expect := (k.expect + 1) % 65536, discarding := false, unacked := k.unacked + 1 }

/-- The state after the symbols of a frame have been counted. -/
def State.received (s : State) (p ce ue : Nat) : State :=
  (s.bump .lnkPortCntFecCe [p] ce none 7 p).bump .lnkPortCntFecUe [p] ue none 7 p

theorem State.counted_received (s : State) (p ce ue : Nat) : s.Counted (s.received p ce ue) :=
  (s.counted_bump (by decide) [p] ce none 7 p).trans (State.counted_bump _ (by decide) [p] ue none 7 p)

/-- What the link layer does with a frame that is not taken, or not stopped: no byte and no flow changes by it. -/
structure State.Discarded (s t : State) : Prop where
  mem : t.mem = s.mem
  flows : t.dev.link.flows = s.dev.link.flows

theorem State.Counted.discarded {s t : State} (h : s.Counted t) : s.Discarded t := ⟨h.events.mem, by rw [h.events.link]⟩

theorem State.Discarded.trans {s t u : State} (h : s.Discarded t) (k : t.Discarded u) : s.Discarded u :=
  ⟨k.mem.trans h.mem, k.flows.trans h.flows⟩

theorem State.discarded_modPort (s : State) (p : Nat) (g : PortS → PortS) : s.Discarded (s.modPort p g) := ⟨rfl, rfl⟩

/-- A bad frame that has begun to leave ends with the inverted CRC on the port that routes it. -/
theorem State.stomp_cases (s : State) (p : Nat) (f : Frame) :
    s.stomp p f = s ∨ ∃ out w, s.route f true = .ok out ∧ s.stomp p f = s.emit out w := by
  unfold State.stomp
  split
  · exact .inl rfl
  · split
    · exact .inl rfl
    · rename_i out hout
      dsimp only
      split
      · split
        · exact .inr ⟨out, _, hout, rfl⟩
        · exact .inl rfl
      · exact .inl rfl

section
variable {s : State} {p : Nat} {f : Frame} {lseq crc ce ue : Nat}

/-- A port that takes frames: it is UP, and the link engine has its clock. -/
def State.takes (s : State) (p : Nat) : Prop := (s.port p).st = .up ∧ s.regionStopped 16 = false

theorem State.frameReceive_off (h : (s.port p).st ≠ .up ∨ s.regionStopped 16 = true) :
    s.frameReceive p f lseq crc ce ue = s.received p ce ue := by
  have hc := s.counted_received p ce ue
  unfold State.frameReceive
  dsimp only
  rw [← State.received]
  exact if_pos (by rwa [hc.events.port, hc.regionStopped])

/-- On a port that takes frames, the CRC is checked first, then the LSEQ. -/
theorem State.frameReceive_eq (hon : s.takes p) : s.frameReceive p f lseq crc ce ue =
    if crc = f.norm.crc lseq then
      if lseq = (s.port p).expect then
        if f.norm.valid then (((s.received p ce ue).modPort p PortS.took).bump .lnkPortCntRx [p] 1 none 7 p).acceptFrame p f.norm
        else (((s.received p ce ue).modPort p PortS.took).drop 5 f.norm p none).lcredit (some (p, f.norm.cls)) f.norm.units
      else if (s.port p).discarding then s.received p ce ue else (s.received p ce ue).modPort p PortS.asked
    else if crc = 0xFFFFFFFF - f.norm.crc lseq then (s.received p ce ue).bump .lnkPortCntCrc [p] 1 none 7 p
    else (if (s.port p).discarding then (s.received p ce ue).bump .lnkPortCntCrc [p] 1 none 7 p
      else ((s.received p ce ue).bump .lnkPortCntCrc [p] 1 none 7 p).stomp p f.norm).modPort p
        fun k => { k with discarding := true, wire := k.wire ++ [.nak (s.port p).expect] } := by
  obtain ⟨hst, hclk⟩ := hon
  have hc := s.counted_received p ce ue
  have hasks (t : State) (n : Nat) : (t.modPort p fun k => { k with discarding := true }).emit p (.nak n) =
      t.modPort p fun k => { k with discarding := true, wire := k.wire ++ [.nak n] } := by
    rw [State.emit, State.modPort_modPort]
    rfl
  unfold State.frameReceive
  dsimp only
  rw [← State.received, hc.events.port, if_neg (by simp [hst, hc.regionStopped, hclk])]
  by_cases hgood : crc = f.norm.crc lseq
  · rw [if_neg (not_not.mpr hgood), if_pos hgood]
    by_cases hseq : lseq = (s.port p).expect
    · rw [if_neg (not_not.mpr hseq), if_pos hseq]
      rfl
    · rw [if_pos hseq, if_neg hseq, hasks]
      refine congrArg (ite _ _) (State.modPort_congr ?_)
      rw [hc.events.port]
      rfl
  · rw [if_pos hgood, if_neg hgood, hasks]

/-- With the port not taking frames, or under the inverted CRC, a frame is dropped in silence. -/
theorem State.frameReceive_silent (h : ((s.port p).st ≠ .up ∨ s.regionStopped 16 = true) ∨
    (crc ≠ f.norm.crc lseq ∧ crc = 0xFFFFFFFF - f.norm.crc lseq)) :
    (s.frameReceive p f lseq crc ce ue).port p = s.port p ∧ s.Discarded (s.frameReceive p f lseq crc ce ue) := by
  have hc := s.counted_received p ce ue
  by_cases hoff : (s.port p).st ≠ .up ∨ s.regionStopped 16 = true
  · rw [State.frameReceive_off hoff]
    exact ⟨hc.events.port p, hc.discarded⟩
  · obtain ⟨hbad, hinv⟩ := h.resolve_left hoff
    rw [not_or, not_not, Bool.not_eq_true] at hoff
    rw [State.frameReceive_eq hoff, if_neg hbad, if_pos hinv]
    have hb := hc.trans (State.counted_bump _ (n := .lnkPortCntCrc) (by decide) [p] 1 none 7 p)
    exact ⟨hb.events.port p, hb.discarded⟩

variable (hon : s.takes p)
include hon

/-- A frame with a bad CRC is discarded and asked for again. -/
theorem State.frameReceive_bad (hbad : crc ≠ f.norm.crc lseq) (hinv : crc ≠ 0xFFFFFFFF - f.norm.crc lseq) :
    ((s.frameReceive p f lseq crc ce ue).port p).discarding = true ∧
      ((s.frameReceive p f lseq crc ce ue).port p).expect = (s.port p).expect ∧ s.Discarded (s.frameReceive p f lseq crc ce ue) ∧
      ((s.port p).discarding = true ∨ (∀ out, s.route f.norm true = .ok out → out ≠ p) →
        (s.frameReceive p f lseq crc ce ue).port p = (s.port p).asked) := by
  have hb := (s.counted_received p ce ue).trans (State.counted_bump _ (n := .lnkPortCntCrc) (by decide) [p] 1 none 7 p)
  rw [State.frameReceive_eq hon, if_neg hbad, if_neg hinv]
  generalize State.bump (s.received p ce ue) .lnkPortCntCrc [p] 1 none 7 p = t at hb ⊢
  have hstomped : ∃ u, u = (if (s.port p).discarding then t else t.stomp p f.norm) ∧ s.Discarded u ∧
      (u.port p).expect = (s.port p).expect ∧
      ((s.port p).discarding = true ∨ (∀ out, s.route f.norm true = .ok out → out ≠ p) → u.port p = s.port p) := by
    refine ⟨_, rfl, ?_⟩
    have hkept : s.Discarded t ∧ (t.port p).expect = (s.port p).expect ∧
        ((s.port p).discarding = true ∨ (∀ out, s.route f.norm true = .ok out → out ≠ p) → t.port p = s.port p) :=
      ⟨hb.discarded, by rw [hb.events.port], fun _ => hb.events.port p⟩
    split
    · exact hkept
    · rename_i hdisc
      obtain h | ⟨out, w, hroute, h⟩ := t.stomp_cases p f.norm
      · rw [h]
        exact hkept
      · rw [hb.route] at hroute
        rw [h]
        refine ⟨hb.discarded.trans (t.discarded_modPort _ _), ?_, fun hout => ?_⟩
        · rw [State.port_emit, hb.events.port]
        · rw [State.port_emit_ne _ _ ((hout.resolve_left hdisc) out hroute).symm, hb.events.port]
  obtain ⟨u, hu, hdisc, hexp, hport⟩ := hstomped
  rw [← hu, State.port_modPort_self]
  exact ⟨rfl, hexp, hdisc.trans (u.discarded_modPort _ _), fun hout => by rw [hport hout]; rfl⟩

/-- A frame with another LSEQ than the next one is discarded, and asked for again once. -/
theorem State.frameReceive_unexpected (hgood : crc = f.norm.crc lseq) (hseq : lseq ≠ (s.port p).expect) :
    (s.frameReceive p f lseq crc ce ue).port p = (if (s.port p).discarding then s.port p else (s.port p).asked) ∧
      s.Discarded (s.frameReceive p f lseq crc ce ue) := by
  have hc := s.counted_received p ce ue
  rw [State.frameReceive_eq hon, if_pos hgood, if_neg hseq]
  split
  · exact ⟨hc.events.port p, hc.discarded⟩
  · rw [State.port_modPort_self, hc.events.port]
    exact ⟨rfl, hc.discarded.trans (State.discarded_modPort _ _ _)⟩

/-- The state in which a frame has been taken by its port. -/
def State.taken (s : State) (p ce ue : Nat) : State := ((s.received p ce ue).modPort p PortS.took).bump .lnkPortCntRx [p] 1 none 7 p

theorem State.frameReceive_accepts (hgood : crc = f.norm.crc lseq) (hseq : lseq = (s.port p).expect) (hvalid : f.norm.valid = true) :
    s.frameReceive p f lseq crc ce ue = (s.taken p ce ue).acceptFrame p f.norm := by
  rw [State.frameReceive_eq hon, if_pos hgood, if_pos hseq, if_pos hvalid, State.taken]
end

/-! ### A frame is accepted (R198, R204) -/

/-- No landing holds a class on a port, and no frame waits behind one there. -/
def State.clearFor (s : State) (p cls : Nat) : Prop :=
  s.classHeld p cls = false ∧ ∀ h ∈ s.dev.link.held, ¬ (h.1 = p ∧ h.2.cls = cls)

theorem State.clearFor_iff (s : State) (p cls : Nat) : s.clearFor p cls ↔
    ¬ (s.classHeld p cls = true ∨ s.dev.link.held.any (fun h => h.1 == p && h.2.cls == cls) = true) := by
  rw [State.clearFor, not_or, Bool.not_eq_true, List.any_eq_true]
  refine and_congr Iff.rfl ⟨fun h hany => ?_, fun h x hx hheld => h ⟨x, hx, by simpa using hheld⟩⟩
  obtain ⟨x, hx, hheld⟩ := hany
  exact h x hx (by simpa using hheld)

theorem State.acceptFrame_clear {s : State} {p : Nat} {f : Frame} (h : s.clearFor p f.cls) : s.acceptFrame p f = s.admitFrame p f :=
  if_neg ((s.clearFor_iff p f.cls).mp h)

/-- A frame whose class a landing holds, or other frames wait for, stands behind them. -/
theorem State.acceptFrame_behind {s : State} {p : Nat} {f : Frame} (h : ¬ s.clearFor p f.cls) :
    s.acceptFrame p f = s.modLink fun l => { l with held := l.held ++ [(p, f)] } :=
  if_pos (not_not.mp fun hn => h ((s.clearFor_iff p f.cls).mpr hn))

theorem State.admitFrame_forwards {s : State} {p : Nat} {f : Frame} (hid : s.moduleId ≠ 0xFFF) (hdst : f.dst ≠ s.moduleId) {out : Nat}
    (hroute : s.route f true = .ok out) : s.admitFrame p f = s.enqueue (some (p, f.cls)) out f none none := by
  unfold State.admitFrame
  dsimp only
  rw [if_neg hid, if_neg hdst, hroute]

/-- A DATA frame in sequence for an open RX flow of this module is placed. -/
theorem State.admitFrame_places {s : State} {p : Nat} {f : Frame} (hid : s.moduleId ≠ 0xFFF) (hdst : f.dst = s.moduleId)
    (hst : (s.flow f.flow).st = .opened) (hrx : (s.flow f.flow).kind = 1) (hpeer : f.src = (s.flow f.flow).peer) (hdata : f.kind = 0)
    (hseq : f.seq = (s.flow f.flow).seq) : s.admitFrame p f = s.place p (some (p, f.cls)) f := by
  have hdist : (f.seq + 2 ^ 24 - (s.flow f.flow).seq) % 2 ^ 24 = 0 := by
    rw [hseq, Nat.add_sub_cancel_left, Nat.mod_self]
  unfold State.admitFrame
  dsimp only
  rw [if_neg hid, if_pos hdst, if_neg (by rw [hrx]; omega), if_neg (by omega)]
  unfold State.deliver
  dsimp only
  rw [if_neg (by rw [hst]; decide), if_neg (by rw [hst, hpeer]; simp), if_neg (by omega), if_pos ⟨hdata, hrx⟩, if_pos hdist]

section
variable (s : State) (p ce ue : Nat)

theorem State.counted_taken : ((s.received p ce ue).modPort p PortS.took).Counted (s.taken p ce ue) :=
  State.counted_bump _ (by decide) _ _ _ _ _

theorem State.taken_port : (s.taken p ce ue).port p = (s.port p).took := by
  rw [(s.counted_taken p ce ue).events.port, State.port_modPort_self, (s.counted_received p ce ue).events.port]

theorem State.taken_mem : (s.taken p ce ue).mem = s.mem :=
  (s.counted_taken p ce ue).events.mem.trans (s.counted_received p ce ue).events.mem

theorem State.taken_link : (s.taken p ce ue).dev.link = { s.dev.link with ports := (s.taken p ce ue).dev.link.ports } := by
  have h : (s.taken p ce ue).dev.link = ((s.received p ce ue).modPort p PortS.took).dev.link := (s.counted_taken p ce ue).events.link
  have hk := (s.counted_received p ce ue).events.link
  rw [h, State.modPort, State.modLink, hk]

theorem State.taken_flow (f : Nat) : (s.taken p ce ue).flow f = s.flow f := by
  rw [State.flow, State.taken_link, State.flow]

theorem State.taken_moduleId : (s.taken p ce ue).moduleId = s.moduleId :=
  (s.counted_taken p ce ue).moduleId.trans (s.counted_received p ce ue).moduleId

theorem State.taken_escOut (inp : Option Nat) (out : Nat) (esc : Bool) : (s.taken p ce ue).escOut inp out esc = s.escOut inp out esc :=
  ((s.counted_taken p ce ue).escOut inp out esc).trans ((s.counted_received p ce ue).escOut inp out esc)

theorem State.taken_clearFor (cls : Nat) : (s.taken p ce ue).clearFor p cls ↔ s.clearFor p cls := by
  rw [State.clearFor, State.classHeld, State.taken_link, State.clearFor, State.classHeld]

/-- Taking a frame changes no route. -/
theorem State.taken_route (f : Frame) (b : Bool) : (s.taken p ce ue).route f b = s.route f b := by
  rw [(s.counted_taken p ce ue).route, ← (s.counted_received p ce ue).route]
  generalize s.received p ce ue = t
  have hport (q : Nat) : ((t.modPort p PortS.took).port q).st = (t.port q).st ∧
      ((t.modPort p PortS.took).port q).dead = (t.port q).dead := by
    by_cases h : q = p
    · rw [h, State.port_modPort_self]
      exact ⟨rfl, rfl⟩
    · rw [State.port_modPort_ne _ _ h]
      exact ⟨rfl, rfl⟩
  have hfwd : (t.modPort p PortS.took).dev.link.fwd = t.dev.link.fwd := rfl
  simp only [State.route, hport, hfwd]

theorem State.taken_lands {f : Frame} (h : s.Lands f) : (s.taken p ce ue).Lands f := by
  obtain ⟨hfirst, hfits, hopen, hdirect, hfree, hclk, hwf⟩ := (s.counted_received p ce ue).lands h
  exact (s.counted_taken p ce ue).lands ⟨hfirst, hfits, hopen, hdirect, hfree, hclk, hwf⟩
end

/-! ### CREDIT_FRAME_SEND (R206) -/

/-- With no run waiting for a flow, its credit sends nothing. -/
theorem State.pump_idle {s : State} {f : Nat} (h : ∀ r ∈ s.dev.link.sends, r.flow ≠ f) : s.pump f = s := by
  have hfind : (s.dev.link.sends.find? fun r => r.flow == f && s.maySend r) = none :=
    List.find?_eq_none.mpr fun r hr => by simp [h r hr]
  unfold State.pump
  cases s.dev.link.sends.length with
  | zero => rfl
  | succ n =>
    rw [State.pumpSends]
    rw [hfind]

theorem State.creditRed_none {s : State} {f : Nat} (h : (s.flow f).red = none) : s.creditRed f = s := by
  rw [State.creditRed, h]

section
variable {s : State} {f : Nat}

theorem State.creditFrame_idle (h : (s.flow f).released = (s.flow f).told ∨ s.regionStopped 16 = true) : s.creditFrame f = s := by
  refine if_neg fun hsend => ?_
  obtain ⟨-, -, hrise, hclk⟩ := hsend
  exact h.elim hrise hclk

/-- A frame for another module is queued for the port that routes it. -/
theorem State.originate_routes (t : State) {g : Frame} (hdst : g.dst ≠ t.moduleId) {out : Nat}
    (hroute : t.route { g with ttl := t.field .lnkCfg [] 21 16, src := t.moduleId } false = .ok out) (ctx : Option Nat)
    (who : Option Waiter) : t.originate g ctx who =
      (t.bump .lnkCntTxf [] 1 none 7 0).enqueue none out { g with ttl := t.field .lnkCfg [] 21 16, src := t.moduleId } who ctx := by
  have hcount := t.counted_bump (n := .lnkCntTxf) (by decide) [] 1 none 7 0
  unfold State.originate
  dsimp only
  rw [hcount.moduleId, hcount.field (by decide) (by decide), if_neg fun h => hdst h.1, hcount.route, hroute]

/-- The CREDIT frame of a flow, as it is made. -/
def Flow.creditFrame (w : Flow) : Frame :=
  { dst := w.peer, src := 0, flow := w.pflow, seq := 0, vc := 3, kind := 3, last := true, plen := 0, fidx := 0,
    msg := w.released % 65536, ttl := 0, data := [] }

/-- The CREDIT frame of a flow, as it is originated. -/
def State.creditOf (s : State) (w : Flow) : Frame := { w.creditFrame with ttl := s.field .lnkCfg [] 21 16, src := s.moduleId }

theorem State.creditFrame_sends (hst : (s.flow f).st = .opened) (hrx : (s.flow f).kind = 1) (hrise : (s.flow f).released ≠ (s.flow f).told)
    (hclk : s.regionStopped 16 = false) (hsends : ∀ r ∈ s.dev.link.sends, r.flow ≠ (s.flow f).pflow)
    (hpeer : (s.flow f).peer ≠ s.moduleId) {out : Nat} (hroute : s.route (s.creditOf (s.flow f)) false = .ok out) :
    (s.creditFrame f).mem = s.mem ∧ (s.creditFrame f).flow f = { s.flow f with told := (s.flow f).released } ∧
      (s.creditFrame f).dev.link.tx = s.dev.link.tx ++ [⟨out, none, ({ s.creditOf (s.flow f) with esc := s.portWrap out } : Frame).cls,
        { s.creditOf (s.flow f) with esc := s.portWrap out }, none, (s.flow f).owner⟩] := by
  have hcount := (s.modFlow f fun w => { w with told := w.released }).counted_bump (n := .lnkCntTxf) (by decide) [] 1 none 7 0
  have hesc : ((s.modFlow f fun w => { w with told := w.released }).bump .lnkCntTxf [] 1 none 7 0).escOut none out
      (s.creditOf (s.flow f)).esc = s.portWrap out := by
    have hself : s.escOut none out (s.creditOf (s.flow f)).esc = s.portWrap out := by
      unfold State.escOut
      cases s.portWrap out <;> rfl
    exact (hcount.escOut _ _ _).trans hself
  have horig : (s.modFlow f fun w => { w with told := w.released }).originate (s.flow f).creditFrame (s.flow f).owner none =
      ((s.modFlow f fun w => { w with told := w.released }).bump .lnkCntTxf [] 1 none 7 0).enqueue none out (s.creditOf (s.flow f)) none
        (s.flow f).owner :=
    State.originate_routes (s.modFlow f fun w => { w with told := w.released }) (g := (s.flow f).creditFrame) hpeer hroute _ _
  have hflow := hcount.events.flow f
  rw [State.flow_modFlow_self] at hflow
  have hlink := hcount.events.link
  have hmem : ((s.modFlow f fun w => { w with told := w.released }).bump .lnkCntTxf [] 1 none 7 0).mem = s.mem := hcount.events.mem
  unfold State.creditFrame
  dsimp only
  rw [if_pos ⟨hst, hrx, hrise, by simp [hclk]⟩, ← Flow.creditFrame, horig]
  generalize State.bump _ _ _ _ _ _ _ = t at hesc hflow hlink hmem ⊢
  have hsends' : ∀ r ∈ (t.enqueue none out (s.creditOf (s.flow f)) none (s.flow f).owner).dev.link.sends, r.flow ≠ (s.flow f).pflow := by
    change ∀ r ∈ t.dev.link.sends, _
    rw [hlink]
    exact hsends
  rw [State.pump_idle hsends']
  refine ⟨hmem, hflow, ?_⟩
  change t.dev.link.tx ++ [⟨out, none, ({ s.creditOf (s.flow f) with esc := t.escOut none out (s.creditOf (s.flow f)).esc } : Frame).cls,
    { s.creditOf (s.flow f) with esc := t.escOut none out (s.creditOf (s.flow f)).esc }, none, (s.flow f).owner⟩] = _
  rw [hesc, hlink]
  rfl
end

end Sys2Proof.Machine
end

section
/-!
PROOFS. The link layer of a port (R194 to R198, R204, R206): the statement, from what each command does.
-/
namespace Sys2Proof.Machine

section
variable {s : State} {p : Nat} {f : Frame} {lseq crc ce ue : Nat} (hon : s.takes p) (hgood : crc = f.norm.crc lseq)
  (hseq : lseq = (s.port p).expect) (hvalid : f.norm.valid = true)
include hon hgood hseq hvalid

/-- A good frame in order whose class is held stands behind what holds it. -/
theorem State.frameReceive_behind (h : ¬ s.clearFor p f.norm.cls) :
    (s.frameReceive p f lseq crc ce ue).port p = (s.port p).took ∧ (s.frameReceive p f lseq crc ce ue).mem = s.mem ∧
      (s.frameReceive p f lseq crc ce ue).dev.link.flows = s.dev.link.flows ∧
      (s.frameReceive p f lseq crc ce ue).dev.link.held = s.dev.link.held ++ [(p, f.norm)] := by
  have hlink := s.taken_link p ce ue
  rw [State.frameReceive_accepts hon hgood hseq hvalid, State.acceptFrame_behind (by rwa [State.taken_clearFor])]
  refine ⟨s.taken_port p ce ue, s.taken_mem p ce ue, ?_, ?_⟩
  · change (s.taken p ce ue).dev.link.flows = _
    rw [hlink]
  · change (s.taken p ce ue).dev.link.held ++ _ = _
    rw [hlink]

variable (hclear : s.clearFor p f.norm.cls) (hid : s.moduleId ≠ 0xFFF)
include hclear hid

/-- One for another module joins the frames that wait for the port that routes it. -/
theorem State.frameReceive_forwards (hdst : f.norm.dst ≠ s.moduleId) {out : Nat} (hroute : s.route f.norm true = .ok out) :
    (s.frameReceive p f lseq crc ce ue).port p = (s.port p).took ∧ (s.frameReceive p f lseq crc ce ue).mem = s.mem ∧
      (s.frameReceive p f lseq crc ce ue).dev.link.tx = s.dev.link.tx ++
        [⟨out, some (p, f.norm.cls), ({ f.norm with esc := s.escOut (some p) out f.norm.esc } : Frame).cls,
          { f.norm with esc := s.escOut (some p) out f.norm.esc }, none, none⟩] := by
  have hlink := s.taken_link p ce ue
  rw [State.frameReceive_accepts hon hgood hseq hvalid, State.acceptFrame_clear (by rwa [State.taken_clearFor]),
    State.admitFrame_forwards (out := out) (by rwa [State.taken_moduleId]) (by rwa [State.taken_moduleId]) (by rwa [State.taken_route]),
    ← s.taken_escOut p ce ue]
  refine ⟨s.taken_port p ce ue, s.taken_mem p ce ue, ?_⟩
  change (s.taken p ce ue).dev.link.tx ++ _ = _
  rw [hlink]
  rfl

/-- A DATA frame in sequence for an RX flow of this module lands in its slot. -/
theorem State.frameReceive_lands (hdst : f.norm.dst = s.moduleId) (hst : (s.flow f.norm.flow).st = .opened)
    (hrx : (s.flow f.norm.flow).kind = 1) (hpeer : f.norm.src = (s.flow f.norm.flow).peer) (hdata : f.norm.kind = 0)
    (hnext : f.norm.seq = (s.flow f.norm.flow).seq) (h : s.Lands f.norm) :
    (s.frameReceive p f lseq crc ce ue).bytes ((s.flow f.norm.flow).slotAt f.norm) f.norm.data.length = f.norm.data ∧
      (∀ x, x < (s.flow f.norm.flow).slotAt f.norm ∨ (s.flow f.norm.flow).slotAt f.norm + f.norm.data.length ≤ x →
        Mem.read (s.frameReceive p f lseq crc ce ue).mem x = Mem.read s.mem x) ∧
      (s.frameReceive p f lseq crc ce ue).port p =
        { (s.port p).took with wire := (s.port p).wire ++ [.lcredit f.norm.cls f.norm.units] } ∧
      (s.frameReceive p f lseq crc ce ue).flow f.norm.flow = ((s.flow f.norm.flow).placed (some (p, f.norm.cls)) f.norm).afterLanding
        ⟨(s.flow f.norm.flow).landed, some (p, f.norm.cls), f.norm, true⟩ [] := by
  have hflow := s.taken_flow p ce ue f.norm.flow
  have hup : ((s.taken p ce ue).port p).st = .up := by
    rw [State.taken_port]
    exact hon.1
  have hplaced := State.place_lands (s.taken_lands p ce ue h) p (p := p) (c := f.norm.cls) hup
  rw [State.frameReceive_accepts hon hgood hseq hvalid, State.acceptFrame_clear (by rwa [State.taken_clearFor]),
    State.admitFrame_places (by rwa [State.taken_moduleId]) (by rwa [State.taken_moduleId]) (by rw [hflow, hst]) (by rw [hflow, hrx])
      (by rw [hflow, hpeer]) hdata (by rw [hflow, hnext])]
  rw [State.taken_mem, State.taken_port, hflow] at hplaced
  obtain ⟨hread, hport, hend⟩ := hplaced
  refine ⟨?_, fun x hx => ?_, hport, hend⟩
  · exact (Mem.readN_congr _ _ fun x _ _ => hread x).trans (Mem.readN_writeN _ _ h.wf)
  · rw [hread, Mem.read_writeN _ _ _ h.wf, if_neg (by omega)]
end

section
variable {s : State} {p : Nat} {lseq : Nat}

theorem State.linkNak_off (h : ((s.port p).st ≠ .up ∨ s.regionStopped 16 = true) ∨ (s.port p).replay.filter (Sent.since lseq) = []) :
    (s.clockedBy 16 fun s => s.resend p lseq) = s := by
  by_cases hclk : s.regionStopped 16 = true
  · exact State.clockedBy_stopped hclk _
  · rw [State.clockedBy_runs (Bool.not_eq_true _ ▸ hclk)]
    exact State.resend_off (h.imp_left fun h => h.resolve_right hclk)

theorem State.clockedBy_same {r : Nat} {f : State → State} (h : f s = s) : s.clockedBy r f = s := by
  rw [State.clockedBy, h, ite_self]
end

/-- Settles O42: what each command of the link layer does (`frameSend_…`, `frameReceive_…`, `linkAck_effect`, `resend_…`,
`replayLimit_effect`, `ackSend_…`), and the CREDIT frame of a flow (`creditFrame_…`). -/
theorem framesAreAcknowledgedInOrder : Obligations.FramesAreAcknowledgedInOrder := by
  unfold Obligations.FramesAreAcknowledgedInOrder
  refine ⟨fun p s hrails => ?_, fun f s => ?_⟩
  · have hon : ¬ ((s.port p).st ≠ .up ∨ s.regionStopped 16 = true) → s.takes p := fun h => by
      rw [not_or, not_not, Bool.not_eq_true] at h
      exact h
    dsimp only
    simp only [exec_frameSend, exec_frameReceive, exec_linkAck, exec_linkNak, exec_replayTimeout, exec_ackSend, exec_lcredit,
      State.powered_on hrails, Host.Outcome.next.injEq, exists_eq_left']
    refine ⟨State.frameSend_off, fun inp t vc d hoff hpick => ?_, fun f lseq crc ce ue => ⟨fun h => ?_, fun hoff hbad hinv => ?_,
        fun hoff hgood hseq => ?_, fun hoff hgood hseq hvalid hheld => ?_, fun hoff hgood hseq hvalid hclear hid hdst out hroute => ?_,
        fun hoff hgood hseq hvalid hclear hid hdst hst hrx hfirst hpeer hdata hnext hfits hopen hdirect hfree hclk hwf => ?_⟩,
      fun lseq hclk => ?_, fun lseq => ⟨State.linkNak_off, fun hoff hagain htries => ?_, fun hoff htries => ?_⟩,
      fun h => State.clockedBy_same (State.replayTimeout_nil h), fun f r h hlseq => ?_, fun hoff hun => ?_, State.ackSend_off,
      fun cls units hclk => State.clockedBy_runs hclk _⟩
    · obtain ⟨hst, hclk⟩ := hon hoff
      obtain ⟨hmem, htx, w, hport, hw⟩ := State.frameSend_sends hst hclk hpick
      rw [hport]
      exact ⟨hmem, htx, rfl, rfl, rfl, hw⟩
    · obtain ⟨hport, hdisc⟩ := State.frameReceive_silent (f := f) (ce := ce) (ue := ue) h
      exact ⟨hport, hdisc.mem, hdisc.flows⟩
    · obtain ⟨hdiscarding, hexp, hdisc, hport⟩ := State.frameReceive_bad (f := f) (ce := ce) (ue := ue) (hon hoff) hbad hinv
      exact ⟨hdiscarding, hexp, hdisc.mem, hdisc.flows, hport⟩
    · obtain ⟨hport, hdisc⟩ := State.frameReceive_unexpected (f := f) (ce := ce) (ue := ue) (hon hoff) hgood hseq
      exact ⟨hport, hdisc.mem, hdisc.flows⟩
    · exact State.frameReceive_behind (hon hoff) hgood hseq hvalid hheld
    · exact State.frameReceive_forwards (hon hoff) hgood hseq hvalid hclear hid hdst hroute
    · obtain ⟨hbytes, hread, hport, hflow⟩ := State.frameReceive_lands (f := f) (ce := ce) (ue := ue) (hon hoff) hgood hseq hvalid hclear
        hid hdst hst hrx hpeer hdata hnext ⟨hfirst, hfits, hopen, hdirect, hfree, hclk, hwf⟩
      rw [hflow]
      exact ⟨hbytes, hread, hport, rfl, rfl, rfl, rfl⟩
    · rw [State.clockedBy_runs hclk]
      exact s.linkAck_effect lseq.toNat
    · obtain ⟨hst, hclk⟩ := hon hoff
      obtain ⟨hmem, -, hport⟩ := s.resent_effect (p := p) lseq.toNat
      rw [State.clockedBy_runs hclk, State.resend_again hst hagain htries, hport]
      exact ⟨hmem, hst, rfl, rfl⟩
    · obtain ⟨hst, hclk⟩ := hon hoff
      rw [State.clockedBy_runs hclk]
      exact State.resend_limit hst htries
    · rw [BitVec.toNat_ofNat, Nat.mod_eq_of_lt hlseq, State.clockedBy, State.clockedBy, State.replayTimeout_cons h]
    · obtain ⟨hst, hclk⟩ := hon hoff
      exact State.ackSend_sends hst hclk hun
  · dsimp only
    intro hst hrx hred
    simp only [exec_creditFrameSend, Host.Outcome.next.injEq, exists_eq_left']
    refine ⟨fun h => ?_, fun out hrise hclk hsends hpeer hroute => ?_⟩
    · rw [State.creditFrame_idle h, State.creditRed_none hred]
    · obtain ⟨hmem, hflow, htx⟩ := State.creditFrame_sends hst hrx hrise hclk hsends hpeer hroute
      rw [State.creditRed_none (by rw [hflow]; exact hred)]
      exact ⟨hmem, hflow, htx⟩

end Sys2Proof.Machine
end

section
/-!
PROOFS. What the commands of the cores keep of the queue, of a stop under way and of the count of periods.
-/
namespace Sys2Proof.Machine

/-! ### The frame of a state -/

/-- What no command changes but those of the supply: the queue, when a stop began, and the count of periods. -/
def State.frame (s : State) : List Instr × Option Nat × Nat := (s.pending, s.nv.power.stopAt, s.dev.period)

theorem State.pending_of_frame {s t : State} (h : t.frame = s.frame) : t.pending = s.pending := congrArg Prod.fst h
theorem State.stopAt_of_frame {s t : State} (h : t.frame = s.frame) : t.nv.power.stopAt = s.nv.power.stopAt := congrArg (·.2.1) h
theorem State.period_of_frame {s t : State} (h : t.frame = s.frame) : t.dev.period = s.dev.period := congrArg (·.2.2) h

@[simp] theorem State.frame_ite (c : Prop) [Decidable c] (s t : State) : (if c then s else t).frame = if c then s.frame else t.frame :=
  apply_ite _ _ _ _

@[simp] theorem State.frame_foldl {α : Type} {f : State → α → State} (h : ∀ t x, (f t x).frame = t.frame) (l : List α) (s : State) :
    (l.foldl f s).frame = s.frame := foldl_keeps State.frame h l s

/-- The frame of a state with some of its fields written, field by field. -/
@[simp] theorem State.frame_mk (q : List Instr) (d : Dev) (m : Mem) (b : List Nat) (v : Nv) (h : HostSide) :
    State.frame ⟨q, d, m, b, v, h⟩ = (q, v.power.stopAt, d.period) := rfl

@[simp] theorem State.frame_eta (s : State) : (s.pending, s.nv.power.stopAt, s.dev.period) = s.frame := rfl

/-! ### Registers, events and counters -/

@[simp] theorem State.setCore_frame (s : State) (c : Nat) (k : Core) : (s.setCore c k).frame = s.frame := by rfl
@[simp] theorem State.modCore_frame (s : State) (c : Nat) (f : Core → Core) : (s.modCore c f).frame = s.frame := by rfl
@[simp] theorem State.setCluster_frame (s : State) (k : Nat) (x : Cluster) : (s.setCluster k x).frame = s.frame := by rfl
@[simp] theorem State.modCluster_frame (s : State) (k : Nat) (f : Cluster → Cluster) : (s.modCluster k f).frame = s.frame := by rfl
@[simp] theorem State.setCtx_frame (s : State) (c : Nat) (x : Ctx) : (s.setCtx c x).frame = s.frame := by rfl
@[simp] theorem State.modCtx_frame (s : State) (c : Nat) (f : Ctx → Ctx) : (s.modCtx c f).frame = s.frame := by rfl
@[simp] theorem State.setLog_frame (s : State) (l : Nat) (x : Log) : (s.setLog l x).frame = s.frame := by rfl
@[simp] theorem State.setReg_frame (s : State) (n : RegName) (i : List Nat) (v : BitVec 64) : (s.setReg n i v).frame = s.frame := by rfl
@[simp] theorem State.setField_frame (s : State) (n : RegName) (i : List Nat) (hi lo v : Nat) : (s.setField n i hi lo v).frame = s.frame := by rfl

@[simp] theorem State.recordFault_frame (s : State) (n : RegName) (i : List Nat) (valid : Nat) (w : BitVec 64) :
    (s.recordFault n i valid w).frame = s.frame := by simp [State.recordFault]

@[simp] theorem State.vector_frame (s : State) (v : Nat) : (s.vector v).frame = s.frame := by rfl
@[simp] theorem State.armTrigger_frame (s : State) (c : Nat) (a : Arming) : (s.armTrigger c a).frame = s.frame := by rfl
@[simp] theorem State.trigger_frame (s : State) (w : WaveSrc) : (s.trigger w).frame = s.frame := by rfl

@[simp] theorem State.classTriggers_frame (l g : Nat) (cs : List Nat) : ∀ s : State, (s.classTriggers l g cs).frame = s.frame := by
  induction cs with
  | nil => exact fun _ => rfl
  | cons c cs ih =>
    intro s
    rw [State.classTriggers, ih]
    split
    · split
      · exact State.armTrigger_frame s c _
      · rfl
    · rfl

@[simp] theorem State.powered_frame (s : State) (f : State → State) (hf : ∀ t, (f t).frame = t.frame) : (s.powered f).frame = s.frame := by
  simp [State.powered, hf]

@[simp] theorem State.hosted_frame (s : State) (f : State → State) (hf : ∀ t, (f t).frame = t.frame) : (s.hosted f).frame = s.frame := by
  simp [State.hosted, hf]

@[simp] theorem State.record_frame (s : State) (code : Nat) (o : Origin) : (s.record code o).frame = s.frame := by simp [State.record]

@[simp] theorem State.bump_frame (s : State) (n : RegName) (i : List Nat) (k : Nat) (ctx : Option Nat) (kind index : Nat) :
    (s.bump n i k ctx kind index).frame = s.frame := by simp [State.bump]

@[simp] theorem State.taint_frame (s : State) (c : Nat) (step : BitVec 64) : (s.taint c step).frame = s.frame := by simp [State.taint]

@[simp] theorem State.raise_frame (s : State) (code : Nat) (o : Origin) : (s.raise code o).frame = s.frame := by
  unfold State.raise
  split <;> simp

@[simp] theorem State.bumpCore_frame (s : State) (n : RegName) (i : List Nat) (k c : Nat) : (s.bumpCore n i k c).frame = s.frame := by
  simp [State.bumpCore]

@[simp] theorem State.bumpSide_frame (s : State) (n : RegName) (c : Nat) (x : Side) (k : Nat) : (s.bumpSide n c x k).frame = s.frame := by
  simp [State.bumpSide]

@[simp] theorem State.coreFault_frame (s : State) (c code : Nat) (step : BitVec 64) : (s.coreFault c code step).frame = s.frame := by
  simp [State.coreFault]

@[simp] theorem State.seqFault_frame (s : State) (c : Nat) (e : QEntry) (code cause lateBy : Nat) :
    (s.seqFault c e code cause lateBy).frame = s.frame := by simp [State.seqFault]

/-! ### The port of cluster memory -/

@[simp] theorem State.clockedBy_frame (s : State) (r : Nat) (f : State → State) (hf : ∀ t, (f t).frame = t.frame) :
    (s.clockedBy r f).frame = s.frame := by simp [State.clockedBy, hf]

@[simp] theorem State.put_frame (s : State) (a : Nat) (d : List Byte) (poison : Bool) : (s.put a d poison).frame = s.frame := by rfl
@[simp] theorem State.putWith_frame (s : State) (a : Nat) (d : List Byte) (bad : List Nat) : (s.putWith a d bad).frame = s.frame := by rfl

@[simp] theorem State.captureTag_frame (c : Nat) (t : Tag) (n : Nat) : ∀ s : State, (s.captureTag c t n).frame = s.frame := by
  induction n with
  | zero => exact fun _ => rfl
  | succ n ih => exact fun s => ih _

@[simp] theorem State.hoopFault_frame (s : State) (c cause : Nat) (d : Dir) (t : Tag) : (s.hoopFault c cause d t).frame = s.frame := by
  simp [State.hoopFault]

@[simp] theorem State.modClm_frame (s : State) (f : ClmS → ClmS) : (s.modClm f).frame = s.frame := by rfl
@[simp] theorem State.clmPut_frame (s : State) (c a : Nat) (d : List Byte) (p : Bool) (w : Nat) : (s.clmPut c a d p w).frame = s.frame := by rfl

@[simp] theorem State.clmStore_frame (s : State) (c a : Nat) (d : List Byte) (p : Bool) : (s.clmStore c a d p).frame = s.frame := by
  simp [State.clmStore]

@[simp] theorem State.coreRead_frame (s : State) (c a n : Nat) : (s.coreRead c a n).1.frame = s.frame := by
  unfold State.coreRead
  split <;> rfl

@[simp] theorem State.clmOver_frame (s : State) (a n : Nat) : (s.clmOver a n).frame = s.frame := by rfl
@[simp] theorem State.putShared_frame (s : State) (a : Nat) (d : List Byte) (poison : Bool) : (s.putShared a d poison).frame = s.frame := by rfl
@[simp] theorem State.putWithShared_frame (s : State) (a : Nat) (d : List Byte) (bad : List Nat) : (s.putWithShared a d bad).frame = s.frame := by rfl
@[simp] theorem State.clmMeet_frame (s : State) (ps : List Nat) : (s.clmMeet ps).frame = s.frame := by rfl
@[simp] theorem State.clmPost_frame (s : State) (c f : Nat) : (s.clmPost c f).frame = s.frame := by rfl
@[simp] theorem State.clmFlag_frame (s : State) (c f : Nat) : (s.clmFlag c f).frame = s.frame := by rfl
@[simp] theorem State.clmForget_frame (s : State) (k : Nat) : (s.clmForget k).frame = s.frame := by rfl

@[simp] theorem State.landOne_frame (s : State) (c : Nat) (p : Pend) : (s.landOne c p).frame = s.frame := by
  cases p <;> simp [State.landOne]

@[simp] theorem State.landAll_frame (c : Nat) (ps : List Pend) : ∀ s : State, (s.landAll c ps).frame = s.frame := by
  induction ps with
  | nil => exact fun _ => rfl
  | cons p ps ih => exact fun s => (ih _).trans (s.landOne_frame c p)

@[simp] theorem State.landEmits_frame (s : State) (c : Nat) : (s.landEmits c).frame = s.frame := by rfl
@[simp] theorem State.landDue_frame (s : State) (c : Nat) : (s.landDue c).frame = s.frame := by simp [State.landDue]
@[simp] theorem State.popHead_frame (s : State) (c eng : Nat) : (s.popHead c eng).frame = s.frame := by rfl
@[simp] theorem State.freeze_frame (s : State) (c cause eng : Nat) : (s.freeze c cause eng).frame = s.frame := by rfl
@[simp] theorem State.thaw_frame (s : State) (c : Nat) : (s.thaw c).frame = s.frame := by rfl

@[simp] theorem State.haltCores_frame (cs : List Nat) : ∀ s : State, (s.haltCores cs).frame = s.frame := by
  induction cs with
  | nil => exact fun _ => rfl
  | cons k ks ih => exact fun s => ih _

@[simp] theorem State.haltCtx_frame (s : State) (c : Nat) : (s.haltCtx c).frame = s.frame := by simp [State.haltCtx]
@[simp] theorem State.eventHalt_frame (s : State) (c : Nat) : (s.eventHalt c).frame = s.frame := by simp [State.eventHalt]

/-! ### Conversion -/

@[simp] theorem State.rangeLookup_frame (s : State) (c : Nat) (x : StreamSel) (step : BitVec 64) (tensor : Nat) (target : Option Fmt) :
    (s.rangeLookup c x step tensor target).1.frame = s.frame := by
  unfold State.rangeLookup
  dsimp only
  split
  · split
    · split <;> rfl
    · rfl
  · split
    · simp
    · simp

@[simp] theorem State.countConv_frame (s : State) (c tensor : Nat) (hit : Bool) (target : Option Fmt) (k : Counts) :
    (s.countConv c tensor hit target k).frame = s.frame := by
  unfold State.countConv
  dsimp only
  repeat' split
  all_goals simp

@[simp] theorem State.consumePoison_frame (s : State) (c : Nat) (e : QEntry) : (s.consumePoison c e).frame = s.frame := by simp [State.consumePoison]
@[simp] theorem State.consumeIf_frame (s : State) (p : Bool) (c : Nat) (e : QEntry) : (s.consumeIf p c e).frame = s.frame := by simp [State.consumeIf]

/-! ### Hazards -/

@[simp] theorem State.reportHazard_frame (s : State) (c : Nat) (e : QEntry) (old new : HazAcc) (kind : Nat) :
    (s.reportHazard c e old new kind).frame = s.frame := by
  unfold State.reportHazard
  dsimp only
  repeat' split
  all_goals simp

@[simp] theorem State.reportHazards_frame (c : Nat) (e : QEntry) (hs : List (HazAcc × HazAcc × Nat)) :
    ∀ s : State, (s.reportHazards c e hs).frame = s.frame := by
  induction hs with
  | nil => exact fun _ => rfl
  | cons h hs ih => exact fun s => (ih _).trans (State.reportHazard_frame ..)

@[simp] theorem State.sramCharge_frame (s : State) (c : Nat) : (s.sramCharge c).frame = s.frame := by simp [State.sramCharge]
@[simp] theorem State.clmPort_frame (s : State) (c : Nat) : (s.clmPort c).frame = s.frame := by simp [State.clmPort]
@[simp] theorem State.hazards_frame (s : State) (c : Nat) (e : QEntry) : (s.hazards c e).frame = s.frame := by simp [State.hazards]

/-! ### Starts, faults and landings -/

@[simp] theorem State.modArr_frame (s : State) (c : Nat) (x : Side) (f : ArrayS → ArrayS) : (s.modArr c x f).frame = s.frame := by rfl

@[simp] theorem State.drainOne_frame (s : State) (c : Nat) (x : Side) (j : DrainJob) (o : OutVec) : (s.drainOne c x j o).frame = s.frame := by
  simp [State.drainOne]

@[simp] theorem State.drainStep_frame (s : State) (c : Nat) (x : Side) : (s.drainStep c x).frame = s.frame := by
  unfold State.drainStep
  split <;> simp

@[simp] theorem State.recvMem_frame (s : State) (c : Nat) (e : QEntry) (d : Dir) (turn : Bool) (m : MemRef) :
    (s.recvMem c e d turn m).frame = s.frame := by
  unfold State.recvMem
  split <;> simp

@[simp] theorem State.recvStep_frame (s : State) (c : Nat) : (s.recvStep c).frame = s.frame := by
  unfold State.recvStep
  repeat' split
  all_goals simp

@[simp] theorem State.land_frame (s : State) (c : Nat) : (s.land c).frame = s.frame := by simp [State.land]

@[simp] theorem State.startWith_frame (s : State) (c eng : Nat) (p : Cmd → Bool) (f : State → QEntry → State) (hf : ∀ t a, (f t a).frame = t.frame) :
    (s.startWith c eng p f).frame = s.frame := by
  unfold State.startWith
  split <;> simp [hf]

/-! ### The arrays -/

@[simp] theorem State.pressBeat_frame (s : State) (c : Nat) (x : Side) : (s.pressBeat c x).frame = s.frame := by
  unfold State.pressBeat
  dsimp only
  repeat' split
  all_goals simp

@[simp] theorem State.injectVec_frame (s : State) (c : Nat) (x : Side) (j : ArrJob) (a : MulArgs) : (s.injectVec c x j a).frame = s.frame := by
  simp [State.injectVec]

@[simp] theorem State.injectSide_frame (s : State) (c : Nat) (x : Side) : (s.injectSide c x).frame = s.frame := by
  unfold State.injectSide
  dsimp only
  split <;> simp

@[simp] theorem State.injectBeat_frame (s : State) (c : Nat) : (s.injectBeat c).frame = s.frame := by simp [State.injectBeat]

@[simp] theorem State.arrFault_frame (s : State) (c : Nat) (x : Side) (code cause opseq entry : Nat) (step : BitVec 64) :
    (s.arrFault c x code cause opseq entry step).frame = s.frame := by simp [State.arrFault]

@[simp] theorem State.jobStarved_frame (s : State) (c : Nat) (x : Side) : (s.jobStarved c x).frame = s.frame := by
  unfold State.jobStarved
  dsimp only
  repeat' split
  all_goals simp

@[simp] theorem State.press_frame (s : State) (c : Nat) (x : Side) (e : QEntry) (src : Src) (t : Bool) (f : Fmt) (frozen : Bool) :
    (s.press c x e src t f frozen).frame = s.frame := by
  unfold State.press
  dsimp only
  repeat' split
  all_goals simp

@[simp] theorem State.mulStart_frame (s : State) (c : Nat) (x : Side) (e : QEntry) (a : MulArgs) : (s.mulStart c x e a).frame = s.frame := by
  unfold State.mulStart
  dsimp only
  repeat' split
  all_goals simp

@[simp] theorem State.wheyFault_frame (s : State) (c : Nat) (x : Side) : (s.wheyFault c x).frame = s.frame := by
  unfold State.wheyFault
  dsimp only
  repeat' split
  all_goals simp

@[simp] theorem State.opComplete_frame (s : State) (c : Nat) (x : Side) : (s.opComplete c x).frame = s.frame := by
  unfold State.opComplete
  dsimp only
  split <;> simp

@[simp] theorem State.drain_frame (s : State) (c : Nat) (x : Side) (e : QEntry) (dst : DrainDst) (n : Nat) (f : Fmt) (oscale : Int) (sr : Bool)
    (key : KeyRef) :
    (s.drain c x e dst n f oscale sr key).frame = s.frame := by simp [State.drain]

@[simp] theorem State.skipdw_frame (s : State) (c : Nat) (x : Side) (e : QEntry) (on : Bool) : (s.skipdw c x e on).frame = s.frame := by
  simp [State.skipdw]

@[simp] theorem State.arrayCmd_frame (s : State) (c : Nat) (x : Side) (e : QEntry) : (s.arrayCmd c x e).frame = s.frame := by
  unfold State.arrayCmd
  repeat' split
  all_goals simp

@[simp] theorem State.arrayStart_frame (s : State) (c : Nat) (x : Side) (p : Cmd → Bool) : (s.arrayStart c x p).frame = s.frame := by
  simp [State.arrayStart]

/-! ### The vector unit -/

@[simp] theorem State.later_frame (s : State) (c : Nat) (p : Pend) : (s.later c p).frame = s.frame := by rfl

@[simp] theorem State.vecOp_frame (s : State) (c : Nat) (e : QEntry) (o : VOp) (vd va vb vc : Nat) (ty : Lanes) :
    (s.vecOp c e o vd va vb vc ty).frame = s.frame := by simp [State.vecOp]

@[simp] theorem State.vcvt_frame (s : State) (c : Nat) (e : QEntry) (vd va : Nat) (f : Fmt) (back sr : Bool) (oscale : Int) (key : KeyRef) :
    (s.vcvt c e vd va f back sr oscale key).frame = s.frame := by simp [State.vcvt]

@[simp] theorem State.vld_frame (s : State) (c : Nat) (e : QEntry) (v : Nat) (m : MemRef) : (s.vld c e v m).frame = s.frame := by
  unfold State.vld
  split <;> simp

@[simp] theorem State.vst_frame (s : State) (c : Nat) (e : QEntry) (v : Nat) (m : MemRef) : (s.vst c e v m).frame = s.frame := by rfl

@[simp] theorem State.vectorStart_frame (s : State) (c : Nat) (p : Cmd → Bool) : (s.vectorStart c p).frame = s.frame := by
  refine State.startWith_frame _ _ _ _ _ fun t e => ?_
  dsimp only
  split <;> simp

/-! ### The ladle -/

@[simp] theorem State.ldlFault_frame (s : State) (c code cause : Nat) (e : QEntry) : (s.ldlFault c code cause e).frame = s.frame := by
  simp [State.ldlFault]

@[simp] theorem State.ladle_frame (s : State) (c : Nat) (e : QEntry) (l : LdlCmd) : (s.ladle c e l).frame = s.frame := by simp [State.ladle]

@[simp] theorem State.ladleUnit_frame (s : State) (c : Nat) (j : LdlJob) (f : Fmt) (p : Nat) : (s.ladleUnit c j f p).frame = s.frame := by
  simp [State.ladleUnit]

@[simp] theorem State.ladleLast_frame (s : State) (c : Nat) (j : LdlJob) : (s.ladleLast c j).frame = s.frame := by simp [State.ladleLast]

@[simp] theorem State.ladleBeat_frame (s : State) (c : Nat) : (s.ladleBeat c).frame = s.frame := by
  unfold State.ladleBeat
  dsimp only
  split
  · simp
  · split
    · simp
    · split
      · simp
      · rw [State.frame_ite, State.ladleLast_frame, ite_self]
        refine (State.frame_foldl (fun t p => ?_) _ _).trans ?_
        · split <;> simp
        · simp

@[simp] theorem State.ladleStart_frame (s : State) (c : Nat) (acc : Bool) : (s.ladleStart c acc).frame = s.frame := by
  refine State.startWith_frame _ _ _ _ _ fun t e => ?_
  split <;> simp

/-! ### The sequencer -/

@[simp] theorem State.segmentFetch_frame (s : State) (c : Nat) (x : StreamSel) : (s.segmentFetch c x).frame = s.frame := by
  unfold State.segmentFetch
  dsimp only
  repeat' split
  all_goals simp

theorem State.frame_decodeMatch {u : List Instr × Option Nat × Nat} (o : Option (Except (Nat × Nat) Unit)) (p : Except (Nat × Nat) Cmd) {a : State}
    {b : Nat × Nat → State} {d : Cmd → State} (ha : a.frame = u) (hb : ∀ r, (b r).frame = u) (hd : ∀ cmd, (d cmd).frame = u) :
    (match o with
      | none => a
      | some (.error r) => b r
      | some (.ok _) => match p with | .error r => b r | .ok cmd => d cmd).frame = u := by
  rcases o with _ | (r | _)
  · exact ha
  · exact hb r
  · rcases p with r | cmd
    · exact hb r
    · exact hd cmd

@[simp] theorem State.decodeWord_frame (s : State) (c : Nat) (x : StreamSel) (w : Nat) : (s.decodeWord c x w).frame = s.frame := by
  have hlate (o : Option Nat) (e : QEntry) (k : Core) :
      (match o with | some l => s.seqFault c e 0x0106 4 l | none => s.setCore c k).frame = s.frame := by
    cases o with
    | none => exact State.setCore_frame ..
    | some l => exact State.seqFault_frame ..
  unfold State.decodeWord
  extract_lets k q e0
  split
  · exact State.seqFault_frame ..
  · split
    · exact State.seqFault_frame ..
    · split
      · split
        · exact State.seqFault_frame ..
        · split
          · exact State.seqFault_frame ..
          · exact State.setCore_frame ..
      · split
        · exact State.setCore_frame ..
        · exact State.frame_decodeMatch _ _ (State.setCore_frame ..) (fun r => State.seqFault_frame ..) fun cmd => hlate ..

@[simp] theorem State.decodeStep_frame (s : State) (c : Nat) (want : Nat → Bool) : (s.decodeStep c want).frame = s.frame := by
  unfold State.decodeStep
  dsimp only
  repeat' split
  all_goals simp

@[simp] theorem State.openBoundary_frame (s : State) (c : Nat) (cmd : Cmd) (op : Nat) : (s.openBoundary c cmd op).frame = s.frame := by
  unfold State.openBoundary
  split <;> simp

/-! ### The hoop -/

@[simp] theorem State.setAirHead_frame (s : State) (c : Nat) (d : Dir) (new : Option Air) : (s.setAirHead c d new).frame = s.frame := by rfl

@[simp] theorem State.send_frame (s : State) (ctx c : Nat) (d : Dir) (origin : Nat) (retire : Bool) (t : Tile) :
    (s.send ctx c d origin retire t).frame = s.frame := by
  unfold State.send
  split <;> simp

@[simp] theorem State.enter_frame (s : State) (c : Nat) (a : Air) : (s.enter c a).frame = s.frame := by simp [State.enter]

@[simp] theorem State.tileArrive_frame (s : State) (c : Nat) (d : Dir) (flips ce : Nat) (ue : List Nat) :
    (s.tileArrive c d flips ce ue).frame = s.frame := by
  unfold State.tileArrive
  dsimp only
  repeat' split
  all_goals simp

@[simp] theorem State.tileAdmit_frame (s : State) (c : Nat) (d : Dir) : (s.tileAdmit c d).frame = s.frame := by
  unfold State.tileAdmit
  split <;> simp

@[simp] theorem State.inject_frame (s : State) (c : Nat) (e : QEntry) (i : InjCmd) : (s.inject c e i).frame = s.frame := by
  unfold State.inject
  repeat' split
  all_goals simp

@[simp] theorem State.handOver_frame (s : State) (c : Nat) (x : Side) (h : Handed) : (s.handOver c x h).frame = s.frame := by rfl

@[simp] theorem State.recv_frame (s : State) (c : Nat) (e : QEntry) (d : Dir) (turn : Bool) (dest : Nat) (m : Option MemRef) :
    (s.recv c e d turn dest m).frame = s.frame := by
  unfold State.recv
  dsimp only
  repeat' split
  all_goals simp

@[simp] theorem State.retireSet_frame (s : State) (c : Nat) (d : Dir) (t : Nat) : (s.retireSet c d t).frame = s.frame := by rfl

@[simp] theorem State.hoopCmd_frame (s : State) (c : Nat) (e : QEntry) : (s.hoopCmd c e).frame = s.frame := by
  unfold State.hoopCmd
  split <;> simp

@[simp] theorem State.hoopStart_frame (s : State) (c : Nat) (p : Cmd → Bool) : (s.hoopStart c p).frame = s.frame := by simp [State.hoopStart]

end Sys2Proof.Machine
end

section
/-!
PROOFS. What the memory tiers, the links, the harp and the streams keep of the queue, of a stop under way and of the count of periods.
-/
namespace Sys2Proof.Machine

/-! ### Entries and memory -/

@[simp] theorem State.modStream_frame (s : State) (k x : Nat) (f : StreamS → StreamS) : (s.modStream k x f).frame = s.frame := by rfl
@[simp] theorem State.delay_frame (s : State) (origin : Nat) (p : Nat → Bool) : (s.delay origin p).frame = s.frame := by simp [State.delay]

/-! ### Flash -/

@[simp] theorem State.modFlash_frame (s : State) (f : Flash → Flash) : (s.modFlash f).frame = s.frame := by rfl
@[simp] theorem State.flashWork_frame (s : State) (f : Flash → Flash) : (s.flashWork f).frame = s.frame := by simp [State.flashWork]
@[simp] theorem State.programPages_frame (s : State) (a n : Nat) : (s.programPages a n).frame = s.frame := by simp [State.programPages]

/-! ### Tiers -/

@[simp] theorem State.modMem_frame (s : State) (f : MemS → MemS) : (s.modMem f).frame = s.frame := by rfl
@[simp] theorem State.setGran_frame (s : State) (g : Nat) (x : Gran) : (s.setGran g x).frame = s.frame := by rfl

@[simp] theorem State.memFault_frame (s : State) (code req ctx src cause addr : Nat) : (s.memFault code req ctx src cause addr).frame = s.frame := by
  simp [State.memFault]

@[simp] theorem State.moveTo_frame (s : State) (g u : Nat) : (s.moveTo g u).frame = s.frame := by
  unfold State.moveTo
  split <;> simp

@[simp] theorem State.makeRoom_frame (fuel : Nat) : ∀ (s : State) (o : Option Nat) (u n : Nat) (excl : List Nat),
    (State.makeRoom fuel s o u n excl).1.frame = s.frame := by
  induction fuel with
  | zero => exact fun _ _ _ _ _ => rfl
  | succ fuel ih =>
    intro s o u n excl
    rw [State.makeRoom]
    split
    · rfl
    · split
      · rfl
      · split
        · rfl
        · extract_lets down owner
          have hdown : (if down = 10 ∧ ¬ s.caveOpen then (s, false) else State.makeRoom fuel s owner down 1 []).1.frame = s.frame := by
            split
            · rfl
            · exact ih ..
          split
          all_goals
            rename_i t h
            rw [h] at hdown
            rw [ih]
          · exact (State.bump_frame ..).trans ((State.moveTo_frame ..).trans hdown)
          · exact hdown

theorem State.frame_of_makeRoom {s t : State} {fuel u n : Nat} {o : Option Nat} {excl : List Nat} {b : Bool}
    (h : State.makeRoom fuel s o u n excl = (t, b)) : t.frame = s.frame := by
  rw [← State.makeRoom_frame fuel s o u n excl, h]

@[simp] theorem State.roomFor_frame (r : AllocReq) (us : List Nat) : ∀ s : State, (State.roomFor r us s).1.frame = s.frame := by
  induction us with
  | nil => exact fun _ => rfl
  | cons u us ih =>
    intro s
    rw [State.roomFor]
    have hroom := State.makeRoom_frame s.evictFuel s r.owner u (r.inUnit u) []
    split
    · rename_i t h
      rw [ih, ← hroom, h]
    · rename_i t h
      rw [← hroom, h]

@[simp] theorem State.clear_frame (s : State) (a n : Nat) : (s.clear a n).frame = s.frame := by rfl
@[simp] theorem State.grant_frame (s : State) (r : AllocReq) (g : Nat) : (s.grant r g).frame = s.frame := by simp [State.grant]

@[simp] theorem State.alloc_frame (s : State) (r : AllocReq) (hint : Option Nat) : (s.alloc r hint).1.frame = s.frame := by
  have hroom := State.roomFor_frame r ((List.range 11).filter fun u => r.inUnit u != 0) s
  unfold State.alloc
  dsimp only
  split
  · rename_i t h
    rw [h] at hroom
    simpa using hroom
  · rename_i t h
    rw [h] at hroom
    split
    · simpa using hroom
    · simpa using hroom

theorem State.frame_of_alloc {s t : State} {r : AllocReq} {hint o : Option Nat} (h : s.alloc r hint = (t, o)) : t.frame = s.frame := by
  rw [← s.alloc_frame r hint, h]

@[simp] theorem State.forgetScratch_frame (s : State) (g n : Nat) : (s.forgetScratch g n).frame = s.frame := by simp [State.forgetScratch]
@[simp] theorem State.freeGrans_frame (s : State) (g n : Nat) : (s.freeGrans g n).frame = s.frame := by simp [State.freeGrans]
@[simp] theorem State.freeCtx_frame (s : State) (c : Nat) : (s.freeCtx c).frame = s.frame := by simp [State.freeCtx]

@[simp] theorem State.touchGran_frame (s : State) (g : Nat) : (s.touchGran g).frame = s.frame := by
  unfold State.touchGran
  split <;> simp

@[simp] theorem State.touch_frame (s : State) (a n : Nat) : (s.touch a n).frame = s.frame := by simp [State.touch]

@[simp] theorem State.granuleMove_frame (s : State) (g : Nat) : (s.granuleMove g).frame = s.frame := by
  unfold State.granuleMove
  dsimp only
  repeat' split
  all_goals simp

@[simp] theorem State.spoil_frame (s : State) (x n kind index : Nat) : (s.spoil x n kind index).frame = s.frame := by simp [State.spoil]

@[simp] theorem State.queueRetire_frame (s : State) (g : Nat) : (s.queueRetire g).frame = s.frame := by
  unfold State.queueRetire
  split <;> simp

@[simp] theorem State.rowFailure_frame (s : State) (n : Nat) (l : RowLoc) (ue : Bool) (g : Nat) : (s.rowFailure n l ue g).frame = s.frame := by
  simp [State.rowFailure]

@[simp] theorem State.stackWord_frame (s : State) (n a : Nat) (l : RowLoc) (e : Ecc) : (s.stackWord n a l e).frame = s.frame := by
  unfold State.stackWord
  split <;> simp

@[simp] theorem State.countRetired_frame (s : State) (n : Nat) : (s.countRetired n).frame = s.frame := by simp [State.countRetired]
@[simp] theorem State.loseFrame_frame (s : State) (u : Nat) : (s.loseFrame u).frame = s.frame := by rfl

@[simp] theorem State.granuleRetire_frame (s : State) (g : Nat) : (s.granuleRetire g).frame = s.frame := by
  unfold State.granuleRetire
  split
  · rfl
  · split
    · rfl
    · rename_i x hx
      extract_lets done stay n spare r retired
      have hdone (t : State) (y : Gran) : (done t y).frame = t.frame := by simp [done]
      have hstay (t : State) : (stay t).frame = t.frame := State.setGran_frame ..
      have hretired (t : State) : (retired t).frame = t.frame := by simp [retired]
      have hr : r.1.frame = s.frame := by
        dsimp only [r]
        split
        · rfl
        · exact State.makeRoom_frame ..
      clear_value done stay r retired
      split
      · split
        · simp [hdone]
        · obtain ⟨t, _ | _⟩ := r
          · dsimp only at hr ⊢
            split
            · exact (hstay _).trans hr
            · split
              · rename_i v hv
                simp [hdone, State.frame_of_makeRoom hv, hr]
              · rename_i v hv
                exact (hstay _).trans ((State.frame_of_makeRoom hv).trans hr)
          · simpa [hdone] using hr
      · split
        · split
          · simp [hdone, hretired]
          · split
            · simp [hdone, hretired]
            · exact hstay _
        · exact hdone ..

@[simp] theorem State.cellarAccess_frame (s : State) (a : Nat) (ue : Bool) : (s.cellarAccess a ue).frame = s.frame := by
  unfold State.cellarAccess
  dsimp only
  split <;> simp

@[simp] theorem State.sramAccess_frame (s : State) (a : Nat) (e : Ecc) : (s.sramAccess a e).frame = s.frame := by
  unfold State.sramAccess
  repeat' split
  all_goals simp

@[simp] theorem State.stackAccess_frame (s : State) (n a : Nat) (l : RowLoc) (e : Ecc) (miss : Bool) :
    (s.stackAccess n a l e miss).frame = s.frame := by simp [State.stackAccess]

@[simp] theorem State.patrol_frame (s : State) (n a : Nat) (l : RowLoc) (e : Ecc) (last : Bool) : (s.patrol n a l e last).frame = s.frame := by
  simp [State.patrol]

@[simp] theorem State.refresh_frame (s : State) (n temp : Nat) : (s.refresh n temp).frame = s.frame := by simp [State.refresh]

/-! ### The cave -/

@[simp] theorem State.badBlock_frame (s : State) (b : Nat) : (s.badBlock b).frame = s.frame := by simp [State.badBlock]

@[simp] theorem State.roRefused_frame (s : State) (req ctx src addr : Nat) (r : Origin) : (s.roRefused req ctx src addr r).frame = s.frame := by
  simp [State.roRefused]

@[simp] theorem State.setParity_frame (s : State) (g : Nat) (b : Option Bool) : (s.setParity g b).frame = s.frame := by
  unfold State.setParity
  split <;> simp

@[simp] theorem State.putPart_frame (s : State) (p : CaveW) : (s.putPart p).frame = s.frame := by simp [State.putPart]

@[simp] theorem State.farWrite_frame (s : State) (a : Nat) (d : List Byte) (bad : List Nat) (w : Waiter) (par : Option Bool) :
    (s.farWrite a d bad w par).frame = s.frame := by simp [State.farWrite]

@[simp] theorem State.programPart_frame (s : State) (p : CaveW) : (s.programPart p).frame = s.frame := by simp [State.programPart]

@[simp] theorem State.farPut_frame (s : State) (a : Nat) (d : List Byte) (bad : List Nat) : (s.farPut a d bad).frame = s.frame := by
  simp [State.farPut]

@[simp] theorem State.cavePageRead_frame (s : State) (page retries : Nat) (ue : Bool) : (s.cavePageRead page retries ue).frame = s.frame := by
  unfold State.cavePageRead
  dsimp only
  split <;> simp

@[simp] theorem State.caveScrub_frame (s : State) (b : Nat) : (s.caveScrub b).frame = s.frame := by simp [State.caveScrub]

@[simp] theorem State.caveLevel_frame (s : State) : s.caveLevel.frame = s.frame := by
  unfold State.caveLevel
  dsimp only
  split <;> simp

/-! ### Bandwidth -/

@[simp] theorem State.countPoison_frame (s : State) (k n : Nat) : (s.countPoison k n).frame = s.frame := by simp [State.countPoison]

@[simp] theorem State.perform_frame (s : State) (w : Waiter) (act : RegAct) : (s.perform w act).frame = s.frame := by
  cases act <;> simp [State.perform]

@[simp] theorem State.issue_frame (s : State) (w : Waiter) (a : Nat) (act : RegAct) : (s.issue w a act).frame = s.frame := by
  unfold State.issue
  split <;> simp

@[simp] theorem State.releaseCave_frame (s : State) : s.releaseCave.frame = s.frame := by
  refine (State.frame_foldl (fun t q => ?_) _ _).trans rfl
  split <;> simp

@[simp] theorem State.releaseHub_frame (s : State) : s.releaseHub.frame = s.frame := by
  refine (State.frame_foldl (fun t q => ?_) _ _).trans rfl
  split <;> simp

@[simp] theorem State.cavePageWrite_frame (s : State) : s.cavePageWrite.frame = s.frame := by
  unfold State.cavePageWrite
  split <;> simp

@[simp] theorem State.regulate_frame (s : State) (c a n : Nat) (w : Waiter)
    (act : Nat → Nat → RegAct) : (s.regulate c a n w act).frame = s.frame := by
  refine State.frame_foldl (fun t g => ?_) _ _
  split <;> simp

@[simp] theorem State.regGrant_frame (s : State) (c p : Nat) : (s.regGrant c p).frame = s.frame := by
  unfold State.regGrant
  dsimp only
  split <;> simp

@[simp] theorem State.bypass_frame (s : State) (c p : Nat) : (s.bypass c p).frame = s.frame := by simp [State.bypass]
@[simp] theorem State.bwrTick1_frame (s : State) (c p : Nat) : (s.bwrTick1 c p).frame = s.frame := by simp [State.bwrTick1]
@[simp] theorem State.bwrTick_frame (s : State) : s.bwrTick.frame = s.frame := by simp [State.bwrTick]

/-! ### The fabric -/

@[simp] theorem State.modLink_frame (s : State) (f : LinkS → LinkS) : (s.modLink f).frame = s.frame := by rfl
@[simp] theorem State.modPort_frame (s : State) (p : Nat) (f : PortS → PortS) : (s.modPort p f).frame = s.frame := by rfl
@[simp] theorem State.setFlow_frame (s : State) (f : Nat) (w : Flow) : (s.setFlow f w).frame = s.frame := by rfl
@[simp] theorem State.modFlow_frame (s : State) (f : Nat) (g : Flow → Flow) : (s.modFlow f g).frame = s.frame := by rfl
@[simp] theorem State.failShipment_frame (s : State) (f : Frame) : (s.failShipment f).frame = s.frame := by simp [State.failShipment]

@[simp] theorem State.drop_frame (s : State) (cause : Nat) (f : Frame) (port : Nat) (ctx : Option Nat) :
    (s.drop cause f port ctx).frame = s.frame := by simp [State.drop]

@[simp] theorem State.emit_frame (s : State) (p : Nat) (w : Wire) : (s.emit p w).frame = s.frame := by rfl

@[simp] theorem State.lcredit_frame (s : State) (inp : Option (Nat × Nat)) (units : Nat) : (s.lcredit inp units).frame = s.frame := by
  unfold State.lcredit
  split <;> simp

@[simp] theorem State.dropWaiting_frame (s : State) (f cause : Nat) (ls : List Landing) : (s.dropWaiting f cause ls).frame = s.frame := by
  simp [State.dropWaiting]

@[simp] theorem State.refuseWaiting_frame (s : State) (f cause : Nat) : (s.refuseWaiting f cause).frame = s.frame := by simp [State.refuseWaiting]

@[simp] theorem State.dropLandings_frame (s : State) (p f : Nat) : (s.dropLandings p f).frame = s.frame := by
  unfold State.dropLandings
  split <;> simp

@[simp] theorem State.dropBuffers_frame (s : State) (p : Nat) : (s.dropBuffers p).frame = s.frame := by
  have hgone (t : State) (x : TxWait) : (match x.inp with
      | some (q, c) => if q = p then t else t.lcredit (some (q, c)) x.frame.units
      | none => t).frame = t.frame := by
    split
    · split
      · rfl
      · exact State.lcredit_frame ..
    · rfl
  unfold State.dropBuffers
  dsimp only
  refine (State.frame_foldl (fun t h => State.drop_frame ..) _ _).trans ?_
  refine (State.modLink_frame ..).trans ?_
  refine (State.frame_foldl (fun t q => State.dropLandings_frame ..) _ _).trans ?_
  refine (State.frame_foldl (fun t x => (hgone _ x).trans (State.drop_frame ..)) _ _).trans ?_
  exact (State.frame_foldl (fun t f => State.drop_frame ..) _ _).trans (State.modPort_frame ..)

@[simp] theorem State.linkDown_frame (s : State) (p cause : Nat) : (s.linkDown p cause).frame = s.frame := by simp [State.linkDown]
@[simp] theorem State.featTrained_frame (s : State) (p : Nat) (up spare : Bool) : (s.featTrained p up spare).frame = s.frame := by rfl
@[simp] theorem State.trainFails_frame (s : State) (p cause : Nat) : (s.trainFails p cause).frame = s.frame := by simp [State.trainFails]

@[simp] theorem State.train_frame (s : State) (p : Nat) (good : List Nat) (q : Peer) : (s.train p good q).frame = s.frame := by
  unfold State.train
  dsimp only
  repeat' split
  all_goals simp

@[simp] theorem State.exchange_frame (s : State) (p : Nat) (q : Peer) : (s.exchange p q).frame = s.frame := by
  unfold State.exchange
  dsimp only
  split <;> simp

@[simp] theorem State.trainingComplete_frame (s : State) (p : Nat) (good : List Nat) (q : Peer) : (s.trainingComplete p good q).frame = s.frame := by
  unfold State.trainingComplete
  repeat' split
  all_goals simp

@[simp] theorem State.startRetrain_frame (s : State) (p : Nat) (fresh : Bool) : (s.startRetrain p fresh).frame = s.frame := by
  simp [State.startRetrain]

@[simp] theorem State.laneFail_frame (s : State) (p l : Nat) : (s.laneFail p l).frame = s.frame := by
  unfold State.laneFail
  dsimp only
  repeat' split
  all_goals simp

@[simp] theorem State.retrained_frame (s : State) (p : Nat) (good : List Nat) (q : Peer) : (s.retrained p good q).frame = s.frame := by
  simp [State.retrained]

@[simp] theorem State.recheckPeers_frame (s : State) : s.recheckPeers.frame = s.frame := by
  refine State.frame_foldl (fun t p => ?_) _ _
  split
  · split <;> simp
  · rfl

@[simp] theorem State.linkLost_frame (s : State) (p : Nat) : (s.linkLost p).frame = s.frame := by
  unfold State.linkLost
  split <;> simp

@[simp] theorem State.enqueue_frame (s : State) (inp : Option (Nat × Nat)) (out : Nat) (f : Frame) (who : Option Waiter) (ctx : Option Nat) :
    (s.enqueue inp out f who ctx).frame = s.frame := by rfl

@[simp] theorem State.landFault_frame (s : State) (port : Nat) (inp : Option (Nat × Nat)) (f : Frame) (r : Nat × Nat × Nat) :
    (s.landFault port inp f r).frame = s.frame := by simp [State.landFault]

@[simp] theorem State.landFlow_frame (f n : Nat) : ∀ s : State, (State.landFlow n s f).frame = s.frame := by
  induction n with
  | zero => exact fun _ => rfl
  | succ n ih =>
    intro s
    rw [State.landFlow]
    dsimp only
    split
    · rfl
    · split
      · split
        · rfl
        · split <;> simp [ih]
      · split
        · rfl
        · simp [ih]

@[simp] theorem State.landFlowAll_frame (s : State) (f : Nat) : (s.landFlowAll f).frame = s.frame := by simp [State.landFlowAll]
@[simp] theorem State.landFlows_frame (s : State) : s.landFlows.frame = s.frame := by simp [State.landFlows]
@[simp] theorem State.poisonArea_frame (s : State) (c a n : Nat) : (s.poisonArea c a n).frame = s.frame := by rfl
@[simp] theorem State.poisonGap_frame (s : State) (w : Flow) (f : Frame) : (s.poisonGap w f).frame = s.frame := by simp [State.poisonGap]

@[simp] theorem State.gapEvent_frame (s : State) (f : Frame) (port n : Nat) (ctx : Option Nat) : (s.gapEvent f port n ctx).frame = s.frame := by
  simp [State.gapEvent]

@[simp] theorem State.flowGap_frame (s : State) (f : Frame) (port n : Nat) : (s.flowGap f port n).frame = s.frame := by simp [State.flowGap]

@[simp] theorem State.place_frame (s : State) (port : Nat) (inp : Option (Nat × Nat)) (f : Frame) : (s.place port inp f).frame = s.frame := by
  unfold State.place
  dsimp only
  split <;> simp

@[simp] theorem State.deliver_frame (s : State) (port : Nat) (inp : Option (Nat × Nat)) (f : Frame) : (s.deliver port inp f).frame = s.frame := by
  simp [State.deliver]

@[simp] theorem State.originate_frame (s : State) (f : Frame) (ctx : Option Nat) (who : Option Waiter) : (s.originate f ctx who).frame = s.frame := by
  unfold State.originate
  dsimp only
  repeat' split
  all_goals simp

@[simp] theorem State.originateAll_frame (s : State) (fs : List Frame) (ctx : Option Nat) (who : Option Waiter) :
    (s.originateAll fs ctx who).frame = s.frame := by simp [State.originateAll]

@[simp] theorem State.sendMessage_frame (s : State) (f : Nat) (data : List Byte) (bad : List Nat) (who : Option Waiter) :
    (s.sendMessage f data bad who).frame = s.frame := by simp [State.sendMessage]

@[simp] theorem State.pumpSends_frame (f n : Nat) : ∀ s : State, (State.pumpSends n s f).frame = s.frame := by
  induction n with
  | zero => exact fun _ => rfl
  | succ n ih =>
    intro s
    rw [State.pumpSends]
    split
    · rfl
    · split
      · rfl
      · rw [ih, State.sendMessage_frame]
        split <;> simp

@[simp] theorem State.pump_frame (s : State) (f : Nat) : (s.pump f).frame = s.frame := by simp [State.pump]
@[simp] theorem State.creditFrame_frame (s : State) (f : Nat) : (s.creditFrame f).frame = s.frame := by simp [State.creditFrame]

@[simp] theorem State.frameSend_frame (s : State) (p : Nat) : (s.frameSend p).frame = s.frame := by
  unfold State.frameSend
  repeat' split
  all_goals simp

@[simp] theorem State.linkAck_frame (s : State) (p lseq : Nat) : (s.linkAck p lseq).frame = s.frame := by rfl
@[simp] theorem State.replayLimit_frame (s : State) (p : Nat) : (s.replayLimit p).frame = s.frame := by simp [State.replayLimit]
@[simp] theorem State.resend_frame (s : State) (p lseq : Nat) : (s.resend p lseq).frame = s.frame := by simp [State.resend]

@[simp] theorem State.replayTimeout_frame (s : State) (p : Nat) : (s.replayTimeout p).frame = s.frame := by
  unfold State.replayTimeout
  split <;> simp

@[simp] theorem State.ackSend_frame (s : State) (p : Nat) : (s.ackSend p).frame = s.frame := by simp [State.ackSend]
@[simp] theorem State.creditBack_frame (s : State) (p cls units : Nat) : (s.creditBack p cls units).frame = s.frame := by rfl
@[simp] theorem State.portTick_frame (s : State) (p : Nat) : (s.portTick p).frame = s.frame := by simp [State.portTick]
@[simp] theorem State.linkTick_frame (s : State) : s.linkTick.frame = s.frame := by simp [State.linkTick]
@[simp] theorem State.seeRelease_frame (s : State) (a : Nat) : (s.seeRelease a).frame = s.frame := by rfl
@[simp] theorem State.endFlow_frame (s : State) (f : Nat) : (s.endFlow f).frame = s.frame := by simp [State.endFlow]

@[simp] theorem State.creditSplit_frame (s : State) (p : Nat) (hi : Bool) (v : BitVec 64) : (s.creditSplit p hi v).frame = s.frame := by
  simp [State.creditSplit]

@[simp] theorem State.hostRetrain_frame (s : State) (p : Nat) : (s.hostRetrain p).frame = s.frame := by simp [State.hostRetrain]
@[simp] theorem State.portEnable_frame (s : State) (p : Nat) (on : Bool) : (s.portEnable p on).frame = s.frame := by simp [State.portEnable]

/-! ### Reductions -/

@[simp] theorem State.modRed_frame (s : State) (f : Nat) (g : RedS → RedS) : (s.modRed f g).frame = s.frame := by rfl

@[simp] theorem State.slabAdd_frame (s : State) (f : Nat) (x : RedS) (j : Nat) (p : Part) : (s.slabAdd f x j p).frame = s.frame := by
  unfold State.slabAdd
  dsimp only
  rw [State.bump_frame, State.modRed_frame, State.put_frame, State.put_frame, State.frame_ite, State.clear_frame, ite_self]

@[simp] theorem State.toNeighbour_frame (s : State) (f q : Nat) (fs : List Frame) : (s.toNeighbour f q fs).frame = s.frame := by
  unfold State.toNeighbour
  dsimp only
  split <;> simp

@[simp] theorem State.normStore_frame (s : State) (n : Nat) (step : BitVec 64) : (s.normStore n step).frame = s.frame := by
  unfold State.normStore
  split <;> simp

@[simp] theorem State.normsSettle_frame (s : State) : s.normsSettle.frame = s.frame := by simp [State.normsSettle]
@[simp] theorem State.redFault_frame (s : State) (f : Nat) (r : Nat × Nat × Nat) : (s.redFault f r).frame = s.frame := by simp [State.redFault]

@[simp] theorem State.resWrite_frame (s : State) (f a : Nat) (d : List Byte) (bad : List Nat) : (s.resWrite f a d bad).frame = s.frame := by
  unfold State.resWrite
  dsimp only
  repeat' split
  all_goals simp

@[simp] theorem State.scaleRead_frame (s : State) (f a n : Nat) : (s.scaleRead f a n).frame = s.frame := by simp [State.scaleRead]

@[simp] theorem State.writeResult_frame (s : State) (f : Nat) (x : RedS) (j : Nat) (vals : List (Option Int)) :
    (s.writeResult f x j vals).frame = s.frame := by simp [State.writeResult]

@[simp] theorem State.finishChunk_frame (s : State) (f : Nat) (x : RedS) (j : Nat) (q : ResRec) : (s.finishChunk f x j q).frame = s.frame := by
  simp [State.finishChunk]

@[simp] theorem State.sendResult_frame (s : State) (f : Nat) (r : RedRec) (j : Nat) (data rcd : List Byte) :
    (s.sendResult f r j data rcd).frame = s.frame := by simp [State.sendResult]

@[simp] theorem State.chunkComplete_frame (s : State) (f : Nat) : (s.chunkComplete f).frame = s.frame := by
  unfold State.chunkComplete
  dsimp only
  repeat' split
  all_goals simp

@[simp] theorem State.forwardPart_frame (s : State) (f j : Nat) : (s.forwardPart f j).frame = s.frame := by
  unfold State.forwardPart
  repeat' split
  all_goals simp

@[simp] theorem State.contribute_frame (s : State) (f : Nat) (x : RedS) : (s.contribute f x).frame = s.frame := by
  unfold State.contribute
  dsimp only
  repeat' split
  all_goals simp

@[simp] theorem State.pumpRed_frame (f n : Nat) : ∀ s : State, (State.pumpRed n s f).frame = s.frame := by
  induction n with
  | zero => exact fun _ => rfl
  | succ n ih =>
    intro s
    rw [State.pumpRed]
    split
    · rfl
    · split
      · rfl
      · rw [ih, State.toNeighbour_frame, State.modRed_frame]

@[simp] theorem State.passPiece_frame (s : State) (f : Nat) (from_ : Option Nat) (m : Nat) (d : List Byte) (bad : List Nat) :
    (s.passPiece f from_ m d bad).frame = s.frame := by
  unfold State.passPiece
  split <;> simp

@[simp] theorem State.contributeBytes_frame (s : State) (f : Nat) (x : RedS) : (s.contributeBytes f x).frame = s.frame := by
  simp [State.contributeBytes]

@[simp] theorem State.readSource_frame (s : State) (f c : Nat) (x : RedS) : (s.readSource f c x).frame = s.frame := by simp [State.readSource]

@[simp] theorem State.chunkContribute_frame (s : State) (f : Nat) : (s.chunkContribute f).frame = s.frame := by
  unfold State.chunkContribute
  dsimp only
  repeat' split
  all_goals simp

@[simp] theorem State.roundBegin_frame (s : State) (f : Nat) : (s.roundBegin f).frame = s.frame := by
  unfold State.roundBegin
  dsimp only
  split <;> simp

@[simp] theorem State.stepScale_frame (s : State) (f : Nat) (x : RedS) : (s.stepScale f x).frame = s.frame := by simp [State.stepScale]

@[simp] theorem State.roundComplete_frame (s : State) (f : Nat) : (s.roundComplete f).frame = s.frame := by
  unfold State.roundComplete
  dsimp only
  split <;> simp

@[simp] theorem State.takePart_frame (s : State) (f q j : Nat) (data : List Byte) (rcd : Option (List Byte)) :
    (s.takePart f q j data rcd).frame = s.frame := by
  unfold State.takePart
  split <;> simp

@[simp] theorem State.takeResult_frame (s : State) (f q j : Nat) (data : List Byte) (rcd : Option (List Byte)) :
    (s.takeResult f q j data rcd).frame = s.frame := by
  unfold State.takeResult
  split <;> simp

@[simp] theorem State.takePiece_frame (s : State) (f q m : Nat) (data : List Byte) (bad : List Nat) :
    (s.takePiece f q m data bad).frame = s.frame := by
  unfold State.takePiece
  split <;> simp

@[simp] theorem State.takeMessage_frame (s : State) (f q kind j : Nat) (data : List Byte) (bad : List Nat) (rcd : Option (List Byte)) :
    (s.takeMessage f q kind j data bad rcd).frame = s.frame := by
  unfold State.takeMessage
  split <;> simp

@[simp] theorem State.modNbr_frame (s : State) (f q : Nat) (g : Nbr → Nbr) : (s.modNbr f q g).frame = s.frame := by rfl

@[simp] theorem State.fillTo_frame (s : State) (f q k : Nat) : (s.fillTo f q k).frame = s.frame := by
  unfold State.fillTo
  split <;> simp

@[simp] theorem State.closeMessage_frame (s : State) (f q : Nat) : (s.closeMessage f q).frame = s.frame := by
  unfold State.closeMessage
  dsimp only
  repeat' split
  all_goals simp

@[simp] theorem State.openMessage_frame (s : State) (f q kind msg j : Nat) : (s.openMessage f q kind msg j).frame = s.frame := by rfl

@[simp] theorem State.redGap_frame (s : State) (f q n port : Nat) (g : Frame) : (s.redGap f q n port g).frame = s.frame := by
  unfold State.redGap
  dsimp only
  repeat' split
  all_goals simp

@[simp] theorem State.endMessage_frame (s : State) (f q j port : Nat) (g : Frame) (rcd : Option (List Byte)) :
    (s.endMessage f q j port g rcd).frame = s.frame := by
  unfold State.endMessage
  split <;> simp

@[simp] theorem State.redFrameIn_frame (s : State) (f q : Nat) (port : Nat) (g : Frame) : (s.redFrameIn f q port g).frame = s.frame := by
  unfold State.redFrameIn
  split <;> simp

@[simp] theorem State.deliverRed_frame (s : State) (port : Nat) (inp : Option (Nat × Nat)) (g : Frame) :
    (s.deliverRed port inp g).frame = s.frame := by
  unfold State.deliverRed
  dsimp only
  repeat' split
  all_goals simp

@[simp] theorem State.creditRed_frame (s : State) (f : Nat) : (s.creditRed f).frame = s.frame := by
  unfold State.creditRed
  dsimp only
  split <;> simp

@[simp] theorem State.admitFrame_frame (s : State) (p : Nat) (f : Frame) : (s.admitFrame p f).frame = s.frame := by
  unfold State.admitFrame
  repeat' split
  all_goals simp

@[simp] theorem State.acceptFrame_frame (s : State) (p : Nat) (f : Frame) : (s.acceptFrame p f).frame = s.frame := by simp [State.acceptFrame]

@[simp] theorem State.admitHeld_frame (n : Nat) : ∀ s : State, (State.admitHeld n s).frame = s.frame := by
  induction n with
  | zero => exact fun _ => rfl
  | succ n ih =>
    intro s
    rw [State.admitHeld]
    split
    · rw [ih, State.admitFrame_frame, State.modLink_frame]
    · rfl

@[simp] theorem State.settleLandings_frame (s : State) : s.settleLandings.frame = s.frame := by simp [State.settleLandings]

@[simp] theorem State.stomp_frame (s : State) (p : Nat) (f : Frame) : (s.stomp p f).frame = s.frame := by
  unfold State.stomp
  dsimp only
  repeat' split
  all_goals simp

@[simp] theorem State.frameReceive_frame (s : State) (p : Nat) (f : Frame) (lseq crc ce ue : Nat) :
    (s.frameReceive p f lseq crc ce ue).frame = s.frame := by simp [State.frameReceive]

/-! ### The harp -/

@[simp] theorem State.setHarpRec_frame (s : State) (k n : Nat) (r : HarpRec) : (s.setHarpRec k n r).frame = s.frame := by rfl

@[simp] theorem State.rowPut_frame (s : State) (k a : Nat) (bs : List Byte) (poison : Bool) : (s.rowPut k a bs poison).frame = s.frame := by
  simp [State.rowPut]

@[simp] theorem State.harpCount_frame (s : State) (k : Nat) (n : Counts) : (s.harpCount k n).frame = s.frame := by simp [State.harpCount]

@[simp] theorem State.writeRow_frame (k : Nat) (d : RowRef) (seed step : BitVec 64) (key : KeyRef) (r : Nat) (poison : Bool)
    (ys : List (Nat × Option Nat)) : ∀ (s : State) (n : Counts), (s.writeRow k d seed step key r poison n ys).1.frame = s.frame := by
  induction ys with
  | nil => exact fun _ _ => rfl
  | cons y ys ih =>
    intro s n
    obtain ⟨e, o⟩ := y
    cases o <;> rw [State.writeRow, ih, State.rowPut_frame]

@[simp] theorem State.exportLane_frame (s : State) (k : Nat) (d : RowRef) (r : Nat) (x : HarpRec) : (s.exportLane k d r x).frame = s.frame := by
  simp [State.exportLane]

@[simp] theorem State.harpRow_frame (s : State) (bad : List Nat) (k : Nat) (q : HarpQ) (r : Nat) : (s.harpRow bad k q r).frame = s.frame := by
  unfold State.harpRow
  dsimp only
  split <;> simp

@[simp] theorem State.harpRows_frame (bad : List Nat) (k : Nat) (q : HarpQ) (rs : List Nat) :
    ∀ s : State, (s.harpRows bad k q rs).frame = s.frame := by
  induction rs with
  | nil => exact fun _ => rfl
  | cons r rs ih => exact fun s => (ih _).trans (State.harpRow_frame ..)

@[simp] theorem State.harpClean_frame (s : State) (k : Nat) (h : HarpCmd) : (s.harpClean k h).frame = s.frame := by rfl
@[simp] theorem State.ortho_frame (s : State) (k : Nat) (h : HarpCmd) : (s.ortho k h).frame = s.frame := by simp [State.ortho]

@[simp] theorem State.harpHand_frame (s : State) (c op : Nat) : (s.harpHand c op).frame = s.frame := by
  refine State.startWith_frame _ _ _ _ _ fun t e => ?_
  split <;> simp

@[simp] theorem State.harpBegin_frame (s : State) (k : Nat) : (s.harpBegin k).frame = s.frame := by
  unfold State.harpBegin
  dsimp only
  split <;> simp

@[simp] theorem State.harpDelay_frame (s : State) (k n : Nat) : (s.harpDelay k n).frame = s.frame := by rfl

@[simp] theorem State.harpComplete_frame (s : State) (k : Nat) : (s.harpComplete k).frame = s.frame := by
  unfold State.harpComplete
  split <;> simp

/-! ### Streams -/

@[simp] theorem State.streamFault_frame (s : State) (k code cause stream entry : Nat) (addr : Nat) :
    (s.streamFault k code cause stream entry addr).frame = s.frame := by simp [State.streamFault]

@[simp] theorem State.entryFault_frame (s : State) (k x code cause entry : Nat) (addr : Nat) :
    (s.entryFault k x code cause entry addr).frame = s.frame := by simp [State.entryFault]

@[simp] theorem State.armStream_frame (s : State) (k x entry n : Nat) : (s.armStream k x entry n).frame = s.frame := by
  unfold State.armStream
  split <;> simp

@[simp] theorem State.waitStream_frame (s : State) (k x on tgt : Nat) : (s.waitStream k x on tgt).frame = s.frame := by
  unfold State.waitStream
  split <;> simp

@[simp] theorem State.streamCmd_frame (s : State) (c : Nat) (e : QEntry) : (s.streamCmd c e).frame = s.frame := by
  unfold State.streamCmd
  split <;> simp

@[simp] theorem State.streamStart_frame (s : State) (c : Nat) (p : Cmd → Bool) : (s.streamStart c p).frame = s.frame := by simp [State.streamStart]

@[simp] theorem State.performRun_frame (s : State) (k c x : Nat) (e : Entry) (seq i : Nat) : (s.performRun k c x e seq i).frame = s.frame := by
  unfold State.performRun
  dsimp only
  split <;> simp

@[simp] theorem State.pumpPort_frame (k port n : Nat) : ∀ s : State, (State.pumpPort k port n s).frame = s.frame := by
  induction n with
  | zero => exact fun _ => rfl
  | succ n ih =>
    intro s
    rw [State.pumpPort]
    dsimp only
    split
    · rfl
    · split
      · rfl
      · rw [ih, State.countPoison_frame, State.modCluster_frame]

@[simp] theorem State.pumpPorts_frame (s : State) (k : Nat) : (s.pumpPorts k).frame = s.frame := by simp [State.pumpPorts]
@[simp] theorem State.settle_frame (s : State) (k x : Nat) : (s.settle k x).frame = s.frame := by simp [State.settle]
@[simp] theorem State.entryComplete_frame (s : State) (k x : Nat) : (s.entryComplete k x).frame = s.frame := by simp [State.entryComplete]

@[simp] theorem State.performEntry_frame (s : State) (k c x : Nat) (e : Entry) : (s.performEntry k c x e).frame = s.frame := by
  simp [State.performEntry]

@[simp] theorem State.entryBegin_frame (s : State) (k x : Nat) : (s.entryBegin k x).frame = s.frame := by
  unfold State.entryBegin
  dsimp only
  repeat' split
  all_goals simp

@[simp] theorem State.applyAtomic_frame (s : State) (a : AtomicReq) : (s.applyAtomic a).frame = s.frame := by simp [State.applyAtomic]

@[simp] theorem State.hubAtomic_frame (s : State) : s.hubAtomic.frame = s.frame := by
  unfold State.hubAtomic
  split <;> simp

@[simp] theorem State.deadlockScan_frame (s : State) (k : Nat) : (s.deadlockScan k).frame = s.frame := by
  unfold State.deadlockScan
  split
  · rfl
  · refine (State.frame_foldl (fun t x => ?_) _ _).trans (State.bump_frame ..)
    dsimp only
    split
    · split <;> simp
    · rfl

@[simp] theorem State.idleStreams_frame (s : State) (k : Nat) : (s.idleStreams k).frame = s.frame := by rfl

@[simp] theorem State.paceBoundary_frame (s : State) (c : Nat) : (s.paceBoundary c).frame = s.frame := by
  unfold State.paceBoundary
  dsimp only
  repeat' split
  all_goals simp

end Sys2Proof.Machine
end

section
/-!
PROOFS. What the gates, the ripeners and the commands of the host keep of the queue, of a stop under way and of the count of periods.
-/
namespace Sys2Proof.Machine

/-! ### Gates, barriers and flags -/

@[simp] theorem State.passGate_frame (s : State) (c : Nat) (cmd : Cmd) (step : BitVec 64) : (s.passGate c cmd step).frame = s.frame := by
  unfold State.passGate
  repeat' split
  all_goals simp

@[simp] theorem State.gate_frame (s : State) (c : Nat) (e : QEntry) : (s.gate c e).frame = s.frame := by simp [State.gate]

@[simp] theorem State.markTrigger_frame (s : State) (c : Nat) (e : QEntry) : (s.markTrigger c e).frame = s.frame := by
  unfold State.markTrigger
  repeat' split
  all_goals simp

@[simp] theorem State.markBeat_frame (s : State) (c : Nat) (e : QEntry) : (s.markBeat c e).frame = s.frame := by simp [State.markBeat]
@[simp] theorem State.noteHalted_frame (s : State) (x : Nat) : (s.noteHalted x).frame = s.frame := by simp [State.noteHalted]

@[simp] theorem State.haltBeat_frame (s : State) (c : Nat) : (s.haltBeat c).frame = s.frame := by
  unfold State.haltBeat
  dsimp only
  split <;> simp

@[simp] theorem State.syncBar_frame (s : State) (c id : Nat) (arc : Bool) : (s.syncBar c id arc).frame = s.frame := by simp [State.syncBar]

@[simp] theorem State.barComplete_frame (s : State) (c id : Nat) : (s.barComplete c id).frame = s.frame := by
  unfold State.barComplete
  split <;> simp

@[simp] theorem State.postFlag_frame (s : State) (k f : Nat) : (s.postFlag k f).frame = s.frame := by rfl
@[simp] theorem State.settleFlags_frame (s : State) (c : Nat) : (s.settleFlags c).frame = s.frame := by simp [State.settleFlags]
@[simp] theorem State.syncFlag_frame (s : State) (c f : Nat) (e : QEntry) : (s.syncFlag c f e).frame = s.frame := by simp [State.syncFlag]

@[simp] theorem State.flagStart_frame (s : State) (c : Nat) : (s.flagStart c).frame = s.frame := by
  refine State.startWith_frame _ _ _ _ _ fun t e => ?_
  split <;> simp

@[simp] theorem State.pickStream_frame (s : State) (c : Nat) (x : StreamSel) : (s.pickStream c x).frame = s.frame := by
  unfold State.pickStream
  repeat' split
  all_goals simp

@[simp] theorem State.blockPick_frame (s : State) (c : Nat) : (s.blockPick c).frame = s.frame := by simp [State.blockPick]

@[simp] theorem State.restart_frame (s : State) (c : Nat) (f : Frz) : (s.restart c f).frame = s.frame := by
  unfold State.restart
  repeat' split
  all_goals simp

@[simp] theorem State.recheck_frame (s : State) (c : Nat) : (s.recheck c).frame = s.frame := by
  unfold State.recheck
  split <;> simp

@[simp] theorem State.gateStart_frame (s : State) (c : Nat) (p : Cmd → Bool) : (s.gateStart c p).frame = s.frame := by
  unfold State.gateStart
  split <;> simp

/-! ### Ripeners -/

@[simp] theorem State.modRip_frame (s : State) (n c : Nat) (f : RipS → RipS) : (s.modRip n c f).frame = s.frame := by
  unfold State.modRip
  split <;> simp

@[simp] theorem State.ripFault_frame (s : State) (n c code cause : Nat) (r : RipS) (addr : Nat) :
    (s.ripFault n c code cause r addr).frame = s.frame := by simp [State.ripFault]

@[simp] theorem State.ripPass_frame (s : State) (n c : Nat) (es : List (Nat × Nat)) : (s.ripPass n c es).frame = s.frame := by simp [State.ripPass]
@[simp] theorem State.ripAsk_frame (s : State) (n c : Nat) (es : List (Nat × Nat)) : (s.ripAsk n c es).frame = s.frame := by simp [State.ripAsk]

@[simp] theorem State.ripWrite_frame (s : State) (n c : Nat) (step : BitVec 64) (a : Nat) (d : List Byte) (bad : List Nat)
    (par : Nat → Nat → Option Bool) :
    (s.ripWrite n c step a d bad par).frame = s.frame := by
  unfold State.ripWrite
  split <;> simp

@[simp] theorem State.beginGroup_frame (s : State) (n c : Nat) (r : RipS) (g : Nat) : (s.beginGroup n c r g).frame = s.frame := by
  unfold State.beginGroup
  split <;> simp

@[simp] theorem State.startUpd_frame (s : State) (n c : Nat) (r : RipS) : (s.startUpd n c r).frame = s.frame := by
  unfold State.startUpd
  dsimp only
  repeat' split
  all_goals simp

@[simp] theorem State.updStart_frame (s : State) (n c : Nat) : (s.updStart n c).frame = s.frame := by
  unfold State.updStart
  split <;> simp

@[simp] theorem State.writeParams_frame (s : State) (n c : Nat) (step : BitVec 64) (u : Upd) (k : GroupC) (i0 : Nat) (ps : List ParamOut)
    (left : List (Nat × Nat)) :
    (s.writeParams n c step u k i0 ps left).frame = s.frame := by simp [State.writeParams]

@[simp] theorem State.ripGranule_frame (s : State) (n c : Nat) (r : RipS) (u : Upd) (k : GroupC) : (s.ripGranule n c r u k).frame = s.frame := by
  simp [State.ripGranule]

@[simp] theorem State.ripUpdate_frame (s : State) (n : Nat) : (s.ripUpdate n).frame = s.frame := by
  unfold State.ripUpdate
  dsimp only
  split <;> simp

@[simp] theorem State.updComplete_frame (s : State) (n c : Nat) : (s.updComplete n c).frame = s.frame := by
  unfold State.updComplete
  repeat' split
  all_goals simp

@[simp] theorem State.passEnd_frame (s : State) (n c : Nat) : (s.passEnd n c).frame = s.frame := by
  unfold State.passEnd
  split <;> simp

@[simp] theorem State.updateNop_frame (s : State) (n c : Nat) : (s.updateNop n c).frame = s.frame := by
  unfold State.updateNop
  split <;> simp

@[simp] theorem State.ripTick_frame (s : State) : s.ripTick.frame = s.frame := by simp [State.ripTick]
@[simp] theorem State.ripRun_frame (s : State) (c : Nat) (fresh : Option (BitVec 64)) : (s.ripRun c fresh).frame = s.frame := by rfl

/-! ### Clocks and energy -/

@[simp] theorem State.modClk_frame (s : State) (f : ClkS → ClkS) : (s.modClk f).frame = s.frame := by rfl
@[simp] theorem State.setStep_frame (s : State) (k : Nat) : (s.setStep k).frame = s.frame := by simp [State.setStep]

@[simp] theorem State.clockOrigin_frame (s : State) (r c : Nat) : (s.clockOrigin r c).frame = s.frame := by
  unfold State.clockOrigin
  dsimp only
  split <;> simp

@[simp] theorem State.clockWaits_frame (s : State) (r : Nat) : (s.clockWaits r).frame = s.frame := by simp [State.clockWaits]

@[simp] theorem State.slowHop_frame (s : State) (x p : Nat) (d : Dir) (sender : Bool) : (s.slowHop x p d sender).frame = s.frame := by
  unfold State.slowHop
  split <;> simp

@[simp] theorem State.slowCross_frame (s : State) (r : Nat) : (s.slowCross r).frame = s.frame := by
  refine State.frame_foldl (fun t p => ?_) _ _
  split
  · rfl
  · refine State.frame_foldl (fun t d => ?_) _ _
    split <;> simp

@[simp] theorem State.stepChange_frame (s : State) : s.stepChange.frame = s.frame := by
  unfold State.stepChange
  split <;> simp

@[simp] theorem State.stretch_frame (s : State) (r : Nat) : (s.stretch r).frame = s.frame := by simp [State.stretch]
@[simp] theorem State.segsEnd_frame (s : State) : s.segsEnd.frame = s.frame := by rfl
@[simp] theorem State.planPoint_frame (s : State) : s.planPoint.frame = s.frame := by simp [State.planPoint]
@[simp] theorem State.planEnd_frame (s : State) : s.planEnd.frame = s.frame := by simp [State.planEnd]
@[simp] theorem State.segStart_frame (s : State) (x : SegRun) : (s.segStart x).frame = s.frame := by simp [State.segStart]

@[simp] theorem State.fetchPlanned_frame (s : State) (c : Nat) (x : StreamSel) : (s.fetchPlanned c x).frame = s.frame := by
  unfold State.fetchPlanned
  dsimp only
  repeat' split
  all_goals simp

@[simp] theorem State.holdRelease_frame (s : State) (c : Nat) : (s.holdRelease c).frame = s.frame := by
  unfold State.holdRelease
  split <;> simp

@[simp] theorem State.fail_frame (s : State) (cause : Nat) : (s.fail cause).frame = s.frame := by rfl
@[simp] theorem State.refLoss_frame (s : State) : s.refLoss.frame = s.frame := by simp [State.refLoss]
@[simp] theorem State.pllUnlock_frame (s : State) (r : Nat) : (s.pllUnlock r).frame = s.frame := by simp [State.pllUnlock]

@[simp] theorem State.pllRelock_frame (s : State) (r : Nat) : (s.pllRelock r).frame = s.frame := by
  unfold State.pllRelock
  split <;> simp

@[simp] theorem State.pllTimeout_frame (s : State) (r : Nat) : (s.pllTimeout r).frame = s.frame := by
  unfold State.pllTimeout
  split <;> simp

@[simp] theorem State.reservoir_frame (s : State) (vin : Nat) : (s.reservoir vin).frame = s.frame := by simp [State.reservoir]
@[simp] theorem State.addWear_frame (s : State) (n : Nat) : (s.addWear n).frame = s.frame := by simp [State.addWear]
@[simp] theorem State.meter_frame (s : State) (rails regs : List Nat) (v : Nat) : (s.meter rails regs v).frame = s.frame := by simp [State.meter]
@[simp] theorem State.wearSave_frame (s : State) : s.wearSave.frame = s.frame := by rfl
@[simp] theorem State.overburst_frame (s : State) (mw : Nat) : (s.overburst mw).frame = s.frame := by simp [State.overburst]

@[simp] theorem State.emergency_frame (s : State) (cause to_ region : Nat) : (s.emergency cause to_ region).frame = s.frame := by
  simp [State.emergency]

@[simp] theorem State.currentLimit_frame (s : State) : s.currentLimit.frame = s.frame := by simp [State.currentLimit]
@[simp] theorem State.currentRelease_frame (s : State) : s.currentRelease.frame = s.frame := by rfl
@[simp] theorem State.thermal_frame (s : State) (temps : List Nat) : (s.thermal temps).frame = s.frame := by simp [State.thermal]

@[simp] theorem State.modPower_frame (s : State) (f : PowerS → PowerS) (h : ∀ p, (f p).stopAt = p.stopAt) : (s.modPower f).frame = s.frame := by
  rw [State.modPower, State.frame_mk, h, State.frame_eta]

@[simp] theorem State.modelWrite_frame (s : State) (v : BitVec 64) : (s.modelWrite v).frame = s.frame := by simp [State.modelWrite]
@[simp] theorem State.capWrite_frame (s : State) (v : BitVec 64) : (s.capWrite v).frame = s.frame := by simp [State.capWrite]

/-! ### Mailboxes -/

@[simp] theorem State.modMbox_frame (s : State) (m : Nat) (f : Mbox → Mbox) : (s.modMbox m f).frame = s.frame := by rfl

@[simp] theorem State.respond_frame (s : State) (m fn seq status : Nat) (payload : List Byte) (counter : Nat) (check : List Byte) :
    (s.respond m fn seq status payload counter check).frame = s.frame := by rfl

@[simp] theorem State.frame_answer (s : State) (m : Nat) (a : Accepted) (status : Nat) (payload : List Byte) :
    (s.answer m a status payload).frame = s.frame := by
  unfold State.answer
  split <;> simp

@[simp] theorem State.secRaise_frame (s : State) (code : Nat) (o : Origin) : (s.secRaise code o).frame = s.frame := by simp [State.secRaise]

@[simp] theorem State.refusal_frame (s : State) (m op status : Nat) : (s.refusal m op status).frame = s.frame := by
  unfold State.refusal
  split <;> simp

@[simp] theorem State.drawNonce_frame (s : State) : s.drawNonce.frame = s.frame := by simp [State.drawNonce]

@[simp] theorem State.checkCommand_frame (s : State) (m fn seq : Nat) : (s.checkCommand m fn seq).frame = s.frame := by
  unfold State.checkCommand
  dsimp only
  repeat' split
  all_goals simp

@[simp] theorem State.hifErr_frame (s : State) (owned : Bool) : (s.hifErr owned).frame = s.frame := by simp [State.hifErr]
@[simp] theorem State.submit_frame (s : State) (m fn : Nat) (w : BitVec 32) : (s.submit m fn w).frame = s.frame := by simp [State.submit]

@[simp] theorem State.mailboxWrite_frame (s : State) (m off : Nat) (d : List Byte) : (s.mailboxWrite m off d).frame = s.frame := by
  simp [State.mailboxWrite]

@[simp] theorem State.serve_frame (s : State) (m op : Nat) (f : Accepted → State → State) (hf : ∀ a t, (f a t).frame = t.frame) :
    (s.serve m op f).frame = s.frame := by
  unfold State.serve
  split <;> simp [hf]

@[simp] theorem State.serveCtx_frame (s : State) (m op : Nat) (f : Nat → Accepted → State → State) (h : ∀ c a t, (f c a t).frame = t.frame) :
    (s.serveCtx m op f).frame = s.frame := by
  refine State.serve_frame _ _ _ _ fun a t => ?_
  split
  · exact h ..
  · exact State.frame_answer ..

@[simp] theorem State.begin_frame (s : State) (m : Nat) : (s.begin_ m).frame = s.frame := by rfl

/-! ### The rind -/

@[simp] theorem State.tailWrite_frame (s : State) (l t : Nat) : (s.tailWrite l t).frame = s.frame := by rfl
@[simp] theorem State.takeFault_frame (s : State) (c : Nat) (f : Nat × Nat × Nat) : (s.takeFault c f).frame = s.frame := by simp [State.takeFault]
@[simp] theorem State.faultHalt_frame (s : State) (c : Nat) : (s.faultHalt c).frame = s.frame := by simp [State.faultHalt]
@[simp] theorem State.modRind_frame (s : State) (f : Rind → Rind) : (s.modRind f).frame = s.frame := by rfl

@[simp] theorem State.rindCapture_frame (s : State) (r : Nat) : (s.rindCapture r).frame = s.frame := by
  unfold State.rindCapture
  split <;> simp

@[simp] theorem State.waveComplete_frame (s : State) : s.waveComplete.frame = s.frame := by
  unfold State.waveComplete
  split
  · rfl
  · split
    · refine (State.modRind_frame ..).trans (State.frame_foldl (fun t c => ?_) _ _)
      split <;> simp
    · rfl

@[simp] theorem State.rindTrigWrite_frame (s : State) (v : BitVec 64) : (s.rindTrigWrite v).frame = s.frame := by simp [State.rindTrigWrite]

@[simp] theorem State.trigIn_frame (s : State) : s.trigIn.frame = s.frame := by
  unfold State.trigIn
  dsimp only
  repeat' split
  all_goals simp

@[simp] theorem State.satClear_frame (s : State) (n : RegName) (i : List Nat) : (s.satClear n i).frame = s.frame := by simp [State.satClear]

/-! ### Contexts -/

@[simp] theorem State.attach_frame (s : State) (c base len : Nat) : (s.attach c base len).frame = s.frame := by rfl

@[simp] theorem State.arcCfg_frame (s : State) (first count : Nat) (checked hazHalt : Bool) :
    (s.arcCfg first count checked hazHalt).frame = s.frame := by simp [State.arcCfg]

theorem State.frame_of_create {s t : State} {q : Create} {hint : Option Nat} {g : Nat} (h : s.create q hint = some (t, g)) : t.frame = s.frame := by
  have hquota : ((List.range 4).foldl (fun s k => s.setReg .memQuota [q.ctx, k] (BitVec.ofNat 64 (q.quotas.getD k 0))) s).frame = s.frame :=
    State.frame_foldl (fun t k => State.setReg_frame ..) _ _
  unfold State.create at h
  extract_lets c u at h
  split at h
  · cases h
  · rename_i v g' hv
    injection h with h
    injection h with h
    rw [← h, ← hquota, ← State.frame_of_alloc hv]
    simp

@[simp] theorem State.contextCreate_frame (s : State) (m : Nat) (hint : Option Nat) : (s.contextCreate m hint).frame = s.frame := by
  refine State.serve_frame _ _ _ _ fun a t => ?_
  extract_lets q
  split
  · exact State.frame_answer ..
  · split
    · exact State.frame_answer ..
    · rename_i u g h
      exact (State.frame_answer ..).trans (State.frame_of_create h)

@[simp] theorem State.closeFlow_frame (s : State) (f : Nat) : (s.closeFlow f).frame = s.frame := by
  unfold State.closeFlow
  split <;> simp

@[simp] theorem State.emptyRings_frame (s : State) (c : Nat) : (s.emptyRings c).frame = s.frame := by simp [State.emptyRings]
@[simp] theorem State.freeCores_frame (s : State) (c : Nat) : (s.freeCores c).frame = s.frame := by simp [State.freeCores]
@[simp] theorem State.freeClusters_frame (s : State) (c : Nat) : (s.freeClusters c).frame = s.frame := by simp [State.freeClusters]
@[simp] theorem State.forget_frame (s : State) (c : Nat) : (s.forget c).frame = s.frame := by simp [State.forget]
@[simp] theorem State.dropSends_frame (s : State) (c : Nat) : (s.dropSends c).frame = s.frame := by rfl

@[simp] theorem State.destroy_frame (s : State) (c : Nat) : (s.destroy c).frame = s.frame := by
  unfold State.destroy
  dsimp only
  split <;> simp

@[simp] theorem State.contextDestroy_frame (s : State) (m : Nat) : (s.contextDestroy m).frame = s.frame := by simp [State.contextDestroy]

@[simp] theorem State.halt_frame (s : State) (m : Nat) : (s.halt m).frame = s.frame := by
  refine State.serve_frame _ _ _ _ fun a t => ?_
  dsimp only
  split
  · simp
  · split <;> split <;> simp

@[simp] theorem State.runCtx_frame (s : State) (c : Nat) (step : BitVec 64) : (s.runCtx c step).frame = s.frame := by simp [State.runCtx]
@[simp] theorem State.run_frame (s : State) (m : Nat) : (s.run m).frame = s.frame := by simp [State.run]
@[simp] theorem State.pickModeCmd_frame (s : State) (m : Nat) : (s.pickModeCmd m).frame = s.frame := by simp [State.pickModeCmd]
@[simp] theorem State.setShare_frame (s : State) (c w : Nat) : (s.setShare c w).frame = s.frame := by rfl
@[simp] theorem State.setBudget_frame (s : State) (m : Nat) : (s.setBudget m).frame = s.frame := by simp [State.setBudget]

@[simp] theorem State.getLedger_frame (s : State) (m : Nat) : (s.getLedger m).frame = s.frame := by
  refine State.serve_frame _ _ _ _ fun a t => ?_
  dsimp only
  split <;> simp

@[simp] theorem State.getInfo_frame (s : State) (m : Nat) : (s.getInfo m).frame = s.frame := by simp [State.getInfo]
@[simp] theorem State.getFeatures_frame (s : State) (m : Nat) : (s.getFeatures m).frame = s.frame := by simp [State.getFeatures]
@[simp] theorem State.fuseRead_frame (s : State) (m : Nat) : (s.fuseRead m).frame = s.frame := by simp [State.fuseRead]
@[simp] theorem State.fuseProgram_frame (s : State) (m : Nat) : (s.fuseProgram m).frame = s.frame := by simp [State.fuseProgram]
@[simp] theorem State.rindArmCmd_frame (s : State) (m : Nat) : (s.rindArmCmd m).frame = s.frame := by simp [State.rindArmCmd]
@[simp] theorem State.routeSet_frame (s : State) (m : Nat) : (s.routeSet m).frame = s.frame := by simp [State.routeSet]

/-! ### Commands of flows and the cave -/

@[simp] theorem State.openFlow_frame (s : State) (c : Nat) (a : Accepted) : (s.openFlow c a).1.frame = s.frame := by
  unfold State.openFlow
  dsimp only
  split
  · rfl
  · split
    · rfl
    · simp

@[simp] theorem State.initScale_frame (s : State) (r : RedRec) : (s.initScale r).frame = s.frame := by simp [State.initScale]

@[simp] theorem State.openRed_frame (s : State) (c : Nat) (a : Accepted) (hint : Option Nat) : (s.openRed c a hint).1.frame = s.frame := by
  unfold State.openRed
  dsimp only
  split
  · rfl
  · split
    · rfl
    · split
      · rfl
      · split
        · rfl
        · split
          · simp
          · split
            · rfl
            · split
              · split <;> simp
              · split <;> simp

@[simp] theorem State.flowOpen_frame (s : State) (m : Nat) (hint : Option Nat) : (s.flowOpen m hint).frame = s.frame := by
  refine State.serveCtx_frame _ _ _ _ fun c a t => ?_
  dsimp only
  split
  · simp
  · split
    · simp
    · split
      · split <;> simp
      · rfl

@[simp] theorem State.flowClose_frame (s : State) (m : Nat) : (s.flowClose m).frame = s.frame := by simp [State.flowClose]

@[simp] theorem State.caveRefused_frame (s : State) (m : Nat) (a : Accepted) (c x n st : Nat) : (s.caveRefused m a c x n st).frame = s.frame := by
  simp [State.caveRefused]

@[simp] theorem State.caveDenied_frame (s : State) (m : Nat) (a : Accepted) (c x : Nat) : (s.caveDenied m a c x).frame = s.frame := by
  simp [State.caveDenied]

@[simp] theorem State.caveReadCmd_frame (s : State) (m : Nat) : (s.caveReadCmd m).frame = s.frame := by
  refine State.serveCtx_frame _ _ _ _ fun c a t => ?_
  dsimp only
  split
  · simp
  · split <;> simp

@[simp] theorem State.caveWriteCmd_frame (s : State) (m : Nat) : (s.caveWriteCmd m).frame = s.frame := by
  refine State.serveCtx_frame _ _ _ _ fun c a t => ?_
  dsimp only
  split
  · simp
  · split <;> simp

@[simp] theorem State.caveEraseCmd_frame (s : State) (m : Nat) : (s.caveEraseCmd m).frame = s.frame := by
  refine State.serveCtx_frame _ _ _ _ fun c a t => ?_
  dsimp only
  split <;> simp

/-! ### Loading -/

theorem State.patchOne_frame {s t : State} {m : Mapping} {w : Nat} {target : Nat → Option (Nat × Nat)}
    (h : s.patchOne m w target = some t) : t.frame = s.frame := by
  unfold State.patchOne at h
  dsimp only at h
  split at h
  · split at h
    · cases h
      rfl
    · cases h
  · cases h

theorem State.patchAll_frame {m : Mapping} {target : Nat → Option (Nat × Nat)} (ws : List Nat) :
    ∀ {i : Nat} {s t : State}, State.patchAll m target ws i s = .ok t → t.frame = s.frame := by
  induction ws with
  | nil =>
    intro i s t h
    cases h
    rfl
  | cons w ws ih =>
    intro i s t h
    rw [State.patchAll] at h
    split at h
    · rename_i u hu
      exact (ih h).trans (State.patchOne_frame hu)
    · cases h

@[simp] theorem State.allocAll_frame (c : Nat) (rs : List AllocReq) : ∀ (hints : List Nat) (s : State) (got : List (Nat × Nat)),
    (State.allocAll c rs hints s got).1.frame = s.frame := by
  induction rs with
  | nil => exact fun _ _ _ => rfl
  | cons r rs ih =>
    intro hints s got
    have halloc := s.alloc_frame r hints.head?
    rw [State.allocAll]
    split
    · rfl
    · split
      · rename_i t g h
        rw [ih, ← halloc, h]
      · rename_i t h
        rw [← halloc, h]

theorem State.frame_of_allocAll {s t : State} {c : Nat} {rs : List AllocReq} {hints : List Nat} {got : List (Nat × Nat)}
    {r : List (Nat × Nat) × Bool} (h : State.allocAll c rs hints s got = (t, r)) : t.frame = s.frame := by
  rw [← State.allocAll_frame c rs hints s got, h]

@[simp] theorem State.freeRuns_frame (s : State) (runs : List (Nat × Nat)) : (s.freeRuns runs).frame = s.frame := by simp [State.freeRuns]
@[simp] theorem State.copyBytes_frame (s : State) (a b n : Nat) : (s.copyBytes a b n).frame = s.frame := by rfl
@[simp] theorem State.clearCounters_frame (s : State) (c : Nat) : (s.clearCounters c).frame = s.frame := by simp [State.clearCounters]

@[simp] theorem State.commit_frame (s : State) (c : Nat) (i : Image) (rd : Rd) (m : Mapping) (runs : List (Nat × Nat)) (digest : List Byte) :
    (s.commit c i rd m runs digest).frame = s.frame := by simp [State.commit]

@[simp] theorem State.fillRegion_frame (s : State) (r : Region) (a b n : Nat) : (s.fillRegion r a b n).frame = s.frame := by simp [State.fillRegion]

@[simp] theorem State.load_frame (s : State) (c a : Nat) (i : Image) (rd : Rd) (bs : List Byte) (hints : List Nat) :
    (s.load c a i rd bs hints).1.frame = s.frame := by
  have hfill (bases : List Nat) (t : State) : ((((i.regions rd).zip bases).foldl (fun t p =>
      match i.secs[p.1.init]? with
      | some sec => if p.1.init = 0xFF then t else t.fillRegion p.1 (a + sec.off) p.2 sec.size
      | none => t) t)).frame = t.frame := by
    refine State.frame_foldl (fun t p => ?_) _ _
    split
    · split
      · rfl
      · exact State.fillRegion_frame ..
    · rfl
  unfold State.load
  extract_lets x
  split
  · rename_i t got h
    exact (State.freeRuns_frame ..).trans (State.frame_of_allocAll h)
  · rename_i t got h
    extract_lets copy bases m
    split
    · exact (State.roRefused_frame ..).trans ((State.freeRuns_frame ..).trans (State.frame_of_allocAll h))
    · split
      · exact (State.freeRuns_frame ..).trans (State.frame_of_allocAll h)
      · rename_i w hw
        exact (State.commit_frame ..).trans ((State.patchAll_frame _ hw).trans
          ((hfill ..).trans ((State.copyBytes_frame ..).trans (State.frame_of_allocAll h))))

@[simp] theorem State.programLoad_frame (s : State) (m : Nat) (hints : List Nat) : (s.programLoad m hints).frame = s.frame := by
  refine State.serveCtx_frame _ _ _ _ fun c a t => ?_
  dsimp only
  split
  · simp
  · split
    · simp
    · split
      · simp
      · split
        · simp
        · split <;> simp

@[simp] theorem State.streamAppend_frame (s : State) (m : Nat) (hint : Option Nat) : (s.streamAppend m hint).frame = s.frame := by
  refine State.serveCtx_frame _ _ _ _ fun c a t => ?_
  extract_lets x at_ nrec npatch
  split
  · exact State.frame_answer ..
  · split
    · exact State.frame_answer ..
    · split
      · exact State.frame_answer ..
      · split
        · exact State.frame_answer ..
        · split
          · exact State.frame_answer ..
          · split
            · exact State.frame_answer ..
            · split
              · rename_i u h
                exact (State.frame_answer ..).trans (State.frame_of_alloc h)
              · rename_i u g h
                extract_lets copy run v map ws
                split
                · exact (State.frame_answer ..).trans ((State.freeRuns_frame ..).trans (State.frame_of_alloc h))
                · rename_i v hv
                  refine (State.frame_answer ..).trans ((State.modCtx_frame ..).trans ?_)
                  refine (State.frame_foldl (fun t r => State.modCore_frame ..) _ _).trans ?_
                  exact (State.patchAll_frame _ hv).trans ((State.copyBytes_frame ..).trans (State.frame_of_alloc h))

/-! ### Security -/

@[simp] theorem State.attest_frame (s : State) (m : Nat) : (s.attest m).frame = s.frame := by simp [State.attest]
@[simp] theorem State.bind_frame (s : State) (id n : Nat) : (s.bind id n).frame = s.frame := by rfl

@[simp] theorem State.sessionOpen_frame (s : State) (m : Nat) : (s.sessionOpen m).frame = s.frame := by
  refine State.serve_frame _ _ _ _ fun a t => ?_
  dsimp only
  split
  · simp
  · split
    · simp
    · split <;> simp

@[simp] theorem State.modSpdm_frame (s : State) (f : SpdmS → SpdmS) : (s.modSpdm f).frame = s.frame := by rfl
@[simp] theorem State.spdmSay_frame (s : State) (bus : Bool) (r : SpdmRsp) : (s.spdmSay bus r).frame = s.frame := by rfl
@[simp] theorem State.spdmGo_frame (s : State) (bus : Bool) (n : Nat) : (s.spdmGo bus n).frame = s.frame := by rfl

@[simp] theorem State.spdmReq_frame (s : State) (bus : Bool) (n : Nat) (f : State → State) (hf : ∀ t, (f t).frame = t.frame) :
    (s.spdmReq bus n f).frame = s.frame := by simp [State.spdmReq, hf]

@[simp] theorem State.getVersion_frame (s : State) (bus : Bool) : (s.getVersion bus).frame = s.frame := by simp [State.getVersion]
@[simp] theorem State.getCapabilities_frame (s : State) (bus : Bool) : (s.getCapabilities bus).frame = s.frame := by simp [State.getCapabilities]
@[simp] theorem State.negotiate_frame (s : State) (bus ok : Bool) : (s.negotiate bus ok).frame = s.frame := by simp [State.negotiate]
@[simp] theorem State.getDigests_frame (s : State) (bus : Bool) : (s.getDigests bus).frame = s.frame := by simp [State.getDigests]

@[simp] theorem State.getCertificate_frame (s : State) (bus : Bool) (slot off len : Nat) : (s.getCertificate bus slot off len).frame = s.frame := by
  simp [State.getCertificate]

@[simp] theorem State.challenge_frame (s : State) (bus : Bool) (slot : Nat) (transcript : List Byte) :
    (s.challenge bus slot transcript).frame = s.frame := by simp [State.challenge]

@[simp] theorem State.getMeasurements_frame (s : State) (bus : Bool) (index : Nat) (transcript : List Byte) :
    (s.getMeasurements bus index transcript).frame = s.frame := by simp [State.getMeasurements]

@[simp] theorem State.keyExchange_frame (s : State) (bus mutAuth : Bool) (want : Nat) (ems : List Byte) :
    (s.keyExchange bus mutAuth want ems).frame = s.frame := by simp [State.keyExchange]

@[simp] theorem State.endSession_frame (s : State) (id : Nat) : (s.endSession id).frame = s.frame := by simp [State.endSession]
@[simp] theorem State.endSessions_frame (s : State) : s.endSessions.frame = s.frame := by simp [State.endSessions]

@[simp] theorem State.spdmFinish_frame (s : State) (bus : Bool) (id : Nat) (verified : Bool) (root : List Byte) :
    (s.spdmFinish bus id verified root).frame = s.frame := by
  refine State.spdmReq_frame _ _ _ _ fun t => ?_
  split
  · simp
  · split
    · simp
    · split <;> simp

@[simp] theorem State.inSession_frame (s : State) (bus : Bool) (id : Nat) (f : State → State) (hf : ∀ t, (f t).frame = t.frame) :
    (s.inSession bus id f).frame = s.frame := by simp [State.inSession, hf]

@[simp] theorem State.patchInstall_frame (s : State) (m : Nat) : (s.patchInstall m).frame = s.frame := by simp [State.patchInstall]
@[simp] theorem State.debugUnlock_frame (s : State) (m : Nat) : (s.debugUnlock m).frame = s.frame := by simp [State.debugUnlock]

/-! ### Shipments and checkpoints -/

@[simp] theorem State.postOutcome_frame (s : State) (c status : Nat) (step : Nat) : (s.postOutcome c status step).frame = s.frame := by
  simp [State.postOutcome]

@[simp] theorem State.stageCopy_frame (es : List (Nat × Nat)) : ∀ (s : State) (d : Nat), (s.stageCopy es d).frame = s.frame := by
  induction es with
  | nil => exact fun _ _ => rfl
  | cons e es ih => exact fun s d => ih _ _

@[simp] theorem State.answerBegun_frame (s : State) (m status : Nat) (payload : List Byte) : (s.answerBegun m status payload).frame = s.frame := by
  unfold State.answerBegun
  split <;> simp

@[simp] theorem State.modSnap_frame (s : State) (c : Nat) (f : Snap → Snap) : (s.modSnap c f).frame = s.frame := by rfl

@[simp] theorem State.endShipment_frame (s : State) (q : Snap) : (s.endShipment q).frame = s.frame := by
  unfold State.endShipment
  split <;> simp

@[simp] theorem State.shipped_frame (s : State) (c : Nat) (q : Snap) (status : Nat) (post : Bool) : (s.shipped c q status post).frame = s.frame := by
  unfold State.shipped
  split <;> simp

@[simp] theorem State.stageSnap_frame (s : State) (c : Nat) (q : Snap) (hint : Option Nat) : (s.stageSnap c q hint).frame = s.frame := by
  have halloc := s.alloc_frame { owner := some c, tier := 4, n := gransFor q.len } hint
  unfold State.stageSnap
  split
  · rfl
  · split
    · rename_i t h
      rw [h] at halloc
      simpa using halloc
    · rename_i t g h
      rw [h] at halloc
      simpa using halloc

@[simp] theorem State.sendSnap_frame (s : State) (c : Nat) (q : Snap) (a : Nat) : (s.sendSnap c q a).frame = s.frame := by simp [State.sendSnap]

@[simp] theorem State.shipment_frame (s : State) (c : Nat) (hint : Option Nat) : (s.shipment c hint).frame = s.frame := by
  unfold State.shipment
  repeat' split
  all_goals simp

@[simp] theorem State.snapshotShip_frame (s : State) (m : Nat) : (s.snapshotShip m).frame = s.frame := by
  refine State.serveCtx_frame _ _ _ _ fun c a t => ?_
  dsimp only
  split
  all_goals
    split
    · rfl
    · split
      · simp
      · split
        · simp
        · split <;> simp

@[simp] theorem State.modChk_frame (s : State) (c : Nat) (f : Chk → Chk) : (s.modChk c f).frame = s.frame := by rfl

@[simp] theorem State.endStaging_frame (s : State) (q : Chk) : (s.endStaging q).frame = s.frame := by
  unfold State.endStaging
  split <;> simp

@[simp] theorem State.checkpointed_frame (s : State) (c : Nat) (q : Chk) (status : Nat) (post : Bool) :
    (s.checkpointed c q status post).frame = s.frame := by
  unfold State.checkpointed
  split <;> simp

@[simp] theorem State.chkDenied_frame (s : State) (c : Nat) (q : Chk) : (s.chkDenied c q).frame = s.frame := by simp [State.chkDenied]

@[simp] theorem State.stageChk_frame (s : State) (c : Nat) (q : Chk) (hint : Option Nat) : (s.stageChk c q hint).frame = s.frame := by
  have halloc := s.alloc_frame { owner := some c, tier := 4, n := gransFor (extentBytes q.extents) } hint
  unfold State.stageChk
  split
  · simp
  · split
    · rename_i t h
      rw [h] at halloc
      simpa using halloc
    · rename_i t g h
      rw [h] at halloc
      exact ((State.modChk_frame ..).trans (State.farWrite_frame ..)).trans ((State.stageCopy_frame ..).trans halloc)

@[simp] theorem State.writeChk_frame (s : State) (c : Nat) (q : Chk) (a : Nat) : (s.writeChk c q a).frame = s.frame := by simp [State.writeChk]

@[simp] theorem State.checkpointWrite_frame (s : State) (c : Nat) (hint : Option Nat) : (s.checkpointWrite c hint).frame = s.frame := by
  unfold State.checkpointWrite
  repeat' split
  all_goals simp

@[simp] theorem State.checkpoint_frame (s : State) (m : Nat) : (s.checkpoint m).frame = s.frame := by
  refine State.serveCtx_frame _ _ _ _ fun c a t => ?_
  dsimp only
  split
  all_goals
    split
    · rfl
    · split
      · simp
      · split
        · simp
        · split <;> simp

end Sys2Proof.Machine
end

section
/-!
PROOFS. What start-up, the registers from outside and a period of the cores keep of the queue, of a stop under way and of the count of
periods; and what the supply keeps of the queue.
-/
namespace Sys2Proof.Machine

/-! ### Start-up and stops -/

@[simp] theorem State.goHub_frame (s : State) (n : Nat) : (s.goHub n).frame = s.frame := by rfl
@[simp] theorem State.trainLinks_frame (s : State) : s.trainLinks.frame = s.frame := by simp [State.trainLinks]

@[simp] theorem State.perstDeassert_frame (s : State) (width0 width1 speed : Nat) : (s.perstDeassert width0 width1 speed).frame = s.frame := by
  simp [State.perstDeassert]

@[simp] theorem State.loadFuses_frame (s : State) : s.loadFuses.frame = s.frame := by simp [State.loadFuses]
@[simp] theorem State.loadPorts_frame (s : State) : s.loadPorts.frame = s.frame := by simp [State.loadPorts]
@[simp] theorem State.loadPatch_frame (s : State) : s.loadPatch.frame = s.frame := by simp [State.loadPatch]
@[simp] theorem State.recordTrip_frame (s : State) : s.recordTrip.frame = s.frame := by simp [State.recordTrip]

@[simp] theorem State.boot_frame (s : State) (mref : Bool) (slot : Nat) : (s.boot mref slot).frame = s.frame := by
  unfold State.boot
  split
  · rfl
  · rw [State.trainLinks_frame, State.frame_ite, State.goHub_frame, State.fail_frame, ite_self, State.drawNonce_frame, State.recordTrip_frame,
      State.loadPatch_frame, State.loadPorts_frame, State.loadFuses_frame, State.frame_mk]
    exact (State.setField_frame ..).trans ((State.setField_frame ..).trans ((State.modClk_frame ..).trans
      (State.frame_foldl (fun t r => State.setField_frame ..) _ _)))

@[simp] theorem State.failCores_frame (s : State) (cs : List Nat) (f : Core → Core) : (s.failCores cs f).frame = s.frame := by simp [State.failCores]
@[simp] theorem State.startTraining_frame (s : State) : s.startTraining.frame = s.frame := by simp [State.startTraining]

@[simp] theorem State.selfTest_frame (s : State) (badA badB badSram : List Nat) (fault : Nat) (x0 x1 : Bool) :
    (s.selfTest badA badB badSram fault x0 x1).frame = s.frame := by simp [State.selfTest]

@[simp] theorem State.ready4_frame (s : State) : s.ready4.frame = s.frame := by simp [State.ready4]
@[simp] theorem State.resetContexts_frame (s : State) : s.resetContexts.frame = s.frame := by simp [State.resetContexts]
@[simp] theorem State.barSize_frame (s : State) (n : Nat) : (s.barSize n).frame = s.frame := by simp [State.barSize]
@[simp] theorem State.eepromWrite_frame (s : State) (a : Nat) (d : List Byte) : (s.eepromWrite a d).frame = s.frame := by rfl

/-! ### Registers from outside -/

@[simp] theorem State.joinWrite_frame (s : State) (on : Bool) : (s.joinWrite on).frame = s.frame := by simp [State.joinWrite]
@[simp] theorem State.serviceWrite_frame (s : State) (c : Nat) (on : Bool) : (s.serviceWrite c on).frame = s.frame := by simp [State.serviceWrite]

@[simp] theorem State.debugWrite_frame (s : State) (c : Nat) (v mask : BitVec 64) : (s.debugWrite c v mask).frame = s.frame := by
  simp [State.debugWrite]

@[simp] theorem State.rangeWrite_frame (s : State) (c : Nat) (t : Option (Nat × Bool)) (v : BitVec 64) : (s.rangeWrite c t v).frame = s.frame := by
  unfold State.rangeWrite
  repeat' split
  all_goals simp

@[simp] theorem State.sideWrite_frame (s : State) (k : Nat) (v : BitVec 64) : (s.sideWrite k v).frame = s.frame := by simp [State.sideWrite]
@[simp] theorem State.listWrite_frame (s : State) (k : Nat) (v : BitVec 64) : (s.listWrite k v).frame = s.frame := by simp [State.listWrite]
@[simp] theorem State.bwrWrite_frame (s : State) (c p : Nat) (v : BitVec 64) : (s.bwrWrite c p v).frame = s.frame := by rfl

@[simp] theorem State.portCtrlWrite_frame (s : State) (p : Nat) (eff w1 : BitVec 64) : (s.portCtrlWrite p eff w1).frame = s.frame := by
  simp [State.portCtrlWrite]

@[simp] theorem State.plainWrite_frame (s : State) (n : RegName) (i : List Nat) (v mask : BitVec 64) :
    (s.plainWrite n i v mask).frame = s.frame := by rfl

@[simp] theorem State.regWrite_frame (s : State) (n : RegName) (i : List Nat) (v mask : BitVec 64) : (s.regWrite n i v mask).frame = s.frame := by
  unfold State.regWrite
  extract_lets w1 eff i0 whole
  split
  · split
    · exact State.satClear_frame ..
    · rfl
  · split
    · have hjoin : (if wbits w1 2 2 = 1 then s.setField .hubHoopCfg [] 2 2 0 else s).frame = s.frame := by
        rw [State.frame_ite, State.setField_frame, ite_self]
      split
      · exact (State.joinWrite_frame ..).trans hjoin
      · exact hjoin
    · split
      · exact State.serviceWrite_frame ..
      · rfl
    · exact State.debugWrite_frame ..
    · exact State.rangeWrite_frame ..
    · exact State.rangeWrite_frame ..
    · exact State.rangeWrite_frame ..
    · exact State.sideWrite_frame ..
    · exact State.listWrite_frame ..
    · exact State.bwrWrite_frame ..
    · exact State.portCtrlWrite_frame ..
    · exact State.creditSplit_frame ..
    · exact State.creditSplit_frame ..
    · exact State.modelWrite_frame ..
    · exact State.capWrite_frame ..
    · split
      · exact State.tailWrite_frame ..
      · rfl
    · exact State.rindTrigWrite_frame ..
    · split
      · exact State.frame_mk ..
      · rfl
    · split
      · exact State.plainWrite_frame ..
      · rfl

@[simp] theorem State.write32_frame (s : State) (a : Nat) (v : Nat) : (s.write32 a v).frame = s.frame := by
  unfold State.write32
  split <;> simp

@[simp] theorem State.write64_frame (s : State) (a : Nat) (v : BitVec 64) : (s.write64 a v).frame = s.frame := by
  unfold State.write64
  split <;> simp

@[simp] theorem State.boxWrite_frame (s : State) (fn m off size : Nat) (v : BitVec 64) : (s.boxWrite fn m off size v).frame = s.frame := by
  simp [State.boxWrite]

@[simp] theorem State.barWrite_frame (s : State) (fn a size : Nat) (v : BitVec 64) : (s.barWrite fn a size v).frame = s.frame := by
  simp [State.barWrite]

@[simp] theorem State.clearRc_frame (s : State) (a : Nat) : (s.clearRc a).frame = s.frame := by
  unfold State.clearRc
  split <;> simp

@[simp] theorem State.barRead_frame (s : State) (a size : Nat) : (s.barRead a size).frame = s.frame := by
  unfold State.barRead
  extract_lets reply
  have hreply (t : State) (d : List Byte) : (reply t d).frame = t.frame := State.frame_mk ..
  clear_value reply
  split
  · exact rfl
  · split
    · exact (hreply ..).trans (State.hifErr_frame ..)
    · split
      · exact hreply ..
      · split
        · exact (State.clearRc_frame ..).trans ((State.clearRc_frame ..).trans (hreply ..))
        · exact (State.clearRc_frame ..).trans (hreply ..)

@[simp] theorem State.hostMiss_frame (s : State) (cause a : Nat) : (s.hostMiss cause a).frame = s.frame := by simp [State.hostMiss]

@[simp] theorem State.bar2_frame (s : State) (fn o : Nat) (w : Option (List Byte)) (n : Nat) : (s.bar2 fn o w n).frame = s.frame := by
  unfold State.bar2
  repeat' split
  all_goals simp

@[simp] theorem State.unmask_frame (s : State) (v : Nat) : (s.unmask v).frame = s.frame := by rfl

/-! ### One period -/

@[simp] theorem State.arrCounts_frame (s : State) (c : Nat) (x : Side) : (s.arrCounts c x).frame = s.frame := by simp [State.arrCounts]
@[simp] theorem State.stay_frame (s : State) (c cause : Nat) : (s.stay c cause).frame = s.frame := by simp [State.stay]
@[simp] theorem State.freezeNow_frame (s : State) (c cause : Nat) : (s.freezeNow c cause).frame = s.frame := by simp [State.freezeNow]
@[simp] theorem State.advance_frame (s : State) (c : Nat) : (s.advance c).frame = s.frame := by simp [State.advance]
@[simp] theorem State.runPeriod_frame (s : State) (c : Nat) : (s.runPeriod c).frame = s.frame := by simp [State.runPeriod]

@[simp] theorem State.frozenPeriod_frame (s : State) (c : Nat) (f : Frz) : (s.frozenPeriod c f).frame = s.frame := by
  unfold State.frozenPeriod
  dsimp only
  split <;> simp

@[simp] theorem State.flowPeriod_frame (s : State) (c : Nat) (stays : Bool) : (s.flowPeriod c stays).frame = s.frame := by rfl

@[simp] theorem State.livePeriod_frame (s : State) (c : Nat) : (s.livePeriod c).frame = s.frame := by
  unfold State.livePeriod
  dsimp only
  split <;> simp

@[simp] theorem State.corePeriod_frame (s : State) (c : Nat) : (s.corePeriod c).frame = s.frame := by simp [State.corePeriod]
@[simp] theorem State.harpPort_frame (s : State) (k : Nat) : (s.harpPort k).frame = s.frame := by simp [State.harpPort]
@[simp] theorem State.clusterPeriod_frame (s : State) (k : Nat) : (s.clusterPeriod k).frame = s.frame := by simp [State.clusterPeriod]
@[simp] theorem State.scanPeriod_frame (s : State) : s.scanPeriod.frame = s.frame := by simp [State.scanPeriod]

@[simp] theorem State.corePeriods_frame (s : State) : s.corePeriods.frame = s.frame := by
  refine (State.frame_foldl State.corePeriod_frame _ _).trans (State.frame_foldl (fun t c => ?_) _ _)
  split <;> simp

/-! ### What the supply keeps of the queue -/

theorem State.thermTrip_pending (s : State) (a b : Nat) : (s.thermTrip a b).pending = s.pending := by
  unfold State.thermTrip
  split <;> rfl

theorem State.powerUp_pending (s : State) (raised : Bool) : (s.powerUp raised).pending = s.pending := by
  cases raised
  all_goals
    unfold State.powerUp
    dsimp only
    split <;> rfl

theorem State.perstAssert_pending (s : State) : s.perstAssert.pending = s.pending := by
  unfold State.perstAssert
  dsimp only
  split <;> rfl

theorem State.resetModule_pending (s : State) : s.resetModule.pending = s.pending := rfl

theorem State.serve_keeps {β : Type} (P : State → β) (s : State) (m op : Nat) {f : Accepted → State → State} (h : ∀ a t, P (f a t) = P t) :
    P (s.serve m op f) = P s := by
  unfold State.serve
  split
  · split
    · exact h ..
    · rfl
  · rfl

theorem State.resetCmd_pending (s : State) (m : Nat) : (s.resetCmd m).pending = s.pending := by
  refine State.serve_keeps State.pending s m _ fun a t => ?_
  have hanswer (n : Nat) : (t.answer m a n []).pending = t.pending := State.pending_of_frame (State.frame_answer ..)
  split
  · exact (State.resetModule_pending _).trans (hanswer 0)
  · exact (State.pending_of_frame (State.resetContexts_frame _)).trans (hanswer 0)
  · exact hanswer _

theorem State.pwrEnDeassert_pending (s : State) : s.pwrEnDeassert.pending = s.pending := by
  unfold State.pwrEnDeassert
  dsimp only
  split
  · rfl
  · exact (State.modPower_pending ..).trans (State.pending_of_frame (by simp))

theorem State.lossOfInput_pending (s : State) : s.lossOfInput.pending = s.pending := by
  unfold State.lossOfInput
  dsimp only
  split
  · rfl
  · exact (State.setField_pending ..).trans ((State.modPower_pending ..).trans (State.pending_of_frame (by simp)))

theorem State.railsLeave_pending (s : State) (flushed : Bool) : (s.railsLeave flushed).pending = s.pending := by
  unfold State.railsLeave
  split
  · rfl
  · split
    · rfl
    · split <;> rfl

end Sys2Proof.Machine
end

section
/-!
PROOFS. Every command answers a next state and leaves the queue as it was (O4). A row is the frame of what it runs; the rows that
choose between two answers have a lemma each, and the rows of the supply, which begin and end stops, keep the queue alone.
-/
namespace Sys2Proof.Machine

/-- The outcome is a next state with the queue of `s`. -/
def State.keepsQueue (s : State) (o : Host.Outcome State Fault Refusal) : Prop := ∃ t, o = .next t ∧ t.pending = s.pending

theorem State.keepsQueue_of_frame {s t : State} (h : t.frame = s.frame) : s.keepsQueue (.next t) := ⟨t, rfl, State.pending_of_frame h⟩

theorem State.keepsQueue_mark (s : State) (c : CoreId) : s.keepsQueue (execMark c s) := by
  unfold execMark
  split
  · split
    · exact State.keepsQueue_of_frame (State.markBeat_frame ..)
    · exact State.keepsQueue_of_frame (State.decodeStep_frame ..)
  · exact State.keepsQueue_of_frame (State.decodeStep_frame ..)

theorem State.keepsQueue_haltInstruction (s : State) (c : CoreId) : s.keepsQueue (execHaltInstruction c s) := by
  unfold execHaltInstruction
  split
  · split
    · exact State.keepsQueue_of_frame (State.haltBeat_frame ..)
    · exact State.keepsQueue_of_frame (State.decodeStep_frame ..)
  · exact State.keepsQueue_of_frame (State.decodeStep_frame ..)

theorem State.keepsQueue_bank (s : State) (c : CoreId) : s.keepsQueue (execBank c s) := by
  unfold execBank
  dsimp only
  split
  · exact State.keepsQueue_of_frame (State.modCore_frame ..)
  · exact State.keepsQueue_of_frame (State.openBoundary_frame ..)

theorem State.keepsQueue_syncBar (s : State) (c : CoreId) : s.keepsQueue (execSyncBar c s) := by
  unfold execSyncBar
  split
  · split
    · exact State.keepsQueue_of_frame (State.syncBar_frame ..)
    · exact State.keepsQueue_of_frame rfl
  · exact State.keepsQueue_of_frame rfl

theorem State.keepsQueue_rind (s : State) (c : CoreId) : s.keepsQueue (execRind c s) := by
  unfold execRind
  split
  · split
    · split
      · exact State.keepsQueue_of_frame ((State.trigger_frame ..).trans (State.popHead_frame ..))
      · exact State.keepsQueue_of_frame (State.popHead_frame ..)
    · exact State.keepsQueue_of_frame (State.popHead_frame ..)
  · exact State.keepsQueue_of_frame rfl

theorem State.keepsQueue_counterSatClear (s : State) (a : Nat) : s.keepsQueue (execCounterSatClear a s) := by
  refine State.keepsQueue_of_frame (State.hosted_frame _ _ fun t => ?_)
  split
  · exact State.satClear_frame ..
  · rfl

/-- Every command, row by row: the rows above, the rows of the supply by what each keeps of the queue, and any other by the frame of
the one function that it runs. -/
theorem State.keepsQueue_exec (i : Instr) (s : State) : s.keepsQueue (exec i s) := by
  cases i
  case mark c => exact s.keepsQueue_mark c
  case haltInstruction c => exact s.keepsQueue_haltInstruction c
  case bank c => exact s.keepsQueue_bank c
  case syncBar c => exact s.keepsQueue_syncBar c
  case rind c => exact s.keepsQueue_rind c
  case counterSatClear a => exact s.keepsQueue_counterSatClear a
  case thermtrip r t => exact ⟨_, rfl, s.thermTrip_pending r t⟩
  case powerUpSequence raised => exact ⟨_, rfl, s.powerUp_pending raised⟩
  case perstAssert => exact ⟨_, rfl, s.perstAssert_pending⟩
  case reset m => exact ⟨_, rfl, s.resetCmd_pending m⟩
  case pwrEnDeassert => exact ⟨_, rfl, s.pwrEnDeassert_pending⟩
  case lossOfInput => exact ⟨_, rfl, s.lossOfInput_pending⟩
  case inputRestore => exact ⟨_, rfl, (State.powerUp_pending _ false).trans (State.modPower_pending ..)⟩
  case inputRemove => exact ⟨_, rfl, (State.lossOfInput_pending _).trans (State.modPower_pending ..)⟩
  case railsLeaveRegulation flushed => exact ⟨_, rfl, s.railsLeave_pending flushed⟩
  all_goals exact State.keepsQueue_of_frame (by simp)

/-- Settles O4: row by row, each by what the function that it runs keeps. -/
theorem commandsCompleteAndKeepTheQueue : Obligations.CommandsCompleteAndKeepTheQueue := State.keepsQueue_exec

end Sys2Proof.Machine
end

section
/-!
PROOFS. What an empty queue lets the module do, and that no word spells a command (O2). A period of the module advances the count of
periods by one, and after the cores nothing in it writes a byte.
-/
namespace Sys2Proof.Machine

/-! ### A tick of the supply -/

theorem State.modPower_congr {s : State} {f g : PowerS → PowerS} (h : f s.nv.power = g s.nv.power) : s.modPower f = s.modPower g := by
  rw [State.modPower, State.modPower, h]

/-- The times of the supply after one more tick. -/
def PowerS.ticked (p : PowerS) : PowerS :=
  { p with good := if p.rails then min ticks100ms (p.good + 1) else 0, low := if p.pwrEn then 0 else min ticks100ms (p.low + 1) }

/-- With no stop under way only the times of the supply pass, and the links train once they may. -/
theorem State.powerTick_of_no_stop {s : State} (hstop : s.nv.power.stopAt = none) : s.powerTick = (s.modPower PowerS.ticked).trainLinks := by
  have hnone : (s.modPower PowerS.ticked).trainLinks.nv.power.stopAt = none :=
    (State.trainLinks_keeps _ (·.nv.power.stopAt) rfl).trans hstop
  change (match (s.modPower PowerS.ticked).trainLinks.nv.power.stopAt with
    | some t => if t + 2 * ticks100ms ≤ (s.modPower PowerS.ticked).trainLinks.dev.tick then
        (s.modPower PowerS.ticked).trainLinks.railsOff 0 0 else (s.modPower PowerS.ticked).trainLinks
    | none => (s.modPower PowerS.ticked).trainLinks) = _
  simp only [hnone]

theorem State.powerTick_off {s : State} (hoff : s.nv.power.rails = false) (hstop : s.nv.power.stopAt = none) :
    s.powerTick = s.modPower fun p => { p with good := 0, low := if p.pwrEn then 0 else min ticks100ms (p.low + 1) } := by
  have hwait : ¬ (s.modPower PowerS.ticked).linksReady := fun h => Bool.false_ne_true (hoff.symm.trans h.1)
  rw [State.powerTick_of_no_stop hstop, State.trainLinks_wait _ hwait]
  exact State.modPower_congr (by simp [PowerS.ticked, hoff])

theorem State.powerTick_mem {s : State} (hstop : s.nv.power.stopAt = none) : s.powerTick.mem = s.mem := by
  rw [State.powerTick_of_no_stop hstop, State.trainLinks_mem, State.modPower_mem]

theorem State.powerTick_period {s : State} (hstop : s.nv.power.stopAt = none) : s.powerTick.dev.period = s.dev.period := by
  rw [State.powerTick_of_no_stop hstop]
  exact State.trainLinks_keeps _ (·.dev.period) rfl

/-! ### After the cores, nothing in a period writes a byte -/

theorem State.pumpPort_mem (k port n : Nat) : ∀ s : State, (State.pumpPort k port n s).mem = s.mem := by
  induction n with
  | zero => exact fun _ => rfl
  | succ n ih =>
    intro s
    rw [State.pumpPort]
    dsimp only
    split
    · rfl
    · split
      · rfl
      · rw [ih]
        exact State.bump_mem ..

theorem State.pumpPorts_mem (s : State) (k : Nat) : (s.pumpPorts k).mem = s.mem :=
  foldl_keeps State.mem (fun t p => State.pumpPort_mem k p _ t) _ _

theorem State.harpPort_mem (s : State) (k : Nat) : (s.harpPort k).mem = s.mem := by
  unfold State.harpPort
  dsimp only
  split
  · split
    · exact State.bump_mem ..
    · rfl
  · rfl

theorem State.clusterPeriod_mem (s : State) (k : Nat) : (s.clusterPeriod k).mem = s.mem := by
  unfold State.clusterPeriod
  split
  · rfl
  · exact (State.bump_mem ..).trans ((State.pumpPorts_mem ..).trans ((foldl_keeps State.mem (fun t i => State.bump_mem ..) _ _).trans
      (State.harpPort_mem ..)))

theorem State.ripTick_mem (s : State) : s.ripTick.mem = s.mem := by
  unfold State.ripTick
  split
  · rfl
  · refine foldl_keeps State.mem (fun t p => ?_) _ _
    dsimp only
    split
    · rfl
    · exact (State.bump_mem ..).trans (State.bump_mem ..)

theorem State.scanPeriod_mem (s : State) : s.scanPeriod.mem = s.mem := by
  unfold State.scanPeriod
  split
  · refine foldl_keeps State.mem (fun t k => ?_) _ _
    cases hclock : t.regionStopped k with
    | true => rw [State.deadlockScan, if_pos hclock]
    | false => exact State.deadlockScan_mem hclock
  · rfl

theorem State.portTick_mem (s : State) (p : Nat) : (s.portTick p).mem = s.mem := by
  unfold State.portTick
  dsimp only
  split
  · rfl
  · exact (State.bump_mem ..).trans (State.bump_mem ..)

theorem State.linkTick_mem (s : State) : s.linkTick.mem = s.mem := by
  unfold State.linkTick State.clockedBy
  split
  · rfl
  · exact foldl_keeps State.mem State.portTick_mem _ _

/-! ### One period -/

theorem State.tickPeriod_mem_period {s : State} (hstop : s.nv.power.stopAt = none) :
    s.tickPeriod.mem = s.mem ∧ s.tickPeriod.dev.period = s.dev.period := by
  unfold State.tickPeriod
  dsimp only
  split
  · exact ⟨rfl, rfl⟩
  · have htick (t : State) (h : t.frame = s.frame) : t.linkTick.powerTick.mem = t.mem ∧ t.linkTick.powerTick.dev.period = t.dev.period := by
      have hl := State.linkTick_frame t
      have hnone : t.linkTick.nv.power.stopAt = none := (State.stopAt_of_frame (hl.trans h)).trans hstop
      exact ⟨(State.powerTick_mem hnone).trans (State.linkTick_mem t), (State.powerTick_period hnone).trans (State.period_of_frame hl)⟩
    exact htick _ rfl

/-- The state at the end of a period, before the count of periods and the reference clock go on. -/
def State.worked (s : State) : State :=
  let t := (List.range 16).foldl State.clusterPeriod s.corePeriods
  ((if t.dev.period % 2 = 1 then t.ripTick else t).scanPeriod).modClk ClkS.beat

theorem State.worked_frame (s : State) : s.worked.frame = s.frame := by simp [State.worked]

theorem State.worked_mem (s : State) : s.worked.mem = s.corePeriods.mem := by
  unfold State.worked
  dsimp only
  rw [State.modClk_mem, State.scanPeriod_mem, ← foldl_keeps State.mem State.clusterPeriod_mem (List.range 16) s.corePeriods]
  split
  · exact State.ripTick_mem _
  · rfl

/-- The state with the count of periods one further. -/
def State.nextPeriod (s : State) : State := { s with dev := { s.dev with period := s.dev.period + 1 } }

theorem State.nextPeriod_mem (s : State) : s.nextPeriod.mem = s.mem := rfl
theorem State.nextPeriod_stopAt (s : State) : s.nextPeriod.nv.power.stopAt = s.nv.power.stopAt := rfl
theorem State.nextPeriod_period (s : State) : s.nextPeriod.dev.period = s.dev.period + 1 := rfl

theorem State.onePeriod_eq (s : State) : s.onePeriod = s.worked.nextPeriod.tickPeriod := by rfl

theorem State.onePeriod_mem_period {s : State} (hstop : s.nv.power.stopAt = none) :
    s.onePeriod.mem = s.corePeriods.mem ∧ s.onePeriod.dev.period = s.dev.period + 1 := by
  have hnone : s.worked.nextPeriod.nv.power.stopAt = none := by
    rw [State.nextPeriod_stopAt, State.stopAt_of_frame s.worked_frame, hstop]
  obtain ⟨hmem, hperiod⟩ := State.tickPeriod_mem_period hnone
  rw [State.onePeriod_eq, hmem, hperiod, State.nextPeriod_mem, State.nextPeriod_period, State.period_of_frame s.worked_frame]
  exact ⟨s.worked_mem, rfl⟩

theorem step_idle {s : State} (h : s.pending = []) : step s = .next s.clock := by simp only [step, h]

theorem State.clock_off {s : State} (h : s.nv.power.rails = false) : s.clock = s.powerTick := by simp [State.clock, h]

theorem State.resetting_none {s : State} (h : s.hubState ≠ 6) : s.resetting = none := if_pos h

theorem State.clock_of_nothing_due {s : State} (hrails : s.nv.power.rails = true) (hreset : s.hubState ≠ 6) (hdue : s.due = none) :
    s.clock = s.onePeriod := by
  simp [State.clock, hrails, State.resetting_none hreset, hdue]

/-- Settles O2: with the rails off the clock is a tick of the supply; with nothing due it is one period, which writes the bytes that the
cores write; and the table of words is empty. -/
theorem idleStepsAndWords : Obligations.IdleStepsAndWords := by
  refine ⟨fun s hpending hstop => ⟨fun hoff => ?_, fun hrails hreset hdue => ?_⟩, fun n w s => ⟨rfl, rfl⟩⟩
  · rw [step_idle hpending, State.clock_off hoff, State.powerTick_off hoff hstop]
  · obtain ⟨hmem, hperiod⟩ := State.onePeriod_mem_period hstop
    exact ⟨s.onePeriod, by rw [step_idle hpending, State.clock_of_nothing_due hrails hreset hdue], hperiod, hmem⟩

end Sys2Proof.Machine
end
